-- ==== Sys2Proof/Word.lean ====
section
/-!
DEFINITION. The words of the CX-8 module: bytes, the 64-bit management and stream register
(R5, R145) and the 32-bit lane (R165).
-/
namespace Sys2Proof

/-- One byte of any memory of the module. -/
abbrev Byte := BitVec 8

/-- A management register, a stream register or a mask register: 64 bits (R5, R45). -/
abbrev Word := BitVec 64

/-- One 32-bit lane of a vector register, or one accumulator (R30, R41). -/
abbrev Lane := BitVec 32

end Sys2Proof
end

