-- ==== Sys2Proof/Syntax.lean ====
section
/-!
DEFINITION. The commands of the CX-8 module: one constructor of Instr for each row of
spec/opcode_table.json, in the table's order, with the operands the spec gives the row. Stream
instructions carry the fields of their instruction word (R149 to R170) and the stream that issues
them; host commands carry the fields of their 64-byte command (R447); frames, flits and messages
carry the fields of their layouts; time-outs and physical events carry what happened.
-/
namespace Sys2Proof

/-- The stream that issues: physical cell key d × 128 + c (the event numbering of R58) and stream. -/
structure StreamAt where
  cell : Nat
  stream : BitVec 6
  deriving DecidableEq, Repr

/-- The predicate bits MEN, MREG, MINV of an instruction word (R149). -/
structure Pred where
  men : Bool := false
  mreg : BitVec 3 := 0
  minv : Bool := false
  deriving DecidableEq, Repr

/-- SALU (R153). fd, fx, fy: 0 the S file, 1 the A file. -/
structure SaluWord where
  d : BitVec 4
  fd : Bool
  x : BitVec 4
  y : BitVec 4
  fx : Bool
  fy : Bool
  fn : BitVec 4
  imm : BitVec 32
  deriving DecidableEq, Repr

/-- SLD and SST (R153): register, its file, base A register, signed byte offset. -/
structure LdWord where
  d : BitVec 4
  fd : Bool
  base : BitVec 4
  off : BitVec 32
  deriving DecidableEq, Repr

/-- MOVE, MOVE2 and MOVEL (R159). -/
structure MoveWord where
  dst : BitVec 4
  src : BitVec 4
  shape : BitVec 4
  tag : BitVec 9
  auto : Bool
  sem : BitVec 6
  amt : BitVec 4
  dst2 : BitVec 4
  deriving DecidableEq, Repr

/-- MMA, MMA.TA and MMA.TB (R162). -/
structure MmaWord where
  aRef : BitVec 4
  bRef : BitVec 4
  bank : Bool
  zs : Bool
  close : Bool
  fmtA : BitVec 4
  fmtB : BitVec 4
  m1 : BitVec 7
  n1 : BitVec 7
  k1 : BitVec 16
  deriving DecidableEq, Repr

/-- DRAIN (R163). -/
structure DrainWord where
  dst : BitVec 4
  aux : BitVec 4
  bank : Bool
  fmt : BitVec 4
  sts : BitVec 4
  stsEn : Bool
  sem : BitVec 6
  amt : BitVec 4
  satf : Bool
  scale : BitVec 4
  scaleEn : Bool
  diag : BitVec 4
  diagEn : Bool
  rowmaxEn : Bool
  mask : BitVec 4
  maskEn : Bool
  deriving DecidableEq, Repr

/-- VLD and VST (R166). The last three fields belong to VST. -/
structure VmemWord where
  v : BitVec 5
  ref : BitVec 4
  orient : Bool
  idx : BitVec 4
  idxEn : Bool
  row : BitVec 7
  col : BitVec 7
  ety : BitVec 2
  fmt : BitVec 4
  sts : BitVec 4 := 0
  stsEn : Bool := false
  satf : Bool := false
  deriving DecidableEq, Repr

/-- SOP (R167). -/
structure SopWord where
  dRef : BitVec 4
  xRef : BitVec 4
  yRef : BitVec 4
  n : BitVec 4
  mask : BitVec 4
  maskEn : Bool
  fmtX : BitVec 4
  fmtD : BitVec 4
  fn : BitVec 6
  sts : BitVec 4
  stsEn : Bool
  aux : BitVec 4
  excl : Bool
  outmask : Bool
  satf : Bool
  deriving DecidableEq, Repr

/-- TAB (R168). -/
structure TabWord where
  dRef : BitVec 4
  xRef : BitVec 4
  slot : BitVec 5
  n : BitVec 4
  fmtX : BitVec 4
  fmtD : BitVec 4
  sts : BitVec 4
  stsEn : Bool
  satf : Bool
  yRef : BitVec 4
  mode : BitVec 2
  rowsumRef : BitVec 4
  rowsumEn : Bool
  rowlen : BitVec 3
  mask : BitVec 4
  maskEn : Bool
  deriving DecidableEq, Repr

/-- PMW WALK (R169). -/
structure WalkWord where
  list : BitVec 4
  key : BitVec 4
  n : BitVec 4
  tag : BitVec 9
  auto : Bool
  sem : BitVec 6
  amt : BitVec 4
  deriving DecidableEq, Repr

/-- A frame of the Gallery transport (transport header, class area and payload; 11_fabric). The
class area is its 20 bytes, the payload its bytes. -/
structure Frame where
  flow : Option Nat := none   -- not a header field: the port whose flow a frame belongs to that another port carries
  typ : Nat            -- 0 DATA, 1 SACK, 2 CNP, 3 READ, 4 SIGNAL
  cls : Nat            -- 0 BELL, 1 CIRC, 2 COLL, 3 MOVE
  version : Nat := 1
  retx : Bool := false
  resp : Bool := false
  psn : Nat := 0
  setId : Nat := 0
  cookie : Nat := 0
  src : Nat := 0
  dst : Nat := 0
  path : Nat := 0
  status : Nat := 0
  epoch : Nat := 0
  planTag : Nat := 0
  area : List Byte := []
  payload : List Byte := []
  deriving DecidableEq, Repr

/-- A frame as it arrives at a port (R323): Gallery die and port; whether the FCS is good; whether its Ethernet
and, on a spine port, its network header have the form of check 3 (EtherType, IPv6 without extension headers,
UDP); the CRC-32C trailer; the destination MAC address (quad) or the IPv6 addresses and the UDP destination port
(spine); the source MAC address (quad); the CE mark; the bytes that the frame's receive buffer holds with it; and
the frame. -/
structure RxFrame where
  die : Nat
  port : Nat
  fcs : Bool := true
  form : Bool := true
  crc : Nat := 0
  srcAddr : Nat := 0
  dstAddr : Nat := 0
  udpPort : Nat := 50592
  srcMac : Nat := 0
  dstMac : Nat := 0
  ce : Bool := false
  fill : Nat := 0
  f : Frame
  deriving DecidableEq, Repr

/-- A Bell, step or swap message as it reaches its receiver: a frame of the fabric, or a message that
the member sent to itself (R354). -/
inductive BellIn where
  | own
  | frame (r : RxFrame)
  deriving DecidableEq, Repr

/-- A flow of the transport (R326): Gallery die and port, the peer's set index and the class. -/
structure FlowId where
  die : Nat
  port : Nat
  peer : Nat
  cls : Nat
  deriving DecidableEq, Repr

/-- What the ring-step Canary watches: a channel of the circulator, a Bell operation that waits for a
child, a collective that waits for a peer, a walk that waits for a recomputation, the intake's MAIN
queue, or a gather that waits for a tag (R206, R235, R268, R358, R361, R412). -/
inductive RingWait where
  | channel (chan : Nat)
  | bellUp (group chan : Nat)
  | coll (coll peer : Nat)
  | walk
  | intake
  | gather (die : Nat)
  deriving DecidableEq, Repr

/-- The operands of GEN_SUBMIT (R447), by byte of the command. -/
structure GenWord where
  request : BitVec 32
  flags : BitVec 8
  k1 : BitVec 4
  promptLen : BitVec 16
  maxNew : BitVec 16
  invTemp : BitVec 32
  topP : BitVec 32
  seed : BitVec 64
  stream : BitVec 32
  stopId : BitVec 32
  promptAddr : BitVec 64
  outAddr : BitVec 64
  deriving DecidableEq, Repr

/-- The operands of MAINT_START (R447). -/
structure MaintWord where
  activity : BitVec 8
  port : BitVec 8
  arg0 : BitVec 64
  arg1 : BitVec 64
  deriving DecidableEq, Repr

/-- A request as it reaches a memory controller (R375, R385): its requester, its byte offset within the
stack and length, and whether it is a write or a near-cache fill. -/
structure ReqWord where
  requester : Nat
  off : Nat
  len : Nat
  write : Bool
  fill : Bool := false
  deriving DecidableEq, Repr

/-- What a DRAM read of a granule gives (R370). -/
inductive ReadResult where
  | clean | corrected | uncorrectable
  deriving DecidableEq, Repr

/-- What an entropy decoder ends with (R408): the decoded bytes, or a cause of rejection. -/
inductive DecodeOut where
  | filled (data : List Byte)
  | rejected (cause : Nat)
  deriving DecidableEq, Repr

/-- What the verification of a firmware image finds (R514, R516): its length and header, and the first of the checks
that need more than those (the root key's digest in 2, the signature in 3, the stage digests in 6) that fails, if
any does. -/
structure FwImage where
  length : Nat
  header : List Byte
  failed : Option Nat := none
  deriving DecidableEq, Repr

/-- One 100 µs telemetry sample (R550): input in mV, 10 mA and W, inlet temperature and die
temperatures (die number, hottest sensor) in 1/16 °C as 16-bit words, and the energy in mJ since the
last sample. -/
structure Telemetry where
  mv : Nat
  ma10 : Nat
  watts : Nat
  inlet : BitVec 16
  dies : List (Nat × BitVec 16)
  energy : Nat
  deriving DecidableEq, Repr

/-- The operations of JTAG that R527 allows. -/
inductive JtagOp where
  | idcode
  | boundary (shiftIn : List Bool)
  | other (shiftIn : List Bool)
  deriving DecidableEq, Repr

/-- The commands of the module, in the order of spec/opcode_table.json. -/
inductive Instr where
  /-- NOP (R153). -/
  | nop (u : StreamAt)
  /-- STOP (R153). -/
  | stop (u : StreamAt)
  /-- LOOP (R153). -/
  | loop (u : StreamAt) (count : BitVec 24) (idx : BitVec 4) (idxEn : Bool)
  /-- ENDL (R153). -/
  | endl (u : StreamAt)
  /-- CALL (R153). -/
  | call (u : StreamAt) (target : BitVec 32)
  /-- RET (R153). -/
  | ret (u : StreamAt)
  /-- SLI (R153). -/
  | sli (u : StreamAt) (d : BitVec 4) (file high : Bool) (imm : BitVec 32)
  /-- SALU (R153). -/
  | salu (u : StreamAt) (w : SaluWord)
  /-- SLD (R153). -/
  | sld (u : StreamAt) (w : LdWord)
  /-- SST (R153). -/
  | sst (u : StreamAt) (w : LdWord)
  /-- SEMW (R49). -/
  | semw (u : StreamAt) (sem : BitVec 6) (n : BitVec 16)
  /-- SEMS (R155). -/
  | sems (u : StreamAt) (sem : BitVec 6) (cell : BitVec 10) (n : BitVec 16)
  /-- SEM_SIGNAL_ARRIVE (R49). -/
  | semSignalArrive (cell sem : Nat)
  /-- RPUSH (R156). -/
  | rpush (u : StreamAt) (src : BitVec 4) (ring : BitVec 18)
  /-- RPOP (R156). -/
  | rpop (u : StreamAt) (dst : BitVec 4) (ring : BitVec 18)
  /-- RING_PUSH_ARRIVE (R54). -/
  | ringPushArrive (ring : Nat)
  /-- NCINV (R157). -/
  | ncinv (u : StreamAt)
  /-- TAGW (R158). -/
  | tagw (u : StreamAt) (tag : BitVec 9) (all : Bool)
  /-- MOVE (R159). -/
  | move (u : StreamAt) (p : Pred) (w : MoveWord)
  /-- MOVE2 (R64). -/
  | move2 (u : StreamAt) (p : Pred) (w : MoveWord)
  /-- MOVEL (R159). -/
  | movel (u : StreamAt) (p : Pred) (w : MoveWord)
  /-- TRANSFER_COMPLETE (R52). -/
  | transferComplete (cell stream tag : Nat)
  /-- MMA (R162). -/
  | mma (u : StreamAt) (p : Pred) (w : MmaWord)
  /-- MMA_TA (R162). -/
  | mmaTa (u : StreamAt) (p : Pred) (w : MmaWord)
  /-- MMA_TB (R162). -/
  | mmaTb (u : StreamAt) (p : Pred) (w : MmaWord)
  /-- MMA_COMPLETE (R30). -/
  | mmaComplete (cell : Nat)
  /-- DRAIN (R163). -/
  | drain (u : StreamAt) (p : Pred) (w : DrainWord)
  /-- DRAIN_COMPLETE (R32). -/
  | drainComplete (cell : Nat) (bank : Bool)
  /-- VLD (R166). -/
  | vld (u : StreamAt) (p : Pred) (w : VmemWord)
  /-- VST (R166). -/
  | vst (u : StreamAt) (p : Pred) (w : VmemWord)
  /-- VBIN (R165). -/
  | vbin (u : StreamAt) (p : Pred) (vd va vb : BitVec 5) (ety : BitVec 2) (fn : BitVec 6)
  /-- VFMA (R165). -/
  | vfma (u : StreamAt) (p : Pred) (vd va vb vc : BitVec 5) (ety : BitVec 2)
  /-- VCMP (R165). -/
  | vcmp (u : StreamAt) (p : Pred) (va vb : BitVec 5) (md : BitVec 3) (half : Bool) (ety : BitVec 2) (fn : BitVec 6)
  /-- VSEL (R165). -/
  | vsel (u : StreamAt) (p : Pred) (vd va vb : BitVec 5) (ma : BitVec 3)
  /-- VCVT (R165). -/
  | vcvt (u : StreamAt) (p : Pred) (vd va : BitVec 5) (etyD etyA : BitVec 2) (half : Bool)
  /-- VBCAST (R165). -/
  | vbcast (u : StreamAt) (p : Pred) (vd : BitVec 5) (sreg : BitVec 4) (ety : BitVec 2)
  /-- VMSK (R165). -/
  | vmsk (u : StreamAt) (p : Pred) (md ma mb : BitVec 3) (fn : BitVec 6) (reg : BitVec 4)
  /-- VUN (R165). -/
  | vun (u : StreamAt) (p : Pred) (vd va : BitVec 5) (ety : BitVec 2) (fn : BitVec 6)
  /-- VXS (R165). -/
  | vxs (u : StreamAt) (p : Pred) (va : BitVec 5) (sreg : BitVec 4) (lane : BitVec 6)
  /-- SOP_ELEM (R167). -/
  | sopElem (u : StreamAt) (p : Pred) (w : SopWord)
  /-- SOP_RED (R90). -/
  | sopRed (u : StreamAt) (p : Pred) (w : SopWord)
  /-- SOP_SCAN (R95). -/
  | sopScan (u : StreamAt) (p : Pred) (w : SopWord)
  /-- SOP_SEGSCAN (R96). -/
  | sopSegscan (u : StreamAt) (p : Pred) (w : SopWord)
  /-- SOP_TOPK (R94). -/
  | sopTopk (u : StreamAt) (p : Pred) (w : SopWord)
  /-- SOP_CVT (R167). -/
  | sopCvt (u : StreamAt) (p : Pred) (w : SopWord)
  /-- SOP_FILL (R167). -/
  | sopFill (u : StreamAt) (p : Pred) (w : SopWord)
  /-- TAB (R168). -/
  | tab (u : StreamAt) (p : Pred) (w : TabWord)
  /-- WALK (R218). -/
  | walk (u : StreamAt) (p : Pred) (w : WalkWord)
  /-- PMAP_SET (R223). -/
  | pmapSet (u : StreamAt) (p : Pred) (res key val : BitVec 4)
  /-- PMAP_COW (R224). -/
  | pmapCow (u : StreamAt) (p : Pred) (res key : BitVec 4)
  /-- COW_COPY_COMPLETE (R224). -/
  | cowCopyComplete (key : Nat)
  /-- PMAP_FREE (R225). -/
  | pmapFree (u : StreamAt) (p : Pred) (res key : BitVec 4)
  /-- PMAP_FENCE (R230). -/
  | pmapFence (u : StreamAt)
  /-- BELL (R170). -/
  | bell (u : StreamAt) (d x fn : BitVec 4) (group : BitVec 32)
  /-- NEAR_CACHE_FILL (R37). -/
  | nearCacheFill (cell line : Nat)
  /-- PHASE_END (R128). -/
  | phaseEnd (phase : Nat)
  /-- PLAN_STAGE (R133). -/
  | planStage (id : BitVec 16) (addr len : BitVec 64)
  /-- STAGING_COMPLETE (R133). -/
  | stagingComplete
  /-- PLAN_SWAP (R137). -/
  | planSwap (id : BitVec 16)
  /-- SWAP_BOUNDARY (R137). -/
  | swapBoundary
  /-- SWAP_READY (R137). -/
  | swapReady (m : BellIn)
  /-- SWAP_WAIT_EXPIRE (R137). -/
  | swapWaitExpire
  /-- SWAP_GO (R137). -/
  | swapGo (m : BellIn)
  /-- SWAP_ABORT (R139). -/
  | swapAbort (m : BellIn)
  /-- RESHARD (R143). -/
  | reshard (id : BitVec 16)
  /-- PERMUTE (R362). -/
  | permute
  /-- PERMUTE_COMPLETE (R362). -/
  | permuteComplete
  /-- STEP_RUN (R130). -/
  | stepRun (id : BitVec 16) (step : BitVec 64) (consts : BitVec 256)
  /-- STEP_ABORT_REQ (R298). -/
  | stepAbortReq (id : BitVec 16) (step : BitVec 64)
  /-- STEP_GO (R291). -/
  | stepGo (m : BellIn)
  /-- READY_SEND (R292). -/
  | readySend
  /-- READY (R295). -/
  | ready (m : BellIn)
  /-- FAIL (R295). -/
  | fail (m : BellIn)
  /-- COMMIT (R298). -/
  | commit (m : BellIn)
  /-- ABORT (R299). -/
  | abort (m : BellIn)
  /-- ACK (R358). -/
  | ack (m : BellIn)
  /-- PROBE (R295). -/
  | probe (m : BellIn)
  /-- LOST_REPORT (R301). -/
  | lostReport (m : BellIn)
  /-- BELL_ACK_CANARY_EXPIRE (R288). -/
  | bellAckCanaryExpire (dst kind code chan : Nat)
  /-- COMMIT_WAIT_EXPIRE (R295). -/
  | commitWaitExpire
  /-- ATTEMPT_CANARY_EXPIRE (R295). -/
  | attemptCanaryExpire
  /-- COMMIT_RETRY_EXPIRE (R297). -/
  | commitRetryExpire
  /-- CKPT_WRITE (R304). -/
  | ckptWrite (id : BitVec 16) (step : BitVec 64) (flags : BitVec 8) (addr len : BitVec 64)
  /-- CKPT_WRITE_COMPLETE (R304). -/
  | ckptWriteComplete
  /-- MIRROR_UNIT_RECEIVE (R304): a 64 KiB unit of a body and its CRC table entry, or, as unit
  0xFFFFFFFF, the header of the slot. -/
  | mirrorUnitReceive (unit : Nat) (data : List Byte) (crc : BitVec 32)
  /-- CKPT_RESTORE (R306). -/
  | ckptRestore (id : BitVec 16) (step : BitVec 64) (source : BitVec 8) (addr : BitVec 64)
  /-- COLL_REQUEST (R340). -/
  | collRequest (die : Nat)
  /-- COLL_CHUNK_LAND (R344). -/
  | collChunkLand (r : RxFrame)
  /-- COMBINER_TOKEN (R345). -/
  | combinerToken (die : Nat)
  /-- COLL_CREDIT (R343). -/
  | collCredit (r : RxFrame)
  /-- COLL_DIGEST_EXCHANGE (R353). -/
  | collDigestExchange (coll : Nat)
  /-- BELL_UP (R355). -/
  | bellUp (m : BellIn)
  /-- BELL_DOWN (R355). -/
  | bellDown (m : BellIn)
  /-- CIRC_START (R195). -/
  | circStart (chan : Nat)
  /-- CIRC_RELEASE (R197). -/
  | circRelease (chan : Nat)
  /-- GRAD_DONE (R201). -/
  | gradDone (chan : Nat)
  /-- CIRC_UNIT_LAND (R196). -/
  | circUnitLand (r : RxFrame)
  /-- CIRC_CREDIT (R197). -/
  | circCredit (chan hop : Nat)
  /-- FEED_DELIVER (R198). -/
  | feedDeliver (feed : Nat)
  /-- RING_STEP_CANARY_EXPIRE (R206). -/
  | ringStepCanaryExpire (w : RingWait)
  /-- EPOCH_EXAMINE (R229). -/
  | epochExamine
  /-- MAP_RECLAIM_EXPIRE (R231). -/
  | mapReclaimExpire
  /-- ALLOCATION_CANARY_EXPIRE (R234). -/
  | allocationCanaryExpire
  /-- COMPACT_RELOCATE (R239). -/
  | compactRelocate (key : Nat)
  /-- STASH_SAVE (R259). -/
  | stashSave (die : Nat)
  /-- STASH_LOAD (R259). -/
  | stashLoad (die : Nat)
  /-- STASH_CHECK (R265). -/
  | stashCheck (die : Nat)
  /-- GATHER_REQUEST (R268). -/
  | gatherRequest (die : Nat)
  /-- GATHER_TAG_RETRY (R268). -/
  | gatherTagRetry (die : Nat)
  /-- UPDATE_REQUEST (R282). -/
  | updateRequest (die : Nat)
  /-- UPDATE_HEADER_WRITE (R282). -/
  | updateHeaderWrite (die : Nat)
  /-- PUBLISH_REQUEST (R285). -/
  | publishRequest (die : Nat)
  /-- PUBLICATION_END (R286). -/
  | publicationEnd (die : Nat)
  /-- MOVE_DATA (R334). -/
  | moveData (r : RxFrame)
  /-- READ (R334). -/
  | read (r : RxFrame)
  /-- SIGNAL (R334). -/
  | signal (r : RxFrame)
  /-- SACK (R327). -/
  | sack (r : RxFrame)
  /-- CNP (R331). -/
  | cnp (r : RxFrame)
  /-- SACK_DELAY_EXPIRE (R327). -/
  | sackDelayExpire (w : FlowId)
  /-- REORDER_EXPIRE (R327). -/
  | reorderExpire (w : FlowId) (psn : Nat)
  /-- RETX_TIMEOUT (R327). -/
  | retxTimeout (w : FlowId)
  /-- RATE_INTERVAL_END (R331). -/
  | rateIntervalEnd (w : FlowId)
  /-- NEIGHBOR_SOLICITATION (R335). -/
  | neighborSolicitation (die port target : Nat) (source : Nat)
  /-- NEIGHBOR_ADVERTISEMENT (R321). -/
  | neighborAdvertisement (die port : Nat) (addr mac : Nat) (solicited : Bool)
  /-- NS_RETRY_EXPIRE (R321). -/
  | nsRetryExpire (die port addr : Nat)
  /-- NEIGHBOR_CACHE_EXPIRE (R321). -/
  | neighborCacheExpire (die port addr : Nat)
  /-- PFC_FRAME (R332). -/
  | pfcFrame (die port : Nat) (prio quanta : Nat)
  /-- PFC_PAUSE_EXPIRE (R332). -/
  | pfcPauseExpire (die port prio : Nat)
  /-- LLDP_TIMER (R336). -/
  | lldpTimer (die port : Nat)
  /-- PCS_LOCK_LOSS (R580). -/
  | pcsLockLoss (die port : Nat)
  /-- FEC_UNCORRECTABLE_BURST (R580). -/
  | fecUncorrectableBurst (die port : Nat)
  /-- PORT_DOWN_EXPIRE (R580). -/
  | portDownExpire (die port : Nat)
  /-- PORT_LINK_UP (R580). -/
  | portLinkUp (die port : Nat) (bad : List Nat)
  /-- PORT_STABLE_EXPIRE (R580). -/
  | portStableExpire (die port : Nat)
  /-- PORT_TRAINING_TIMEOUT (R580). -/
  | portTrainingTimeout (die port : Nat) (bad : List Nat)
  /-- FEC_INTERVAL_END (R490). -/
  | fecIntervalEnd (link lane corrections replays : Nat)
  /-- DATA_FLIT (R435). -/
  | dataFlit (bytes : List Byte)
  /-- IDLE_FLIT (R435). -/
  | idleFlit (bytes : List Byte)
  /-- NAK_FLIT (R435). -/
  | nakFlit (bytes : List Byte)
  /-- FLIT_REPLAY_TIMEOUT (R435). -/
  | flitReplayTimeout
  /-- BXL_DOWN_EXPIRE (R439). -/
  | bxlDownExpire
  /-- BXL_DETECT_EXPIRE (R439). -/
  | bxlDetectExpire
  /-- TRAINING_PATTERN_SEEN (R439). -/
  | trainingPatternSeen (lanes : List Nat)
  /-- LANES_EQUALISED (R439). -/
  | lanesEqualised (bad : List Nat)
  /-- BXL_TRAIN_TIMEOUT (R439). -/
  | bxlTrainTimeout
  /-- ALIGN_DONE (R439). -/
  | alignDone
  /-- BXL_ALIGN_TIMEOUT (R439). -/
  | bxlAlignTimeout
  /-- BXL_LOCK_LOSS (R439). -/
  | bxlLockLoss
  /-- MWR (R442). -/
  | mwr (space : BitVec 8) (addr : BitVec 64) (data : List Byte)
  /-- MRD (R442). -/
  | mrd (space : BitVec 8) (addr : BitVec 64) (len : Nat) (tag : Nat)
  /-- DRSP (R449). -/
  | drsp (tag : Nat) (flags : BitVec 8) (data : List Byte)
  /-- CXL_MEMRD (R452). -/
  | cxlMemrd (tag : Nat) (addr : BitVec 64)
  /-- CXL_MEMRDDATA (R452). -/
  | cxlMemrddata (tag : Nat) (addr : BitVec 64)
  /-- CXL_MEMWR (R452). -/
  | cxlMemwr (tag : Nat) (addr : BitVec 64) (data : List Byte)
  /-- CXL_MEMWRPTL (R452). -/
  | cxlMemwrptl (tag : Nat) (addr : BitVec 64) (data : List Byte) (enables : BitVec 64)
  /-- CXL_MEMSPECRD (R452). -/
  | cxlMemspecrd (addr : BitVec 64)
  /-- INBAND_RESET (R454). -/
  | inbandReset (opx : BitVec 8)
  /-- LMSG (R453). -/
  | lmsg (data : List Byte)
  /-- IRQ_HOLDOFF_EXPIRE (R451). -/
  | irqHoldoffExpire (vector : Nat)
  /-- BXL_CMDQ_CFG_WRITE (R443). -/
  | bxlCmdqCfgWrite (v : BitVec 64)
  /-- BXL_CMDQ_TAIL_WRITE (R444). -/
  | bxlCmdqTailWrite (v : BitVec 64)
  /-- BXL_CPLQ_HEAD_WRITE (R445). -/
  | bxlCplqHeadWrite (v : BitVec 64)
  /-- BXL_RETRAIN_REQUEST (R439). -/
  | bxlRetrainRequest
  /-- DB_HOST_IDX_WRITE (R450). -/
  | dbHostIdxWrite (bell : Nat) (v : BitVec 64)
  /-- PLAN_KEY_LOCK (R524). -/
  | planKeyLock
  /-- EVT_RING_SIZE_WRITE (R481). -/
  | evtRingSizeWrite (v : BitVec 64)
  /-- EVT_TAIL_WRITE (R481). -/
  | evtTailWrite (v : BitVec 64)
  /-- EVENT_RECORD_LANDED (R481). -/
  | eventRecordLanded
  /-- CTR_CLEAR (R474). -/
  | ctrClear (v : BitVec 64)
  /-- ARB_CLEAR (R386). -/
  | arbClear (site : Nat)
  /-- ARBITER_GRANT (R383). -/
  | arbiterGrant (site arb : Nat) (present : List Nat)
  /-- GRANT_HELD_CANARY_EXPIRE (R387). -/
  | grantHeldCanaryExpire (site arb : Nat)
  /-- CELL_TAGS_READ (R66). -/
  | cellTagsRead (die cell : Nat)
  /-- PMAP_FENCE_REG (R560). -/
  | pmapFenceReg
  /-- PMAP_BASE_WRITE (R559). -/
  | pmapBaseWrite (v : BitVec 64)
  /-- MODE_CTL_WRITE (R458). -/
  | modeCtlWrite (v : BitVec 64)
  /-- PORT_CTL_WRITE (R337). -/
  | portCtlWrite (die port : Nat) (v : BitVec 64)
  /-- PWR_CAP_WRITE (R534). -/
  | pwrCapWrite (v : BitVec 64)
  /-- LAMP_RTC_WRITE (R486). -/
  | lampRtcWrite (v : BitVec 64)
  /-- COMPARATOR_SAMPLE (R488). -/
  | comparatorSample (n : Nat) (v : BitVec 64)
  /-- MAINT_START (R466). -/
  | maintStart (id : BitVec 16) (w : MaintWord)
  /-- MAINT_CANCEL (R467). -/
  | maintCancel (v : BitVec 64)
  /-- SCRUB_HBM (R371). -/
  | scrubHbm
  /-- SCRUB_DEEP (R371). -/
  | scrubDeep
  /-- SCRUB_SRAM (R468). -/
  | scrubSram
  /-- MARGIN_SURVEY (R504). -/
  | marginSurvey (lowest : List Int)
  /-- MAP_COMPACT (R239). -/
  | mapCompact
  /-- LINK_RETRAIN (R468). -/
  | linkRetrain (port : Nat)
  /-- FW_STAGE (R516). -/
  | fwStage (img : FwImage)
  /-- CKPT_MIRROR_VERIFY (R468). -/
  | ckptMirrorVerify
  /-- MAINT_END (R466). -/
  | maintEnd (activity port : Nat)
  /-- LEND_SET (R388). -/
  | lendSet (id : BitVec 16) (base size : BitVec 16)
  /-- LEND_ZEROING_COMPLETE (R389). -/
  | lendZeroingComplete
  /-- ATTEST (R523). -/
  | attest (id : BitVec 16) (nonce : BitVec 256) (addr : BitVec 64) (len : BitVec 32)
  /-- ATTEST_SIGNED (R523). -/
  | attestSigned
  /-- ALIAS_GENERATED (R520). -/
  | aliasGenerated
  /-- DIK_RESERVATION_WRITE (R518). -/
  | dikReservationWrite
  /-- INTAKE_FEED (R405). -/
  | intakeFeed (id : BitVec 16) (queue : BitVec 8) (count : BitVec 32) (addr : BitVec 64)
  /-- INTAKE_RECORD (R408). -/
  | intakeRecord
  /-- STAGING_WINDOW_FREED (R404). -/
  | stagingWindowFreed (slot bytes : Nat)
  /-- BATCH_COMPLETE (R413): busy cycles of the busiest of the eight entropy decoders and the intake
  formation, of all the cycles of the batch (R416). -/
  | batchComplete (busy total : Nat)
  /-- GEN_SUBMIT (R421). -/
  | genSubmit (id : BitVec 16) (w : GenWord)
  /-- GEN_CANCEL (R424). -/
  | genCancel (id : BitVec 16) (request : BitVec 32)
  /-- GEN_TOKEN (R422). -/
  | genToken (user : Nat) (pairs : List (BitVec 32 × Nat))
  /-- MEMORY_REQUEST (R378). -/
  | memoryRequest (ctl : Nat) (w : ReqWord)
  /-- MC_COMMAND (R376); aged: the oldest request of the window has waited 1,024 cycles or more. -/
  | mcCommand (ctl chan : Nat) (aged : Bool)
  /-- MEMORY_READ_COMPLETE (R370). -/
  | memoryReadComplete (ctl : Nat) (result : ReadResult)
  /-- ROW_IDLE_CLOSE (R368). -/
  | rowIdleClose (ctl chan bank : Nat)
  /-- CHANNEL_CANARY_EXPIRE (R381). -/
  | channelCanaryExpire (ctl chan : Nat)
  /-- BANK_QUOTA_EXPIRE (R379); age: cycles that the oldest request of the bank has waited. -/
  | bankQuotaExpire (ctl chan bank age : Nat)
  /-- PATROL_SCRUB (R371). -/
  | patrolScrub (ctl : Nat) (result : ReadResult)
  /-- REPAIR_START (R374). -/
  | repairStart (ctl : Nat)
  /-- REPAIR_COMPLETE (R373). -/
  | repairComplete (ctl : Nat)
  /-- INPUT_RISE (R530). -/
  | inputRise
  /-- STANDBY_ENTRY (R530). -/
  | standbyEntry (strap : BitVec 3)
  /-- INPUT_STABLE_START (R532). -/
  | inputStableStart
  /-- BROWNOUT (R531). -/
  | brownout
  /-- INPUT_LOSS (R531). -/
  | inputLoss
  /-- OVERVOLTAGE (R531). -/
  | overvoltage
  /-- PWR_EN_ASSERT (R548). -/
  | pwrEnAssert
  /-- PWR_EN_DEASSERT (R547). -/
  | pwrEnDeassert
  /-- RESET_N_LOW (R543). -/
  | resetNLow
  /-- RESET_N_RELEASE (R543). -/
  | resetNRelease
  /-- RAILS_OFF (R547). -/
  | railsOff
  /-- WARM (R546). -/
  | warm
  /-- HOT (R545). -/
  | hot
  /-- HOT_RESET_COMPLETE (R545). -/
  | hotResetComplete
  /-- BOOT_VERIFIED (R514). -/
  | bootVerified (failedA failedB : Option Nat)
  /-- RAILS_IN_REGULATION (R548). -/
  | railsInRegulation
  /-- RAIL_TIMEOUT (R549). -/
  | railTimeout (rail : Nat)
  /-- MEMORY_TRAINING_COMPLETE (R578). -/
  | memoryTrainingComplete (failed : List Nat)
  /-- READY_REACHED (R515). -/
  | readyReached
  /-- THERMTRIP (R538). -/
  | thermtrip (die temp : Nat)
  /-- THERMAL_SLOW_CHECK (R536). -/
  | thermalSlowCheck (die temp : Nat)
  /-- THERMAL_RECOVER_CHECK (R536). -/
  | thermalRecoverCheck (die temp : Nat)
  /-- CURRENT_LIMIT (R535). -/
  | currentLimit
  /-- CURRENT_RECOVER_STEP (R535). -/
  | currentRecoverStep (ma10 : Nat)
  /-- CAP_RECOMPUTE (R534). -/
  | capRecompute (mean : Nat)
  /-- STATUS_WORD (R569). -/
  | statusWord
  /-- READ_VIN (R569). -/
  | readVin
  /-- READ_IIN (R569). -/
  | readIin
  /-- READ_TEMPERATURE_1 (R569). -/
  | readTemperature1
  /-- READ_TEMPERATURE_2 (R569). -/
  | readTemperature2
  /-- READ_PIN (R569). -/
  | readPin
  /-- MFR_REG_ADDR (R569). -/
  | mfrRegAddr (w : Option (BitVec 32))
  /-- MFR_REG_DATA_READ (R571). -/
  | mfrRegDataRead
  /-- MFR_REG_DATA_WRITE (R571). -/
  | mfrRegDataWrite (v : BitVec 64)
  /-- MFR_ALERT_CAUSE (R567). -/
  | mfrAlertCause
  /-- MFR_PWR_CAP (R569). -/
  | mfrPwrCap (w : Option (BitVec 16))
  /-- DYNAMIC_ADDRESS_ASSIGN (R568). -/
  | dynamicAddressAssign (addr : Nat)
  /-- RSTDAA (R568). -/
  | rstdaa
  /-- SELF_TEST_COMPLETE (R548). -/
  | selfTestComplete (badCells : List Nat)
  /-- DECODE_END (R408). -/
  | decodeEnd (out : DecodeOut)
  /-- BANK_REFRESH (R368). -/
  | bankRefresh (ctl chan bank : Nat)
  /-- TELEMETRY_SAMPLE (R550). -/
  | telemetrySample (t : Telemetry)
  /-- NON_TRANSPORT_FRAME (R323). -/
  | nonTransportFrame (die port : Nat) (fcs : Bool) (kind : Nat)
  /-- JTAG_ACCESS (R527). -/
  | jtagAccess (op : JtagOp)
  deriving DecidableEq, Repr

end Sys2Proof
end

