-- ==== Sys2Proof/Config.lean ====
section
/-!
DEFINITION. What an implementation or one module fixes, and the values that the specification leaves
open. Every constant here is opaque: nothing can be proved of its value.
-/
namespace Sys2Proof.Config

/-- A free value: the specification states no value here (the counter makes each use a fresh one).
DESIGN CHOICE: notes/assumptions/63.md.
DESIGN CHOICE: notes/assumptions/75.md. -/
opaque freeNat : Nat → Nat

/-- A free choice between two behaviours that the specification both allows. -/
opaque freeBool : Nat → Bool

/-- The bit that a conversion into MASK1 gives for a value other than zero and one, by the FP32 pattern of the
value: the specification states none.
DESIGN CHOICE: notes/assumptions/152.md. -/
opaque maskOf : Nat → Bool

/-- What the table unit reads for an element of a block-scaled format, by format code and the FP32 pattern of the
element: it converts none of them (R247), and the specification states no value.
DESIGN CHOICE: notes/assumptions/168.md. -/
opaque tabRead : Nat → Nat → Nat

/-- How far the copy of LAMP_TICK of an event's source lags when the source raises its event of a number, in
nanoseconds: the crossing to each block has a varying delay (R480).
DESIGN CHOICE: notes/assumptions/180.md. -/
opaque tickLag : Nat → Nat → Nat

/-- Byte k of the module serial number (R558, R575). -/
opaque serial : Nat → Byte

/-- Bits of the fused MAC address of a port, by 2 g + p (R314, R337).
DESIGN CHOICE: notes/assumptions/169.md. -/
opaque portMac : Nat → BitVec 48

/-- Header bytes 0 to 511 of the firmware image that manufacture put into a slot (R513): false A, true B. -/
opaque shippedHeader : Bool → List Byte

/-- The DIK certificate of the manufacturing data, 10,157 bytes (R517, R522). -/
opaque dikCertificate : List Byte

/-- The DIK public key with its type code, 68 bytes (R517). -/
opaque dikPublic : List Byte

/-- The public key with its type code of alias number n, 68 bytes, drawn from the entropy source
(R520). -/
opaque aliasPublic : Nat → List Byte

/-- The DIK signature of a leaf over a certificate's bytes 0–255, with its type code and length
(R517, R522). The leaf's signature fails the Headframe's own check when there is none.
PRESUMED: notes/assumptions/27.md. -/
opaque dikSign : Nat → List Byte → Option (List Byte)

/-- The signature of an alias key, by number and leaf, over bytes 0–639 of a report: 2,500 bytes
(R523). -/
opaque aliasSign : Nat → Nat → List Byte → List Byte

/-- Verification of an XMSS or XMSS^MT signature: type code, public key, message, signature (R134,
R525; RFC 8391).
PRESUMED: notes/assumptions/27.md. -/
opaque xmssVerify : Nat → List Byte → List Byte → List Byte → Bool

/-- Spare rows that an HBM stack reports for one of its banks, by stack and pseudo-channel × 64 + bank
(R373). -/
opaque hbmSpares : Nat → Nat → Nat

/-- The value that a boundary-scan cell captures at a pin (IEEE 1149.1, R527). -/
opaque boundaryCell : Nat → Bool

/-- The adapter trains as a CXL device, which the host's support decides (R452, *BXL_STATUS*). -/
opaque adapterCxl : Bool

/-- The byte enables of a MemWrPtl that arrives in a flit, by address and data: *Message header* has no place
for them (R438, R452). -/
opaque byteEnables : Nat → List Byte → BitVec 64

/-- The IDCODE of the JTAG port (R527).
PRESUMED: notes/assumptions/142.md. -/
opaque idcode : BitVec 32

/-- The exponential of the plan's sampling table, FP32 pattern to FP32 pattern (R168, *Sampling*): its
coefficients are the plan's. -/
opaque genExp : Nat → Nat

/-- Entry j of a token page is a K entry (R425, R426): the plan's layout.
PRESUMED: notes/assumptions/114.md. -/
opaque keyEntry : Nat → Bool

end Sys2Proof.Config
end

