-- ==== Sys2Proof/Machine/Bits.lean ====
section
/-!
DEFINITION. Bit-field, byte-order and sign-extension helpers (R5: every field is little-endian),
and the two checks CRC-32C and the flit code that several chapters name.
-/
namespace Sys2Proof.Machine

/-- Bits [hi:lo] of a number. -/
def fieldOf (n hi lo : Nat) : Nat := (n >>> lo) % 2 ^ (hi + 1 - lo)

/-- Bit i of a number. -/
def bitAt (n i : Nat) : Bool := (n >>> i) % 2 == 1

/-- 1 for true, 0 for false. -/
def bit01 (b : Bool) : Nat := if b then 1 else 0

/-- A field value placed at bit position lo, cut to its width. -/
def place (v width lo : Nat) : Nat := (v % 2 ^ width) <<< lo

/-- The n low bytes of a number, least significant first (R5). -/
def toBytes : Nat → Nat → List Byte
  | 0, _ => []
  | n + 1, v => BitVec.ofNat 8 v :: toBytes n (v / 256)

/-- The number whose bytes, least significant first, are given (R5). -/
def ofBytes : List Byte → Nat
  | [] => 0
  | b :: rest => b.toNat + 256 * ofBytes rest

/-- A list of the numbers lo, lo + 1, …, lo + n − 1. -/
def rangeFrom (lo : Nat) : Nat → List Nat
  | 0 => []
  | n + 1 => lo :: rangeFrom (lo + 1) n

/-- The w low bits of v read as a two's complement integer. -/
def signedOf (w v : Nat) : Int :=
  let u := v % 2 ^ w
  if 2 * u < 2 ^ w then (u : Int) else (u : Int) - (2 ^ w : Nat)

/-- An integer written in w bits of two's complement. -/
def unsignedOf (w : Nat) (i : Int) : Nat := (i % ((2 ^ w : Nat) : Int)).toNat

/-- The bytes of a list from index i on, n of them, zero where the list has ended. -/
def sliceBytes (l : List Byte) (i n : Nat) : List Byte :=
  let t := (l.drop i).take n
  t ++ List.replicate (n - t.length) 0#8

/-- The little-endian number in n bytes of a list, from index i. -/
def numAt (l : List Byte) (i n : Nat) : Nat := ofBytes (sliceBytes l i n)

/-- Serial-number comparison of RFC 1982 on w-bit numbers: a is before b. -/
def serialLt (w a b : Nat) : Bool :=
  let d := (b + 2 ^ w - a % 2 ^ w) % 2 ^ w
  d != 0 && d < 2 ^ (w - 1)

/-- Ceiling division. -/
def ceilDiv (a b : Nat) : Nat := (a + b - 1) / b

/-- log2 of a number rounded up, 0 for 0 and 1. -/
def ceilLog2 (n : Nat) : Nat := if n ≤ 1 then 0 else (n - 1).log2 + 1

/-- The number is a power of two. -/
def isPow2 (n : Nat) : Bool := n != 0 && 2 ^ n.log2 == n

/-- One bit step of CRC-32C, reflected, polynomial 0x1EDC6F41. -/
def crcBit (c : BitVec 32) : BitVec 32 :=
  if c.getLsbD 0 then (c >>> 1) ^^^ 0x82F63B78#32 else c >>> 1

/-- One byte step of CRC-32C. -/
def crcByte (c : BitVec 32) (b : Byte) : BitVec 32 :=
  (crcBit ∘ crcBit ∘ crcBit ∘ crcBit ∘ crcBit ∘ crcBit ∘ crcBit ∘ crcBit) (c ^^^ b.setWidth 32)

/-- CRC-32C of a list of bytes: initial value and final complement all ones. -/
def crc32c (l : List Byte) : BitVec 32 := ~~~ (l.foldl crcByte 0xFFFFFFFF#32)

/-- Multiply by α in GF(2^8) with x^8 + x^4 + x^3 + x^2 + 1 (R434). -/
def gfDouble (b : Byte) : Byte :=
  if b.getLsbD 7 then (b <<< 1) ^^^ 0x1D#8 else b <<< 1

/-- The product by α to the power n in GF(2^8) (R434). -/
def gfShift : Nat → Byte → Byte
  | 0, b => b
  | n + 1, b => gfShift n (gfDouble b)

end Sys2Proof.Machine
end

