-- ==== Sys2Proof/Machine/Store.lean ====
section
/-!
DEFINITION. Sparse tables: plain lists of (key, value) pairs in one canonical form, keys strictly
rising and no value equal to what an unlisted key reads as. Memories, register files, rings, cells
and counters are all tables, so equal machines are equal data.
-/
namespace Sys2Proof.Machine

/-- A sparse function from numbers, as data. -/
abbrev Table (α : Type) := List (Nat × α)

/-- Read a table: the first entry of the key, or the default d. -/
def tget {α : Type} (d : α) : Table α → Nat → α
  | [], _ => d
  | e :: rest, k => if e.1 = k then e.2 else tget d rest k

/-- Drop every entry of a key. -/
def tdel {α : Type} : Table α → Nat → Table α
  | [], _ => []
  | e :: rest, k => if e.1 = k then tdel rest k else e :: tdel rest k

/-- Put an entry before the first entry of a larger key. -/
def tins {α : Type} : Table α → Nat → α → Table α
  | [], k, v => [(k, v)]
  | e :: rest, k, v => if e.1 < k then e :: tins rest k v else (k, v) :: e :: rest

/-- Write a table: writing the default removes the entry, so the form stays canonical. -/
def tset {α : Type} [DecidableEq α] (d : α) (t : Table α) (k : Nat) (v : α) : Table α :=
  if v = d then tdel t k else tins (tdel t k) k v

/-- Change one entry of a table. -/
def tmod {α : Type} [DecidableEq α] (d : α) (t : Table α) (k : Nat) (f : α → α) : Table α :=
  tset d t k (f (tget d t k))

/-- The keys strictly rise from a bound on, and no value is the default. -/
def twfFrom {α : Type} [DecidableEq α] (d : α) : Nat → Table α → Bool
  | _, [] => true
  | lo, e :: rest => decide (lo ≤ e.1) && decide (e.2 ≠ d) && twfFrom d (e.1 + 1) rest

/-- The canonical form of a table. -/
def twf {α : Type} [DecidableEq α] (d : α) (t : Table α) : Bool := twfFrom d 0 t

/-- Write a list of values at consecutive keys. -/
def tsetList {α : Type} [DecidableEq α] (d : α) : Table α → Nat → List α → Table α
  | t, _, [] => t
  | t, k, v :: vs => tsetList d (tset d t k v) (k + 1) vs

/-- Read n values at consecutive keys. -/
def tgetList {α : Type} (d : α) (t : Table α) (k n : Nat) : List α :=
  (rangeFrom k n).map (tget d t)

/-- Give every key from lo to hi − 1 its default value again. -/
def tclear {α : Type} (t : Table α) (lo hi : Nat) : Table α :=
  t.filter fun e => decide (e.1 < lo) || decide (hi ≤ e.1)

/-- A memory: bytes by address; an unlisted byte reads 0 (R578: trained memory reads zero; R545,
R546: cell memory is zeroed). -/
abbrev Memory := List (Nat × BitVec 8)

/-- One byte of a memory.
DESIGN CHOICE: notes/assumptions/4.md. -/
def mget (m : Memory) (a : Nat) : Byte := tget 0#8 m a

/-- Write one byte of a memory. -/
def mset (m : Memory) (a : Nat) (b : Byte) : Memory := tset 0#8 m a b

/-- Read n bytes of a memory. -/
def mread (m : Memory) (a n : Nat) : List Byte := tgetList 0#8 m a n

/-- Write a list of bytes to a memory. -/
def mwrite (m : Memory) (a : Nat) (l : List Byte) : Memory := tsetList 0#8 m a l

/-- Read a little-endian number of n bytes from a memory. -/
def mreadNum (m : Memory) (a n : Nat) : Nat := ofBytes (mread m a n)

/-- Write a little-endian number of n bytes to a memory. -/
def mwriteNum (m : Memory) (a n v : Nat) : Memory := mwrite m a (toBytes n v)

/-- The canonical form of a memory.
DESIGN CHOICE: notes/assumptions/4.md. -/
def Memory.wf (m : Memory) : Bool := twf 0#8 m

/-- Append a value to a queue unless it is already there (a collection with no order). -/
def insertNew {α : Type} [DecidableEq α] (l : List α) (v : α) : List α :=
  if v ∈ l then l else l ++ [v]

end Sys2Proof.Machine
end

