-- ==== Sys2Proof/Machine/Parts/Cell.lean ====
section
/-!
DEFINITION. The state of one cell (02_cells, 05_stream_programs): streams, accumulator banks,
memories, vector and mask registers, table slots, semaphores, transfer tags and near cache.
-/
namespace Sys2Proof.Machine

/-- The stall causes of R65, numbered 0 to 11 in this order. -/
inductive StallCause where
  | operand | bank | deep | remote | ring | semaphore | collective | map | table | acc | arbiter
  | throttle
  deriving DecidableEq, Repr

/-- One open loop of a stream (R153): the word after LOOP, COUNT, the running iteration, and the S
register that receives the iteration number. -/
structure LoopFrame where
  top : Nat
  count : Nat
  iter : Nat
  idx : Option Nat
  deriving DecidableEq, Repr

/-- What a blocked stream waits for. -/
inductive Wait where
  /-- SEMW: a semaphore and the amount (R49). -/
  | sem (sem amount : Nat)
  /-- RPUSH to a full ring: ring and A register of the entry (R51). -/
  | push (ring reg : Nat)
  /-- RPOP of an empty ring: ring and A register of the place (R51). -/
  | pop (ring reg : Nat)
  /-- TAGW of one tag (R158). -/
  | tag (t : Nat)
  /-- TAGW with ALL (R158). -/
  | allTags
  /-- BELL: the group and channel-0 operation, the S register of the result (R170). -/
  | bell (group d : Nat)
  /-- PMAP.FENCE (R230). -/
  | fence
  /-- A page-map edit at the epoch keeper: the S register of the previous GEN (R223). -/
  | edit (res : Nat)
  /-- An instruction that is ready but whose unit, bank or tag is held (R31, R47, R53). -/
  | unit
  deriving DecidableEq, Repr

/-- The state of a transfer tag (R158). -/
inductive TagSt where
  | free | busy | done
  deriving DecidableEq, Repr

/-- One of the 64 streams of a cell (R45, R117, R153, R158).
DESIGN CHOICE: notes/assumptions/5.md. -/
structure Stream where
  running : Bool := false
  ip : Nat := 0
  s : Table Word := []
  a : Table Word := []
  loops : List LoopFrame := []
  calls : List Nat := []
  wait : Option Wait := none
  cause : StallCause := .operand
  priority : Nat := 0
  quota : Nat := 0
  entry : Nat := 0
  phase : Nat := 0
  startedBy : Option Nat := none   -- the phase whose trigger started the present run
  tags : Table TagSt := []
  deriving DecidableEq, Repr

/-- The three states of an accumulator bank (R31). -/
inductive BankSt where
  | closed | filling | draining
  deriving DecidableEq, Repr

/-- An accumulator bank (R30 to R32, R86): element (r, c) at key 128 r + c. -/
structure Bank where
  vals : Table Lane := []
  st : BankSt := .closed
  extM : Nat := 0
  extN : Nat := 0
  chain : Nat := 0
  bound : Bool := false
  deriving DecidableEq, Repr

/-- A table slot (R44, R125); coefficient k of segment i at key 4 i + k. -/
structure TabSlot where
  valid : Bool := false
  mode : Nat := 0
  lo : Nat := 0
  hi : Nat := 0
  negInf : Nat := 0
  posInf : Nat := 0
  coeff : Table Lane := []
  deriving DecidableEq, Repr

/-- Bytes that an instruction of a stream in the matrix array still reads (R171). -/
structure Reading where
  stream : Nat
  space : Nat
  lo : Nat
  len : Nat
  deriving DecidableEq, Repr

/-- A drain in progress (R32): the signal it will give. -/
structure DrainJob where
  stream : Nat
  sem : Nat
  amt : Nat
  deriving DecidableEq, Repr

/-- A line of the near cache: its line address (byte address / 128 of the tier, deep addresses with
bit 48 set) and its bytes (R37). -/
structure NcLine where
  line : Nat
  data : List Byte
  deriving DecidableEq, Repr

/-- A transfer in flight under a tag (R52, R159): the bytes that will land on the module itself, each piece
with its global address, the cells of the module whose semaphore it signals, and the cause that a wait on
its tag counts under (R47). The bytes are read when the instruction issues (R148, R171). -/
structure Transfer where
  stream : Nat
  tag : Nat
  auto : Bool
  sem : Nat
  amt : Nat
  /-- A page-map walk, which moves nothing when it completes (R169). -/
  walk : Bool := false
  pieces : List (Nat × List Byte) := []
  cells : List Nat
  /-- The index of the word that issued it (R173). -/
  ip : Nat := 0
  cause : StallCause
  deriving DecidableEq, Repr

/-- CELL_STATUS.STATE (R65). -/
inductive CellSt where
  | off | idle | loaded | running | halted | test
  deriving DecidableEq, Repr

/-- CELL_STATUS.HEALTH (R65). -/
inductive Health where
  | healthy | spareIdle | suspect | retirePending | retired
  deriving DecidableEq, Repr

/-- One physical cell.
DESIGN CHOICE: notes/assumptions/5.md. -/
structure Cell where
  streams : Table Stream := []
  scratch : Memory := []
  opcache : Memory := []
  tiles : Memory := []             -- tile buffer t at 65,536 t
  acc0 : Bank := {}
  acc1 : Bank := {}
  array : Option (Bool × Bool) := none   -- the MMA in the array: its bank and its close flag
  reading : List Reading := []           -- the bytes that the MMA in the array still reads
  drain0 : Option DrainJob := none
  drain1 : Option DrainJob := none
  v : Table Lane := []             -- lane i of Vr at 64 r + i
  m : Table Word := []
  slots : Table TabSlot := []
  sems : Table Nat := []
  semQ : List Nat := []            -- streams in SEMW, in the order they began to wait
  near : List NcLine := []         -- most recently used first
  xfers : List Transfer := []
  tagsPeak : Nat := 0
  logical : Nat := 0x3FF
  st : CellSt := .off
  health : Health := .healthy
  codeLo : Nat := 0
  codeHi : Nat := 0
  scratchHeld : Bool := false
  opHeld : Bool := false
  lostStarts : Nat := 0
  deriving DecidableEq, Repr

/-- A semaphore signal on its way (R54). The cell is physical. -/
structure Sig where
  cell : Nat
  sem : Nat
  amt : Nat
  deriving DecidableEq, Repr

/-- A ring entry on its way to a ring of another cell or die (R54). -/
structure PushFlight where
  ring : Nat
  cell : Nat
  stream : Nat
  data : List Byte
  deriving DecidableEq, Repr

/-- A hardware ring of the active plan (R51, R119): free-running indices, and the entries held for
Stope and Gallery rings, whose storage has no address of its own. base is a scratchpad address for a
cell ring and an HBM offset for a host ring. -/
structure Ring where
  alloc : Bool := false
  kind : Nat := 0
  depthLog : Nat := 0
  entryLog : Nat := 0
  base : Nat := 0
  head : Nat := 0        -- entries popped
  tail : Nat := 0        -- entries pushed and poppable
  flying : Nat := 0      -- places held by pushes on their way
  mem : Memory := []
  pushQ : List (Nat × Nat) := []   -- (cell, stream) blocked on a full ring, in order
  popQ : List (Nat × Nat) := []    -- (cell, stream) blocked on an empty ring, in order
  deriving DecidableEq, Repr

end Sys2Proof.Machine
end

