-- ==== Sys2Proof/Machine/Parts/Fabric.lean ====
section
/-!
DEFINITION. The state of the fabric ports and the Gallery transport (11_fabric), of the Bell keeper
and of the collective engines (12_collectives).
-/
namespace Sys2Proof.Machine

/-- The port states (R315, R337), numbered as PORT_STATUS.STATE. -/
inductive PortSt where
  | disabled | down | training | up | held
  deriving DecidableEq, Repr

/-- The fields of PORT_CTL (R337). -/
structure PortCtl where
  vid : Nat := 0
  pfcEn : Nat := 0
  npaths : Nat := 0x0F
  reorder : Nat := 0x0A
  nhMode : Bool := false
  vlanEn : Bool := false
  ecnEn : Bool := true
  lldpEn : Bool := true
  enable : Bool := true
  deriving DecidableEq, Repr

/-- What a spine port knows of a destination address (R321). -/
structure Neighbor where
  mac : Option Nat := none
  tries : Nat := 0
  deriving DecidableEq, Repr

/-- One fabric port; port p of Gallery die g has key 2 g + p (R337). -/
structure Port where
  st : PortSt := .disabled           -- the reset value of PORT_STATUS (R337)
  linkUp : Bool := false
  lanes : Nat := 0
  half : Bool := false
  peer : Nat := 0xFFFF
  peerOk : Bool := false
  ctl : PortCtl := {}
  ctlNext : Option PortCtl := none    -- waits for the next step boundary (R337)
  nhMac : Nat := 0
  dscp : Nat := 0x0A1A1A2E
  quadMac : Option Nat := none        -- the peer's MAC, learnt from its first frame (R322)
  peerSeen : Bool := false            -- the first frame since plan load has been checked (R15)
  nbrs : Table Neighbor := []         -- by IPv6 address of the destination
  paused : List Nat := []             -- priorities stopped by a received PFC frame (R332)
  xoff : List Nat := []               -- priorities this port has sent XOFF for (R332)
  strangers : Table Nat := []         -- by reason, LAMP_RTC + 1 of the last event (R324)
  deriving DecidableEq, Repr

/-- A frame that waits, or is held until it is acknowledged (R327); its port is part of the flow.
xfer is 1 + the number of the remote transfer that it belongs to, 0 for none. -/
structure Held where
  frame : Frame
  xfer : Nat := 0
  allowance : Bool := true    -- its reorder allowance still runs
  exposed : Bool := false     -- it lies below the highest PSN acknowledged
  due : Bool := false         -- it is to be sent again as soon as a port takes it (R316, R327)
  deriving DecidableEq, Repr

/-- A send context (R326, R327, R331). rate is in bit/s, none for the line
rate of the port with which a flow starts; timeout is in ns. -/
structure SendCtx where
  psn : Nat := 0
  unacked : List Held := []
  waiting : List Held := []           -- frames that cannot leave yet, in order
  rate : Option Nat := none
  calm : Nat := 0
  cnps : Nat := 0
  timeout : Nat := 100000
  deriving DecidableEq, Repr

/-- A receive context (R326, R327, R330). -/
structure RecvCtx where
  cum : Nat := 0                      -- the next PSN expected in order
  marks : List Nat := []              -- PSNs accepted beyond it
  pending : Nat := 0                  -- frames accepted and not yet acknowledged
  cnpAt : Option Nat := none          -- LAMP_TICK of the last CNP sent (R330)
  deriving DecidableEq, Repr

/-- Why a remote transfer was issued (R334). -/
inductive XferFor where
  /-- A stream's MOVE: physical cell, stream, tag. -/
  | stream (cell stream tag : Nat)
  /-- A gather of a Gallery die: its queue entry (R268). -/
  | gather (die : Nat)
  /-- The read of a shard header of such a gather. -/
  | gatherHdr (die : Nat)
  /-- A unit of a checkpoint mirror (R304). -/
  | mirror (unit : Nat)
  /-- A permute entry (R362). -/
  | permute (entry : Nat)
  /-- The page copy of a COW of a TIER 3 entry (R224). -/
  | cow (key : Nat)
  deriving DecidableEq, Repr

/-- A remote transfer in progress (R334): bytes still to be acknowledged or to land, and whether the
SIGNAL frame has been sent. -/
structure RemoteXfer where
  what : XferFor
  write : Bool
  peer : Nat
  left : Nat
  dst : Nat
  cell : Nat := 0
  sem : Nat := 0
  amt : Nat := 0
  signalled : Bool := false
  deriving DecidableEq, Repr

/-- The IPv6 and UDP headers of a frame (R320). -/
structure IpHdr where
  src : Nat
  dst : Nat
  hopLimit : Nat
  dscp : Nat
  ecn : Nat                   -- 2 for ECT(0), 0 for Not-ECT (R330)
  label : Nat
  sport : Nat
  dport : Nat
  sum : Nat
  deriving DecidableEq, Repr

/-- What a port puts around a frame (*Frame layout on the two port kinds*): the Ethernet header with its 802.1Q
tag (VID and priority), the network headers of a spine port, and the CRC-32C trailer. -/
structure LinkHdr where
  dstMac : Nat
  srcMac : Nat
  etherType : Nat
  vlan : Option (Nat × Nat)
  ip : Option IpHdr
  trailer : Nat
  deriving DecidableEq, Repr

/-- An LLDP frame (R336). -/
structure Lldp where
  dstMac : Nat
  ttl : Nat
  chassis : Nat
  portId : List Byte
  sysName : List Byte
  deriving DecidableEq, Repr

/-- Anything a port puts on the wire. -/
inductive WireItem where
  | transport (hdr : LinkHdr) (f : Frame)
  /-- Neighbor Solicitation for an address (R321). -/
  | solicit (addr : Nat)
  /-- Neighbor Advertisement for an address with the Solicited and Override flags, and where it goes (R335). -/
  | advertise (addr dst : Nat)
  /-- LLDP frame (R336). -/
  | lldp (f : Lldp)
  /-- PFC XOFF or XON of a priority (R332). -/
  | pfc (prio : Nat) (xoff : Bool)
  deriving DecidableEq, Repr

/-- One thing sent: Gallery die, port, item. -/
structure Wire where
  die : Nat
  port : Nat
  item : WireItem
  deriving DecidableEq, Repr

/-- A Bell message (R354): KIND, CODE, CHANNEL, GROUP or ATTEMPT, OPSEQ or STEP, VALUE, payload. -/
structure BellMsg where
  kind : Nat
  code : Nat
  chan : Nat := 0
  ackChan : Nat := 0
  group : Nat := 0
  seq : Nat := 0
  value : Nat := 0
  payload : List Byte := []
  deriving DecidableEq, Repr

/-- A Bell message that waits for its ACK (R358). -/
structure BellOut where
  dst : Nat
  msg : BellMsg
  resends : Nat := 0
  deriving DecidableEq, Repr

/-- Who takes the result of a Bell operation (R170, R103, R280, R353, R362). -/
inductive BellFor where
  | stream (cell stream d : Nat)
  | scale (region : Nat)
  | sumsq
  | digest (coll : Nat)
  | permute (round : Nat)
  deriving DecidableEq, Repr

/-- A Bell operation of one group and channel (R355, R357); key group × 8 + channel. -/
structure BellOp where
  seq : Nat := 0                      -- OPSEQ of the next or present operation
  active : Bool := false
  fn : Nat := 0
  acc : Nat := 0
  early : List (Nat × Nat) := []      -- (child set index, value) of UPs that came before the member's own entry
  heard : List Nat := []              -- children whose UP is combined
  upSent : Bool := false
  who : Option BellFor := none
  deriving DecidableEq, Repr

/-- The Bell keeper (R354 to R358). -/
structure Bell where
  ops : Table BellOp := []
  out : List BellOut := []
  selfQ : List (Nat × BellMsg) := []  -- messages of the member to itself, by sender (always its own index)
  seen : List (Nat × BellMsg) := []   -- the last message applied, by sender, KIND, CODE, CHANNEL and group
  lastLatency : Nat := 0
  deriving DecidableEq, Repr

/-- A collective of the running attempt (R340 to R353); key: collective number. A sending key is
stage × 65,536 + final rank of the receiver. -/
structure Coll where
  active : Bool := false              -- requested, or some chunk of it has begun to land
  started : Bool := false             -- a request was taken in this attempt
  queue : List (Nat × Nat) := []      -- chunks to be sent, in order: sending key and chunk
  sent : Table Nat := []              -- chunks sent so far, by sending key
  credit : Table (List Nat) := []     -- ordinals released by the receiver, by sending key
  bytes : Table Nat := []             -- bytes landed, by (stage × 65,536 + source) × 2^32 + chunk
  done : List (Nat × Nat) := []       -- (stage, chunk) of DONE tokens popped
  slotPort : Table Nat := []          -- port on which the chunk of a slot arrived, by slot in LAND
  released : Table Nat := []          -- releases so far, by slot in LAND
  digest : Nat := 0                   -- Σ copies × D − Σ D′ modulo 2^64
  asked : Bool := false               -- its digest exchange has begun
  passed : Bool := false
  deriving DecidableEq, Repr

/-- One collective engine per Gallery die (R365). -/
structure CollEng where
  last : Nat := 0
  epochFault : Bool := false
  diverged : Bool := false
  epochRaised : Bool := false
  deriving DecidableEq, Repr

end Sys2Proof.Machine
end

