-- ==== Sys2Proof/Machine/Parts/Host.lean ====
section
/-!
DEFINITION. The state of the host link, the command and completion queues, the doorbells and the
interrupts (16_host_link), of the event ring and the Lamp room (18_observability).
-/
namespace Sys2Proof.Machine

/-- A message of the host link (R438); ADDR also carries the vector of an IRQ. -/
structure HostMsg where
  typ : Nat
  flags : Nat := 0
  len : Nat := 0
  tag : Nat := 0
  space : Nat := 0
  opx : Nat := 0
  addr : Nat := 0
  data : List Byte := []
  deriving DecidableEq, Repr

/-- The states of the host link (R439), numbered as BXL_STATUS.STATE. -/
inductive LinkSt where
  | down | detect | train | align | active | retrain
  deriving DecidableEq, Repr

/-- A host command in progress: CMD_ID and OPCODE, returned in its completion (R445). -/
structure CmdRef where
  id : Nat
  op : Nat
  deriving DecidableEq, Repr

/-- A completion entry that waits to be written (R445). -/
structure Completion where
  cmd : CmdRef
  status : Nat
  interim : Bool := false
  result : Nat := 0
  deriving DecidableEq, Repr

/-- What a read of host memory is for (R449). -/
inductive ReadFor where
  /-- The 64 bytes of a host command (R444). -/
  | command
  /-- Part of a plan image: the offset in the image (R133). -/
  | image (off : Nat)
  /-- Part of a firmware image (R516). -/
  | firmware (off : Nat)
  /-- One entry of a DIR 0 host ring, at a free-running index (R450). -/
  | ringEntry (bell idx : Nat)
  /-- Part of the list entry or of the record that the intake reads, at an offset (R405, R408). -/
  | sample (off : Nat)
  /-- A read whose purpose has gone: its answer frees its TAG and nothing else. -/
  | dropped
  /-- Part of a checkpoint slot read from the host (R306). -/
  | checkpoint (off : Nat)
  /-- The prompt of a generation request (R421). -/
  | prompt (user off : Nat)
  deriving DecidableEq, Repr

/-- A read of host memory that waits or is outstanding (R438). -/
structure HostRead where
  what : ReadFor
  addr : Nat
  len : Nat
  deriving DecidableEq, Repr

/-- A DATA flit held for replay (R435): its FSEQ and its 240 bytes of slots. -/
structure HeldFlit where
  fseq : Nat
  body : List Byte
  deriving DecidableEq, Repr

/-- One doorbell block (R450). asked counts the entries of a DIR 0 ring whose copy has been requested. -/
structure Doorbell where
  base : Nat := 0
  irqEn : Bool := false
  vector : Nat := 0
  dir : Bool := false
  enable : Bool := false
  hostIdx : Nat := 0
  modIdx : Nat := 0
  shadow : Nat := 0
  asked : Nat := 0
  deriving DecidableEq, Repr

/-- The host link (R432 to R455). -/
structure Bxl where
  st : LinkSt := .down
  lanes : Nat := 0
  cxl : Bool := false
  hdm : Bool := false
  holdoff : Nat := 2
  retrainReq : Bool := false
  fromRetrain : Bool := false
  txq : List HostMsg := []              -- messages that wait for credit, room or the link, in order
  held : List HeldFlit := []            -- the replay buffer, oldest first (R435)
  nextSeq : Nat := 0                    -- FSEQ of the next DATA flit
  expect : Nat := 0                     -- FSEQ expected next
  discarding : Bool := false            -- a NAK has been sent and the expected flit has not come
  streak : Nat := 0                     -- resends since ACK advanced (R436)
  credits : Table Nat := []             -- slots the peer will take, by VC (R437)
  owed : Table Nat := []                -- slots freed and not yet returned, by VC (R437)
  rxPart : List Byte := []              -- slots of a message whose rest has not arrived (R433)
  irqHeld : List Nat := []              -- vectors inside their hold-off (R451)
  irqWait : List Nat := []              -- held-off vectors
  cmdqBase : Nat := 0
  cmdqLog : Nat := 0
  cplqLog : Nat := 0
  enable : Bool := false
  cmdTail : Nat := 0
  cmdHead : Nat := 0
  cmdAsked : Nat := 0                   -- commands asked for by DRD (R444)
  cplqBase : Nat := 0
  cplHead : Nat := 0
  cplTail : Nat := 0
  waitCpl : List Completion := []       -- completions that wait for room, in end order (R445)
  inflight : Nat := 0
  reads : Table (Option HostRead) := [] -- outstanding DRD by TAG (R438)
  readQ : List HostRead := []           -- reads that wait for a TAG or the link
  dbHold : Bool := false                -- DIR 1 copies wait until the host enables again after DOWN
  deriving DecidableEq, Repr

/-- An event record (R477). -/
structure Event where
  code : Nat
  sev : Nat
  flags : Nat
  seq : Nat
  tick : Nat
  src : Nat
  payload : List Byte
  deriving DecidableEq, Repr

/-- The event ring and its queue (R481, R482). -/
structure Obs where
  ringBase : Nat := 0
  ringLog : Nat := 0
  head : Nat := 0
  tail : Nat := 0
  landing : Nat := 0              -- records written and not yet landed
  queue : List Event := []
  lostMark : Bool := false        -- the next record written carries LOST
  seqs : Table Nat := []          -- next SEQ of each source (R479)
  deriving DecidableEq, Repr

/-- A Lamp room comparator (R488, R489). -/
structure Comparator where
  fired : Bool := false
  die : Nat := 0
  qty : Nat := 0
  dir : Bool := false
  wake : Bool := false
  alert : Bool := false
  enable : Bool := false
  thr : Word := 0
  deriving DecidableEq, Repr

/-- The Lamp room (R485 to R489). -/
structure Lamp where
  tick : Nat := 0
  rtc : Nat := 0
  rtcWrite : Option Nat := none   -- a written value that waits for the next crystal edge (R486)
  cmps : Table Comparator := []
  wakeSrc : Nat := 0
  deriving DecidableEq, Repr

end Sys2Proof.Machine
end

