-- ==== Sys2Proof/Machine/Parts/Gen.lean ====
section
/-!
DEFINITION. The state of the generation formation (15_generation), of the modes and of the
maintenance lock (17_modes).
-/
namespace Sys2Proof.Machine

/-- A generation request (R421, R422): the fields of GEN_SUBMIT and its progress. -/
structure GenReq where
  cmd : CmdRef
  request : Nat
  greedy : Bool
  loopback : Bool
  k : Nat
  promptLen : Nat
  maxNew : Nat
  invTemp : Nat
  topP : Nat
  seed : Nat
  stream : Nat
  stopId : Nat
  promptAddr : Nat
  outAddr : Nat
  prompt : List Byte := []
  promptGot : Nat := 0           -- bytes of the prompt that have landed
  ids : List Nat := []           -- generated ids, in order
  cancel : Bool := false
  finished : Bool := false       -- it ended with OK and waits for a loop-back buffer (R429)
  ending : Option Nat := none    -- the code it will end with after its current token (R424)
  deriving DecidableEq, Repr

/-- The generation formation (R418 to R431). -/
structure Gen where
  users : Table (Option GenReq) := []
  queue : List GenReq := []
  bufFree : List Nat := []       -- free loop-back buffers
  isolated : Bool := false
  ringWait : List (List Byte) := []   -- progress entries that wait for room in RETURN_RING (R423)
  deriving DecidableEq, Repr

/-- A request of the maintenance lock (R466): its command, activity, port and arguments. -/
structure MaintReq where
  cmd : CmdRef
  activity : Nat
  port : Nat := 0
  arg0 : Nat := 0
  arg1 : Nat := 0
  done : Option Nat := none      -- the code it will complete with, once its work has been done
  deriving DecidableEq, Repr

/-- Modes (R456 to R464) and maintenance (R465 to R470). -/
structure Modes where
  ctl : Nat := 0                 -- MODE_CTL fields of bits [19:0]
  inForce : Nat := 0             -- MODE_STATUS.IN_FORCE
  unsupported : Bool := false
  saved : Nat := 4               -- SYS_STATE held on entry to RECOVERY (R464)
  running : List MaintReq := []
  waiting : List MaintReq := []
  fwGot : Nat := 0               -- bytes of the firmware image of FW_STAGE that have landed
  deriving DecidableEq, Repr

end Sys2Proof.Machine
end

