-- ==== Sys2Proof/Machine/Parts/Map.lean ====
section
/-!
DEFINITION. The state of the page map, its walkers and its epoch keeper (07_page_map), and of the
circulator's hop and feed engines (06_attention).
-/
namespace Sys2Proof.Machine

/-- Who holds a pin (R228). -/
inductive PinHolder where
  | stream (cell stream : Nat)
  | hop (chan : Nat)
  | feed (feed : Nat)
  deriving DecidableEq, Repr

/-- A pin and the epoch it was taken at (R228). -/
structure Pin where
  who : PinHolder
  epoch : Nat
  no : Nat := 0      -- the model's own number of the taking
  deriving DecidableEq, Repr

/-- A frame of a FRAME_POOL region: tier as in an entry (1 HBM, 2 deep) and number (R213, R215). -/
structure FrameId where
  tier : Nat
  frame : Nat
  deriving DecidableEq, Repr

/-- Who asked for an edit: a stream and its RES register, or the map unit itself. -/
inductive Editor where
  | stream (cell stream res : Nat)
  | unit
  deriving DecidableEq, Repr

/-- The edits of R223 to R225. -/
inductive EditOp where
  | set (val : Nat)     -- the 128 bits of VAL
  | cow
  | free
  deriving DecidableEq, Repr

/-- An edit that waits at the epoch keeper: for its entry to leave COPYING or for a frame. -/
structure Edit where
  key : Nat
  op : EditOp
  by_ : Editor
  no : Nat := 0      -- the model's own number of the edit
  deriving DecidableEq, Repr

/-- A copy-on-write whose page copy runs (R224): index, old place, new frame. -/
structure CowJob where
  key : Nat
  oldTier : Nat
  oldModule : Nat
  oldFrame : Nat
  new : FrameId
  by_ : Editor
  prevGen : Nat
  no : Nat := 0      -- the number of its edit
  deriving DecidableEq, Repr

/-- A walk that waits on an entry (R218, R235): the stream's walk, its list and mask references
(the words of the A registers), first index, count and the next entry to serve. -/
structure Walk where
  cell : Nat
  stream : Nat
  tag : Nat
  list : Nat
  mask : Nat
  key : Nat
  n : Nat
  i : Nat
  ip : Nat := 0      -- the index of its word (R173)
  ahead : List (Nat × Nat) := []   -- run-ahead copies: index and entry as read (R220)
  deriving DecidableEq, Repr

/-- A relocation of MAP_COMPACT (R239): index, recorded GEN, epoch of the COPYING write. -/
structure Reloc where
  key : Nat
  gen : Nat
  epoch : Nat
  old : FrameId
  no : Nat := 0      -- the number of its edit
  deriving DecidableEq, Repr

/-- What a fence waits for (R230): the pins, and the edits by number, that were there before it. -/
structure FenceSnap where
  pins : List Pin
  edits : List Nat
  deriving DecidableEq, Repr

/-- The map unit and the epoch keeper (R212 to R240).
DESIGN CHOICE: notes/assumptions/41.md. -/
structure PMap where
  base : Nat := 0                  -- PMAP_BASE.BASE as an HBM offset
  page : Nat := 0                  -- PMAP_BASE.PAGE
  entries : Nat := 0x1000000       -- PMAP_ENTRIES
  epoch : Nat := 0
  pins : List Pin := []
  freeHbm : List Nat := []         -- frame numbers, head first (R226)
  freeDeep : List Nat := []
  limbo : List (FrameId × Nat) := []   -- frame and the epoch it is tagged with
  gone : List FrameId := []        -- retired frames (R226)
  last : Table Nat := []           -- LAST[s] + 1; 0 for none yet (R233)
  log : List (Nat × Nat) := []     -- step log, oldest first: index and state before (R237)
  pend : List Nat := []            -- pending recomputations whose request is pushed (R235)
  pendWait : List Nat := []        -- pending recomputations whose request waits for room in the ring
  walks : List Walk := []
  edits : List Edit := []
  cows : List CowJob := []
  pinNo : Nat := 0
  editNo : Nat := 0                -- edits that have reached the epoch keeper
  fenceStreams : List (Nat × Nat × FenceSnap) := []   -- blocked fences and what they wait for
  fenceHost : Option FenceSnap := none
  satSeen : List Nat := []         -- frame table indices whose saturation was reported (R227)
  compact : Option (Nat × Nat × Nat) := none         -- tier and range of offsets of MAP_COMPACT
  relocs : List Reloc := []
  moved : List (FrameId × FrameId) := []             -- shared frames moved in the running compaction
  victimEmpty : Bool := false
  reclaimRaised : Bool := false
  deriving DecidableEq, Repr

/-- One channel of the circulator (R191 to R203); key: channel. Hops are numbered as the receiver
numbers them, the return hop R. -/
structure Channel where
  isOpen : Bool := false
  finished : Bool := false         -- it ran to its end in the attempt
  hop : Nat := 0                   -- hop in progress
  own : List (Option (Nat × Nat)) := []  -- pages of the own shard walked so far: address and FILL
  ahead : List (Nat × Nat) := []   -- run-ahead copies of entries of the own shard (R220)
  fillBase : Nat := 0              -- where the free FILLs of other members' pages start (R185)
  expired : List (Nat × Nat) := [] -- hop and peer of the waits whose Canary has expired (R206)
  sendHop : Nat := 0               -- hop whose shard is being sent
  sent : List Nat := []            -- units of it handed to the ports
  credit : List Nat := []          -- hops for which the successor has granted its buffer
  creditNext : List Nat := []      -- grants that came for the channel's next run
  granted : List Nat := []         -- hops for which this member has granted its buffer
  unitBytes : Table Nat := []      -- bytes landed, by hop × 65,536 + unit
  holes : List (Nat × Nat) := []   -- hop and OFFSET of frames that came without data
  delivered : Table Nat := []      -- blocks delivered, by feed entry
  popped : Table Nat := []         -- RELEASE tokens popped, by feed entry × 2^32 + block
  cellAt : Table Nat := []         -- block of a cell's last token + 1, by feed entry × 1,024 + cell
  gradDone : List Nat := []        -- hops whose GRAD_DONE was popped
  gradHops : List Nat := []        -- hops whose gradient area has landed and was signalled
  deriving DecidableEq, Repr

/-- The circulator (R195 to R210). -/
structure Circ where
  chans : Table Channel := []
  presence : Table (List Bool) := []   -- pages present in a FORWARD channel, by GROUP × 2^32 + LAYER (R196)
  last : Nat := 0                  -- CIRC_STATUS.LAST
  deriving DecidableEq, Repr

end Sys2Proof.Machine
end

