-- ==== Sys2Proof/Machine/Parts/Mem.lean ====
section
/-!
DEFINITION. The state of the memory controllers, the arbiters and the lend region
(13_memory_system), and of the intake (14_intake).
-/
namespace Sys2Proof.Machine

/-- A request at a memory controller (R375): requester number (R385), place in the stack, kind. -/
structure MemReq where
  requester : Nat
  off : Nat          -- byte offset within the stack
  len : Nat
  write : Bool
  fill : Bool        -- a near-cache fill (R382)
  attempt : Bool     -- it belongs to an attempt (R370)
  deriving DecidableEq, Repr

/-- One memory controller; key: HBM stack 0–15, 16 + deep stack (R366 to R381, R393). -/
structure Mc where
  trained : Bool := false
  used : Table Nat := []            -- spare rows used, by channel × 64 + bank (flash)
  openRows : Table Nat := []        -- row + 1 open in each bank, by channel × 64 + bank
  pool : List MemReq := []          -- admitted, oldest first
  waiting : List MemReq := []       -- not admitted, oldest first
  issued : List MemReq := []        -- at the DRAM
  repairQ : List Nat := []          -- offsets of rows queued for repair
  repairing : Option Nat := none
  scrubPass : Bool := false
  chanReset : Bool := false
  errKind : Nat := 0
  errOff : Nat := 0
  scrubPos : Nat := 0
  quotaRaised : Bool := false
  deriving DecidableEq, Repr

/-- Tallies of one requester of an arbiter (R386, R394). -/
structure Tally where
  grants : Nat := 0
  wait : Nat := 0
  longest : Nat := 0
  grantsOvf : Bool := false
  waitOvf : Bool := false
  longestOvf : Bool := false
  deriving DecidableEq, Repr

/-- One arbiter; key: site code × 8,192 + arbiter (R383 to R387). -/
structure Arb where
  credits : Table Int := []
  holder : Option Nat := none       -- requester whose transfer is in progress
  isolated : List Nat := []
  tallies : Table Tally := []
  deriving DecidableEq, Repr

/-- The tally window of one die; key: site code (R394). -/
structure ArbWin where
  sel : Nat := 0
  isoValid : Bool := false
  isoArb : Nat := 0
  isoReq : Nat := 0
  deriving DecidableEq, Repr

/-- The lend region (R388 to R395). -/
structure Lend where
  on : Bool := false
  base : Nat := 0
  size : Nat := 0
  zeroing : Bool := false
  newBase : Nat := 0
  newSize : Nat := 0
  cmd : Option CmdRef := none
  deriving DecidableEq, Repr

/-- A pending feed (R405): the list's host address, its entries, and how many records of it have
been taken and how many taken or rejected for good. -/
structure Feed where
  cmd : CmdRef
  addr : Nat
  count : Nat
  taken : Nat := 0
  settled : Nat := 0
  deriving DecidableEq, Repr

/-- What the intake does for the slot under construction. A source is 0 MAIN, 1 RESERVE or 2 LOOPBACK; pos
is the record's queue position, or the ring index of a loop-back entry. -/
inductive SlotWork where
  | idle
  /-- The list entry of a record, or the record, is being read from the host (R405): its length, the
  bytes that have landed, how many, and whether a part failed. -/
  | reading (list : Bool) (source pos len : Nat) (got : List (Nat × BitVec 8)) (count : Nat) (bad : Bool)
  /-- An entropy decoder works on the record (R408): its identifier, TYPE and DECLARED_SIZE. -/
  | decoding (source pos id typ declared : Nat)
  /-- Decoded data passes through the slot's staging window (R404). -/
  | filling (source pos id : Nat) (data : List Byte)
  deriving DecidableEq, Repr

/-- The intake (R402 to R417). -/
structure Intake where
  main : List Feed := []
  reserve : List Feed := []
  curMain : Nat := 0
  curRes : Nat := 0
  share : Nat := 0x100
  busy : Nat := 0
  busyHist : List Nat := []         -- busy fractions of the last batches, FP32 patterns, latest first
  batch : Nat := 0                  -- batch under construction
  slot : Nat := 0
  work : SlotWork := .idle
  freed : Nat := 0                  -- bytes of the record freed from the slot's staging window
  firstId : Option Nat := none      -- SAMPLE_ID of the slot's first record
  firstPos : Nat := 0
  cause : Nat := 0                  -- cause of the slot's first rejection
  tries : Nat := 0
  needRes : Bool := false           -- the slot takes its next record from the reserve
  built : Bool := false             -- the batch is complete and not yet handed out
  owed : Bool := false              -- the running attempt has not been given its batch
  consumed : Option Nat := none     -- batch consumed by the running attempt
  starved : Bool := false
  resEmpty : Bool := false
  resRaised : Bool := false
  manifest : List (List Byte) := [] -- entries that wait for room in MANIFEST_RING (R414)
  deriving DecidableEq, Repr

end Sys2Proof.Machine
end

