-- ==== Sys2Proof/Machine/Parts/Sys.lean ====
section
/-!
DEFINITION. The state of fault counting and ageing (19_reliability_ageing), of the Headframe
(20_security), of power, clocks and reset (21_power_clocks_reset), and of the pins, the sideband and
JTAG (23_physical).
-/
namespace Sys2Proof.Machine

/-- A fault site (R490, *Site locator*): kind 0 HBM row, 1 deep row, 2 SRAM bank, 3 cell, 4 link lane,
and the bytes 20, 21, 22 and 24–27 of its locator. -/
structure Site where
  kind : Nat
  b20 : Nat
  b21 : Nat := 0
  b22 : Nat := 0
  row : Nat := 0
  deriving DecidableEq, Repr

/-- An open window of the fault ledger (R490, R494). -/
structure Window where
  site : Site
  opened : Nat
  count : Nat
  deriving DecidableEq, Repr

/-- A row that no spare repairs, as the health report lists it (R498, R508). -/
structure BadRow where
  stack : Nat
  chan : Nat
  bank : Nat
  kind : Nat
  row : Nat
  deriving DecidableEq, Repr

/-- An entry of the fault history in flash (R495, R538, R549). -/
inductive History where
  | lasting (site : Site)
  | retired (site : Site) (action : Nat)
  | rail (n : Nat)
  | trip (die temp rtc : Nat)
  deriving DecidableEq, Repr

/-- Fault counting, sparing and ageing (R490 to R509).
DESIGN CHOICE: notes/assumptions/3.md. -/
structure Faults where
  ledger : List Window := []         -- earliest opened first
  elapsed : Nat := 0                 -- FLT_ELAPSED
  lasting : List Site := []          -- sites whose fault is lasting (flash)
  retired : List Site := []          -- sites whose retirement has taken effect (flash)
  history : List History := []       -- flash
  retiredCells : List Nat := []      -- physical cell keys d × 128 + c (flash)
  pendingCells : List Nat := []      -- cells with a lasting fault, not yet retired
  stoppedCells : List Nat := []      -- cells halted by an uncorrectable fault (R499)
  badRows : List BadRow := []        -- unrepaired rows, in the order they became so (flash)
  widths : Table Nat := []           -- lanes lost: bit set 1 or 2 of the halves, by link number (flash)
  packWidth : Table Nat := []        -- width byte of package links, 8 less its value
  offsets : Table Int := []          -- margin plan: applied offset in mV by die number 0–19 (flash)
  required : Table Int := []         -- margin plan: required offset in mV
  rated : Nat := 1600                -- rated clock stored in the margin plan
  current : Nat := 1400              -- SYS_RATED_CLOCK.CURRENT
  reportSeq : Nat := 0
  damaged : Bool := false
  marginShort : Bool := false
  shortDies : List Nat := []         -- dies by number 0–19 that need more than +80 mV (R507)
  laneFails : Table Nat := []        -- successive trainings a lane failed, by link × 64 + lane
  deriving DecidableEq, Repr

/-- An ATTEST command that the Headframe holds (R523). -/
structure AttestJob where
  cmd : CmdRef
  nonce : List Byte
  addr : Nat
  len : Nat
  deriving DecidableEq, Repr

/-- What the Headframe does with a fresh leaf. -/
inductive HfWait where
  /-- An alias is being generated, then certified (R520). -/
  | alias_
  /-- A reservation record is being written before the alias certificate is signed (R518). -/
  | reserve
  deriving DecidableEq, Repr

/-- A firmware slot of the flash: header bytes 0–511 of the image that FW_STAGE wrote there (R513); empty for
the image of manufacture. -/
structure FwSlot where
  header : List Byte := []
  deriving DecidableEq, Repr

/-- The Headframe (R510 to R528).
DESIGN CHOICE: notes/assumptions/3.md. -/
structure Headframe where
  svnFused : Nat := 0                -- fuse SVN
  revoked : Nat := 0                 -- fuse REVOKE
  bootCount : Nat := 0
  leaf : Nat := 0                    -- HF_DIK_LEAF
  limit : Nat := 0                   -- HF_DIK_LIMIT
  recorded : Nat := 0                -- highest valid reserved limit in flash (R518)
  aliasLeaf : Nat := 0
  aliasSvn : Nat := 0                -- fields of the alias certificate
  aliasSerial : Nat := 0             -- DIK leaf that certified the alias
  aliasNo : Nat := 0                 -- counts alias keys, whose seeds are drawn afresh
  wait : Option HfWait := none
  dikExhausted : Bool := false
  aliasExhausted : Bool := false
  keyLowSeen : Bool := false         -- EV_KEY_LOW was raised since the last COLD start
  exhaustedSeen : Bool := false      -- EV_KEY_EXHAUSTED was raised in this boot
  fwPending : Bool := false
  bootRecord : Bool := false         -- the slot the boot record names: false A, true B (flash)
  slotA : FwSlot := {}
  slotB : FwSlot := {}
  fwSlot : Bool := false             -- HF_STATUS.FW_SLOT
  rootSlot : Nat := 0
  fallback : Bool := false
  bootFail : Bool := false
  bootOk : Bool := false
  header : List Byte := []           -- header bytes 0–511 of the booted image
  fwMeas : List Byte := []
  planKey : List Byte := []          -- 32 bytes once written; missing bytes are zero
  planKeyLock : Bool := false
  enrolled : Bool := false
  jobs : List AttestJob := []        -- in the order taken; the head is being served
  signing : Bool := false            -- the report of the head is being signed
  report : List Byte := []           -- bytes 0–639 of that report (R523)
  deriving DecidableEq, Repr

/-- Why the rails are down (R532, R538, R547). -/
inductive Standby where
  /-- The module may start under R532. -/
  | normal
  /-- It starts only when PWR_EN has been low and is asserted again (R538, R547). -/
  | needEn
  deriving DecidableEq, Repr

/-- Resets under way (R542 to R546). -/
inductive ResetSt where
  | none
  | cold
  | warm
  /-- RESET_N is held low (R543). -/
  | warmHeld
  | hot
  deriving DecidableEq, Repr

/-- Power, clocks and reset (R529 to R550), SYS_STATE and the supply pins.
DESIGN CHOICE: notes/assumptions/2.md. -/
structure Power where
  state : Nat := 2                   -- SYS_STATE.STATE
  previous : Nat := 1                -- SYS_STATE.PREVIOUS
  reset : ResetSt := .cold
  standby : Standby := .normal
  pwrEn : Bool := true
  lowAt : Option Nat := none         -- LAMP_TICK when PWR_EN was last deasserted
  stable : Bool := true              -- the input has stayed between 50 V and 60 V for 100 ms
  pwrGood : Bool := false
  resetN : Bool := true
  thermtrip : Bool := false          -- THERMTRIP_N is asserted
  inputOk : Bool := true             -- the input is present
  cap : Nat := 4800
  fCap : Nat := 64                   -- cap fraction
  fDie : Table Nat := []             -- 64 − thermal fraction, by die number 0–19
  fCur : Table Nat := []             -- 64 − fraction of R535, by Spire die 0–7
  curLimit : Bool := false
  capped : Bool := false             -- power mode at the last step boundary
  tripSeen : Bool := false
  brownSeen : Bool := false
  ovWarn : Bool := false
  uvWarn : Bool := false
  tripRec : Option (Nat × Nat × Nat) := none   -- die site code, temperature, LAMP_RTC of a trip (R538)
  tripArmed : Bool := false          -- the start after that trip has begun
  input : Nat := 0                   -- PWR_INPUT
  temp : Nat := 0                    -- PWR_TEMP
  junction : Table Nat := []         -- hottest sensor of each die, 16 bits, by die number
  meanAtt : Option Nat := none       -- mean input power of the last attempt that ended, W
  energyAtt : Nat := 0               -- PWR_ENERGY when the running attempt began
  tickAtt : Nat := 0                 -- LAMP_TICK when it began
  throttled : List Nat := []         -- dies whose first fall of the attempt was reported (R537)
  throttleAt : Option Nat := none    -- LAMP_TICK of the last EV_THROTTLE outside attempts
  railFault : Bool := false          -- FAULT after a rail failure
  surveyed : Bool := false           -- the margin survey of the present COLD start has run
  deriving DecidableEq, Repr

/-- The sideband, JTAG and their outputs (R564 to R571). -/
structure Sideband where
  strap : Nat := 0                   -- SB_ADDR as read on entering STANDBY
  dynamic : Option Nat := none       -- dynamic I3C address
  regAddr : Nat := 0                 -- MFR_REG_ADDR
  refused : Bool := false            -- STATUS_WORD bit 8
  answer : Option Nat := none        -- data of the last read answered; none after a NACK
  jtagOut : List Bool := []          -- bits shifted out on TDO by the last operation
  boundary : List Bool := []         -- boundary-scan values last updated
  deriving DecidableEq, Repr

end Sys2Proof.Machine
end

