-- ==== Sys2Proof/Machine/Parts/Train.lean ====
section
/-!
DEFINITION. The state of the stash and gather engines (08_backward_and_stash), of the update engines
(09_stope_update), of the step controller, the set master and the checkpoint engine
(10_steps_and_spares), and of plan staging and swapping (04_plan_image).
-/
namespace Sys2Proof.Machine

/-- What the allocator holds for one stash entry (R255, R261, R262); key: entry. -/
structure StashEnt where
  frames : List FrameId := []      -- frames of its pages, empty before its first SAVE
  stored : List Nat := []          -- groups of 128 tokens saved in the step
  refused : Bool := false
  lost : Bool := false
  deriving DecidableEq, Repr

/-- The stash controllers and the stash allocator (R254 to R266). -/
structure Stash where
  ents : Table StashEnt := []
  freeHbm : List Nat := []         -- STASH frames of each tier
  freeDeep : List Nat := []
  gone : List FrameId := []        -- retired frames (R263)
  full : Bool := false
  fullLayer : Nat := 0xFFFF
  lastFull : Nat := 0xFFFF
  deriving DecidableEq, Repr

/-- A gather that a Gallery die serves (R268, R269); phase 0 waits to read the header, 1 copies the
body, 2 reads the header again. -/
structure GatherJob where
  pass : Nat
  sem : Nat
  cell : Nat
  entry : Nat
  phase : Nat := 0
  tag : Nat := 0
  deriving DecidableEq, Repr

/-- One gather engine; key: Gallery die (R268 to R271). -/
structure GatherEng where
  job : Option GatherJob := none
  lastLayer : Nat := 0
  fault : Bool := false
  deriving DecidableEq, Repr

/-- The gather engines and their records: tag + 1 by gather entry (R268, R269). -/
structure Gather where
  engs : Table GatherEng := []
  records : Table Nat := []
  deriving DecidableEq, Repr

/-- A descriptor whose element writes are under way (R282): descriptor and RMS of its pass. -/
structure HeaderJob where
  desc : Nat
  rms : Nat
  deriving DecidableEq, Repr

/-- One update engine; key: Stope die (R282 to R287). -/
structure StopeEng where
  headers : List HeaderJob := []   -- headers still to be written, in descriptor order
  signal : Option (Nat × Nat) := none   -- (logical cell, SEM) of the request in progress
  terms : List (Nat × Nat) := []   -- descriptor and FP32 term of the partial sum of squares, in descriptor order (R280)
  publishing : List Nat := []      -- descriptors whose publication runs, in order
  pubSignal : Option (Nat × Nat) := none
  refused : Bool := false
  last : Nat := 0
  deriving DecidableEq, Repr

/-- The update engines together. -/
structure Update where
  engs : Table StopeEng := []
  params : Table Lane := []        -- Update parameters 0 to 7
  written : List Nat := []         -- descriptors whose header was written in this attempt (R284)
  sum : Option Nat := none         -- the set-wide sum of squares, held to commit (R280)
  sumAsked : Bool := false
  pubFlags : Table Nat := []       -- flags of R77 that the last publication of a descriptor gave (R285, R286)
  deriving DecidableEq, Repr

/-- STEP_STATUS.PHASE (R311). -/
inductive StepPhase where
  | idle | running | readySent | committing | aborting | restoring
  deriving DecidableEq, Repr

/-- The decision of a master for an attempt (R295). -/
inductive Decision where
  | commit
  | abort (code : Nat)
  deriving DecidableEq, Repr

/-- The set master's side of an attempt (R289 to R301), also used by an acting master. -/
structure Master where
  active : Bool := false
  cmd : Option CmdRef := none
  step : Nat := 0
  attempt : Nat := 0
  ready : List Nat := []           -- set indices whose READY has arrived
  waits : Table Nat := []          -- wait figures by set index (R360)
  decision : Option Decision := none
  backupAcked : Bool := false
  commitSent : Bool := false       -- COMMIT has gone to every worker
  acked : List Nat := []           -- workers that acknowledged COMMIT
  waitArmed : Bool := false        -- the commit-wait Canary runs
  probed : List Nat := []          -- members probed and not yet acknowledged
  probing : Bool := false
  lost : List Nat := []
  deriving DecidableEq, Repr

/-- The step controller of a member (R288 to R302, R311). -/
structure Step where
  committed : Nat := 0
  epoch : Nat := 0                 -- STEP_LAYOUT_EPOCH
  attempt : Nat := 0
  step : Nat := 0                  -- step of the running or last attempt
  lastCode : Nat := 0
  phase : StepPhase := .idle
  acting : Bool := false           -- this member is acting master (R301)
  nonfin : Bool := false           -- EV_NONFINITE_FIRST was raised in this attempt
  failed : Bool := false           -- FAIL was sent in this attempt
  live : Bool := false             -- the attempt named by step and attempt has not ended here
  attempts : Table Nat := []       -- STEP_RUNs accepted so far, by step (R289)
  commitHeld : Bool := false       -- COMMIT of the attempt has reached this member
  boundary : Nat := 0              -- counts step boundaries passed
  aborts : List CmdRef := []       -- STEP_ABORT_REQ that wait for the ABORT (R298)
  lostHalt : Bool := false         -- STEP_RUN answers MEMBER_LOST until a swap (R300)
  waited : Nat := 0                -- cycles of GAL that the wait counters have counted in the attempt (R360)
  master : Master := {}
  scaleAsked : List Nat := []      -- regions whose GLOBAL maximum was asked for (R103)
  scaleDone : Table Nat := []      -- group maximum + 1 by region
  deriving DecidableEq, Repr

/-- CKPT_STATUS.STATE (R311). -/
inductive CkptSt where
  | idle | writing | mirroring | exporting | restoring | receiving
  deriving DecidableEq, Repr

/-- The checkpoint engine (R303 to R306). -/
structure Ckpt where
  st : CkptSt := .idle
  lastCode : Nat := 0
  target : Bool := false
  cmd : Option CmdRef := none
  mirror : Bool := false
  export_ : Bool := false
  hostAddr : Nat := 0
  hostLen : Nat := 0
  step : Nat := 0
  source : Nat := 0
  header : List Byte := []         -- header of the slot being written
  buf : Memory := []               -- the slot that a restore reads from its buddy or the host
  got : Nat := 0                   -- bytes of it that have landed
  want : Nat := 0                  -- bytes of it that are asked for
  again : List Nat := []           -- its units that failed their CRC once
  units : List Nat := []           -- units of it that came from the buddy and passed
  publishing : Bool := false       -- the restored state is in place and is being published
  mirrorHeader : List Byte := []   -- header of the mirror being received, empty for none
  mirrorUnits : List Nat := []     -- units of it that have passed their CRC
  mirrorTarget : Bool := false
  deriving DecidableEq, Repr

/-- PLAN_STATUS.STAGED (R142). -/
inductive StageSt where
  | empty | staging | staged | refused
  deriving DecidableEq, Repr

/-- PLAN_STATUS.SWAP (R142). -/
inductive SwapSt where
  | idle | boundary | waitGo | loading
  deriving DecidableEq, Repr

/-- Plan staging and swapping (R133 to R143). The images lie in the plan store; slot names the half
that holds the active image, the other half is the staged slot. -/
structure PlanCtl where
  active : Bool := false
  slot : Bool := false
  staged : StageSt := .empty
  swap : SwapSt := .idle
  reshard : Bool := false
  lastCode : Nat := 0
  faultSection : Nat := 0
  faultOffset : Nat := 0
  stageCmd : Option CmdRef := none
  stageLen : Nat := 0
  stageGot : Nat := 0
  swapCmd : Option CmdRef := none
  ready : Table Nat := []          -- master of the staged plan: SWAP_READY check codes + 1 by set index
  digests : List Nat := []         -- set indices whose SET_DIGEST agreed
  firstFail : Option Nat := none   -- the first failing member's code (R139)
  permuting : Bool := false
  permLeft : List Nat := []        -- permute entries whose transfer has not landed
  permWait : List Nat := []        -- permute entries still to be issued
  barrier : Nat := 0               -- permute barriers passed
  phases : List Nat := []          -- phases that run (R128)
  peerBad : Bool := false          -- a quad port's first frame named another peer (R15)
  tables : Memory := []            -- the configuration tables as the swap read them
  deriving DecidableEq, Repr

end Sys2Proof.Machine
end

