-- ==== Sys2Proof/Machine/State.lean ====
section
/-!
DEFINITION. The whole state of one CX-8 module, the reasons a step can stop, and the state after
reset: the moment a COLD start begins (SYS_STATE is BOOT and was STANDBY, the reset value 0x102 of
R557), with the input present, PWR_EN asserted and every rail but standby down.
-/
namespace Sys2Proof.Machine

/-- What the module puts on the host link beside the messages it holds for replay. -/
inductive HostOut where
  /-- A DATA flit sent for the first time. -/
  | data (fseq : Nat)
  /-- A held flit sent again (R435). -/
  | resend (fseq : Nat)
  /-- A NAK that carries an ACK (R435). -/
  | nak (ack : Nat)
  /-- An IDLE flit that returns credit (R437): ACK, channel, slots. -/
  | idle (ack vc slots : Nat)
  deriving DecidableEq, Repr

/-- The state of the module.
DESIGN CHOICE: notes/assumptions/145.md.
DESIGN CHOICE: notes/assumptions/146.md. -/
structure State where
  /-- Commands that wait, first in, first out. -/
  pending : List Instr := []
  hbm : Memory := []
  deep : Memory := []
  /-- 64-byte granules that read as an uncorrectable error until they are written (R370): tier 0 or
  1 and granule number. -/
  bad : List (Nat × Nat) := []
  cells : Table Cell := []
  rings : Table Ring := []
  sigs : List Sig := []
  pushes : List PushFlight := []
  plan : PlanCtl := {}
  pmap : PMap := {}
  circ : Circ := {}
  stash : Stash := {}
  gather : Gather := {}
  update : Update := {}
  steps : Step := {}
  ckpt : Ckpt := {}
  ports : Table Port := []
  sends : Table SendCtx := []
  recvs : Table RecvCtx := []
  xfers : Table (Option RemoteXfer) := []
  nextXfer : Nat := 0
  bell : Bell := {}
  colls : Table Coll := []
  collEngs : Table CollEng := []
  mcs : Table Mc := []
  arbs : Table Arb := []
  arbWins : Table ArbWin := []
  lend : Lend := {}
  intake : Intake := {}
  gen : Gen := {}
  bxl : Bxl := {}
  bells : Table Doorbell := []
  modes : Modes := {}
  obs : Obs := {}
  lamp : Lamp := {}
  faults : Faults := {}
  hf : Headframe := {}
  pwr : Power := {}
  side : Sideband := {}
  /-- Counters by the BAR0 offset of their register (R471). -/
  ctr : Table Nat := []
  /-- Overflow registers by BAR0 offset (R472), CTR_OVF_SUMMARY among them (R475). -/
  ovf : Table Nat := []
  /-- Everything the fabric ports have sent, in order (the model's own record). -/
  wire : List Wire := []
  /-- Everything the host link has sent, in order (the model's own record). -/
  hostOut : List HostOut := []
  /-- The model's own counter of free values: each use reads it and advances it. -/
  free : Nat := 0
  deriving DecidableEq, Repr

/-- Why a command stops the model. -/
inductive Fault where
  /-- Raised by a physical event or an internal event whose operand names a unit that the module does
  not have (a die, port, controller, arbiter or cell number out of range), and by a frame command whose frame
  is of another command's class or type. Safe: no such event can happen, and a run that meets one claims
  nothing. DESIGN CHOICE: notes/assumptions/144.md. -/
  | noSuchUnit
  /-- Raised by a stream instruction whose word has a reserved class, operation or field: such a word
  fails to decode and R118 refuses every plan that holds it, so no stream can issue it. Safe. -/
  | undecodable
  deriving DecidableEq, Repr

/-- Why the model gives a command no meaning. -/
inductive Refusal where
  /-- The command of this mnemonic has no meaning yet. Raised by Dispatch alone. Safe: a run that
  meets one claims nothing. -/
  | notModelled (mnemonic : String)
  deriving DecidableEq, Repr

/-- The module right after reset.
DESIGN CHOICE: notes/assumptions/2.md. -/
def State.reset : State := {}

end Sys2Proof.Machine
end

