-- ==== Sys2Proof/Machine/Obs.lean ====
section
/-!
DEFINITION. Named operations that every family shares: the places of the management blocks,
saturating counters (R471 to R475), the messages and reads of the host link (R433 to R438), events
and the event ring (R477 to R484), completions (R445) and interrupts (R451).
-/
namespace Sys2Proof.Machine

/-- The base of the OBS block (R551). -/
def obsBase : Nat := 0x400000
/-- The base of the PMAP block (R551). -/
def pmapBase : Nat := 0x800000
/-- The base of the INTAKE block (R551). -/
def intakeBase : Nat := 0xC00000
/-- The base of the HF block (R551). -/
def hfBase : Nat := 0x100000
/-- The base of the LAMP block (R551). -/
def lampBase : Nat := 0x200000
/-- The base of the BXL block (R551). -/
def bxlBase : Nat := 0x300000
/-- The base of the window of Gallery die g (R551). -/
def galBase (g : Nat) : Nat := 0x1000000 + g * 0x400000
/-- The base of the window of Stope die s (R551). -/
def stopeBase (s : Nat) : Nat := 0x2000000 + s * 0x200000
/-- The base of the window of Spire die d (R551). -/
def spireBase (d : Nat) : Nat := 0x3000000 + d * 0x200000
/-- The base of the window of the cell of key d × 128 + c (R551). -/
def cellBase (cell : Nat) : Nat := spireBase (cell / 128) + 0x10000 + cell % 128 * 0x1000
/-- The base of the window of port p of Gallery die g, key 2 g + p (R337). -/
def portBase (port : Nat) : Nat := galBase (port / 2) + 0x10000 + port % 2 * 0x1000
/-- The base of the window of a memory controller: 0 to 15 HBM stacks, 16 to 31 deep stacks (R393). -/
def mcBase (ctl : Nat) : Nat :=
  (if ctl < 16 then spireBase (ctl / 2) else stopeBase ((ctl - 16) / 2)) + 0x8000 + ctl % 2 * 0x400

/-- An event source: block class and instance (R478). -/
def source (cls inst : Nat) : Nat := cls * 4096 + inst

/-- Where a counter's overflow bit lies, its group, and the source of its event. -/
structure CtrInfo where
  reg : Nat
  bit : Nat
  group : Nat
  src : Nat
  deriving DecidableEq, Repr

/-- The overflow bit of a counter in the window of a Spire die (R393, R65). -/
def ctrInfoSpire (d o : Nat) : Option CtrInfo :=
  if 0x8000 ≤ o ∧ o < 0x8800 then
    let b := spireBase d + 0x8000 + (o - 0x8000) / 0x400 * 0x400
    let src := source 7 (2 * d + (o - 0x8000) / 0x400)
    match o % 0x400 with
    | 0x08 => some ⟨b + 0x40, 0, d, src⟩
    | 0x10 => some ⟨b + 0x40, 1, d, src⟩
    | 0x18 => some ⟨b + 0x40, 2, d, src⟩
    | 0x28 => some ⟨b + 0x40, 3, d, src⟩
    | 0x30 => some ⟨b + 0x40, 4, d, src⟩
    | _ => none
  else if 0x10000 ≤ o ∧ 0x100 ≤ o % 0x1000 ∧ o % 0x1000 < 0x160 then
    let c := (o - 0x10000) / 0x1000
    some ⟨spireBase d + 0x10000 + c * 0x1000 + 0x20, (o % 0x1000 - 0x100) / 8, d, source 1 (d * 128 + c)⟩
  else none

/-- The overflow bit of a counter in the window of a Stope die (R287, R393). -/
def ctrInfoStope (s o : Nat) : Option CtrInfo :=
  if 0x8000 ≤ o ∧ o < 0x8800 then
    let b := stopeBase s + 0x8000 + (o - 0x8000) / 0x400 * 0x400
    let src := source 8 (2 * s + (o - 0x8000) / 0x400)
    match o % 0x400 with
    | 0x08 => some ⟨b + 0x40, 0, 8 + s, src⟩
    | 0x10 => some ⟨b + 0x40, 1, 8 + s, src⟩
    | 0x18 => some ⟨b + 0x40, 2, 8 + s, src⟩
    | 0x28 => some ⟨b + 0x40, 3, 8 + s, src⟩
    | 0x30 => some ⟨b + 0x40, 4, 8 + s, src⟩
    | _ => none
  else if 0x10008 ≤ o ∧ o ≤ 0x10018 then
    some ⟨stopeBase s + 0x10020, (o - 0x10008) / 8, 8 + s, source 2 s⟩
  else if 0x10100 ≤ o ∧ o < 0x10160 then
    some ⟨stopeBase s + 0x10028, (o - 0x10100) / 8, 8 + s, source 2 s⟩
  else none

/-- The overflow bit of a counter in the window of a Gallery die (R211, R271, R337, R365, R476). -/
def ctrInfoGal (g o : Nat) : Option CtrInfo :=
  let src := source 3 g
  if 0x10000 ≤ o ∧ o < 0x12000 then
    if 0x100 ≤ o % 0x1000 ∧ o % 0x1000 < 0x170 then
      some ⟨galBase g + o / 0x1000 * 0x1000 + 0x28, (o % 0x1000 - 0x100) / 8, 16 + g, src⟩
    else none
  else if 0x20008 ≤ o ∧ o ≤ 0x20028 then some ⟨galBase g + 0x20030, (o - 0x20008) / 8, 16 + g, src⟩
  else if 0x30008 ≤ o ∧ o ≤ 0x30018 then some ⟨galBase g + 0x30020, (o - 0x30008) / 8, 16 + g, src⟩
  else if 0x40008 ≤ o ∧ o ≤ 0x40030 then some ⟨galBase g + 0x40038, (o - 0x40008) / 8, 16 + g, src⟩
  else if 0x50008 ≤ o ∧ o ≤ 0x50018 then some ⟨galBase g + 0x50020, (o - 0x50008) / 8, 16 + g, src⟩
  else if 0x70100 ≤ o ∧ o < 0x70160 then some ⟨galBase g + 0x70000, (o - 0x70100) / 8, 16 + g, src⟩
  else none

/-- The source of the counters of the map unit and of the stash, before its die is known (R478).
DESIGN CHOICE: notes/assumptions/10.md. -/
def mapSource : Nat := source 7 0x100

/-- The source of the events of the map unit and of the stash (R478): the Spire die that owns the
page-map stack keeps the epoch and carries out every edit (R218).
DESIGN CHOICE: notes/assumptions/10.md. -/
def mapSrc (s : State) : Nat := source 7 (0x100 + s.pmap.base / 2 ^ 37)

/-- The overflow bit of each saturating counter, by the BAR0 offset of the counter (R475). -/
def ctrInfo (off : Nat) : Option CtrInfo :=
  if 0x3000000 ≤ off then ctrInfoSpire ((off - 0x3000000) / 0x200000) ((off - 0x3000000) % 0x200000)
  else if 0x2000000 ≤ off then ctrInfoStope ((off - 0x2000000) / 0x200000) ((off - 0x2000000) % 0x200000)
  else if 0x1000000 ≤ off then ctrInfoGal ((off - 0x1000000) / 0x400000) ((off - 0x1000000) % 0x400000)
  else match off with
  | 0x000508 => some ⟨0x500, 32, 22, source 0 0⟩
  | 0x000608 => some ⟨0x618, 0, 22, source 0 0⟩
  | 0x000610 => some ⟨0x618, 1, 22, source 0 0⟩
  | 0x000710 => some ⟨0x720, 0, 22, source 0 0⟩
  | 0x000718 => some ⟨0x720, 1, 22, source 0 0⟩
  | 0x000820 => some ⟨0x828, 0, 22, source 0 0⟩
  | 0x300100 => some ⟨0x300050, 0, 23, source 9 0⟩
  | 0x300108 => some ⟨0x300050, 1, 23, source 9 0⟩
  | 0x300110 => some ⟨0x300050, 2, 23, source 9 0⟩
  | 0x300118 => some ⟨0x300050, 3, 23, source 9 0⟩
  | 0x300120 => some ⟨0x300050, 4, 23, source 9 0⟩
  | 0x300128 => some ⟨0x300050, 5, 23, source 9 0⟩
  | 0x300130 => some ⟨0x300050, 6, 23, source 9 0⟩
  | 0x400020 => some ⟨0x400028, 1, 24, source 3 0⟩
  | 0x800038 => some ⟨0x800058, 0, 20, mapSource⟩
  | 0x800040 => some ⟨0x800058, 1, 20, mapSource⟩
  | 0x800048 => some ⟨0x800058, 2, 20, mapSource⟩
  | 0x800050 => some ⟨0x800058, 3, 20, mapSource⟩
  | 0x800118 => some ⟨0x800128, 0, 20, mapSource⟩
  | 0x800120 => some ⟨0x800128, 1, 20, mapSource⟩
  | 0xC00020 => some ⟨0xC00038, 0, 21, source 4 0⟩
  | 0xC00028 => some ⟨0xC00038, 1, 21, source 4 0⟩
  | 0xC00030 => some ⟨0xC00038, 2, 21, source 4 0⟩
  | _ => none

/-- The largest value of a 64-bit counter. -/
def ctrMax : Nat := 0xFFFFFFFFFFFFFFFF

/-- Set one overflow bit; true when it went from 0 to 1, which also sets the summary bit of its group
(R475). -/
def setOvf (reg bit group : Nat) (s : State) : State × Bool :=
  let old := tget 0 s.ovf reg
  if bitAt old bit then (s, false)
  else
    let ovf := tset 0 s.ovf reg (old ||| 1 <<< bit)
    ({ s with ovf := tmod 0 ovf (obsBase + 0x100) (· ||| 1 <<< group) }, true)

/-- Add to a saturating counter without its event; true when its overflow bit went from 0 to 1.
DEDUCED: notes/assumptions/9.md. -/
def bumpCore (off n : Nat) (s : State) : State × Bool :=
  let v := tget 0 s.ctr off + n
  if n = 0 then (s, false)
  else if v < ctrMax then ({ s with ctr := tset 0 s.ctr off v }, false)
  else
    let s := { s with ctr := tset 0 s.ctr off ctrMax }
    match ctrInfo off with
    | some i => setOvf i.reg i.bit i.group s
    | none => (s, false)

/-- The virtual channel of a message type (R437, *Message types*). -/
def vcOf (typ : Nat) : Nat :=
  if typ = 0x11 ∨ typ = 0x12 ∨ typ = 0x21 then 1
  else if typ = 0x03 ∨ typ = 0x13 then 2
  else if typ = 0x31 ∨ typ = 0x32 then 3 else 0

/-- The buffer of a receiver, in slots, for each virtual channel (R437). -/
def vcBuffer (vc : Nat) : Nat :=
  if vc = 0 then 256 else if vc = 2 then 8192 else 2048

/-- The slots of a message: its header and its data (R437). -/
def msgSlots (m : HostMsg) : Nat := 1 + ceilDiv m.data.length 16

/-- The bytes of a message, in whole slots (R433, R438). -/
def msgBytes (m : HostMsg) : List Byte :=
  let h := toBytes 1 m.typ ++ toBytes 1 m.flags ++ toBytes 2 m.len ++ toBytes 2 m.tag ++
    toBytes 1 m.space ++ toBytes 1 m.opx ++ toBytes 8 m.addr
  h ++ sliceBytes m.data 0 (16 * ceilDiv m.data.length 16)

/-- Cut a list into n pieces of k bytes, the last filled with zeros. -/
def chunks (k : Nat) : Nat → List Byte → List (List Byte)
  | 0, _ => []
  | n + 1, l => sliceBytes l 0 k :: chunks k n (l.drop k)

/-- Put a message into DATA flits of its own, which the replay buffer holds (R433, R435).
DESIGN CHOICE: notes/assumptions/7.md. -/
def sendFlits (b : Bxl) (m : HostMsg) : Bxl × Nat :=
  let n := ceilDiv (msgSlots m) 15
  let bodies := chunks 240 n (msgBytes m)
  let flits := bodies.mapIdx fun i body => (⟨(b.nextSeq + i) % 4096, body⟩ : HeldFlit)
  ({ b with held := b.held ++ flits
            nextSeq := (b.nextSeq + n) % 4096
            credits := tmod 0 b.credits (vcOf m.typ) (· - msgSlots m) }, n)

/-- A message can start: the link is ACTIVE, there is credit for every slot of it (R437) and room for
its flits in the replay buffer (R435).
DESIGN CHOICE: notes/assumptions/7.md. -/
def canSend (b : Bxl) (m : HostMsg) : Bool :=
  b.st == .active && decide (msgSlots m ≤ tget 0 b.credits (vcOf m.typ)) &&
    decide (b.held.length + ceilDiv (msgSlots m) 15 ≤ 512)

/-- Send the waiting messages that can start, each channel in order; the result keeps the others. -/
def pumpMsgs : List HostMsg → List Nat → Bxl → List HostMsg → List Nat → Bxl × List HostMsg × List Nat
  | [], _, b, kept, sent => (b, kept, sent)
  | m :: ms, blocked, b, kept, sent =>
    if vcOf m.typ ∉ blocked ∧ canSend b m then
      let r := sendFlits b m
      pumpMsgs ms blocked r.1 kept (sent ++ (rangeFrom b.nextSeq r.2).map (· % 4096))
    else pumpMsgs ms (vcOf m.typ :: blocked) b (kept ++ [m]) sent

/-- Send what the link can take; returns the number of flits sent. -/
def pumpCore (s : State) : State × Nat :=
  let r := pumpMsgs s.bxl.txq [] s.bxl [] []
  ({ s with bxl := { r.1 with txq := r.2.1 }, hostOut := s.hostOut ++ r.2.2.map .data }, r.2.2.length)

/-- The 14 payload bytes 18 to 31 of an event from fields (offset in the record, width, value). -/
def eventPayload (fields : List (Nat × Nat × Nat)) : List Byte :=
  fields.foldl (fun p f => p.take (f.1 - 18) ++ toBytes f.2.1 f.2.2 ++ p.drop (f.1 - 18 + f.2.1))
    (List.replicate 14 0#8)

/-- The severity of an event code (R484). -/
def severity (code : Nat) : Nat :=
  if code = 0x0A07 then 3
  else if code ∈ [0x0103, 0x0202, 0x0401, 0x0501, 0x0502, 0x0602, 0x0604, 0x0605, 0x0902] then 2
  else if code ∈ [0x0101, 0x0102, 0x0105, 0x0302, 0x0303, 0x0402, 0x0601, 0x0A01, 0x0A05] then 0
  else 1

/-- The 32 bytes of an event record (R477). -/
def Event.bytes (e : Event) (lost : Bool) : List Byte :=
  toBytes 2 e.code ++ toBytes 1 e.sev ++ toBytes 1 (e.flags + if lost then 128 else 0) ++
    toBytes 4 e.seq ++ toBytes 8 e.tick ++ toBytes 2 e.src ++ e.payload

/-- The copy of LAMP_TICK of a source, when it raises its event of a number (R477, R480); the Lamp room, class 6, has
no crossing to itself.
DESIGN CHOICE: notes/assumptions/180.md. -/
def tickOf (s : State) (src seq : Nat) : Nat :=
  if src / 4096 = 6 then s.lamp.tick else s.lamp.tick - Config.tickLag src seq

/-- Queue an event under the number of its source, or drop it (R479, R482); true when dropped. -/
def raiseRaw (src code flags : Nat) (fields : List (Nat × Nat × Nat)) (s : State) : State × Bool :=
  let o := s.obs
  let seq := tget 0 o.seqs src
  let o := { o with seqs := tset 0 o.seqs src ((seq + 1) % 2 ^ 32) }
  let free := 4096 - o.queue.length
  if free = 0 ∨ (free < 64 ∧ severity code ≤ 1) then
    ({ s with obs := { o with lostMark := true } }, true)
  else
    ({ s with obs := { o with queue := o.queue ++
        [⟨code, severity code, flags, seq, tickOf s src seq, src, eventPayload fields⟩] } }, false)

/-- Raise EV_CTR_SATURATED for a counter; a drop of it counts in EVT_LOST once more. -/
def raiseSaturated (off : Nat) (s : State) : State :=
  match ctrInfo off with
  | none => s
  | some i =>
    let r := raiseRaw (if i.src = mapSource then mapSrc s else i.src) 0x0104 0 [(24, 4, off)] s
    if r.2 then (bumpCore (obsBase + 0x20) 1 r.1).1 else r.1

/-- Count a dropped event in EVT_LOST (R482). -/
def countLost (s : State) : State :=
  let r := bumpCore (obsBase + 0x20) 1 s
  if r.2 then raiseSaturated (obsBase + 0x20) r.1 else r.1

/-- Put an event in the queue of its module (R481, R482). -/
def raiseQ (src code flags : Nat) (fields : List (Nat × Nat × Nat)) (s : State) : State :=
  let r := raiseRaw src code flags fields s
  if r.2 then countLost r.1 else r.1

/-- Add to a saturating counter (R472).
DEDUCED: notes/assumptions/9.md. -/
def bump (off n : Nat) (s : State) : State :=
  let r := bumpCore off n s
  if r.2 then raiseSaturated off r.1 else r.1

/-- Let the link send what it can; each DATA flit sent counts in BXL_TX_FLITS. -/
def pumpLink (s : State) : State :=
  let r := pumpCore s
  bump (bxlBase + 0x100) r.2 r.1

/-- Send a message to the host (R438). -/
def sendMsg (m : HostMsg) (s : State) : State :=
  pumpLink { s with bxl := { s.bxl with txq := s.bxl.txq ++ [m] } }

/-- Write bytes to host memory (DWR); a transfer that crosses a 4 KiB host page is cut there.
DESIGN CHOICE: notes/assumptions/29.md. -/
def hostWrite (addr : Nat) (data : List Byte) (s : State) : State :=
  let first := min data.length (4096 - addr % 4096)
  let rest := data.drop first
  let n := ceilDiv rest.length 4096
  let parts := (addr, data.take first) ::
    (rangeFrom 0 n).map fun i => (addr + first + 4096 * i, (rest.drop (4096 * i)).take 4096)
  parts.foldl (fun s p => sendMsg { typ := 0x11, len := p.2.length, space := 2, addr := p.1, data := p.2 } s) s

/-- The lowest TAG of 0 to 1,023 that no read holds (R438). -/
def freeTag (b : Bxl) : Option Nat :=
  (rangeFrom 0 1024).find? fun t => decide (tget none b.reads t = none)

/-- Issue one waiting read of host memory under a free TAG. -/
def issueRead (s : State) : State :=
  match s.bxl.readQ, freeTag s.bxl with
  | r :: rest, some t =>
    sendMsg { typ := 0x12, len := r.len, tag := t, space := 2, addr := r.addr }
      { s with bxl := { s.bxl with readQ := rest, reads := tset none s.bxl.reads t (some r) } }
  | _, _ => s

/-- Read host memory (DRD): the read waits for a TAG and the link (R438). -/
def hostRead (what : ReadFor) (addr len : Nat) (s : State) : State :=
  issueRead { s with bxl := { s.bxl with readQ := s.bxl.readQ ++ [⟨what, addr, len⟩] } }

/-- Read a range of host memory, cut at its 4 KiB pages (R438); f names the part at an offset. -/
def hostReadRange (f : Nat → ReadFor) (addr len : Nat) (s : State) : State :=
  let first := min len (4096 - addr % 4096)
  let parts := (0, first) :: (rangeFrom 0 (ceilDiv (len - first) 4096)).map fun i =>
    (first + 4096 * i, min 4096 (len - first - 4096 * i))
  if len = 0 then s else parts.foldl (fun s p => hostRead (f p.1) (addr + p.1) p.2 s) s

/-- Reads of host memory lose their purpose: those that wait go, those outstanding keep their TAG until
they are answered. -/
def dropReads (gone : ReadFor → Bool) (s : State) : State :=
  { s with bxl := { s.bxl with
      readQ := s.bxl.readQ.filter fun r => !gone r.what
      reads := s.bxl.reads.map fun e => (e.1, e.2.map fun r => if gone r.what then { r with what := .dropped } else r) } }

/-- Send an interrupt message, or hold it off (R451). -/
def irq (v : Nat) (s : State) : State :=
  if v ∈ s.bxl.irqHeld then { s with bxl := { s.bxl with irqWait := insertNew s.bxl.irqWait v } }
  else
    let b := if s.bxl.holdoff = 0 then s.bxl else { s.bxl with irqHeld := s.bxl.irqHeld ++ [v] }
    sendMsg { typ := 0x21, space := 0, addr := v } { s with bxl := b }

/-- The event ring has room for one more record (R481). -/
def ringRoom (o : Obs) : Bool :=
  decide (o.ringLog ≠ 0) && decide ((o.head + o.landing + 2 ^ 32 - o.tail) % 2 ^ 32 < 2 ^ o.ringLog)

/-- Write the queue's records to the ring while it has room and the link is ACTIVE; the list bounds
the number of records. -/
def pumpEventsGo : List Event → State → State
  | [], s => s
  | e :: es, s =>
    let o := s.obs
    if ringRoom o ∧ s.bxl.st = .active then
      let idx := (o.head + o.landing) % 2 ^ o.ringLog
      pumpEventsGo es (hostWrite (o.ringBase + 32 * idx) (e.bytes o.lostMark)
        { s with obs := { o with queue := o.queue.drop 1, landing := o.landing + 1, lostMark := false } })
    else s

/-- Write waiting event records (R481, R482). -/
def pumpEvents (s : State) : State := pumpEventsGo s.obs.queue s

/-- Raise an event with record flags (R477). -/
def raiseF (src code flags : Nat) (fields : List (Nat × Nat × Nat)) (s : State) : State :=
  pumpEvents (raiseQ src code flags fields s)

/-- Raise an event: its source, code and payload fields (offset, width, value). -/
def raise (src code : Nat) (fields : List (Nat × Nat × Nat)) (s : State) : State :=
  raiseF src code 0 fields s

/-- Change SYS_STATE, raise EV_STATE_CHANGE and vector 2 (R451, R483, R557). -/
def setSys (st : Nat) (s : State) : State :=
  let old := s.pwr.state
  if st = old then s
  else { s with pwr := { s.pwr with state := st, previous := old } }
    |> raise (source 0 0) 0x0101 [(18, 1, old), (19, 1, st)] |> irq 2

/-- The names of SYS_STATE (R557). -/
def stOff : Nat := 0
/-- STANDBY. -/
def stStandby : Nat := 1
/-- BOOT. -/
def stBoot : Nat := 2
/-- MEMTRAIN. -/
def stMemtrain : Nat := 3
/-- READY. -/
def stReady : Nat := 4
/-- PLANNED. -/
def stPlanned : Nat := 5
/-- RUNNING. -/
def stRunning : Nat := 6
/-- HALTED. -/
def stHalted : Nat := 7
/-- RECOVERY. -/
def stRecovery : Nat := 8
/-- FAULT. -/
def stFault : Nat := 9

/-! The completion status codes of R446. -/

/-- OK. -/
def cOk : Nat := 0
/-- STEP_ABORTED. -/
def cStepAborted : Nat := 1
/-- STEP_MISMATCH. -/
def cStepMismatch : Nat := 2
/-- PARAM_VERSION. -/
def cParamVersion : Nat := 3
/-- MEMBER_LOST. -/
def cMemberLost : Nat := 4
/-- CHUNK_DIVERGENT. -/
def cChunkDivergent : Nat := 5
/-- LAYOUT_EPOCH. -/
def cLayoutEpoch : Nat := 6
/-- BUDGET_EXCEEDED. -/
def cBudget : Nat := 7
/-- NONFINITE. -/
def cNonfinite : Nat := 8
/-- BUSY_QUEUED. -/
def cBusyQueued : Nat := 9
/-- KEY_EXHAUSTED. -/
def cKeyExhausted : Nat := 10
/-- PLAN_INVALID. -/
def cPlanInvalid : Nat := 11
/-- PLAN_CLOCK. -/
def cPlanClock : Nat := 12
/-- CANARY_TIMEOUT. -/
def cCanaryTimeout : Nat := 13
/-- LEND_CONFLICT. -/
def cLendConflict : Nat := 14
/-- SIGNATURE_INVALID. -/
def cSignatureInvalid : Nat := 15
/-- NOT_READY. -/
def cNotReady : Nat := 16

/-- The completion queue has room (R445). -/
def cplRoom (b : Bxl) : Bool := decide ((b.cplTail + 2 ^ 32 - b.cplHead) % 2 ^ 32 < 2 ^ b.cplqLog)

/-- The 32 bytes of a completion at index tail (R445). -/
def Completion.bytes (c : Completion) (b : Bxl) : List Byte :=
  let phase := if (b.cplTail >>> b.cplqLog) % 2 = 0 then 1 else 0
  toBytes 2 c.cmd.id ++ toBytes 2 c.status ++ toBytes 2 c.cmd.op ++
    toBytes 1 (phase + if c.interim then 2 else 0) ++ toBytes 1 0 ++ toBytes 4 b.cmdHead ++
    toBytes 4 0 ++ toBytes 16 c.result

/-- Write waiting completions while the queue has room; the list bounds their number. -/
def pumpCplGo : List Completion → State → State
  | [], s => s
  | c :: cs, s =>
    let b := s.bxl
    if b.enable ∧ cplRoom b then
      pumpCplGo cs (hostWrite (b.cplqBase + 32 * (b.cplTail % 2 ^ b.cplqLog)) (c.bytes b)
        { s with bxl := { b with waitCpl := b.waitCpl.drop 1 } }
        |> fun s => irq 0 { s with bxl := { s.bxl with cplTail := (s.bxl.cplTail + 1) % 2 ^ 32 } })
    else s

/-- Write waiting completions (R445). -/
def pumpCpl (s : State) : State := pumpCplGo s.bxl.waitCpl s

/-- Read the next command of the queue, one at a time and in index order, while the tail is ahead and
fewer than 1,024 commands are in progress (R444).
DESIGN CHOICE: notes/assumptions/115.md. -/
def pumpCmds (s : State) : State :=
  let b := s.bxl
  if b.enable ∧ b.cmdAsked = b.cmdHead ∧ serialLt 32 b.cmdHead b.cmdTail ∧ b.inflight < 1024 then
    hostRead .command ((b.cmdqBase + 64 * (b.cmdHead % 2 ^ b.cmdqLog)) % 2 ^ 64) 64
      { s with bxl := { b with cmdAsked := (b.cmdHead + 1) % 2 ^ 32 } }
  else s

/-- Post a completion; with ENABLE clear it is discarded (R443). -/
def post (c : Completion) (s : State) : State :=
  let b := if c.interim then s.bxl else { s.bxl with inflight := s.bxl.inflight - 1 }
  if b.enable then pumpCpl { s with bxl := { b with waitCpl := b.waitCpl ++ [c] } } |> pumpCmds
  else { s with bxl := b }

/-- Complete a command with a code and a RESULT (R445, R446). -/
def completeR (cmd : CmdRef) (code result : Nat) (s : State) : State := post ⟨cmd, code, false, result⟩ s

/-- Complete a command with a code. -/
def complete (cmd : CmdRef) (code : Nat) (s : State) : State := completeR cmd code 0 s

/-- Complete a command that may be absent. -/
def completeOpt (cmd : Option CmdRef) (code : Nat) (s : State) : State :=
  match cmd with
  | some c => complete c code s
  | none => s

/-- A fresh free value.
DESIGN CHOICE: notes/assumptions/145.md. -/
def takeFree (s : State) : Nat × State := (Config.freeNat s.free, { s with free := s.free + 1 })

/-- A host command is taken: it counts as in progress (R444). -/
def take (id op : Nat) (s : State) : CmdRef × State :=
  (⟨id, op⟩, { s with bxl := { s.bxl with inflight := s.bxl.inflight + 1 } })

/-- A command of a physical or internal event: its effect, where the module has the unit it names.
DESIGN CHOICE: notes/assumptions/143.md.
DESIGN CHOICE: notes/assumptions/144.md. -/
def onUnit (ok : Bool) (t : State) : Host.Outcome State Fault Refusal :=
  if ok then .next t else .fault .noSuchUnit

end Sys2Proof.Machine
end

