-- ==== Sys2Proof/Machine/Image.lean ====
section
/-!
DEFINITION. The plan image as it lies in the plan store (R106 to R132): its fields are read where
they stand. An image is named by the deep-tier offset of its slot.
-/
namespace Sys2Proof.Machine

/-- The deep-tier offset of a slot of the plan store: the top 4 GiB of deep stack 15, two slots of
2 GiB (R122). -/
def slotBase (slot : Bool) : Nat := 0xFF00000000 + if slot then 0x80000000 else 0

/-- The active image. -/
def State.act (s : State) : Nat := slotBase s.plan.slot
/-- The staged image. -/
def State.stg (s : State) : Nat := slotBase (!s.plan.slot)

/-- A little-endian field of an image. -/
def imgNum (s : State) (b off n : Nat) : Nat := mreadNum s.deep (b + off) n

/-- Offset of a section in its image: sections stand in ascending order of type, none missing (R106,
R110). -/
def secOff (s : State) (b t : Nat) : Nat := imgNum s b (256 + 64 * (t - 1) + 8) 8
/-- Length of a section. -/
def secLen (s : State) (b t : Nat) : Nat := imgNum s b (256 + 64 * (t - 1) + 16) 8
/-- A field of a section. -/
def secNum (s : State) (b t off n : Nat) : Nat := imgNum s b (secOff s b t + off) n

/-- FLAGS of the header (R108). -/
def imgFlags (s : State) (b : Nat) : Nat := imgNum s b 20 4
/-- SET_INDEX. -/
def imgSetIndex (s : State) (b : Nat) : Nat := imgNum s b 26 2
/-- SET_SIZE. -/
def imgSetSize (s : State) (b : Nat) : Nat := imgNum s b 28 2
/-- SET_ID. -/
def imgSetId (s : State) (b : Nat) : Nat := imgNum s b 32 8
/-- LAYOUT_EPOCH. -/
def imgEpoch (s : State) (b : Nat) : Nat := imgNum s b 40 8
/-- SET_DIGEST. -/
def imgDigest (s : State) (b : Nat) : List Byte := mread s.deep (b + 48) 32
/-- SET_COOKIE of GROUPS (R131). -/
def imgCookie (s : State) (b : Nat) : Nat := secNum s b 9 0 8
/-- MASTER of GROUPS. -/
def imgMaster (s : State) (b : Nat) : Nat := secNum s b 9 8 2
/-- BACKUP of GROUPS. -/
def imgBackup (s : State) (b : Nat) : Nat := secNum s b 9 10 2
/-- The role of a member: 0 worker, 1 spare (R131). -/
def imgRole (s : State) (b idx : Nat) : Nat := secNum s b 9 (32 + 80 * idx + 2) 1
/-- The buddy of a member. -/
def imgBuddy (s : State) (b idx : Nat) : Nat := secNum s b 9 (32 + 80 * idx + 4) 2
/-- The IPv6 address of spine port p of a member (R131). -/
def imgSpineAddr (s : State) (b idx p : Nat) : Nat := secNum s b 9 (32 + 80 * idx + 16 + 16 * p) 16

/-- A member entry whose SPINE_ADDR is all zeros is an empty position (R309). -/
def imgEmpty (s : State) (b idx : Nat) : Bool := secNum s b 9 (32 + 80 * idx + 16) 64 == 0

/-- The module serial number (R558). -/
def serialBytes : List Byte := (rangeFrom 0 16).map Config.serial

/-- UDP_PORT (R131). -/
def imgUdpPort (s : State) (b : Nat) : Nat := let v := secNum s b 9 14 2; if v = 0 then 50592 else v

/-- This member's set index under the active plan, 0 without one (R21). -/
def State.me (s : State) : Nat := if s.plan.active then imgSetIndex s s.act else 0

/-- The workers of an image, ascending. -/
def imgWorkers (s : State) (b : Nat) : List Nat :=
  (rangeFrom 0 (imgSetSize s b)).filter fun i => imgRole s b i == 0 && !imgEmpty s b i

/-- The members of a group, by its identifier; none when GROUPS lacks it (R131). -/
def imgGroup (s : State) (b id : Nat) : Option (List Nat) :=
  let base := 32 + 80 * imgSetSize s b
  match (rangeFrom 0 (secNum s b 9 12 2)).find? fun i => secNum s b 9 (base + 16 * i) 4 == id with
  | none => none
  | some i =>
    let lst := secNum s b 9 (base + 16 * i + 8) 4
    some ((rangeFrom 0 (secNum s b 9 (base + 16 * i + 6) 2)).map fun j => secNum s b 9 (lst + 2 * j) 2)

/-- The kind of a group, by its identifier; none when GROUPS lacks it (R131). -/
def imgGroupKind (s : State) (b id : Nat) : Option Nat :=
  let base := 32 + 80 * imgSetSize s b
  ((rangeFrom 0 (secNum s b 9 12 2)).find? fun i => secNum s b 9 (base + 16 * i) 4 == id).map fun i =>
    secNum s b 9 (base + 16 * i + 4) 1

/-- A region entry of MEMMAP (R121). -/
structure Region where
  num : Nat
  tier : Nat
  kind : Nat
  format : Nat
  flags : Nat
  base : Nat
  len : Nat
  tensor : Nat
  status : Nat
  scale : Nat
  initOff : Nat
  initLen : Nat
  deriving DecidableEq, Repr

/-- A field of MEMMAP that is all ones. -/
def allOnes64 : Nat := 0xFFFFFFFFFFFFFFFF

/-- Region entry i of MEMMAP. -/
def imgRegionAt (s : State) (b i : Nat) : Region :=
  let f := fun o n => secNum s b 6 (16 + 64 * i + o) n
  ⟨f 0 4, f 4 1, f 5 1, f 6 1, f 7 1, f 8 8, f 16 8, f 24 4, f 32 8, f 40 8, f 48 8, f 56 8⟩

/-- The regions of an image. -/
def imgRegions (s : State) (b : Nat) : List Region :=
  (rangeFrom 0 (secNum s b 6 0 4)).map (imgRegionAt s b)

/-- The region of a number. -/
def imgRegion (s : State) (b num : Nat) : Option Region := (imgRegions s b).find? fun r => r.num == num

/-- The first region of a kind. -/
def imgKind (s : State) (b kind : Nat) : Option Region := (imgRegions s b).find? fun r => r.kind == kind

/-- The active plan's configuration region 0xFFFF_FF00 + n. -/
def State.cfg (s : State) (n : Nat) : Option Region :=
  if s.plan.active then imgRegion s s.act (0xFFFFFF00 + n) else none

/-- The tables that the module reads at swap: circulator, map, stash, update, collectives, intake and generation
(R191, R217, R255, R274, R340, R402, R420). -/
def atSwap (num : Nat) : Bool := decide (num ∈ [0xFFFFFF00, 0xFFFFFF01, 0xFFFFFF02, 0xFFFFFF04, 0xFFFFFF05, 0xFFFFFF07, 0xFFFFFF08])

/-- A field of a configuration region: of a table that is read at swap, as the swap found it. -/
def cfgNum (s : State) (r : Region) (off n : Nat) : Nat :=
  mreadNum (if atSwap r.num then s.plan.tables else s.hbm) (r.base + off) n

/-- The module reads the tables of the active plan (*Swap exchange*, step 6). -/
def readTables (s : State) : State :=
  let l := (imgRegions s s.act).filter fun r => atSwap r.num && r.tier == 0
  let t := s.hbm.filter fun c => l.any fun r => decide (r.base ≤ c.1) && decide (c.1 < r.base + r.len)
  { s with plan := { s.plan with tables := t } }

/-- A ring entry of RINGS (R119). -/
structure RingEnt where
  num : Nat
  depthLog : Nat
  entryLog : Nat
  kind : Nat
  flags : Nat
  base : Nat
  off : Nat
  deriving DecidableEq, Repr

/-- The rings of an image. -/
def imgRings (s : State) (b : Nat) : List RingEnt :=
  (rangeFrom 0 (secNum s b 5 0 4)).map fun i =>
    let f := fun o n => secNum s b 5 (8 + 16 * i + o) n
    ⟨f 0 4, f 4 1, f 5 1, f 6 1, f 7 1, f 8 4, f 12 4⟩

/-- CELLMAP: the formation of a logical cell (R112). -/
def imgFormation (s : State) (b l : Nat) : Nat := secNum s b 1 (8 * l) 2
/-- CELLMAP: the cell is used. -/
def imgUsed (s : State) (b l : Nat) : Bool := secNum s b 1 (8 * l + 2) 1 % 2 == 1
/-- CELLMAP: stream descriptors of the cell. -/
def imgStreams (s : State) (b l : Nat) : Nat := secNum s b 1 (8 * l + 3) 1

/-- Offset in PROGRAMS of the block of a logical cell (R117). -/
def imgBlock (s : State) (b l : Nat) : Nat := secNum s b 4 (8 * l) 4

/-- A stream descriptor (R117). -/
structure StreamDesc where
  stream : Nat
  priority : Nat
  quota : Nat
  entry : Nat
  vmask : Nat
  mmask : Nat
  phase : Nat
  deriving DecidableEq, Repr

/-- The stream descriptors of a logical cell. -/
def imgDescs (s : State) (b l : Nat) : List StreamDesc :=
  let base := imgBlock s b l + 16
  (rangeFrom 0 (imgStreams s b l)).map fun i =>
    let f := fun o n => secNum s b 4 (base + 16 * i + o) n
    ⟨f 0 1, f 1 1, f 2 2, f 4 4, f 8 4, f 12 1, f 14 2⟩

/-- LOAD_ADDR of a block; 0 for a cell without one. -/
def imgLoadAddr (s : State) (b l : Nat) : Nat := if imgBlock s b l = 0 then 0 else secNum s b 4 (imgBlock s b l) 4
/-- CODE_BYTES of a block; 0 for a cell without one. -/
def imgCodeBytes (s : State) (b l : Nat) : Nat := if imgBlock s b l = 0 then 0 else secNum s b 4 (imgBlock s b l + 4) 4
/-- The code of a block. -/
def imgCode (s : State) (b l : Nat) : List Byte :=
  mread s.deep (b + secOff s b 4 + imgBlock s b l + 16 + 16 * imgStreams s b l) (imgCodeBytes s b l)

/-- A formation entry (R115). -/
structure FormEnt where
  id : Nat
  kind : Nat
  cells : List Nat
  pairs : List (Nat × Nat)
  deriving DecidableEq, Repr

/-- The formations of an image. -/
def imgForms (s : State) (b : Nat) : List FormEnt :=
  (rangeFrom 0 (secNum s b 3 0 2)).map fun i =>
    let f := fun o n => secNum s b 3 (8 + 16 * i + o) n
    ⟨f 0 2, f 2 1, (rangeFrom 0 (f 4 2)).map fun j => secNum s b 3 (f 8 4 + 2 * j) 2,
      (rangeFrom 0 (f 6 2)).map fun j => (secNum s b 3 (f 12 4 + 4 * j) 2, secNum s b 3 (f 12 4 + 4 * j + 2) 2)⟩

/-- The kind of a formation by its identifier; none when FORMATIONS lacks it. -/
def imgFormKind (s : State) (b id : Nat) : Option Nat :=
  ((imgForms s b).find? fun f => f.id == id).map (·.kind)

/-- A route entry (R113). -/
structure RouteEnt where
  id : Nat
  src : Nat
  dst : Nat
  hops : List Nat
  deriving DecidableEq, Repr

/-- The routes of an image. -/
def imgRoutes (s : State) (b : Nat) : List RouteEnt :=
  (rangeFrom 0 (secNum s b 2 4 2)).map fun i =>
    let f := fun o n => secNum s b 2 (8 + 16 * i + o) n
    ⟨f 0 2, f 2 1, f 3 1, (rangeFrom 0 (f 4 1)).map fun j => f (8 + j) 1⟩

/-- The two dies that a link joins, by site code (R113). -/
def linkEnds (n : Nat) : Option (Nat × Nat) :=
  if n < 6 then some (n + n / 3, n + n / 3 + 1)
  else if n < 10 then some (n - 6, n - 2)
  else if n < 18 then some (n - 10, 32 + (n - 10))
  else if n < 26 then some (n - 18, 64 + (n - 18) / 2)
  else if n = 26 then some (64, 65)
  else if n = 27 then some (66, 67)
  else none

/-- Follow hops from a die: where they end, if every hop leaves the die that the last one reached. -/
def followHops : Nat → List Nat → Option Nat
  | at_, [] => some at_
  | at_, n :: rest =>
    match linkEnds n with
    | none => none
    | some e => if e.1 = at_ then followHops e.2 rest else if e.2 = at_ then followHops e.1 rest else none

/-- The Spire die where the traffic of a die enters the grid of the Spire dies, or leaves it (R577). -/
def gridDie (x : Nat) : Nat := if x < 8 then x else if x < 64 then x - 32 else 2 * (x - 64)

/-- The link between a die and the grid: none for a Spire die (R577). -/
def spoke (x : Nat) : List Nat := if x < 8 then [] else if x < 64 then [10 + (x - 32)] else [18 + 2 * (x - 64)]

/-- The Spire bridges along a row, from one column to another. -/
def alongRow (row a b : Nat) : List Nat :=
  if a ≤ b then rangeFrom (3 * row + a) (b - a) else (rangeFrom (3 * row + b) (a - b)).reverse

/-- The default route between two dies (R577): to the grid, along the row of the entry die, along the column of the
exit die, and out. -/
def defaultPath (src dst : Nat) : List Nat :=
  if src = dst then []
  else
    let e := gridDie src
    let x := gridDie dst
    spoke src ++ alongRow (e / 4) (e % 4) (x % 4) ++ (if e / 4 = x / 4 then [] else [6 + x % 4]) ++ spoke dst

/-- The package links that traffic without a ROUTE_ID takes from die to die (R12, R318, R577): the first route of the
active plan that joins them, or the default route. -/
def diePath (s : State) (src dst : Nat) : List Nat :=
  match if s.plan.active then (imgRoutes s s.act).find? fun r => r.src == src && r.dst == dst else none with
  | some r => r.hops
  | none => defaultPath src dst

/-- A phase entry of SCHEDULE (R127). -/
structure PhaseEnt where
  id : Nat
  trigger : Nat
  after : Nat
  deriving DecidableEq, Repr

/-- The phases of an image. -/
def imgPhases (s : State) (b : Nat) : List PhaseEnt :=
  (rangeFrom 0 (secNum s b 8 0 4)).map fun i =>
    let f := fun o n => secNum s b 8 (64 + 16 * i + o) n
    ⟨f 0 2, f 2 1, f 4 2⟩

/-- A constant map entry of SCHEDULE (R127). -/
structure ConstEnt where
  slot : Nat
  target : Nat
  cellOrParam : Nat
  stream : Nat
  reg : Nat
  deriving DecidableEq, Repr

/-- The constant map of an image. -/
def imgConsts (s : State) (b : Nat) : List ConstEnt :=
  (rangeFrom 0 (secNum s b 8 4 4)).map fun i =>
    let f := fun o n => secNum s b 8 (64 + 16 * secNum s b 8 0 4 + 16 * i + o) n
    ⟨f 0 1, f 1 1, f 2 2, f 4 1, f 5 1⟩

/-- ROW_COUNT of SCHEDULE. -/
def imgRowCount (s : State) (b : Nat) : Nat := secNum s b 8 16 8
/-- FIRST_STEP of SCHEDULE. -/
def imgFirstStep (s : State) (b : Nat) : Nat := secNum s b 8 8 8
/-- Constant row j of SCHEDULE, as a number of 32 bytes. -/
def imgRow (s : State) (b j : Nat) : Nat :=
  secNum s b 8 (64 + 16 * secNum s b 8 0 4 + 16 * secNum s b 8 4 4 + 32 * j) 32
/-- WORKLOADS of SCHEDULE. -/
def imgWorkloads (s : State) (b : Nat) : Nat := secNum s b 8 48 1

/-- A table record (R125): its number, mode, bounds, infinity values and the section offset of its
coefficients. -/
structure TabEnt where
  id : Nat
  mode : Nat
  kind : Nat
  partner : Nat
  lo : Nat
  hi : Nat
  negInf : Nat
  posInf : Nat
  coeff : Nat
  deriving DecidableEq, Repr

/-- The tables of an image. -/
def imgTables (s : State) (b : Nat) : List TabEnt :=
  (rangeFrom 0 (secNum s b 7 0 2)).map fun i =>
    let f := fun o n => secNum s b 7 (8 + 4128 * i + o) n
    ⟨f 0 2, f 2 1, f 3 1, f 4 2, f 8 4, f 12 4, f 16 4, f 20 4, 8 + 4128 * i + 32⟩

/-- The table in slot k of logical cell l, 0xFFFF for none (R125). -/
def imgPlace (s : State) (b l k : Nat) : Nat :=
  secNum s b 7 (secNum s b 7 4 4 + 2 * (32 * l + k)) 2

/-- The physical cell key d × 128 + c that a logical cell has under the loaded plan (R58, R59). -/
def physOf (s : State) (l : Nat) : Option Nat :=
  (s.cells.find? fun e => e.2.logical == l && decide (l < 768)).map (·.1)

end Sys2Proof.Machine
end

