-- ==== Sys2Proof/Machine/Ops.lean ====
section
/-!
DEFINITION. Named operations over cells, semaphores, rings and memory: reading and changing a cell
and a stream, semaphore signals and waits (R49, R50), ring pushes and pops (R51, R156, R450), the
ranges of global addresses (R17, R18), and bytes of HBM, the deep tier and scratchpads.
-/
namespace Sys2Proof.Machine

/-- The physical cell of a key d × 128 + c. -/
def getCell (s : State) (k : Nat) : Cell := tget {} s.cells k

/-- Change one cell. -/
def modCell (k : Nat) (f : Cell → Cell) (s : State) : State :=
  { s with cells := tmod {} s.cells k f }

/-- Stream i of a cell. -/
def getStream (c : Cell) (i : Nat) : Stream := tget {} c.streams i

/-- Change one stream. -/
def modStream (k i : Nat) (f : Stream → Stream) (s : State) : State :=
  modCell k (fun c => { c with streams := tmod {} c.streams i f }) s

/-- The module has the physical cell: eight dies of 100 cells (R58). -/
def cellOk (k : Nat) : Bool := decide (k / 128 < 8) && decide (k % 128 < 100)

/-- The keys of every physical cell. -/
def allCells : List Nat := (rangeFrom 0 8).flatMap fun d => (rangeFrom 0 100).map fun c => 128 * d + c

/-- The streams of a cell that run a program. -/
def runningStreams (c : Cell) : List Nat := (c.streams.filter fun e => e.2.running).map (·.1)

/-- The stream's next instruction follows: it is no longer blocked. -/
def advance (k i : Nat) (s : State) : State :=
  modStream k i (fun t => { t with ip := t.ip + 1, wait := none }) s

/-- A scalar register of a stream (R45). -/
def getS (t : Stream) (r : Nat) : Nat := (tget 0#64 t.s r).toNat
/-- An address register of a stream (R45). -/
def getA (t : Stream) (r : Nat) : Nat := (tget 0#64 t.a r).toNat
/-- Write a scalar register: 64 bits (R145). -/
def setS (k i r v : Nat) (s : State) : State :=
  modStream k i (fun t => { t with s := tset 0#64 t.s r (BitVec.ofNat 64 v) }) s
/-- Write an address register: 64 bits (R145). -/
def setA (k i r v : Nat) (s : State) : State :=
  modStream k i (fun t => { t with a := tset 0#64 t.a r (BitVec.ofNat 64 v) }) s
/-- Write a register of the S file (false) or of the A file (true). -/
def setReg (file : Bool) (k i r v : Nat) (s : State) : State := if file then setA k i r v s else setS k i r v s
/-- Read a register of the S file (false) or of the A file (true). -/
def getReg (file : Bool) (t : Stream) (r : Nat) : Nat := if file then getA t r else getS t r

/-- WORKLOAD in force: 0 TRAIN, 1 EVAL, 2 GENERATE. -/
def workload (s : State) : Nat := s.modes.inForce % 4
/-- EVICTING is in force. -/
def evicting (s : State) : Bool := bitAt s.modes.inForce 12
/-- RECOVERY is in force. -/
def inRecovery (s : State) : Bool := bitAt s.modes.inForce 16
/-- An attempt runs on this member. -/
def inAttempt (s : State) : Bool := s.steps.phase == .running || s.steps.phase == .readySent

/-! ## Semaphores -/

/-- A signal leaves for a semaphore of a physical cell; it arrives by SEM_SIGNAL_ARRIVE (R54). An
amount of zero signals nothing. -/
def signalSem (cell sem amt : Nat) (s : State) : State :=
  if amt = 0 then s else { s with sigs := s.sigs ++ [⟨cell, sem, amt⟩] }

/-- A signal leaves for a semaphore of a logical cell; an unmapped cell has none. -/
def signalLogical (l sem amt : Nat) (s : State) : State :=
  match physOf s l with
  | some k => signalSem k sem amt s
  | none => s

/-- Serve the waiters of one semaphore in the order in which they began to wait (R49). -/
def serveSemGo (k sem : Nat) : List Nat → State → State
  | [], s => s
  | i :: rest, s =>
    let c := getCell s k
    let n := tget 0 c.sems sem
    match (getStream c i).wait with
    | some (.sem q amt) =>
      if q = sem ∧ amt ≤ n then
        serveSemGo k sem rest (modCell k (fun c =>
          { c with sems := tset 0 c.sems sem (n - amt), semQ := c.semQ.filter (· != i) }) s |> advance k i)
      else serveSemGo k sem rest s
    | _ => serveSemGo k sem rest s

/-- A signal reaches its semaphore (R49, R50). -/
def semAdd (k sem amt : Nat) (s : State) : State :=
  let n := tget 0 (getCell s k).sems sem + amt
  let s := modCell k (fun c => { c with sems := tset 0 c.sems sem (min n 65535) }) s
  let r := if 65535 < n then setOvf (cellBase k + 0x18) sem (k / 128) s else (s, false)
  let s := if r.2 then raise (source 1 k) 0x0104 [(18, 1, sem), (24, 4, cellBase k + 0x18)] r.1 else r.1
  serveSemGo k sem (getCell s k).semQ s

/-! ## Global addresses -/

/-- An offset range of HBM lies in the populated range of one stack (R18). -/
def hbmOk (off len : Nat) : Bool := decide (off < 2 ^ 40) && decide (off % 2 ^ 36 + len ≤ 0x900000000)

/-- An offset range of the deep tier is populated: all of every stack is (R18). -/
def deepOk (off len : Nat) : Bool := decide (off < 2 ^ 40) && decide (off + len ≤ 2 ^ 40)

/-- The parts of a range of the cell-local window: the logical cell, the byte of its scratchpad and the
length (R18). -/
def windowParts (off len : Nat) : List (Nat × Nat × Nat) :=
  (rangeFrom (off / 2 ^ 21) ((off + len + (2 ^ 21 - 1)) / 2 ^ 21 - off / 2 ^ 21)).map fun l =>
    let lo := max off (l * 2 ^ 21)
    (l, lo - l * 2 ^ 21, min (off + len) ((l + 1) * 2 ^ 21) - lo)

/-- The fields of a global address (R17). -/
structure GAddr where
  mod : Nat
  tier : Nat
  off : Nat
  deriving DecidableEq, Repr

/-- Read a global address (R17). -/
def gaddr (a : Nat) : GAddr := ⟨fieldOf a 63 50, fieldOf a 49 48, a % 2 ^ 48⟩

/-- Build a global address (R17). -/
def mkGaddr (mod tier off : Nat) : Nat := mod <<< 50 + tier <<< 48 + off

/-- A range of the deep tier meets the lend range in force (R390). -/
def lendHits (s : State) (off len : Nat) : Bool :=
  s.lend.on && decide (off < (s.lend.base + s.lend.size) * 2 ^ 30) && decide (s.lend.base * 2 ^ 30 < off + len)

/-- A range of local memory is populated (R18) and not lent (R390); a cell must be mapped. -/
def localOk (s : State) (g : GAddr) (len : Nat) : Bool :=
  match g.tier with
  | 0 => hbmOk g.off len
  | 1 => deepOk g.off len && !lendHits s g.off len
  | 2 => decide (g.off + len ≤ 768 * 2 ^ 21) && (physOf s (g.off / 2 ^ 21)).isSome &&
      (windowParts g.off len).all fun p => (physOf s p.1).isSome
  | _ => decide (g.off + len ≤ 2 ^ 26)

/-- The reads of granules that are uncorrectable give all ones (R370). -/
def readTier (s : State) (tier off n : Nat) : List Byte :=
  let m := if tier = 0 then s.hbm else s.deep
  (rangeFrom off n).map fun a => if (tier, a / 64) ∈ s.bad then 0xFF#8 else mget m a

/-- A write to HBM (0) or the deep tier (1); a granule written whole is good again (R370, R578). -/
def writeTier (tier off : Nat) (d : List Byte) (s : State) : State :=
  let s := { s with bad := s.bad.filter fun b =>
    !(b.1 == tier && decide (off ≤ 64 * b.2) && decide (64 * b.2 + 64 ≤ off + d.length)) }
  if tier = 0 then { s with hbm := mwrite s.hbm off d } else { s with deep := mwrite s.deep off d }

/-- Drop the near-cache lines of a cell that a write covers; deep addresses have bit 48 set (R38).
DESIGN CHOICE: notes/assumptions/28.md. -/
def ncDrop (k lo len : Nat) (s : State) : State :=
  let keep := fun (l : NcLine) => decide (128 * l.line + 128 ≤ lo) || decide (lo + len ≤ 128 * l.line)
  modCell k (fun c => { c with near := c.near.filter keep }) s

/-- The number of the line that holds a byte of HBM (0) or of the deep tier (1). -/
def nearNo (tier off : Nat) : Nat := (off + tier * 2 ^ 48) / 128

/-- A read of n bytes within one line through the near cache of a cell: a cached line gives its own bytes and
becomes the latest used of its set; a miss reads the memory (R37, R38). The line comes by NEAR_CACHE_FILL.
DESIGN CHOICE: notes/assumptions/28.md. -/
def nearRead (k tier off n : Nat) (s : State) : List Byte × State :=
  match (getCell s k).near.find? fun l => l.line == nearNo tier off with
  | some l => ((l.data.drop (off % 128)).take n,
      modCell k (fun c => { c with near := l :: c.near.filter (· != l) }) s)
  | none => (readTier s tier off n, s)

/-- Empty the near cache of every cell (R38).
DESIGN CHOICE: notes/assumptions/28.md. -/
def ncClear (s : State) : State :=
  (s.cells.map (·.1)).foldl (fun s k => modCell k (fun c => { c with near := [] }) s) s

/-- Read local memory of tiers 0 to 2. -/
def readLocal (s : State) (g : GAddr) (n : Nat) : List Byte :=
  if g.tier ≤ 1 then readTier s g.tier g.off n
  else (windowParts g.off n).flatMap fun p => match physOf s p.1 with
    | some k => mread (getCell s k).scratch p.2.1 p.2.2
    | none => List.replicate p.2.2 0#8

/-- A range of a cell's scratchpad meets its code area (R118, R173 kind 4). -/
def hitsCode (c : Cell) (a len : Nat) : Bool := decide (a < c.codeHi) && decide (c.codeLo < a + len)

/-- Write local memory of tiers 0 to 2. The code area of a cell is never written (R118). -/
def writeLocal (g : GAddr) (d : List Byte) (s : State) : State :=
  if g.tier ≤ 1 then writeTier g.tier g.off d s
  else (windowParts g.off d.length).foldl (fun s p => match physOf s p.1 with
    | some k =>
      if hitsCode (getCell s k) p.2.1 p.2.2 then s
      else modCell k (fun c => { c with
        scratch := mwrite c.scratch p.2.1 ((d.drop (p.1 * 2 ^ 21 + p.2.1 - g.off)).take p.2.2) }) s
    | none => s) s

/-- A MODULE value names this module (R21); without a plan, 0 does. -/
def isLocal (s : State) (m : Nat) : Bool := m == s.me

/-- A MODULE value names a worker of the set other than this module (R21). -/
def isRemote (s : State) (m : Nat) : Bool :=
  s.plan.active && m != s.me && decide (m < imgSetSize s s.act) && imgRole s s.act m == 0 && !imgEmpty s s.act m

/-! ## Rings -/

/-- A ring of the active plan. -/
def getRing (s : State) (r : Nat) : Ring := tget {} s.rings r

/-- Change one ring. -/
def modRing (r : Nat) (f : Ring → Ring) (s : State) : State := { s with rings := tmod {} s.rings r f }

/-- Bytes of one entry. -/
def Ring.entry (g : Ring) : Nat := 2 ^ g.entryLog
/-- Places of the ring. -/
def Ring.depth (g : Ring) : Nat := 2 ^ g.depthLog
/-- Entries that can be popped. -/
def Ring.len (g : Ring) : Nat := g.tail - g.head
/-- No place is left, counting pushes on their way (R51). -/
def Ring.full (g : Ring) : Bool := decide (g.depth ≤ g.tail - g.head + g.flying)

/-- Read the entry of a free-running index where the ring keeps it (R51, R119, R450). -/
def ringRead (s : State) (r idx : Nat) : List Byte :=
  let g := getRing s r
  let off := idx % g.depth * g.entry
  match g.kind with
  | 0 => match physOf s (r / 256) with
    | some k => mread (getCell s k).scratch (g.base + off) g.entry
    | none => List.replicate g.entry 0#8
  | 3 => readTier s 0 (g.base + off) g.entry
  | _ => mread g.mem off g.entry

/-- Write the entry of a free-running index. -/
def ringWrite (r idx : Nat) (d : List Byte) (s : State) : State :=
  let g := getRing s r
  let off := idx % g.depth * g.entry
  match g.kind with
  | 0 => match physOf s (r / 256) with
    | some k => modCell k (fun c => { c with scratch := mwrite c.scratch (g.base + off) (sliceBytes d 0 g.entry) }) s
    | none => s
  | 3 => writeTier 0 (g.base + off) (sliceBytes d 0 g.entry) s
  | _ => modRing r (fun g => { g with mem := mwrite g.mem off (sliceBytes d 0 g.entry) }) s

/-- The doorbell of a host ring. -/
def getBell (s : State) (n : Nat) : Doorbell := tget {} s.bells n

/-- Copy the entries of a DIR 1 host ring that wait, then advance DB_MOD_IDX, its shadow and the
vector (R450); the number bounds the entries. -/
def copyOutGo (r : Nat) : Nat → State → State
  | 0, s => s
  | n + 1, s =>
    let g := getRing s r
    let d := getBell s (r - 245760)
    if d.enable ∧ d.dir ∧ !s.bxl.dbHold ∧ d.modIdx % 2 ^ 32 ≠ g.tail % 2 ^ 32 then
      let idx := g.tail - (g.tail % 2 ^ 32 + 2 ^ 32 - d.modIdx % 2 ^ 32) % 2 ^ 32
      let d' := { d with modIdx := (d.modIdx + 1) % 2 ^ 32 }
      copyOutGo r n (hostWrite (d.base + idx % g.depth * g.entry) (ringRead s r idx)
        { s with bells := tset {} s.bells (r - 245760) d' }
        |> fun s => (if d.shadow = 0 then s else hostWrite d.shadow (toBytes 8 d'.modIdx) s)
        |> fun s => if d.irqEn then irq d.vector s else s)
    else s

/-- Copy what waits in a DIR 1 host ring (R450). -/
def copyOut (r : Nat) (s : State) : State := copyOutGo r (getRing s r).depth s

/-- After a pop of a DIR 0 host ring the module's index and its copies advance (R450). -/
def noteHostPop (r : Nat) (s : State) : State :=
  let d := getBell s (r - 245760)
  let d' := { d with modIdx := (d.modIdx + 1) % 2 ^ 32 }
  { s with bells := tset {} s.bells (r - 245760) d' }
    |> (fun s => if d.shadow = 0 then s else hostWrite d.shadow (toBytes 8 d'.modIdx) s)
    |> fun s => if d.irqEn then irq d.vector s else s

/-- An entry lands in its ring and can be popped. -/
def ringLand (r : Nat) (d : List Byte) (s : State) : State :=
  ringWrite r (getRing s r).tail d s
    |> modRing r (fun g => { g with tail := g.tail + 1 })
    |> fun s => if (getRing s r).kind = 3 then copyOut r s else s

/-- Take the oldest entry of a ring and free its place. -/
def ringTake (r : Nat) (s : State) : List Byte × State :=
  let g := getRing s r
  let d := ringRead s r g.head
  let s := modRing r (fun g => { g with head := g.head + 1 }) s
  (d, if g.kind = 3 then noteHostPop r s else s)

/-- Linear address of an operand reference that needs no rows: its space and byte address (R146). -/
def refSpace (w : Nat) : Nat := fieldOf w 42 41

/-- Read bytes of a space of a cell: 0 scratchpad, 1 tile buffers, 2 operand cache (R146). -/
def spaceRead (c : Cell) (space a n : Nat) : List Byte :=
  match space with
  | 0 => mread c.scratch a n
  | 1 => mread c.tiles a n
  | _ => mread c.opcache a n

/-- Write bytes of a space of a cell (R146). -/
def spaceWrite (space a : Nat) (d : List Byte) (c : Cell) : Cell :=
  match space with
  | 0 => { c with scratch := mwrite c.scratch a d }
  | 1 => { c with tiles := mwrite c.tiles a d }
  | _ => { c with opcache := mwrite c.opcache a d }

/-- A stream joins those blocked on a ring; what several streams push or pop in one cycle is applied in ascending
order of logical cell and of stream (R156). -/
def queueIn (s : State) (x : Nat × Nat) (l : List (Nat × Nat)) : List (Nat × Nat) :=
  let rank := fun (e : Nat × Nat) => 64 * (getCell s e.1).logical + e.2
  (l.filter fun e => decide (rank e < rank x)) ++ x :: l.filter fun e => decide (rank x ≤ rank e)

/-- The storage of a cell ring lies in a scratchpad that a test holds: its address (R57). -/
def ringHeld (s : State) (r : Nat) : Option Nat :=
  let g := getRing s r
  if g.kind ≠ 0 then none
  else match physOf s (r / 256) with
    | some k => if (getCell s k).scratchHeld then some (mkGaddr s.me 2 (r / 256 * 2 ^ 21 + g.base)) else none
    | none => none

/-- Put the entry of a stream into a ring: at once into a ring of its own cell, otherwise on its way
until RING_PUSH_ARRIVE (R54).
DESIGN CHOICE: notes/assumptions/29.md. -/
def pushEntry (r k i : Nat) (d : List Byte) (s : State) : State :=
  let g := getRing s r
  if g.kind = 0 ∧ physOf s (r / 256) = some k then ringLand r d s
  else modRing r (fun g => { g with flying := g.flying + 1 }) { s with pushes := s.pushes ++ [⟨r, k, i, d⟩] }

/-- Serve the streams blocked on a ring while one of them can go on: the oldest pop when the ring has
an entry, the oldest push when it has a place (R51). The number bounds the streams served. -/
def ringServeGo (r : Nat) : Nat → State → State
  | 0, s => s
  | n + 1, s =>
    let g := getRing s r
    match g.popQ, g.pushQ with
    | (k, i) :: rest, pq =>
      if 0 < g.len then
        let t := getStream (getCell s k) i
        let x := ringTake r (modRing r (fun g => { g with popQ := rest }) s)
        match t.wait with
        | some (.pop _ reg) =>
          let w := getA t reg
          ringServeGo r n (modCell k (spaceWrite (refSpace w) (fieldOf w 20 0) x.1) x.2 |> advance k i)
        | _ => ringServeGo r n (modRing r (fun g => { g with popQ := rest }) s)
      else match pq with
        | (k, i) :: rest =>
          if g.full then s
          else
            let t := getStream (getCell s k) i
            match t.wait with
            | some (.push _ reg) =>
              let w := getA t reg
              ringServeGo r n (pushEntry r k i (spaceRead (getCell s k) (refSpace w) (fieldOf w 20 0) g.entry)
                (modRing r (fun g => { g with pushQ := rest }) s) |> advance k i)
            | _ => ringServeGo r n (modRing r (fun g => { g with pushQ := rest }) s)
        | [] => s
    | [], (k, i) :: rest =>
      if g.full then s
      else
        let t := getStream (getCell s k) i
        match t.wait with
        | some (.push _ reg) =>
          let w := getA t reg
          ringServeGo r n (pushEntry r k i (spaceRead (getCell s k) (refSpace w) (fieldOf w 20 0) g.entry)
            (modRing r (fun g => { g with pushQ := rest }) s) |> advance k i)
        | _ => ringServeGo r n (modRing r (fun g => { g with pushQ := rest }) s)
    | [], [] => s

/-- Serve the streams blocked on a ring. -/
def ringServe (r : Nat) (s : State) : State :=
  ringServeGo r ((getRing s r).popQ.length + (getRing s r).pushQ.length) s

/-- An engine of the module pops a ring and lets blocked pushes go on. -/
def enginePop (r : Nat) (s : State) : List Byte × State :=
  let x := ringTake r s
  (x.1, ringServe r x.2)

/-- An engine of the module pushes an entry; false when the ring has no place. -/
def enginePush (r : Nat) (d : List Byte) (s : State) : State × Bool :=
  let g := getRing s r
  if g.alloc ∧ !g.full then (ringServe r (ringLand r d s), true) else (s, false)

end Sys2Proof.Machine
end

