-- ==== Sys2Proof/Machine/CircTab.lean ====
section
/-!
DEFINITION. The circulator table of the active plan (R191): channels, feed groups, the areas of a shard and
the semaphores that the circulator signals; and the collective table (R340).
-/
namespace Sys2Proof.Machine

/-- The circulator table (R191). -/
def circTab (s : State) : Option Region := s.cfg 0

/-- A field of the circulator table, 0 without one. -/
def circNum (s : State) (off n : Nat) : Nat := match circTab s with | some r => cfgNum s r off n | none => 0

/-- CHANNEL_COUNT. -/
def circCount (s : State) : Nat := circNum s 0 2

/-- FEED_COUNT. -/
def feedCount (s : State) : Nat := circNum s 2 2

/-- A field of channel entry c. -/
def chanNum (s : State) (c off n : Nat) : Nat := circNum s (32 + 64 * c + off) n

/-- A field of feed entry f. -/
def feedNum (s : State) (f off n : Nat) : Nat := circNum s (32 + 64 * circCount s + 48 * f + off) n

/-- PASS is BACKWARD. -/
def chanBack (s : State) (c : Nat) : Bool := chanNum s c 1 1 == 1
/-- KEYMASK. -/
def chanKeymask (s : State) (c : Nat) : Bool := bitAt (chanNum s c 2 1) 0
/-- MASS. -/
def chanMass (s : State) (c : Nat) : Bool := bitAt (chanNum s c 2 1) 1
/-- LAYER. -/
def chanLayer (s : State) (c : Nat) : Nat := chanNum s c 8 4
/-- SHARD_BYTES. -/
def chanShard (s : State) (c : Nat) : Nat := chanNum s c 12 4
/-- MAP_FIRST. -/
def chanMap (s : State) (c : Nat) : Nat := chanNum s c 16 3
/-- MAP_COUNT. -/
def chanPages (s : State) (c : Nat) : Nat := chanNum s c 20 4
/-- K_BLOCK. -/
def chanK (s : State) (c : Nat) : Nat := chanNum s c 44 2
/-- V_BLOCK. -/
def chanV (s : State) (c : Nat) : Nat := chanNum s c 46 2
/-- The key blocks of a shard. -/
def chanBlocks (s : State) (c : Nat) : Nat := chanShard s c / (chanK s c + chanV s c)

/-- The members of the channel's context ring, in ring order (R174). -/
def chanRing (s : State) (c : Nat) : List Nat := (imgGroup s s.act (chanNum s c 4 4)).getD []
/-- R, the members of the ring. -/
def chanR (s : State) (c : Nat) : Nat := (chanRing s c).length
/-- This member's ring position. -/
def chanPos (s : State) (c : Nat) : Nat := (chanRing s c).findIdx (· == s.me)
/-- The ring successor. -/
def chanSucc (s : State) (c : Nat) : Nat := (chanRing s c).getD ((chanPos s c + 1) % max 1 (chanR s c)) 0
/-- The ring predecessor. -/
def chanPred (s : State) (c : Nat) : Nat :=
  (chanRing s c).getD ((chanPos s c + chanR s c - 1) % max 1 (chanR s c)) 0

/-- The ports of PORT_MASK in ascending order, spine ports before quad ports. -/
def chanPorts (s : State) (c : Nat) : List Nat :=
  ((rangeFrom 0 7).filter fun b => bitAt (chanNum s c 3 1) b).map fun b => if b < 4 then 2 * b else 2 * (b - 3) + 1

/-- The Gallery die that answers for a channel in events: the owner of its first port. -/
def chanDie (s : State) (c : Nat) : Nat := (chanPorts s c).headD 0 / 2

/-- Bytes of the gradient area (R191). -/
def gradBytes (s : State) (c : Nat) : Nat :=
  chanBlocks s c * (chanK s c + chanV s c) * if bitAt (chanNum s c 2 1) 2 then 2 else 4

/-- Bytes of the mass area (R191). -/
def massBytes (s : State) (c : Nat) : Nat := if chanMass s c then 4 * chanPages s c else 0

/-- Bytes that a hop carries: the shard, for BACKWARD with gradients and masses; the return hop (number
R) carries gradients and masses alone (R195, R201). -/
def hopBytes (s : State) (c h : Nat) : Nat :=
  let g := if chanBack s c then gradBytes s c + massBytes s c else 0
  if h = chanR s c then g else chanShard s c + g

/-- Units of a hop (R200). -/
def hopUnits (s : State) (c h : Nat) : Nat := ceilDiv (hopBytes s c h) 65536

/-- Bytes of unit u of a hop. -/
def unitLen (s : State) (c h u : Nat) : Nat := min 65536 (hopBytes s c h - 65536 * u)

/-- The HBM offset of a region that the table names. -/
def regionBase (s : State) (num : Nat) : Nat :=
  match imgRegion s s.act num with | some r => r.base | none => 0

/-- Landing buffer of hop h: (h − 1) mod 2 (R195). -/
def landBase (s : State) (c h : Nat) : Nat := regionBase s (chanNum s c (24 + 4 * ((h + 1) % 2)) 4)
/-- GRAD_OWN. -/
def gradOwn (s : State) (c : Nat) : Nat := regionBase s (chanNum s c 32 4)
/-- HOME. -/
def homeBase (s : State) (c : Nat) : Nat := regionBase s (chanNum s c 36 4)

/-- The feed entries of a channel. -/
def chanFeeds (s : State) (c : Nat) : List Nat := rangeFrom (chanNum s c 40 2) (chanNum s c 42 2)

/-- The cells of a feed group. -/
def feedCells (s : State) (f : Nat) : List Nat :=
  (rangeFrom 0 (feedNum s f 8 2)).map fun i => circNum s (feedNum s f 4 4 + 2 * i) 2

/-- RELEASE_RING of a feed group. -/
def feedRing (s : State) (f : Nat) : Nat := feedNum s f 12 4

/-- TOKENS of a feed group. -/
def feedTokens (s : State) (f : Nat) : Nat := feedNum s f 44 2

/-- The semaphores of a logical cell that the circulator signals: feed semaphores and GRAD_SEM (R198,
R201), as (cell, semaphore) pairs. -/
def circSems (s : State) : List (Nat × Nat) :=
  ((rangeFrom 0 (feedCount s)).flatMap fun f => (feedCells s f).flatMap fun l =>
      (l, feedNum s f 10 1) :: (if feedNum s f 11 1 = 0xFF then [] else [(l, feedNum s f 11 1)])) ++
    ((rangeFrom 0 (circCount s)).filter (chanBack s)).map fun c => (chanNum s c 48 2, chanNum s c 50 1)

/-- A wait for the semaphore is a wait for a peer (R204). -/
def circSem (s : State) (k sem : Nat) : Bool := decide (((getCell s k).logical, sem) ∈ circSems s)

/-! ## The collective table -/

/-- COLL_COUNT (R340). -/
def collCount (s : State) : Nat := match s.cfg 5 with | some r => cfgNum s r 0 4 | none => 0

/-- CHUNK_BYTES. -/
def collChunk (s : State) : Nat := match s.cfg 5 with | some r => cfgNum s r 4 4 | none => 0

/-- A field of collective descriptor c (R340). -/
def collNum (s : State) (c off n : Nat) : Nat :=
  match s.cfg 5 with | some r => cfgNum s r (64 + 64 * c + off) n | none => 0

/-- A pop of the ring waits for a peer: it is a LAND_RING (R345). -/
def isLandRing (s : State) (ring : Nat) : Bool :=
  (rangeFrom 0 (collCount s)).any fun c => collNum s c 44 4 == ring

end Sys2Proof.Machine
end

