-- ==== Sys2Proof/Machine/ModeOps.lean ====
section
/-!
DEFINITION. The modes in force and their latching (R456 to R461, R464), and what the near caches act as
(R55, R56).
-/
namespace Sys2Proof.Machine

/-- The bits of MODE_CTL and MODE_STATUS.IN_FORCE that hold the workload (R470). -/
def mWorkload : Nat := 0x3
/-- The bits of the backward arrangement, the stash and the attention. -/
def mStep : Nat := 0x1310
/-- The bit of the attention. -/
def mAttention : Nat := 0x1000
/-- The bit of the service. -/
def mService : Nat := 0x10000

/-- Take the bits of a mask from one mode word and the others from another. -/
def mixModes (mask new old : Nat) : Nat := (old ||| mask) - mask + (new &&& mask)

/-- The active plan supports the values of a mode word (R459). -/
def planSupports (s : State) (v : Nat) : Bool :=
  let b := fun o => match s.cfg 9 with | some r => cfgNum s r o 1 | none => 1
  !s.plan.active ||
    (bitAt (imgWorkloads s s.act) (v % 4) && bitAt (b 0) (fieldOf v 4 4) && bitAt (b 1) (fieldOf v 9 8) &&
      bitAt (b 2) (fieldOf v 12 12))

/-- MODE_STATUS (R470). -/
def modeStatus (s : State) : Nat :=
  s.modes.inForce + bit01 s.lend.on * 2 ^ 20 + bit01 s.pwr.capped * 2 ^ 21 +
    bit01 (s.modes.ctl != s.modes.inForce) * 2 ^ 24 + bit01 s.modes.unsupported * 2 ^ 25

/-- A mask of the mode block. -/
def modeMask (b : Bool) : List Byte := List.replicate 8 (if b then 0xFF#8 else 0#8)

/-- Write the mode block (R460). -/
def writeModeBlock (s : State) : State :=
  match s.cfg 9 with
  | none => s
  | some r =>
    let v := s.modes.inForce
    let st := fieldOf v 9 8
    writeTier 0 (r.base + 64) (toBytes 8 (modeStatus s) ++ modeMask (!bitAt v 4) ++ modeMask (bitAt v 4) ++
      modeMask (bitAt st 1) ++ modeMask (bitAt st 0) ++ modeMask (bitAt v 12) ++ modeMask (v % 4 == 0) ++
      modeMask (v % 4 == 1)) s

/-- A latch: the values come into force, their support is checked, the mode block is written (R458, R460,
R461). -/
def latchTo (v : Nat) (s : State) : State :=
  writeModeBlock { s with modes := { s.modes with inForce := v, unsupported := !planSupports s v } }

/-- The near caches act as operand caches in a state of the module (R55). -/
def opCacheState (st : Nat) : Bool := decide (st ≤ stReady) || st == stRecovery

/-- The near caches change what they act as, and lose their contents (R56); the cache of a cell whose scratchpad a
test holds stays an operand cache (R55).
DEDUCED: notes/assumptions/108.md. -/
def turnCaches (s : State) : State :=
  { s with cells := s.cells.map fun e =>
      (e.1, if e.2.scratchHeld then e.2 else { e.2 with near := [], opcache := [] }) }

/-- Change SYS_STATE with what the near caches act as. -/
def moveSys (st : Nat) (s : State) : State :=
  setSys st (if opCacheState st == opCacheState s.pwr.state then s else turnCaches s)

/-- No generation request runs. -/
def genIdle (s : State) : Bool := s.gen.users.all fun e => e.2.isNone

/-- What latches outside an attempt: a workload into or out of GENERATE, and in GENERATE the attention
when no request runs (R458). -/
def latchWork (s : State) : State :=
  let want := s.modes.ctl
  let now := s.modes.inForce
  if inAttempt s then s
  else
    let v := if want % 4 ≠ now % 4 ∧ (want % 4 = 2 ∨ now % 4 = 2) then mixModes mWorkload want now else now
    let v := if v % 4 = 2 ∧ genIdle s then mixModes mAttention want v else v
    if v = now then s else latchTo v s

/-- The states in which a change to RECOVERY latches once no attempt runs (R464). -/
def recoverable (s : State) : Bool :=
  decide (s.pwr.state ∈ [stReady, stPlanned, stRunning, stHalted]) && !inAttempt s

/-- Latch what can latch now (R458, R464). -/
def latchIdle (s : State) : State :=
  let v := mixModes mService s.modes.ctl s.modes.inForce
  if inRecovery s then
    if bitAt v 16 then s
    else
      let back := if s.modes.saved = stRunning then stPlanned else s.modes.saved
      let s := latchTo v s
      latchWork (if s.pwr.state = stRecovery then moveSys back s else s)
  else if bitAt v 16 then
    if recoverable s then
      moveSys stRecovery (latchTo v { s with modes := { s.modes with saved := s.pwr.state } })
    else latchWork s
  else latchWork s

/-- The modes that STEP_GO brings into force (R458). -/
def goModes (s : State) : Nat :=
  let want := s.modes.ctl
  let now := s.modes.inForce
  let v := mixModes (if now % 4 = 2 ∧ !genIdle s then mStep - mAttention else mStep) want now
  if want % 4 < 2 ∧ now % 4 < 2 then mixModes mWorkload want v else v

end Sys2Proof.Machine
end

