-- ==== Sys2Proof/Machine/Pmap.lean ====
section
/-!
DEFINITION. The page map at the epoch keeper: entries, frames and their counts, limbo and the free
lists, victims, the step log and pins (R212 to R237). What streams see of it stands in Walks.
-/
namespace Sys2Proof.Machine

/-- The 128 bits of map entry key (R212). -/
def pentry (s : State) (key : Nat) : Nat := mreadNum s.hbm (s.pmap.base + 16 * key) 16

/-- GEN of an entry. -/
def peGen (e : Nat) : Nat := fieldOf e 127 96
/-- MODULE of an entry. -/
def peModule (e : Nat) : Nat := fieldOf e 79 66
/-- TIER of an entry. -/
def peTier (e : Nat) : Nat := fieldOf e 65 64
/-- FRAME of an entry. -/
def peFrame (e : Nat) : Nat := fieldOf e 63 40
/-- STATE of an entry: 0 INVALID, 1 RESIDENT, 2 DROPPED, 3 EVICTED, 4 COPYING, 5 RETIRED. -/
def peState (e : Nat) : Nat := fieldOf e 31 28
/-- SEQ_SLOT of an entry. -/
def peSlot (e : Nat) : Nat := fieldOf e 24 5

/-- Replace bits [hi:lo] of a number. -/
def putField (e hi lo v : Nat) : Nat := e - (fieldOf e hi lo) <<< lo + (v % 2 ^ (hi + 1 - lo)) <<< lo

/-- An entry in another state with another place for its page. -/
def pePlace (e st tier frame : Nat) : Nat :=
  putField (putField (putField e 31 28 st) 65 64 tier) 63 40 frame

/-- An entry as the map unit writes it: TIER 0 and FRAME 0 unless it is RESIDENT or COPYING (R213). -/
def peClean (e : Nat) : Nat :=
  if peState e = 1 ∨ peState e = 4 then e else putField (putField e 65 64 0) 63 40 0

/-- The page size in force (R213, R559). -/
def pageSize (s : State) : Nat := 2 ^ (15 + s.pmap.page)

/-- The frame of this module that an entry names (R213, R215). -/
def peNames (e : Nat) : Option FrameId :=
  if (peState e = 1 ∨ peState e = 4) ∧ (peTier e = 1 ∨ peTier e = 2) then some ⟨peTier e, peFrame e⟩ else none

/-- The global address of the page of an entry (R213). -/
def peAddr (s : State) (e : Nat) : Nat :=
  mkGaddr (peModule e) (if peTier e = 3 then 0 else peTier e - 1) (peFrame e * pageSize s)

/-- The FRAME_POOL regions of the active plan in ascending region number (R215). -/
def pools (s : State) : List Region :=
  ((imgRegions s s.act).filter fun r => r.kind == 4).insertionSort fun a b => a.num ≤ b.num

/-- Frame table index of a frame (R215). -/
def frameIndexGo (ps : Nat) (f : FrameId) : List Region → Nat → Option Nat
  | [], _ => none
  | r :: rest, n =>
    let off := f.frame * ps
    if r.tier + 1 = f.tier ∧ r.base ≤ off ∧ off < r.base + r.len then some (n + (off - r.base) / ps)
    else frameIndexGo ps f rest (n + r.len / ps)

/-- Frame table index of a frame. -/
def frameIndex (s : State) (f : FrameId) : Option Nat := frameIndexGo (pageSize s) f (pools s) 0

/-- The HBM offset of a frame's count (R215). -/
def countAddr (s : State) (f : FrameId) : Option Nat :=
  match frameIndex s f, imgKind s s.act 3 with
  | some j, some r => some (r.base + 2 * j)
  | _, _ => none

/-- A frame's reference count. -/
def frameCount (s : State) (f : FrameId) : Nat :=
  match countAddr s f with
  | some a => mreadNum s.hbm a 2
  | none => 0

/-- The map configuration of the active plan (R217). -/
def mapCfg (s : State) : Option Region := s.cfg 1
/-- SLOT_SHIFT. -/
def slotShift (s : State) : Nat := match mapCfg s with | some r => cfgNum s r 1 1 | none => 1
/-- LOW_WATER. -/
def lowWater (s : State) : Nat := match mapCfg s with | some r => cfgNum s r 16 4 | none => 0
/-- RECOMP_RING when it is named. -/
def recompRing (s : State) : Option Nat :=
  (mapCfg s).bind fun r => let n := cfgNum s r 8 4; if n = 0xFFFFFFFF then none else some n
/-- VICTIM_RING when it is named. -/
def victimRing (s : State) : Option Nat :=
  (mapCfg s).bind fun r => let n := cfgNum s r 12 4; if n = 0xFFFFFFFF then none else some n

/-- SLOT_COUNT. -/
def lastSlots (s : State) : Nat := match mapCfg s with | some r => cfgNum s r 20 4 | none => 0

/-- Write into the map configuration, past its header (R217). -/
def mapWrite (off : Nat) (d : List Byte) (s : State) : State :=
  match mapCfg s with
  | some r => writeTier 0 (r.base + 64 + off) d s
  | none => s

/-- The frames of the pool. -/
def poolFrames (s : State) (l : List Region) : Nat := (l.map fun r => r.len / pageSize s).sum

/-- Where the free-list area of the map configuration starts, past its header (R217). -/
def freeArea (s : State) : Nat := 4 * lastSlots s

/-- Where the step log starts, past the header (R217). -/
def logArea (s : State) : Nat := freeArea s + 4 * poolFrames s (pools s)

/-- The FIFO of a tier (R226). -/
def fifo (s : State) (tier : Nat) : List Nat := if tier = 1 then s.pmap.freeHbm else s.pmap.freeDeep

/-- The FIFO of a tier is written into the free-list area (R226): the HBM places first, the head at the first
place of its tier.
DESIGN CHOICE: notes/assumptions/41.md. -/
def storeFree (tier : Nat) (s : State) : State :=
  let at_ := if tier = 1 then 0 else 4 * poolFrames s ((pools s).filter fun r => r.tier == 0)
  mapWrite (freeArea s + at_) ((fifo s tier).flatMap (toBytes 4)) s

/-- Change the FIFO of a tier. -/
def setFifo (tier : Nat) (l : List Nat) (s : State) : State :=
  storeFree tier (if tier = 1 then { s with pmap := { s.pmap with freeHbm := l } }
    else { s with pmap := { s.pmap with freeDeep := l } })

/-- LAST of a slot rises to ordinal o, and the slot table follows (R217, R233). -/
def raiseLast (slot o : Nat) (s : State) : State :=
  let s := { s with pmap := { s.pmap with last := tset 0 s.pmap.last slot (o + 1) } }
  if slot < lastSlots s then mapWrite (4 * slot) (toBytes 4 o) s else s

/-- A step-log record: the index and the state before (R237). -/
def pushLog (key st : Nat) (s : State) : State :=
  mapWrite (logArea s + 8 * s.pmap.log.length) (toBytes 4 key ++ toBytes 4 st)
    { s with pmap := { s.pmap with log := s.pmap.log ++ [(key, st)] } }

/-- A frame that an entry comes to name is neither free nor in limbo (R240).
DEDUCED: notes/assumptions/149.md. -/
def claimFrame (f : FrameId) (s : State) : State :=
  let s := { s with pmap := { s.pmap with limbo := s.pmap.limbo.filter fun x => x.1 != f } }
  if f.frame ∈ fifo s f.tier then setFifo f.tier ((fifo s f.tier).erase f.frame) s else s

/-- One more entry names a frame (R222, R227). -/
def incCount (f : FrameId) (s : State) : State :=
  match countAddr s f with
  | none => s
  | some a =>
    let n := mreadNum s.hbm a 2
    if n < 65535 then writeTier 0 a (toBytes 2 (n + 1)) (if n = 0 then claimFrame f s else s)
    else
      let j := (frameIndex s f).getD 0
      if j ∈ s.pmap.satSeen then s
      else { s with pmap := { s.pmap with satSeen := s.pmap.satSeen ++ [j] } }
        |> raise (mapSrc s) 0x0104 [(20, 4, j)] |> bump (pmapBase + 0x50) 1

/-- No entry names a frame any more: a relocation's record of where it moved, or of what moved into it, ends. -/
def forgetMove (f : FrameId) (s : State) : State :=
  { s with pmap := { s.pmap with moved := s.pmap.moved.filter fun m => m.1 != f && m.2 != f } }

/-- One entry less names a frame; at zero it enters limbo (R222, R226, R227). -/
def decCount (f : FrameId) (s : State) : State :=
  match countAddr s f with
  | none => s
  | some a =>
    let n := mreadNum s.hbm a 2
    if n = 65535 ∨ n = 0 then s
    else
      let s := writeTier 0 a (toBytes 2 (n - 1)) (if n = 1 then forgetMove f s else s)
      if n = 1 ∧ f ∉ s.pmap.gone then { s with pmap := { s.pmap with limbo := s.pmap.limbo ++ [(f, s.pmap.epoch)] } } else s

/-- Run-ahead copies are discarded (R220). -/
def discardAhead (n : Nat) (s : State) : State := bump (pmapBase + 0x38) n s

/-- Every walk loses its run-ahead copy of an entry (R219, R220). -/
def dropAhead (key : Nat) (s : State) : State :=
  let kept := fun (l : List (Nat × Nat)) => l.filter fun x => x.1 != key
  let lost := fun (l : List (Nat × Nat)) => l.length - (kept l).length
  let n := (s.pmap.walks.map fun w => lost w.ahead).sum + (s.circ.chans.map fun e => lost e.2.ahead).sum
  discardAhead n { s with
    pmap := { s.pmap with walks := s.pmap.walks.map fun w => { w with ahead := kept w.ahead } }
    circ := { s.circ with chans := s.circ.chans.map fun e => (e.1, { e.2 with ahead := kept e.2.ahead }) } }

/-- RUNAHEAD of the active plan (R121). -/
def runahead (s : State) : Nat := if s.plan.active then secNum s s.act 6 5 1 else 0

/-- A walker that serves entry key of an extent ending before last reads ahead, up to RUNAHEAD entries (R220).
How many it has read is open.
DESIGN CHOICE: notes/assumptions/165.md. -/
def readAhead (key last : Nat) (ahead : List (Nat × Nat)) (s : State) : List (Nat × Nat) × State :=
  let f := takeFree s
  let n := min (f.1 % (runahead s + 1)) (last - (key + 1))
  let new := (rangeFrom (key + 1) n).filter fun k => ahead.all fun x => x.1 != k
  (ahead ++ new.map (fun k => (k, pentry s k)), f.2)

/-- The near caches and the walker caches lose the line of an entry (R38, R219). -/
def dropEntryLine (key : Nat) (s : State) : State :=
  (s.cells.map (·.1)).foldl (fun s k => ncDrop k (s.pmap.base + 16 * key) 16 s) (dropAhead key s)

/-- An edit is recorded in the step log (R237).
DESIGN CHOICE: notes/assumptions/41.md. -/
def logs (s : State) (old new : Nat) : Bool :=
  (mapCfg s).isSome && decide (workload s ≤ 1) && inAttempt s && peState new == 1 &&
    (peState old == 0 || peState old == 2 || peState old == 3 || peState old == 5)

/-- The step log is full (R237).
DEDUCED: notes/assumptions/44.md. -/
def logFull (s : State) : Bool :=
  match mapCfg s with
  | some r => decide (cfgNum s r 24 4 ≤ s.pmap.log.length)
  | none => false

/-- Write an entry: GEN + 1, the new frame counted before and the old one released after (R222);
LAST and the step log follow (R233, R237). -/
def writeEntry (key new : Nat) (s : State) : State :=
  let old := pentry s key
  let new := putField (peClean new) 127 96 (peGen old + 1)
  let s := match peNames new with
    | some f => if peNames old = some f then s else incCount f s
    | none => s
  let s := dropEntryLine key (writeTier 0 (s.pmap.base + 16 * key) (toBytes 16 new) s)
  let s := match peNames old with
    | some f => if peNames new = some f then s else decCount f s
    | none => s
  let o := key % 2 ^ slotShift s
  let s := if peState new = 1 ∧ tget 0 s.pmap.last (peSlot new) ≤ o then raiseLast (peSlot new) o s else s
  if logs s old new then pushLog key (peState old) s else s

/-- PMAP.FREE's write: INVALID with TIER 0; of the rest only SEQ_SLOT and SCORE are kept (R225).
DEDUCED: notes/assumptions/149.md. -/
def freeEntry (key : Nat) (s : State) : State :=
  let e := pentry s key
  writeEntry key (place (fieldOf e 95 80) 16 80 + place (peSlot e) 20 5) s

/-- Carry out one victim candidate, or pass over it (R232). -/
def carryOut (d : List Byte) (s : State) : State :=
  let key := numAt d 0 3
  let e := pentry s key
  match mapCfg s with
  | none => s
  | some r =>
    let o := key % 2 ^ slotShift s
    let last := tget 0 s.pmap.last (peSlot e)
    let ok := decide (key < s.pmap.entries) && peState e == 1 && !bitAt e 27 &&
      (match peNames e with | some f => frameCount s f == 1 | none => false) &&
      decide (peSlot e < cfgNum s r 20 4) && decide (cfgNum s r 2 2 ≤ o) &&
      decide (o + cfgNum s r 4 2 + 1 ≤ last)
    if !ok then s
    else
      let ev := numAt d 4 1 == 1 && evicting s
      writeEntry key (pePlace e (if ev then 3 else 2) 0 0) s
        |> bump (pmapBase + 0x40) 1 |> raise (mapSrc s) 0x0302 [(20, 4, key), (24, 1, bit01 ev)]

/-- Take candidates until the FIFO reaches LOW_WATER or the ring is empty (R232). -/
def takeVictims (ring tier : Nat) : Nat → State → State
  | 0, s => { s with pmap := { s.pmap with victimEmpty := true } }
  | n + 1, s =>
    if lowWater s ≤ (fifo s tier).length ∧ fifo s tier ≠ [] then { s with pmap := { s.pmap with victimEmpty := false } }
    else if (getRing s ring).len = 0 then { s with pmap := { s.pmap with victimEmpty := true } }
    else
      let x := enginePop ring s
      takeVictims ring tier n (carryOut x.1 x.2)

/-- Before an allocation the map unit takes candidates when the FIFO is low or empty (R232). The number bounds
the entries of the ring and of the pushes that wait for room in it. -/
def refillFifo (tier : Nat) (s : State) : State :=
  if (fifo s tier).length < lowWater s ∨ fifo s tier = [] then
    match victimRing s with
    | some ring => takeVictims ring tier ((getRing s ring).depth + (getRing s ring).pushQ.length + s.pushes.length + 1) s
    | none => s
  else s

/-- Take the head of the FIFO of a tier, after candidates when it is low (R226, R232). -/
def allocFrame (tier : Nat) (s : State) : Option FrameId × State :=
  let s := refillFifo tier s
  match fifo s tier with
  | [] => (none, s)
  | f :: rest => (some ⟨tier, f⟩, setFifo tier rest s)

/-- A frame goes back to the tail of its FIFO, unless it is retired (R226). -/
def returnFrame (f : FrameId) (s : State) : State :=
  if f ∈ s.pmap.gone then s else setFifo f.tier (fifo s f.tier ++ [f.frame]) s

/-- Frames whose tag is two epochs old leave limbo (R226). -/
def leaveLimbo (s : State) : State :=
  let out := s.pmap.limbo.filter fun x => decide (x.2 + 2 ≤ s.pmap.epoch)
  let s := { s with pmap := { s.pmap with limbo := s.pmap.limbo.filter fun x => decide (s.pmap.epoch < x.2 + 2) } }
  out.foldl (fun s x => returnFrame x.1 s) s

/-- A holder takes a pin at the present epoch, unless it holds one (R228). -/
def takePin (w : PinHolder) (s : State) : State :=
  if s.pmap.pins.any fun p => p.who == w then s
  else { s with pmap := { s.pmap with pins := s.pmap.pins ++ [⟨w, s.pmap.epoch, s.pmap.pinNo⟩]
                                      pinNo := s.pmap.pinNo + 1 } }

/-- The edits that wait or run, relocations among them, by number. -/
def editsNow (s : State) : List Nat :=
  s.pmap.edits.map (·.no) ++ s.pmap.cows.map (·.no) ++ s.pmap.relocs.map (·.no)

/-- A fence has passed (R230). -/
def fenceDone (s : State) (f : FenceSnap) : Bool :=
  f.pins.all (fun p => decide (p ∉ s.pmap.pins)) && f.edits.all (fun e => decide (e ∉ editsNow s))

/-- Let the fences that have passed go on (R230, R560). -/
def fenceCheck (s : State) : State :=
  let out := s.pmap.fenceStreams.filter fun x => fenceDone s x.2.2
  let left := s.pmap.fenceStreams.filter fun x => !fenceDone s x.2.2
  let host := match s.pmap.fenceHost with
    | some f => if fenceDone s f then none else some f
    | none => none
  out.foldl (fun s x => advance x.1 x.2.1 s) { s with pmap := { s.pmap with fenceStreams := left, fenceHost := host } }

/-- A holder releases its pin (R228). -/
def dropPin (w : PinHolder) (s : State) : State :=
  fenceCheck { s with pmap := { s.pmap with pins := s.pmap.pins.filter fun p => p.who != w } }

/-- The map indices of the entries that memory lists. -/
def liveKeys (s : State) : List Nat :=
  (s.hbm.filter fun e => decide (s.pmap.base ≤ e.1) && decide (e.1 < s.pmap.base + 16 * s.pmap.entries)).foldl
    (fun l e => let k := (e.1 - s.pmap.base) / 16; if l.getLast? = some k then l else l ++ [k]) []

/-- Every entry that names a frame becomes RETIRED and the frame leaves the pool (R236). -/
def retireFrame (f : FrameId) (s : State) : State :=
  let s := claimFrame f { s with pmap := { s.pmap with gone := insertNew s.pmap.gone f } }
  ((liveKeys s).filter fun k => peNames (pentry s k) == some f).foldl
    (fun s k => writeEntry k (pePlace (pentry s k) 5 0 0) s) s

end Sys2Proof.Machine
end

