-- ==== Sys2Proof/Machine/Framing.lean ====
section
/-!
DEFINITION. The ports as a sender sees them, the bytes of a transport frame (*Gallery transport header*), and what
a port puts around it (*Frame layout on the two port kinds*, R314, R320 to R322, R330, R332).
-/
namespace Sys2Proof.Machine

/-- The port of key 2 g + p (R337). -/
def getPort (s : State) (p : Nat) : Port := tget {} s.ports p
/-- Change one port. -/
def modPort (p : Nat) (f : Port → Port) (s : State) : State := { s with ports := tmod {} s.ports p f }
/-- The module has the port: Gallery 0 has no quad port (R337). -/
def portOk (die p : Nat) : Bool := decide (die < 4) && (p == 0 || (p == 1 && die != 0))
/-- The port is UP. -/
def portUp (s : State) (p : Nat) : Bool := (getPort s p).st == .up

/-- The key of a flow's contexts: peer, port and class (R326).
DEDUCED: notes/assumptions/34.md. -/
def flowKey (port peer cls : Nat) : Nat := (peer * 8 + port) * 4 + cls
/-- A send context. -/
def getSend (s : State) (k : Nat) : SendCtx := tget {} s.sends k
/-- Change a send context. -/
def modSend (k : Nat) (f : SendCtx → SendCtx) (s : State) : State := { s with sends := tmod {} s.sends k f }
/-- A receive context. -/
def getRecv (s : State) (k : Nat) : RecvCtx := tget {} s.recvs k
/-- Change a receive context. -/
def modRecv (k : Nat) (f : RecvCtx → RecvCtx) (s : State) : State := { s with recvs := tmod {} s.recvs k f }

/-- The quad peer of Gallery die g = 1, 2, 3, whose quad ports are A, B, C (R15, R336). -/
def quadPeer (s : State) (g : Nat) : Nat := s.me ^^^ g

/-- The port that takes traffic for a chosen port (R317). -/
def choosePort (s : State) (want : Nat) : Option Nat :=
  let g := want / 2
  if portUp s want then some want
  else if want % 2 = 1 ∧ portUp s (2 * g) then some (2 * g)
  else ([1, 2, 3].map fun k => 2 * ((g + k) % 4)).find? (portUp s)

/-- The priority of a class (R332). -/
def priority (cls : Nat) : Nat := if cls = 0 then 6 else if cls = 3 then 2 else 4

/-- A field of a frame's class area, by its byte of the header. -/
def fld (f : Frame) (off n : Nat) : Nat := numAt f.area (off - 44) n

/-- A frame of a swap: a Bell message of KIND 4 (R359). -/
def isSwapFrame (f : Frame) : Bool := f.cls == 0 && fld f 44 1 == 4

/-- An image is staged or its swap waits, so swap messages are exchanged under it: a master takes
SWAP_READY before its own member has come so far (R137, R359). -/
def swapHeld (s : State) : Bool := s.plan.swap != .idle || s.plan.staged == .staged

/-- The image whose identity a frame carries (R359). -/
def frameImg (s : State) (f : Frame) : Nat := if isSwapFrame f && swapHeld s then s.stg else s.act

/-- The IPv6 address that a frame goes to on a spine port (R320). -/
def destAddr (s : State) (port : Nat) (f : Frame) : Nat := imgSpineAddr s (frameImg s f) f.dst (port / 2)

/-- The MAC address of the destination is known, or none is needed (R321, R322). -/
def resolved (s : State) (port : Nat) (f : Frame) : Bool :=
  port % 2 == 1 || (getPort s port).ctl.nhMode || (tget {} (getPort s port).nbrs (destAddr s port f)).mac.isSome

/-! ## The bytes of a frame -/

/-- The 64 bytes of the transport header (*Gallery transport header*). -/
def headerBytes (f : Frame) : List Byte :=
  toBytes 1 f.version ++ toBytes 1 f.typ ++ toBytes 1 f.cls ++ toBytes 1 (bit01 f.retx + 2 * bit01 f.resp) ++
    toBytes 4 f.psn ++ toBytes 8 f.setId ++ toBytes 8 f.cookie ++ toBytes 2 f.src ++ toBytes 2 f.dst ++
    toBytes 2 f.payload.length ++ toBytes 1 f.path ++ toBytes 1 f.status ++ toBytes 8 f.epoch ++
    toBytes 4 f.planTag ++ sliceBytes f.area 0 20

/-- The trailer of a frame: CRC-32C over the transport header and the payload. -/
def frameCrc (f : Frame) : Nat := (crc32c (headerBytes f ++ f.payload)).toNat

/-- The bytes of a number in network order. -/
def netBytes (n v : Nat) : List Byte := (toBytes n v).reverse

/-- The sum of the 16-bit words of a list of bytes, in network order. -/
def sum16 : List Byte → Nat
  | [] => 0
  | [a] => 256 * a.toNat
  | a :: b :: l => 256 * a.toNat + b.toNat + sum16 l

/-- A sum below 2^32 with its carries added in, in 16 bits (RFC 768). -/
def foldCarry (n : Nat) : Nat := let m := n % 65536 + n / 65536; m % 65536 + m / 65536

/-- The UDP checksum over the pseudo-header of IPv6, the UDP header and the datagram (RFC 768, R320). An address is
taken with its bytes as GROUPS gives them.
DEDUCED: notes/assumptions/170.md. -/
def udpSum (src dst sport dport : Nat) (body : List Byte) : Nat :=
  let len := 8 + body.length
  let n := foldCarry (sum16 (toBytes 16 src ++ toBytes 16 dst ++ netBytes 4 len ++ netBytes 4 17 ++
    netBytes 2 sport ++ netBytes 2 dport ++ netBytes 2 len ++ netBytes 2 0 ++ body))
  if n = 0xFFFF then 0xFFFF else 0xFFFF - n

/-! ## What a port puts around a frame -/

/-- The fused MAC address of a port: globally administered and unicast, and another one on each port (R314).
DESIGN CHOICE: notes/assumptions/169.md. -/
def portMac (p : Nat) : Nat :=
  let v := (Config.portMac p).toNat
  v / 2 ^ 42 * 2 ^ 42 + v % 2 ^ 40 / 8 * 8 + p % 8

/-- The MAC address that a frame is sent to (R321, R322). -/
def nextMac (s : State) (port : Nat) (f : Frame) : Nat :=
  let q := getPort s port
  if port % 2 = 1 then q.quadMac.getD (2 ^ 48 - 1)
  else if q.ctl.nhMode then q.nhMac
  else (tget {} q.nbrs (destAddr s port f)).mac.getD 0

/-- The DSCP of a class (R320, R337). -/
def dscpOf (s : State) (port cls : Nat) : Nat := fieldOf (getPort s port).dscp (8 * cls + 5) (8 * cls)

/-- ECT(0) on DATA frames of CIRC, COLL and MOVE with ECN_EN, Not-ECT on the others (R330). -/
def ecnOf (s : State) (port : Nat) (f : Frame) : Nat :=
  if (getPort s port).ctl.ecnEn && f.typ == 0 && f.cls != 0 then 2 else 0

/-- The IPv6 and UDP headers of a frame on a spine port (R320). -/
def ipHdr (s : State) (port : Nat) (f : Frame) : IpHdr :=
  let b := frameImg s f
  let src := imgSpineAddr s b f.src (port / 2)
  let dst := destAddr s port f
  { src := src, dst := dst, hopLimit := 64, dscp := dscpOf s port f.cls, ecn := ecnOf s port f, label := f.path
    sport := 49152 + f.path, dport := imgUdpPort s b
    sum := udpSum src dst (49152 + f.path) (imgUdpPort s b) (headerBytes f ++ f.payload ++ toBytes 4 (frameCrc f)) }

/-- What a port puts around a frame. -/
def linkHdr (s : State) (port : Nat) (f : Frame) : LinkHdr :=
  let c := (getPort s port).ctl
  let spine := port % 2 == 0
  { dstMac := nextMac s port f, srcMac := portMac port, etherType := if spine then 0x86DD else 0x88B5
    vlan := if spine && c.vlanEn then some (c.vid, priority f.cls) else none
    ip := if spine then some (ipHdr s port f) else none
    trailer := frameCrc f }

/-- The bytes of a text. -/
def ascii (l : List Char) : List Byte := l.map fun c => BitVec.ofNat 8 c.toNat

/-- The LLDP frame of a port (R336): to the nearest bridge, with the serial number without its padding.
PRESUMED: notes/assumptions/171.md. -/
def lldpFrame (port : Nat) : Lldp :=
  { dstMac := 0x0180C200000E, ttl := 120, chassis := portMac 0
    portId := if port % 2 = 0 then ascii ['s', 'p', 'i', 'n', 'e'] ++ [BitVec.ofNat 8 (48 + port / 2)]
      else ascii ['q', 'u', 'a', 'd'] ++ [BitVec.ofNat 8 (64 + port / 2)]
    sysName := ascii ['C', 'X', '-', '8', ' '] ++ serialBytes.takeWhile (· != 0#8) }

end Sys2Proof.Machine
end

