-- ==== Sys2Proof/Machine/Net.lean ====
section
/-!
DEFINITION. The sending side of the Gallery transport (R316, R317, R326 to R333) and the framing of Bell messages
(R354). The pacing of R331 is time and is not modelled: a frame leaves as soon as its port, its priority, its
window and its address allow it, and of the frames that can leave together in the order of R333.
-/
namespace Sys2Proof.Machine

/-- A frame of a class can leave a port now. -/
def departs (s : State) (port : Nat) (f : Frame) : Bool :=
  portUp s port && decide (priority f.cls ∉ (getPort s port).paused) && resolved s port f

/-- Put something on the wire; it counts in PORT_TX_FRAMES.
DEDUCED: notes/assumptions/37.md. -/
def emit (port : Nat) (item : WireItem) (s : State) : State :=
  bump (portBase port + 0x100) 1 { s with wire := s.wire ++ [⟨port / 2, port % 2, item⟩] }

/-- Send the first solicitation for an address that is not being resolved (R321).
DESIGN CHOICE: notes/assumptions/35.md. -/
def resolve (port : Nat) (f : Frame) (s : State) : State :=
  let a := destAddr s port f
  if portUp s port && !resolved s port f && (tget {} (getPort s port).nbrs a).tries == 0 then
    emit port (.solicit a) (modPort port (fun p => { p with nbrs := tset {} p.nbrs a ⟨none, 1⟩ }) s)
  else s

/-- Path tags in use on a port (R329).
DEDUCED: notes/assumptions/38.md. -/
def npaths (s : State) (port : Nat) : Nat := (getPort s port).ctl.npaths + 1

/-- Put a transport frame on the wire; one that belongs to another port's flow says so (R316).
DEDUCED: notes/assumptions/34.md. -/
def emitFrame (port flow : Nat) (f : Frame) (s : State) : State :=
  emit port (.transport (linkHdr s port f) { f with flow := if flow = port then none else some flow }) s

/-- A SACK or CNP frame: it takes no PSN and is not held (R326). -/
def plainFrame (f : Frame) : Bool := f.typ == 1 || f.typ == 2

/-- Let one frame of a flow leave a port, or leave it waiting. SACK and CNP frames take no PSN; BELL frames take one
and are not held (R326). A frame that was sent before leaves again on the path tag after its last one (R329).
DEDUCED: notes/assumptions/38.md. -/
def pumpOne (port k : Nat) (h : Held) (s : State) : State :=
  let f := h.frame
  let c := getSend s k
  if h.due then
    let f := { f with retx := true, path := (f.path + 1) % npaths s port }
    emitFrame port (k / 4 % 8) f (modSend k (fun c => { c with unacked := c.unacked.map fun g =>
      if g.frame.psn = f.psn then { g with frame := f, allowance := true, due := false } else g }) s)
      |> bump (portBase port + 0x110) 1
  else if plainFrame f then emitFrame port (f.flow.getD port) { f with flow := none } s
  else if f.cls = 0 ∨ c.unacked.length < 1024 then
    let f := { f with psn := c.psn, path := c.psn % npaths s port }
    emitFrame port port f (modSend k (fun c => { c with
      psn := (c.psn + 1) % 2 ^ 32
      unacked := if f.cls = 0 then c.unacked else c.unacked ++ [{ h with frame := f }] }) s)
  else modSend k (fun c => { c with waiting := c.waiting ++ [h] }) s

/-! ## The order on a port -/

/-- Elements of a list in turns (R200, R342): the first unit of each source in ascending order, then the second of
each, and so on; elements of one unit stay together. -/
def inTurns {α : Type} (source unit : α → Nat) (l : List α) : List α :=
  let ranked := l.foldl (fun (acc : List (Nat × Nat × Nat × α)) e =>
    let mine := (acc.filter fun x => x.2.1 == source e).map fun x => (x.2.2.1, x.1)
    let rank := match mine.find? fun x => x.1 == unit e with
      | some x => x.2
      | none => mine.foldl (fun n x => max n (x.2 + 1)) 0
    acc ++ [(rank, source e, unit e, e)]) []
  (ranked.insertionSort fun a b => a.1 < b.1 ∨ (a.1 = b.1 ∧ a.2.1 ≤ b.2.1)).map fun x => x.2.2.2

/-- A class that waits for its share of a port: the bytes it has sent, in units of its weight, and its frames. -/
structure TxClass where
  cls : Nat
  factor : Nat
  cost : Nat
  frames : List (Nat × Held)

/-- The frames of classes in the order in which they leave: the class that has sent the fewest bytes for its weight
goes first (R333); the number bounds the frames.
DESIGN CHOICE: notes/assumptions/172.md. -/
def byWeight : Nat → List TxClass → List (Nat × Held)
  | 0, _ => []
  | n + 1, cs =>
    match cs.filter fun c => !c.frames.isEmpty with
    | [] => []
    | c :: rest =>
      let best := rest.foldl (fun a b => if b.cost < a.cost then b else a) c
      match best.frames with
      | [] => []
      | e :: _ => e :: byWeight n (cs.map fun x =>
          if x.cls = best.cls then
            { x with cost := x.cost + x.factor * (68 + e.2.frame.payload.length), frames := x.frames.tail }
          else x)

/-- The order in which frames that can leave a port do so: BELL, then SACK and CNP, then CIRC, COLL and MOVE by
weight 2 : 2 : 1 (R333); channels in turns by units of 64 KiB (R200), collectives in turns by frames (R342). -/
def txOrder (l : List (Nat × Held)) : List (Nat × Held) :=
  let data := fun n => l.filter fun e => !plainFrame e.2.frame && e.2.frame.cls == n
  let circ := inTurns (fun e => fld e.2.frame 44 1) (fun e => fld e.2.frame 48 4 * 65536 + fld e.2.frame 60 4 / 65536) (data 1)
  let coll := inTurns (fun e => fld e.2.frame 44 4 % 4096) (fun e => numAt e.2.frame.area 0 20) (data 2)
  data 0 ++ (l.filter fun e => plainFrame e.2.frame) ++
    byWeight l.length [⟨1, 1, 0, circ⟩, ⟨2, 1, 0, coll⟩, ⟨3, 2, 0, data 3⟩]

/-- The frames that want a port, with the flow of each: those waiting in its flows, and those to be sent again
whose flow has this port, or this one in its place (R316). -/
def txWaiting (s : State) (port : Nat) : List (Nat × Held) :=
  (s.sends.flatMap fun e => if choosePort s (e.1 / 4 % 8) = some port then
      (e.2.unacked.filter (·.due)).map fun h => (e.1, h) else []) ++
  (s.sends.flatMap fun e => if e.1 / 4 % 8 = port then e.2.waiting.map fun h => (e.1, h) else [])

/-- Let the frames that want a port leave, as far as it takes them; for an address that is not known the first
solicitation goes out. -/
def pumpPort (s : State) (port : Nat) : State :=
  let all := txWaiting s port
  let taken := (s.sends.map (·.1)).foldl (fun t k => if k / 4 % 8 = port then
    modSend k (fun c => { c with waiting := c.waiting.filter fun h => !departs s port h.frame }) t else t) s
  let sent := (txOrder (all.filter fun e => departs s port e.2.frame)).foldl (fun t e => pumpOne port e.1 e.2 t) taken
  (all.filter fun e => !departs s port e.2.frame).foldl (fun t e => resolve port e.2.frame t) sent

/-- Put a frame behind the others of its flow at the port chosen for it; without one it waits at the port it wants
(R317).
DEDUCED: notes/assumptions/34.md. -/
def enqueue (want : Nat) (h : Held) (s : State) : State :=
  let port := (choosePort s want).getD want
  modSend (flowKey port h.frame.dst h.frame.cls) (fun c => { c with waiting := c.waiting ++ [h] }) s

/-- Hand a frame to the port chosen for it, which sends what it can. -/
def handOff (want : Nat) (h : Held) (s : State) : State := pumpPort (enqueue want h s) ((choosePort s want).getD want)

/-- The frames that wait in a flow move to another port when its own is not UP (R316). -/
def moveKey (s : State) (k : Nat) : State :=
  let port := k / 4 % 8
  if portUp s port then s
  else (getSend s k).waiting.foldl (fun s h => enqueue port h s) (modSend k (fun c => { c with waiting := [] }) s)

/-- The ports of the module, by key 2 g + p (R337). -/
def allPorts : List Nat := [0, 2, 3, 4, 5, 6, 7]

/-- Let every frame that can leave do so: after a port comes UP or a pause ends. -/
def pumpPorts (s : State) : State := allPorts.foldl pumpPort ((s.sends.map (·.1)).foldl moveKey s)

/-- A frame from this member: identity and epoch of its image (R320, R359). -/
def mkFrame (s : State) (staged : Bool) (peer typ cls : Nat) (area payload : List Byte) : Frame :=
  let b := if staged then s.stg else s.act
  { typ := typ, cls := cls, setId := imgSetId s b, cookie := imgCookie s b, src := imgSetIndex s b, dst := peer
    epoch := if staged then imgEpoch s b else s.steps.epoch
    planTag := ofBytes ((imgDigest s b).take 4), area := sliceBytes area 0 20, payload := payload }

/-- Send a held frame again, by another port when its flow's is not UP, as soon as a port takes it (R316, R327). -/
def resendHeld (port peer cls psn : Nat) (s : State) : State :=
  let s := modSend (flowKey port peer cls) (fun c => { c with unacked := c.unacked.map fun h =>
    if h.frame.psn = psn then { h with due := true } else h }) s
  match choosePort s port with
  | some out => pumpPort s out
  | none => s

/-- The SACK of a receive context (R327): the PSN before the next one expected, and a bit for each of
the 1,024 PSNs that follow it.
DEDUCED: notes/assumptions/30.md. -/
def sackPayload (c : RecvCtx) : List Byte :=
  toBytes 128 ((rangeFrom 0 1024).foldl (fun n i => if (c.cum + i) % 2 ^ 32 ∈ c.marks then n + 2 ^ i else n) 0)

/-- Send a SACK of a flow (R327). -/
def sendSack (port peer cls status : Nat) (s : State) : State :=
  let k := flowKey port peer cls
  let c := getRecv s k
  let f := { mkFrame s false peer 1 cls [] (sackPayload c) with flow := some port }
  handOff port { frame := { f with psn := (c.cum + 2 ^ 32 - 1) % 2 ^ 32, status := status } }
    (modRecv k (fun c => { c with pending := 0 }) s)

/-- Send a CNP of a flow (R330).
DEDUCED: notes/assumptions/58.md. -/
def sendCnp (port peer cls : Nat) (s : State) : State :=
  handOff port { frame := { mkFrame s false peer 2 cls [] [] with flow := some port } } s |> bump (portBase ((choosePort s port).getD port) + 0x148) 1

/-- Discard the unacknowledged and waiting frames of CIRC and COLL (R299, R203, R361). -/
def dropAttemptFrames (s : State) : State :=
  (s.sends.map (·.1)).foldl (fun s k =>
    if k % 4 = 1 ∨ k % 4 = 2 then modSend k (fun c => { c with
      unacked := []
      waiting := c.waiting.filter fun h => h.frame.typ == 1 || h.frame.typ == 2 }) s else s) s

/-- The 20 bytes of a Bell message (R354). -/
def BellMsg.bytes (m : BellMsg) : List Byte :=
  toBytes 1 m.kind ++ toBytes 1 m.code ++ toBytes 1 m.chan ++ toBytes 1 m.ackChan ++ toBytes 4 m.group ++
    toBytes 4 m.seq ++ toBytes 8 m.value

/-- The Bell message of a frame (R354). -/
def bellOf (f : Frame) : BellMsg :=
  ⟨fld f 44 1, fld f 45 1, fld f 46 1, fld f 47 1, fld f 48 4, fld f 52 4, fld f 56 8, f.payload⟩

end Sys2Proof.Machine
end

