-- ==== Sys2Proof/Machine/Send.lean ====
section
/-!
DEFINITION. Sending on the Bell path (R354, R358, R359), the reports of a member to its master
(R288, R293, R294, R301) and the fields of SCHEDULE that time them (R127).
-/
namespace Sys2Proof.Machine

/-- The image whose GROUPS a Bell message uses: the staged one for a swap (R137, R359).
DEDUCED: notes/assumptions/32.md. -/
def bellStaged (s : State) (m : BellMsg) : Bool := swapHeld s && m.kind == 4

/-- This member's index in the image of a message. -/
def bellMe (s : State) (m : BellMsg) : Nat := imgSetIndex s (if bellStaged s m then s.stg else s.act)

/-- Put a Bell message on spine port 0 (R354). Before a plan is active only swap messages have an identity to
travel under (R335, R359).
DEDUCED: notes/assumptions/32.md. -/
def bellFrame (dst : Nat) (m : BellMsg) (s : State) : State :=
  if !s.plan.active && !bellStaged s m then s
  else handOff 0 { frame := mkFrame s (bellStaged s m) dst 0 0 m.bytes m.payload } s

/-- Send a Bell message. A message of the member to itself does not use the fabric; every other one
but an ACK waits for its ACK (R358). -/
def bellSend (dst : Nat) (m : BellMsg) (s : State) : State :=
  if dst = bellMe s m then { s with bell := { s.bell with selfQ := s.bell.selfQ ++ [(dst, m)] } }
  else
    let b := if m.kind = 2 then s.bell else { s.bell with out := s.bell.out ++ [{ dst := dst, msg := m }] }
    bellFrame dst m { s with bell := b }

/-- The ACK of a message (R354, R358).
DEDUCED: notes/assumptions/32.md. -/
def ackOf (m : BellMsg) : BellMsg :=
  { kind := 2, code := m.kind, chan := m.code, ackChan := m.chan, group := m.group, seq := m.seq, value := m.value }

/-- A step message of the present attempt (R288, R354): 0 STEP_GO, 1 READY, 2 FAIL, 3 COMMIT, 4 ABORT,
5 PROBE, 6 LOST_REPORT. -/
def stepMsg (s : State) (code value : Nat) (payload : List Byte) : BellMsg :=
  { kind := 3, code := code, group := s.steps.attempt, seq := s.steps.step % 2 ^ 32, value := value, payload := payload }

/-- Send a step message. -/
def sendStep (dst code value : Nat) (payload : List Byte) (s : State) : State :=
  bellSend dst (stepMsg s code value payload) s

/-- The member that decides: the set master, or this member as acting master (R301). -/
def masterOf (s : State) : Nat := if s.steps.acting then s.me else imgMaster s s.act

/-- Send FAIL with a code and the source of its cause (R294); after READY no cause is reported. -/
def sendFail (code src : Nat) (s : State) : State :=
  if s.steps.phase = .running then
    sendStep (masterOf s) 2 (code + src * 65536) [] { s with steps := { s.steps with failed := true } }
  else s

/-- A unit reports the first NONFINITE of a CHECKED region (R293). -/
def reportNonfinite (src tensor : Nat) (s : State) : State :=
  if inAttempt s ∧ !s.steps.nonfin then
    raise src 0x0202 [(20, 4, tensor)] { s with steps := { s.steps with nonfin := true } }
      |> sendFail cNonfinite src
  else s

/-- A field of the header of SCHEDULE, or its default (R127). -/
def sched (s : State) (off n dflt : Nat) : Nat :=
  let v := secNum s s.act 8 off n
  if v = 0 then dflt else v

/-- BELL_RETRIES. -/
def bellRetries (s : State) : Nat := sched s 36 1 8

/-- Report a silent peer to the master, or to the backup when the peer is the master (R206, R301,
R358). -/
def reportPeer (peer : Nat) (s : State) : State :=
  let m := masterOf s
  sendStep (if peer = m then imgBackup s s.act else m) 6 peer [] s

end Sys2Proof.Machine
end

