-- ==== Sys2Proof/Machine/GenOps.lean ====
section
/-!
DEFINITION. The generation formation as every unit sees it: its table (R420), progress entries (R422,
R423), the ends of requests (R424, R429) and the order of user slots (R421).
-/
namespace Sys2Proof.Machine

/-- The generation table of the active plan, with GENERATE among its workloads (R420). -/
def genTab (s : State) : Option Region := if bitAt (imgWorkloads s s.act) 2 then s.cfg 8 else none
/-- A field of the generation table, 0 without one. -/
def genNum (s : State) (off n : Nat) : Nat := match genTab s with | some r => cfgNum s r off n | none => 0
/-- CONTEXT (R420). -/
def genContext (s : State) : Nat := 256 * genNum s 2 2
/-- Bytes of a loop-back buffer (R420). -/
def loopBytes (s : State) : Nat := 32 + 4 * (genContext s + 65535)

/-- The request of a user slot. -/
def getUser (s : State) (u : Nat) : Option GenReq := tget none s.gen.users u
/-- Set the request of a user slot. -/
def setUser (u : Nat) (q : Option GenReq) (s : State) : State :=
  { s with gen := { s.gen with users := tset none s.gen.users u q } }

/-- A progress entry (R422). -/
def progressEntry (q : GenReq) (code : Nat) : List Byte :=
  toBytes 4 q.request ++ toBytes 4 q.ids.length ++ toBytes 4 (q.ids.getLast?.getD 0) ++ toBytes 2 code ++
    List.replicate 18 0#8

/-- Push progress entries in order; those that find RETURN_RING full wait (R423). -/
def pushProgress (d : List Byte) (s : State) : State :=
  let r := if s.gen.ringWait = [] then enginePush (genNum s 12 4) d s else (s, false)
  if r.2 then r.1 else { r.1 with gen := { r.1.gen with ringWait := r.1.gen.ringWait ++ [d] } }

/-- Push the entries that wait for room in RETURN_RING, after the host has popped it. -/
def pumpProgress (s : State) : State :=
  s.gen.ringWait.foldl (fun s d => pushProgress d s) { s with gen := { s.gen with ringWait := [] } }

/-- Free a map entry for the map unit: at once, or after its entry has left COPYING (R225). -/
def unitFree (key : Nat) (s : State) : State :=
  if peState (pentry s key) = 0 then s
  else if peState (pentry s key) = 4 then
    { s with pmap := { s.pmap with edits := s.pmap.edits ++ [⟨key, .free, .unit, s.pmap.editNo⟩]
                                   editNo := s.pmap.editNo + 1 } }
  else freeEntry key s

/-- Free every page of a user (R424, R425). -/
def freeUser (u : Nat) (s : State) : State :=
  ((liveKeys s).filter fun k => k / 2 ^ slotShift s == u).foldl (fun s k => unitFree k s) s

/-- Queued requests can start: GENERATE is in force in NORMAL service, and no change of attention waits
(R430, R458). -/
def genOpen (s : State) : Bool :=
  workload s == 2 && !inRecovery s && bitAt s.modes.ctl 12 == bitAt s.modes.inForce 12

/-- Start the oldest queued request in a user slot: its prompt is read over the host link (R421, R422). -/
def startNext (u : Nat) (s : State) : State :=
  match s.gen.queue with
  | [] => s
  | q :: rest =>
    if !genOpen s then s else
    setUser u (some q) { s with gen := { s.gen with queue := rest } }
      |> hostReadRange (.prompt u) q.promptAddr (4 * q.promptLen)

/-- Start queued requests in every free user slot (R421). -/
def startWaiting (s : State) : State :=
  (rangeFrom 0 (genNum s 0 1)).foldl (fun s u => if (getUser s u).isNone then startNext u s else s) s

/-- Latch the modes that can latch now, and start what waited for them. -/
def latchModes (s : State) : State := startWaiting (latchIdle s)

/-- A request ends: its last progress entry, its completion, its count (R422, R431). -/
def endReport (q : GenReq) (code : Nat) (s : State) : State :=
  pushProgress (progressEntry q code) s
    |> bump 0x610 (if code = cOk then 0 else 1)
    |> completeR q.cmd code q.ids.length

/-- A request ends and its slot passes to the oldest queued one (R424). -/
def endUser (u : Nat) (code : Nat) (s : State) : State :=
  match getUser s u with
  | none => s
  | some q =>
    endReport q code s |> freeUser u |> setUser u none
      |> dropReads (fun w => match w with | .prompt v _ => v == u | _ => false) |> latchModes

/-- The sample record that a request writes with LOOPBACK (R396, R429). -/
def loopRecord (q : GenReq) : List Byte :=
  let body := q.prompt ++ q.ids.flatMap (toBytes 4)
  [0x4E#8, 0x47#8, 0x53#8, 0x4D#8, 1#8, 0#8, 1#8, 0#8] ++ toBytes 8 (q.stream * 2 ^ 32 + q.request) ++
    toBytes 4 body.length ++ toBytes 4 body.length ++ toBytes 8 0 ++ body

/-- LOOP_RING of the intake table (R402). -/
def loopRing (s : State) : Option Nat :=
  (s.cfg 7).bind fun r => let n := cfgNum s r 16 4; if n = 0xFFFFFFFF then none else some n

/-- A finished request with LOOPBACK takes a free buffer, writes its record and pushes its offset, or
waits (R429).
DESIGN CHOICE: notes/assumptions/40.md. -/
def loopBack (u : Nat) (s : State) : State :=
  match getUser s u, s.gen.bufFree, loopRing s, imgRegion s s.act (genNum s 24 4) with
  | some q, b :: rest, some ring, some reg =>
    if (getRing s ring).full then setUser u (some { q with finished := true }) s
    else
      let off := reg.base + b * loopBytes s
      writeTier 0 off (loopRecord q) { s with gen := { s.gen with bufFree := rest } }
        |> (fun s => (enginePush ring (toBytes 16 off) s).1)
        |> endUser u cOk
  | some q, _, _, _ => setUser u (some { q with finished := true }) s
  | none, _, _, _ => s

/-- A request ends with OK (R424, R429).
DESIGN CHOICE: notes/assumptions/112.md. -/
def endOk (u : Nat) (s : State) : State :=
  match getUser s u with
  | some q => if q.loopback then loopBack u s else endUser u cOk s
  | none => s

/-- The intake popped a loop-back entry: its buffer is free and a finished request may take it.
DESIGN CHOICE: notes/assumptions/40.md. -/
def freeLoop (off : Nat) (s : State) : State :=
  match imgRegion s s.act (genNum s 24 4) with
  | none => s
  | some reg =>
    let s := { s with gen := { s.gen with bufFree := s.gen.bufFree ++ [(off - reg.base) / loopBytes s] } }
    match (rangeFrom 0 12).find? fun u => match getUser s u with | some q => q.finished | none => false with
    | some u => loopBack u s
    | none => s

/-- End every request of the formation, running and queued; then it takes no more (R424). -/
def endAll (code : Nat) (s : State) : State :=
  let q := s.gen.queue
  let s := { s with gen := { s.gen with isolated := true, queue := [] } }
  let s := (rangeFrom 0 12).foldl (fun s u => endUser u code s) s
  q.foldl (fun s q => endReport q code s) s

/-- The generation formation that a cell belongs to stops (R173, R387, R424). -/
def stopFormation (cell code : Nat) (s : State) : State :=
  if workload s = 2 ∧ s.plan.active ∧ imgFormKind s s.act (imgFormation s s.act (getCell s cell).logical) = some 4 then
    endAll code s
  else s

end Sys2Proof.Machine
end

