-- ==== Sys2Proof/Machine/Num.lean ====
section
/-!
DEFINITION. Number formats, rounding, conversion and block scaling (R67 to R77, R81, R87, R88,
R93). A finite value is carried exactly as a sign, a natural significand and a power of two; every
rounding is one rounding to nearest, ties to even, onto the destination's grid (R74; the grid below
the smallest normal value is the subnormal one, R69; DEDUCED: notes/assumptions/6.md).
-/
namespace Sys2Proof.Machine

/-- A value as a unit of the module computes with it: exact before rounding (R81). -/
inductive Num where
  | nan
  | inf (neg : Bool)
  | fin (neg : Bool) (m : Nat) (e : Int)   -- (−1)^neg × m × 2^e
  deriving DecidableEq, Repr

/-- A floating-point element encoding (R68). kind: 0 IEEE-style with infinities, 1 E4M3 with one NaN
pattern and no infinity, 2 neither. -/
structure FpFmt where
  expBits : Nat
  manBits : Nat
  bias : Nat
  kind : Nat
  nanBits : Nat
  deriving DecidableEq, Repr

/-- FP32 (R68, R70). -/
def fp32 : FpFmt := ⟨8, 23, 127, 0, 0x7FC00000⟩
/-- BF16 (R68, R70). -/
def bf16 : FpFmt := ⟨8, 7, 127, 0, 0x7FC0⟩
/-- FP16 (R68, R70). -/
def fp16 : FpFmt := ⟨5, 10, 15, 0, 0x7E00⟩
/-- FP8 E4M3 (R68, R70). -/
def e4m3 : FpFmt := ⟨4, 3, 7, 1, 0x7F⟩
/-- FP8 E5M2 (R68, R70). -/
def e5m2 : FpFmt := ⟨5, 2, 15, 0, 0x7E⟩
/-- FP6 E2M3 (R68). -/
def e2m3 : FpFmt := ⟨2, 3, 1, 2, 0⟩
/-- FP6 E3M2 (R68). -/
def e3m2 : FpFmt := ⟨3, 2, 3, 2, 0⟩
/-- FP4 E2M1 (R68). -/
def e2m1 : FpFmt := ⟨2, 1, 1, 2, 0⟩

/-- The element encoding of a format code (R67); none for the integer, mask and reserved codes. -/
def elemFmt (code : Nat) : Option FpFmt :=
  match code with
  | 0x0 => some fp32
  | 0x1 => some bf16
  | 0x2 => some fp16
  | 0x3 => some e4m3
  | 0x4 => some e5m2
  | 0x5 => some e4m3
  | 0x6 => some e5m2
  | 0x7 => some e2m3
  | 0x8 => some e3m2
  | 0x9 => some e2m1
  | 0xD => some e4m3
  | 0xE => some e5m2
  | _ => none

/-- Elements of one scaled block: 32 for the MX codes, 128 for 0xD and 0xE, 0 for the rest (R67). -/
def blockLen (code : Nat) : Nat :=
  if 0x5 ≤ code ∧ code ≤ 0x9 then 32 else if code = 0xD ∨ code = 0xE then 128 else 0

/-- Bits of one stored element of a format code (R67, R71). -/
def elemBits (code : Nat) : Nat :=
  match code with
  | 0x0 => 32
  | 0x1 => 16
  | 0x2 => 16
  | 0x7 => 6
  | 0x8 => 6
  | 0x9 => 4
  | 0xB => 32
  | 0xC => 1
  | _ => 8

/-- The multiplier family of R28: 1 FP8, 2 FP6 and FP4, 3 BF16, 4 FP16, 0 for no operand format. -/
def mulFamily (code : Nat) : Nat :=
  if code = 0x1 then 3
  else if code = 0x2 then 4
  else if 0x7 ≤ code ∧ code ≤ 0x9 then 2
  else if (0x3 ≤ code ∧ code ≤ 0x6) ∨ code = 0xD ∨ code = 0xE then 1
  else 0

/-- The exponent of the largest finite value, emax_elem of R72. -/
def emaxOf (f : FpFmt) : Int :=
  if f.kind = 0 then (2 ^ f.expBits : Nat) - 2 - f.bias else (2 ^ f.expBits : Nat) - 1 - f.bias

/-- The significand of the largest finite value, with manBits + 1 bits. -/
def maxSig (f : FpFmt) : Nat :=
  if f.kind = 1 then 2 ^ (f.manBits + 1) - 2 else 2 ^ (f.manBits + 1) - 1

/-- The largest finite value of a format. -/
def maxNum (f : FpFmt) (neg : Bool) : Num := .fin neg (maxSig f) (emaxOf f - f.manBits)

/-- The value that a bit pattern of a format encodes (R68). -/
def fpDecode (f : FpFmt) (bits : Nat) : Num :=
  let neg := bitAt bits (f.expBits + f.manBits)
  let e := fieldOf bits (f.expBits + f.manBits - 1) f.manBits
  let m := bits % 2 ^ f.manBits
  let top := 2 ^ f.expBits - 1
  if f.kind = 0 ∧ e = top then (if m = 0 then .inf neg else .nan)
  else if f.kind = 1 ∧ e = top ∧ m = 2 ^ f.manBits - 1 then .nan
  else if e = 0 then .fin neg m (1 - (f.bias : Int) - f.manBits)
  else .fin neg (2 ^ f.manBits + m) ((e : Int) - f.bias - f.manBits)

/-- m × 2^e rounded to nearest even at the grid of a format, exponents unbounded upward (R74):
the significand and the exponent of its last place. -/
def roundGrid (manBits : Nat) (emin : Int) (m : Nat) (e : Int) : Nat × Int :=
  if m = 0 then (0, emin - manBits) else
  let s := max ((m.log2 : Int) + e) emin - manBits
  if s ≤ e then (m <<< (e - s).toNat, s)
  else
    let k := (s - e).toNat
    let q := m >>> k
    let r := m % 2 ^ k
    let up := 2 * r > 2 ^ k ∨ (2 * r = 2 ^ k ∧ q % 2 = 1)
    let q' := if up then q + 1 else q
    if q' = 2 ^ (manBits + 1) then (2 ^ manBits, s + 1) else (q', s)

/-- The grid of a format. -/
def roundFp (f : FpFmt) (m : Nat) (e : Int) : Nat × Int := roundGrid f.manBits (1 - (f.bias : Int)) m e

/-- A rounded magnitude lies above the largest finite value (R75). -/
def overflows (f : FpFmt) (r : Nat × Int) : Bool :=
  decide (r.1 ≠ 0) &&
    (decide (emaxOf f < (r.1.log2 : Int) + r.2) ||
      (decide ((r.1.log2 : Int) + r.2 = emaxOf f) && decide (maxSig f < r.1)))

/-- The bit pattern of a sign and a rounded magnitude that does not overflow. -/
def packFp (f : FpFmt) (neg : Bool) (r : Nat × Int) : Nat :=
  let s := (bit01 neg) <<< (f.expBits + f.manBits)
  if r.1 < 2 ^ f.manBits then s + r.1
  else s + ((r.2 + f.manBits + f.bias).toNat <<< f.manBits) + (r.1 - 2 ^ f.manBits)

/-- The pattern of an infinity. -/
def infBits (f : FpFmt) (neg : Bool) : Nat :=
  ((bit01 neg) <<< (f.expBits + f.manBits)) + ((2 ^ f.expBits - 1) <<< f.manBits)

/-- A value rounded once to a format of the lanes, an overflow going to infinity and a NaN to the
canonical NaN (R70, R75, R88).
DEDUCED: notes/assumptions/6.md. -/
def fpRound (f : FpFmt) (x : Num) : Nat :=
  match x with
  | .nan => f.nanBits
  | .inf neg => infBits f neg
  | .fin neg m e =>
    let r := roundFp f m e
    if overflows f r then infBits f neg else packFp f neg r

/-- The value of the same after rounding.
DEDUCED: notes/assumptions/6.md. -/
def fpRoundNum (f : FpFmt) (x : Num) : Num := fpDecode f (fpRound f x)

/-- An FP32 pattern as a value. -/
def f32 (n : Nat) : Num := fpDecode fp32 n

/-- The exact negation. -/
def Num.neg : Num → Num
  | .nan => .nan
  | .inf s => .inf (!s)
  | .fin s m e => .fin (!s) m e

/-- The exact magnitude. -/
def Num.abs : Num → Num
  | .nan => .nan
  | .inf _ => .inf false
  | .fin _ m e => .fin false m e

/-- The value is finite. -/
def Num.finite : Num → Bool
  | .fin _ _ _ => true
  | _ => false

/-- The value is a zero of either sign. -/
def Num.isZero : Num → Bool
  | .fin _ m _ => m == 0
  | _ => false

/-- A finite value times a power of two (R99). -/
def Num.scale (x : Num) (k : Int) : Num :=
  match x with
  | .fin s m e => .fin s m (e + k)
  | y => y

/-- A signed significand at exponent lo ≤ e. -/
def alignTo (neg : Bool) (m : Nat) (e lo : Int) : Int :=
  let v : Int := (m <<< (e - lo).toNat : Nat)
  if neg then -v else v

/-- The exact sum (R87, IEEE 754-2019 for special values and signed zeros). -/
def Num.add (a b : Num) : Num :=
  match a, b with
  | .nan, _ => .nan
  | _, .nan => .nan
  | .inf s, .inf t => if s = t then .inf s else .nan
  | .inf s, .fin _ _ _ => .inf s
  | .fin _ _ _, .inf t => .inf t
  | .fin s m e, .fin t n f =>
    if m = 0 ∧ n = 0 then .fin (s && t) 0 0
    else
      let lo := min e f
      let v := alignTo s m e lo + alignTo t n f lo
      .fin (decide (v < 0)) v.natAbs lo

/-- The exact difference. -/
def Num.sub (a b : Num) : Num := a.add b.neg

/-- The exact product (R81, R87). -/
def Num.mul (a b : Num) : Num :=
  match a, b with
  | .nan, _ => .nan
  | _, .nan => .nan
  | .inf s, .inf t => .inf (s ^^ t)
  | .inf s, .fin t m _ => if m = 0 then .nan else .inf (s ^^ t)
  | .fin s m _, .inf t => if m = 0 then .nan else .inf (s ^^ t)
  | .fin s m e, .fin t n f => .fin (s ^^ t) (m * n) (e + f)

/-- The quotient, carried far enough below the last place of any format that one rounding of it is
the rounding of the exact quotient (R88: division is correctly rounded). -/
def Num.div (a b : Num) : Num :=
  match a, b with
  | .nan, _ => .nan
  | _, .nan => .nan
  | .inf _, .inf _ => .nan
  | .inf s, .fin t _ _ => .inf (s ^^ t)
  | .fin s _ _, .inf t => .fin (s ^^ t) 0 0
  | .fin s m e, .fin t n f =>
    if n = 0 then (if m = 0 then .nan else .inf (s ^^ t))
    else
      let k := 64 + n.log2
      let q := (m <<< k) / n
      let sticky := if (m <<< k) % n = 0 then 0 else 1
      .fin (s ^^ t) (2 * q + sticky) (e - f - k - 1)

/-- Bitwise integer square root: the bits below b of the root of n are still to be found. -/
def isqrtFrom : Nat → Nat → Nat → Nat
  | 0, _, r => r
  | b + 1, n, r =>
    let c := r + 2 ^ b
    isqrtFrom b n (if c * c ≤ n then c else r)

/-- The integer square root, rounded down. -/
def isqrt (n : Nat) : Nat := isqrtFrom (n.log2 / 2 + 1) n 0

/-- The square root, carried far enough for one rounding (R88: square root is correctly rounded). -/
def Num.sqrt (a : Num) : Num :=
  match a with
  | .nan => .nan
  | .inf s => if s then .nan else .inf false
  | .fin s m e =>
    if m = 0 then .fin s 0 0
    else if s then .nan
    else
      let k : Nat := if (e % 2 : Int) = 0 then 64 else 65
      let n := m <<< k
      let r := isqrt n
      let sticky := if r * r = n then 0 else 1
      .fin false (2 * r + sticky) ((e - k) / 2 - 1)

/-- An integer as an exact value. -/
def Num.ofInt (i : Int) : Num := .fin (decide (i < 0)) i.natAbs 0

/-- Exact order of two finite magnitudes with signs: a < b, −0 and +0 equal. -/
def finLt (s : Bool) (m : Nat) (e : Int) (t : Bool) (n : Nat) (f : Int) : Bool :=
  let lo := min e f
  decide (alignTo s m e lo < alignTo t n f lo)

/-- IEEE comparison a < b, false when either is a NaN. -/
def Num.lt (a b : Num) : Bool :=
  match a, b with
  | .nan, _ => false
  | _, .nan => false
  | .inf s, .inf t => s && !t
  | .inf s, .fin _ _ _ => s
  | .fin _ _ _, .inf t => !t
  | .fin s m e, .fin t n f => finLt s m e t n f

/-- IEEE equality, false when either is a NaN; −0 equals +0. -/
def Num.eqv (a b : Num) : Bool :=
  match a, b with
  | .nan, _ => false
  | _, .nan => false
  | x, y => !x.lt y && !y.lt x

/-- The order of R93 on values that are not NaN: −0.0 ranks below +0.0. -/
def Num.ranksBelow (a b : Num) : Bool :=
  a.lt b ||
    (match a, b with
    | .fin s m _, .fin t n _ => m == 0 && n == 0 && s && !t
    | _, _ => false)

/-- The maximum of R93 and R88: a NaN wins, among equal ranks the first. -/
def Num.max (a b : Num) : Num :=
  match a, b with
  | .nan, _ => .nan
  | _, .nan => .nan
  | x, y => if x.ranksBelow y then y else x

/-- The minimum of R93 and R88: a NaN wins, among equal ranks the first. -/
def Num.min (a b : Num) : Num :=
  match a, b with
  | .nan, _ => .nan
  | _, .nan => .nan
  | x, y => if y.ranksBelow x then y else x

/-- The flags and the maximum that writes give to a tensor status word (R77, R78). -/
structure Sts where
  amax : Nat := 0        -- FP32 pattern of a magnitude
  bound : Bool := false
  nonfinite : Bool := false
  overflow : Bool := false
  saturated : Bool := false
  underflow : Bool := false
  empty : Bool := false
  intWrap : Bool := false
  deriving DecidableEq, Repr

/-- OR of the flags, the larger AMAX (R79). -/
def Sts.merge (a b : Sts) : Sts where
  amax := Nat.max a.amax b.amax
  bound := a.bound || b.bound
  nonfinite := a.nonfinite || b.nonfinite
  overflow := a.overflow || b.overflow
  saturated := a.saturated || b.saturated
  underflow := a.underflow || b.underflow
  empty := a.empty || b.empty
  intWrap := a.intWrap || b.intWrap

/-- The 64 bits of a tensor status word (R78). -/
def Sts.toWord (a : Sts) : Nat :=
  (a.amax % 2 ^ 32) <<< 32 + (bit01 a.bound <<< 7) + (bit01 a.nonfinite <<< 6)
    + (bit01 a.overflow <<< 5) + (bit01 a.saturated <<< 4) + (bit01 a.underflow <<< 3)
    + (bit01 a.empty <<< 2) + (bit01 a.intWrap <<< 1)

/-- The fields of a stored tensor status word (R78). -/
def Sts.ofWord (w : Nat) : Sts where
  amax := fieldOf w 63 32
  bound := bitAt w 7
  nonfinite := bitAt w 6
  overflow := bitAt w 5
  saturated := bitAt w 4
  underflow := bitAt w 3
  empty := bitAt w 2
  intWrap := bitAt w 1

/-- What one presented value adds to AMAX (R78): finite magnitudes only, as the nearest FP32 pattern.
DEDUCED: notes/assumptions/153.md. -/
def Sts.seen (x : Num) : Sts :=
  if x.finite then { amax := fpRound fp32 x.abs } else {}

/-- m × 2^e rounded to an integer, to nearest even (R74). -/
def roundUnit (m : Nat) (e : Int) : Nat :=
  if 0 ≤ e then m <<< e.toNat
  else
    let k := (-e).toNat
    let q := m >>> k
    let r := m % 2 ^ k
    if 2 * r > 2 ^ k ∨ (2 * r = 2 ^ k ∧ q % 2 = 1) then q + 1 else q

/-- Conversion into an integer of w bits (R74 to R77). -/
def convInt (w : Nat) (x : Num) : Nat × Sts :=
  match x with
  | .nan => (0, { nonfinite := true })
  | .inf neg => (if neg then 2 ^ (w - 1) else 2 ^ (w - 1) - 1, { nonfinite := true })
  | .fin neg m e =>
    let mag : Int := (roundUnit m e : Nat)
    let v := if neg then -mag else mag
    let hi : Int := (2 ^ (w - 1) : Nat) - 1
    let lo : Int := -((2 ^ (w - 1) : Nat) : Int)
    if hi < v then (hi.toNat, (Sts.seen x).merge { saturated := true })
    else if v < lo then (unsignedOf w lo, (Sts.seen x).merge { saturated := true })
    else (unsignedOf w v, (Sts.seen x).merge { underflow := decide (v = 0 ∧ m ≠ 0) })

/-- Conversion of a value × 2^exp into a floating-point element (R74 to R77, R99), with SATFINITE
for codes 0x3 and 0x4 only (R76). -/
def convFp (f : FpFmt) (satf : Bool) (exp : Int) (x : Num) : Nat × Sts :=
  match x with
  | .nan => (f.nanBits, { nonfinite := true })
  | .inf neg =>
    if satf then (packFp f neg (maxSig f, emaxOf f - f.manBits), { nonfinite := true })
    else if f.kind = 0 then (infBits f neg, { nonfinite := true })
    else (f.nanBits, { nonfinite := true })
  | .fin neg m e =>
    let r := roundFp f m (e + exp)
    if overflows f r then
      if satf then
        (packFp f neg (maxSig f, emaxOf f - f.manBits), (Sts.seen x).merge { saturated := true })
      else if f.kind = 0 then (infBits f neg, (Sts.seen x).merge { overflow := true })
      else (f.nanBits, (Sts.seen x).merge { overflow := true })
    else (packFp f neg r, (Sts.seen x).merge { underflow := decide (r.1 = 0 ∧ m ≠ 0) })

/-- Conversion into MASK1: zero and one are exact, and what any other value becomes is open; a value that is
not finite reports as R77 says.
DESIGN CHOICE: notes/assumptions/152.md. -/
def convMask (x : Num) : Nat × Sts :=
  (if x.isZero then 0 else if x.eqv (.fin false 1 0) then 1 else bit01 (Config.maskOf (fpRound fp32 x)),
    if x.finite then Sts.seen x else { nonfinite := true })

/-- Conversion of one value into a format that is not block-scaled (R74 to R77). -/
def convElem (code : Nat) (satf : Bool) (exp : Int) (x : Num) : Nat × Sts :=
  match elemFmt code with
  | some f => convFp f (satf && (code == 0x3 || code == 0x4)) exp x
  | none =>
    if code = 0xB then convInt 32 x
    else if code = 0xA then convInt 8 x
    else convMask x

/-- The value of one stored element that is not block-scaled, its per-tensor exponent applied (R99). -/
def valueElem (code : Nat) (exp : Int) (bits : Nat) : Num :=
  match elemFmt code with
  | some f => (fpDecode f bits).scale (-exp)
  | none =>
    if code = 0xB then Num.ofInt (signedOf 32 bits)
    else if code = 0xA then Num.ofInt (signedOf 8 bits)
    else Num.ofInt (bits % 2)

/-- The value of one element of a block under its scale byte; 0xFF decodes to NaN (R71, R73). -/
def valueScaled (code scale bits : Nat) : Num :=
  if scale = 0xFF then .nan
  else
    match elemFmt code with
    | some f => (fpDecode f bits).scale ((scale : Int) - 127)
    | none => .nan

/-- floor(log2 m·2^e) of a non-zero magnitude. -/
def floorLog2 (m : Nat) (e : Int) : Int := (m.log2 : Int) + e

/-- The largest magnitude's floor(log2) among the finite non-zero values of a block. -/
def blockTop : List (Num × Bool) → Option Int
  | [] => none
  | (x, _) :: rest =>
    match x with
    | .fin _ m e =>
      if m = 0 then blockTop rest
      else
        match blockTop rest with
        | none => some (floorLog2 m e)
        | some t => some (max (floorLog2 m e) t)
    | _ => blockTop rest

/-- The scale exponent of R72. -/
def blockScale (f : FpFmt) (vals : List (Num × Bool)) : Int :=
  match blockTop vals with
  | none => -127
  | some t => max (-127) (min 127 (t - emaxOf f))

/-- One element under a scale: rounded on the element's grid, saturated to the largest finite value
(R72). The Bool says that the value is new; only new values enter AMAX. -/
def scaledElem (f : FpFmt) (se : Int) (x : Num) (isNew : Bool) : Nat × Sts :=
  match x with
  | .fin neg m e =>
    let r := roundFp f m (e - se)
    let seen := if isNew then Sts.seen x else {}
    if overflows f r then
      (packFp f neg (maxSig f, emaxOf f - f.manBits), seen.merge { saturated := true })
    else (packFp f neg r, seen.merge { underflow := decide (r.1 = 0 ∧ m ≠ 0) })
  | _ => (0, {})

/-- A whole block written: its scale byte, its elements and what it reports (R72, R73). -/
def encodeBlock (f : FpFmt) (vals : List (Num × Bool)) : Nat × List Nat × Sts :=
  if vals.all fun v => v.1.finite then
    let se := blockScale f vals
    let es := vals.map fun v => scaledElem f se v.1 v.2
    ((se + 127).toNat, es.map (·.1), es.foldl (fun a r => a.merge r.2) {})
  else
    (0xFF, vals.map fun _ => 0,
      vals.foldl (fun a v =>
        if v.2 then a.merge (if v.1.finite then Sts.seen v.1 else { nonfinite := true }) else a) {})

/-- The largest maximum of a history, and the exponent of R100 it gives. -/
def scaleExp (format margin : Nat) (expInit : Int) (hist : List Nat) : Int :=
  let a := hist.foldl Nat.max 0
  if a = 0 then expInit
  else
    match fpDecode fp32 a, elemFmt format with
    | .fin _ m e, some f =>
      let top := emaxOf f - floorLog2 m e
      let above := (Num.fin false (maxSig f) (emaxOf f - f.manBits)).lt ((Num.fin false m e).scale top)
      let e0 := if above then top - 1 else top
      max (-126) (min 127 (e0 - margin))
    | _, _ => expInit

end Sys2Proof.Machine
end

