-- ==== Sys2Proof/Machine/Operands.lean ====
section
/-!
DEFINITION. Operand references (R146, R147), the elements they name in every format (R71), reads and
writes of elements and of whole blocks (R72, R73), masks and predicates (R149 to R151).
-/
namespace Sys2Proof.Machine

/-- A run-time fault: its kind and its address (R173). -/
structure RtFault where
  kind : Nat
  addr : Nat
  deriving DecidableEq, Repr

/-- An operand reference with its places as numbers of bytes (R146). -/
structure Ref where
  space : Nat
  a : Nat
  pitch : Nat
  exp : Int
  scale : Nat
  deriving DecidableEq, Repr

/-- Bytes of one block of a block-scaled code (R147). -/
def blockBytes (code : Nat) : Nat := blockLen code * elemBits code / 8

/-- Read an operand reference for a format code; kind 5 where R146 or R147 refuses it. -/
def decodeRef (code w : Nat) : Except RtFault Ref :=
  let space := refSpace w
  let exp := signedOf 8 (fieldOf w 40 33)
  let scale := fieldOf w 63 43
  let pitch := 64 * fieldOf w 32 21
  if space = 3 ∨ (space ≠ 0 ∧ fieldOf w 20 18 ≠ 0) then .error ⟨5, 0⟩
  else if blockLen code = 0 ∧ scale ≠ 0 then .error ⟨5, 0⟩
  else if exp ≠ 0 ∧ ¬ (code = 2 ∨ code = 3 ∨ code = 4) then .error ⟨5, 0⟩
  else if blockLen code ≠ 0 ∧ pitch % blockBytes code ≠ 0 then .error ⟨5, 0⟩
  else .ok ⟨space, fieldOf w 20 0, pitch, exp, scale⟩

/-- Bytes of a space (R146).
DEDUCED: notes/assumptions/14.md. -/
def spaceSize (space : Nat) : Nat := if space = 0 then 0x200000 else 0x40000

/-- What the operand cache is: true while it acts as one (R55). -/
def opMode (s : State) (c : Cell) : Bool :=
  s.pwr.state == stBoot || s.pwr.state == stMemtrain || s.pwr.state == stReady ||
    bitAt s.modes.inForce 16 || c.scratchHeld

/-- An access of a stream to its cell's memory: kind 1 outside the space or to an operand cache that
acts as a near cache, kind 3 to a held bank, kind 4 for a write to the code area.
DEDUCED: notes/assumptions/14.md. -/
def checkSpace (op : Bool) (c : Cell) (space a len : Nat) (write : Bool) : Except RtFault Unit :=
  if spaceSize space < a + len ∨ (space = 2 ∧ !op) then .error ⟨1, a⟩
  else if (space = 0 ∧ c.scratchHeld) ∨ (space = 2 ∧ c.opHeld) then .error ⟨3, a⟩
  else if write ∧ space = 0 ∧ hitsCode c a len then .error ⟨4, a⟩
  else .ok ()

/-- Bytes between rows of rowLen elements (R146).
DEDUCED: notes/assumptions/13.md. -/
def Ref.pitchBytes (r : Ref) (code rowLen : Nat) : Nat :=
  if r.pitch = 0 then rowLen * elemBits code / 8 else r.pitch

/-- Bit address of element (row, col): elements are packed lowest first (R71). -/
def Ref.bitAddr (r : Ref) (code rowLen row col : Nat) : Nat :=
  8 * (r.a + row * r.pitchBytes code rowLen) + col * elemBits code

/-- Scratchpad address of the scale of the block of element (row, col) (R147). -/
def Ref.scaleAddr (r : Ref) (code rowLen row col : Nat) : Nat :=
  r.scale + row * (r.pitchBytes code rowLen / blockBytes code) + col / blockLen code

/-- Read n bits of a space from a bit address. -/
def readBits (c : Cell) (space bit n : Nat) : Nat :=
  (ofBytes (spaceRead c space (bit / 8) ((bit % 8 + n + 7) / 8)) >>> (bit % 8)) % 2 ^ n

/-- Write n bits of a space at a bit address. -/
def writeBits (space bit n v : Nat) (c : Cell) : Cell :=
  let len := (bit % 8 + n + 7) / 8
  let old := ofBytes (spaceRead c space (bit / 8) len)
  let mask := (2 ^ n - 1) <<< (bit % 8)
  let new := old - (old &&& mask) + (v % 2 ^ n) <<< (bit % 8)
  spaceWrite space (bit / 8) (toBytes len new) c

/-- The value of element (row, col) of an operand. -/
def getVal (c : Cell) (r : Ref) (code rowLen row col : Nat) : Num :=
  let bits := readBits c r.space (r.bitAddr code rowLen row col) (elemBits code)
  if blockLen code = 0 then valueElem code r.exp bits
  else valueScaled code (mread c.scratch (r.scaleAddr code rowLen row col) 1 |> ofBytes) bits

/-- The element pitch of a reference divides exactly into blocks; a PITCH of 0 is the length of a row
(R146, R147).
DEDUCED: notes/assumptions/13.md. -/
def Ref.pitchOk (r : Ref) (code rowLen : Nat) : Bool :=
  blockLen code == 0 || (if r.pitch = 0 then rowLen % blockLen code == 0 else r.pitch % blockBytes code == 0)

/-- Check every place of a list of elements; blocks are checked whole when they are written. A scale
pitch that does not divide is an operand-reference fault (R147). -/
def checkElems (op : Bool) (c : Cell) (r : Ref) (code rowLen : Nat) (write : Bool) :
    List (Nat × Nat) → Except RtFault Unit
  | [] => if r.pitchOk code rowLen then .ok () else .error ⟨5, 0⟩
  | (row, col) :: rest =>
    let b := r.bitAddr code rowLen row col
    match if r.pitchOk code rowLen then checkSpace op c r.space (b / 8) ((b % 8 + elemBits code + 7) / 8) write
      else .error ⟨5, 0⟩ with
    | .error e => .error e
    | .ok () =>
      if blockLen code = 0 then checkElems op c r code rowLen write rest
      else match checkSpace op c 0 (r.scaleAddr code rowLen row col) 1 write with
        | .error e => .error e
        | .ok () => checkElems op c r code rowLen write rest

/-- The places of one row of n elements from (row, col). -/
def rowPlaces (row col n : Nat) : List (Nat × Nat) := (rangeFrom col n).map fun c => (row, c)

/-- Write one element of a format that is not block-scaled. -/
def putElem (r : Ref) (code : Nat) (satf : Bool) (rowLen : Nat) (a : Cell × Sts) (it : Nat × Nat × Num) :
    Cell × Sts :=
  let v := convElem code satf r.exp it.2.2
  (writeBits r.space (r.bitAddr code rowLen it.1 it.2.1) (elemBits code) v.1 a.1, a.2.merge v.2)

/-- Write one block whole: the new values, and the values that the other elements hold (R72). -/
def putBlock (r : Ref) (code rowLen : Nat) (items : List (Nat × Nat × Num)) (a : Cell × Sts) (blk : Nat × Nat) :
    Cell × Sts :=
  match elemFmt code with
  | none => a
  | some f =>
    let n := blockLen code
    let vals := (rangeFrom (blk.2 * n) n).map fun col =>
      match items.find? fun it => it.1 == blk.1 && it.2.1 == col with
      | some it => (it.2.2, true)
      | none => (getVal a.1 r code rowLen blk.1 col, false)
    let e := encodeBlock f vals
    let c := (e.2.1.zip (rangeFrom (blk.2 * n) n)).foldl (fun c x =>
      writeBits r.space (r.bitAddr code rowLen blk.1 x.2) (elemBits code) x.1 c) a.1
    ({ c with scratch := mset c.scratch (r.scaleAddr code rowLen blk.1 (blk.2 * n)) (BitVec.ofNat 8 e.1) },
      a.2.merge e.2.2)

/-- The blocks that a list of elements touches, each once. -/
def touched (code : Nat) (items : List (Nat × Nat × Num)) : List (Nat × Nat) :=
  items.foldl (fun l it => insertNew l (it.1, it.2.1 / blockLen code)) []

/-- Write a list of elements (row, column, value) by the rules of their format (R71 to R77). -/
def putVals (r : Ref) (code : Nat) (satf : Bool) (rowLen : Nat) (items : List (Nat × Nat × Num)) (c : Cell) :
    Cell × Sts :=
  if blockLen code = 0 then items.foldl (putElem r code satf rowLen) (c, {})
  else (touched code items).foldl (putBlock r code rowLen items) (c, {})

/-- The places that a write of elements reaches: whole blocks for a block-scaled code. -/
def writePlaces (code : Nat) (items : List (Nat × Nat × Num)) : List (Nat × Nat) :=
  if blockLen code = 0 then items.map fun it => (it.1, it.2.1)
  else (touched code items).flatMap fun b => rowPlaces b.1 (b.2 * blockLen code) (blockLen code)

/-- Write elements after checking their places. -/
def store (op : Bool) (r : Ref) (code : Nat) (satf : Bool) (rowLen : Nat) (items : List (Nat × Nat × Num))
    (c : Cell) : Except RtFault (Cell × Sts) :=
  match checkElems op c r code rowLen true (writePlaces code items) with
  | .error e => .error e
  | .ok () => .ok (putVals r code satf rowLen items c)

/-- Bit i of a MASK1 vector at a reference (R71). -/
def maskBit (c : Cell) (r : Ref) (i : Nat) : Bool := readBits c r.space (8 * r.a + i) 1 == 1

/-- Write n bits of a MASK1 vector at a reference. -/
def putMask (r : Ref) (bits : List Bool) (c : Cell) : Cell :=
  (bits.zip (rangeFrom 0 bits.length)).foldl (fun c x => writeBits r.space (8 * r.a + x.2) 1 (bit01 x.1) c) c

/-- The mask register of a predicate, after MINV (R149). -/
def predMask (c : Cell) (p : Pred) : Word :=
  if p.men then (let m := tget 0#64 c.m p.mreg.toNat; if p.minv then ~~~ m else m) else BitVec.allOnes 64

/-- An instruction with a whole-instruction predicate takes effect (R150). -/
def takesEffect (c : Cell) (p : Pred) : Bool := predMask c p != 0#64

/-- Lane i takes part in a VOP instruction (R150). -/
def laneOn (c : Cell) (p : Pred) (i : Nat) : Bool := (predMask c p).getLsbD i

/-- A status-word OFFSET: kind 1 outside populated HBM or off an 8-byte boundary (R78).
DEDUCED: notes/assumptions/21.md. -/
def checkSts (en : Bool) (off : Nat) : Except RtFault Unit :=
  if en ∧ !(hbmOk off 8 && off % 8 == 0) then .error ⟨1, off⟩ else .ok ()

/-- The region of a tensor whose pair of status words holds an HBM offset (R78). -/
def stsRegion (s : State) (off : Nat) : Option Region :=
  if s.plan.active then
    (imgRegions s s.act).find? fun r => r.status != allOnes64 && (r.status == off || r.status + 8 == off)
  else none

/-- Update a tensor status word as one operation (R79) for a unit of an event source; the first
BOUND_EXCEEDED raises its event (R80), the first NONFINITE of a CHECKED region goes to the step
controller (R293). A word outside every pair of MEMMAP has no tensor: the identifier is then open.
DESIGN CHOICE: notes/assumptions/154.md. -/
def updateStsAt (src off : Nat) (x : Sts) (s : State) : State :=
  let old := Sts.ofWord (ofBytes (readTier s 0 off 8))
  let s' := writeTier 0 off (toBytes 8 (old.merge x).toWord) s
  let reg := stsRegion s off
  let id := match reg with | some r => r.tensor | none => (takeFree s).1 % 2 ^ 32
  let s' := if reg.isSome then s' else { s' with free := s'.free + 1 }
  let s' := if x.bound ∧ !old.bound then raise src 0x0201 [(18, 4, id)] s' else s'
  match reg with
  | some r => if x.nonfinite ∧ !old.nonfinite ∧ bitAt r.flags 0 then reportNonfinite src id s' else s'
  | none => s'

/-- Update the status word of an instruction of a cell, when it names one. -/
def updateSts (k : Nat) (en : Bool) (off : Nat) (x : Sts) (s : State) : State :=
  if en then updateStsAt (source 1 k) off x s else s

end Sys2Proof.Machine
end

