-- ==== Sys2Proof/Machine/Stop.lean ====
section
/-!
DEFINITION. Stopping a stream: by STOP, by a run-time fault, by a step abort or a swap (R128, R153,
R173, R228, R299).
-/
namespace Sys2Proof.Machine

/-- CELL_STATUS.STATE after a stream of the cell stopped (R65).
DEDUCED: notes/assumptions/22.md. -/
def settleCell (halt : Bool) (c : Cell) : Cell :=
  if (runningStreams c).isEmpty then { c with st := if halt then .halted else .loaded } else c

/-- The walks of a stream that stops end with its pin; copies that they have not reached are discarded (R220,
R228).
DEDUCED: notes/assumptions/166.md. -/
def endWalks (k i : Nat) (s : State) : State :=
  let mine := s.pmap.walks.filter fun w => w.cell == k && w.stream == i
  discardAhead (mine.map fun w => w.ahead.length).sum
    { s with pmap := { s.pmap with walks := s.pmap.walks.filter fun w => !(w.cell == k && w.stream == i) } }

/-- The stream stops: it waits for nothing, holds no pin and keeps its registers (R128, R228).
DEDUCED: notes/assumptions/22.md. -/
def stopStream (halt : Bool) (k i : Nat) (s : State) : State :=
  let w := (getStream (getCell s k) i).wait
  let s := match w with
    | some (.push r _) => modRing r (fun g => { g with pushQ := g.pushQ.filter (· != (k, i)) }) s
    | some (.pop r _) => modRing r (fun g => { g with popQ := g.popQ.filter (· != (k, i)) }) s
    | _ => s
  modStream k i (fun t => { t with running := false, wait := none, loops := [], calls := [] }) s
    |> modCell k (fun c => settleCell halt { c with semQ := c.semQ.filter (· != i) })
    |> (fun s => { s with pmap := { s.pmap with
          fenceStreams := s.pmap.fenceStreams.filter fun x => !(x.1 == k && x.2.1 == i) } })
    |> endWalks k i |> dropPin (.stream k i)

/-- A run-time fault of the instruction at a word of a stream (R173). -/
def streamFaultAt (ip k i : Nat) (f : RtFault) (s : State) : State :=
  stopStream true k i s
    |> raise (source 1 k) 0x0103 [(18, 1, i), (19, 1, f.kind), (20, 4, ip),
        (24, 8, if f.kind = 5 then 0 else f.addr)]
    |> (fun s => if workload s ≤ 1 then sendFail cStepAborted (source 1 k) s else s)
    |> stopFormation k cStepAborted

/-- A run-time fault of the instruction that a stream issues (R173). -/
def streamFault (k i : Nat) (f : RtFault) (s : State) : State :=
  streamFaultAt (getStream (getCell s k) i).ip k i f s

end Sys2Proof.Machine
end

