-- ==== Sys2Proof/Machine/Issue.lean ====
section
/-!
DEFINITION. How a stream issues one instruction: it must run and not be blocked; the instruction
takes effect, faults (R173), blocks on a unit that is held (R31, R47, R53), or is suppressed (R151).
-/
namespace Sys2Proof.Machine

/-- The stream can issue its next instruction: it runs and waits for nothing but a held unit. -/
def canIssue (s : State) (u : StreamAt) : Bool :=
  let t := getStream (getCell s u.cell) u.stream.toNat
  t.running && (t.wait == none || t.wait == some .unit)

/-- Issue an instruction of a cell that the module has, with a word that decodes (R118, R149).
DESIGN CHOICE: notes/assumptions/15.md.
DESIGN CHOICE: notes/assumptions/23.md.
DESIGN CHOICE: notes/assumptions/143.md. -/
def issue (u : StreamAt) (word : Bool) (f : State → State) (s : State) : Host.Outcome State Fault Refusal :=
  if !cellOk u.cell then .fault .noSuchUnit
  else if !word then .fault .undecodable
  else .next (if canIssue s u then f s else s)

/-- The instruction waits for a held unit and counts the cause (R47). -/
def blockUnit (u : StreamAt) (cause : StallCause) (s : State) : State :=
  modStream u.cell u.stream.toNat (fun t => { t with wait := some .unit, cause := cause }) s

/-- The instruction is done and the stream goes on. -/
def stepOn (u : StreamAt) (s : State) : State := advance u.cell u.stream.toNat s

/-- The new cell holds other bytes where an earlier instruction of the stream, in the array, still reads (R171).
DEDUCED: notes/assumptions/164.md. -/
def overtakes (u : StreamAt) (old new : Cell) : Bool :=
  old.reading.any fun r => r.stream == u.stream.toNat &&
    spaceRead old r.space r.lo r.len != spaceRead new r.space r.lo r.len

/-- Finish an instruction that changed its cell, or fault; it waits for the array where an earlier MMA still
reads what it would overwrite (R171). -/
def finishCell (u : StreamAt) (r : Except RtFault Cell) (s : State) : State :=
  match r with
  | .ok c => if overtakes u (getCell s u.cell) c then blockUnit u .arbiter s else stepOn u (modCell u.cell (fun _ => c) s)
  | .error f => streamFault u.cell u.stream.toNat f s

/-- Finish an instruction that changed its cell and reports to a status word, or fault; the status
word is checked first (R78). -/
def finishSts (u : StreamAt) (en : Bool) (off : Nat) (r : Except RtFault (Cell × Sts)) (s : State) : State :=
  match checkSts en off with
  | .error f => streamFault u.cell u.stream.toNat f s
  | .ok () =>
    match r with
    | .ok x =>
      if overtakes u (getCell s u.cell) x.1 then blockUnit u .arbiter s
      else stepOn u (updateSts u.cell en off x.2 (modCell u.cell (fun _ => x.1) s))
    | .error f => streamFault u.cell u.stream.toNat f s

/-- A result that a vector formation stores may end a reduction of more than 2^24 products, of which no register
tells: its BOUND_EXCEEDED is then set (R84, R85).
DESIGN CHOICE: notes/assumptions/177.md. -/
def longSum (en : Bool) (s : State) (x : Cell × Sts) : Cell × Sts :=
  if en then (x.1, { x.2 with bound := x.2.bound || Config.freeBool s.free }) else x

/-- Finish an instruction that may store the result of such a reduction. -/
def finishLong (u : StreamAt) (en : Bool) (off : Nat) (r : Except RtFault (Cell × Sts)) (s : State) : State :=
  finishSts u en off (r.map (longSum en s)) (if en then { s with free := s.free + 1 } else s)

/-- The stream of an instruction. -/
def streamOf (s : State) (u : StreamAt) : Stream := getStream (getCell s u.cell) u.stream.toNat

end Sys2Proof.Machine
end

