-- ==== Sys2Proof/Machine/Lanes.lean ====
section
/-!
DEFINITION. What the vector lanes compute (R41, R43, R88, R150, R165, R166).
-/
namespace Sys2Proof.Machine

/-- An ETYPE of 16 bits: BF16 or FP16 (R165). -/
def is16 (ety : Nat) : Bool := ety == 1 || ety == 2

/-- The format code of an ETYPE: FP32, BF16, FP16, INT32 (R165). -/
def etyCode (ety : Nat) : Nat := if ety = 3 then 0xB else ety

/-- Elements of a register (R165). -/
def elemsOf (ety : Nat) : Nat := if is16 ety then 128 else 64

/-- The lane that holds element i. -/
def laneOf (ety i : Nat) : Nat := if is16 ety then i / 2 else i

/-- The bits of element i of a vector register. -/
def vget (c : Cell) (v ety i : Nat) : Nat :=
  let lane := (tget 0#32 c.v (64 * v + laneOf ety i)).toNat
  if is16 ety then (lane >>> (16 * (i % 2))) % 2 ^ 16 else lane

/-- Write the bits of element i of a vector register. -/
def vset (v ety i x : Nat) (c : Cell) : Cell :=
  let key := 64 * v + laneOf ety i
  let old := (tget 0#32 c.v key).toNat
  let new := if is16 ety then (if i % 2 = 0 then old / 2 ^ 16 * 2 ^ 16 + x % 2 ^ 16 else (x % 2 ^ 16) * 2 ^ 16 + old % 2 ^ 16)
    else x
  { c with v := tset 0#32 c.v key (BitVec.ofNat 32 new) }

/-- Write the elements of a register whose lanes take part (R43, R150). -/
def lanesWrite (p : Pred) (vd ety : Nat) (f : Nat → Nat) (c : Cell) : Cell :=
  ((rangeFrom 0 (elemsOf ety)).filter fun i => laneOn c p (laneOf ety i)).foldl (fun d i => vset vd ety i (f i) d) c

/-- The value of bits under an ETYPE. -/
def etyVal (ety bits : Nat) : Num := valueElem (etyCode ety) 0 bits

/-- The bits of a value rounded once into an ETYPE (R74 to R77, R88). -/
def etyBits (ety : Nat) (x : Num) : Nat := (convElem (etyCode ety) false 0 x).1

/-- INT32 bits read as a signed number. -/
def int32 (b : Nat) : Int := signedOf 32 b

/-- VBIN on INT32 (R165). -/
def intBin (fn x y : Nat) : Nat :=
  let a := int32 x
  let b := int32 y
  match fn with
  | 0 => unsignedOf 32 (a + b)
  | 1 => unsignedOf 32 (a - b)
  | 2 => unsignedOf 32 (a * b)
  | 3 => if b < a then y else x
  | 4 => if a < b then y else x
  | _ => if b = 0 then 0 else unsignedOf 32 (a.tdiv b)

/-- VBIN: 0 ADD, 1 SUB, 2 MUL, 3 MIN, 4 MAX, 5 DIV, 6 AND, 7 OR, 8 XOR, 9 COPY (R165). -/
def binOp (ety fn x y : Nat) : Nat :=
  if fn = 6 then x &&& y
  else if fn = 7 then x ||| y
  else if fn = 8 then x ^^^ y
  else if 9 ≤ fn then x
  else if ety = 3 then intBin fn x y
  else
    let a := etyVal ety x
    let b := etyVal ety y
    etyBits ety (match fn with
      | 0 => a.add b
      | 1 => a.sub b
      | 2 => a.mul b
      | 3 => a.min b
      | 4 => a.max b
      | _ => a.div b)

/-- VFMA: one rounding, or a wrap on INT32 (R88, R165). -/
def fmaOp (ety x y z : Nat) : Nat :=
  if ety = 3 then unsignedOf 32 (int32 x * int32 y + int32 z)
  else etyBits ety (((etyVal ety x).mul (etyVal ety y)).add (etyVal ety z))

/-- VCMP: 0 EQ, 1 NE, 2 LT, 3 LE, 4 GT, 5 GE, 6 UNORD (R165). -/
def cmpOp (ety fn x y : Nat) : Bool :=
  let a := etyVal ety x
  let b := etyVal ety y
  let nan := a == .nan || b == .nan
  match fn with
  | 0 => a.eqv b
  | 1 => !a.eqv b
  | 2 => a.lt b
  | 3 => a.lt b || a.eqv b
  | 4 => b.lt a
  | 5 => b.lt a || a.eqv b
  | _ => nan

/-- VUN: 0 NEG, 1 ABS, 2 SQRT, 3 RCP; 4 IOTA is the lane number (R165). -/
def unOp (ety fn lane x : Nat) : Nat :=
  if 4 ≤ fn then lane
  else if ety = 3 then unsignedOf 32 (if fn = 0 then -(int32 x) else if int32 x < 0 then -(int32 x) else int32 x)
  else
    let a := etyVal ety x
    etyBits ety (match fn with
      | 0 => a.neg
      | 1 => a.abs
      | 2 => a.sqrt
      | _ => (Num.ofInt 1).div a)

/-- VCVT: the elements of VD that it writes, each with its bits (R165). -/
def cvtElems (c : Cell) (etyD etyA va : Nat) (half : Bool) : List (Nat × Nat) :=
  let h := if half then 64 else 0
  if is16 etyD = is16 etyA then
    (rangeFrom 0 (elemsOf etyD)).map fun i => (i, etyBits etyD (etyVal etyA (vget c va etyA i)))
  else if is16 etyD then
    (rangeFrom 0 64).map fun i => (h + i, etyBits etyD (etyVal etyA (vget c va etyA i)))
  else
    (rangeFrom 0 64).map fun i => (i, etyBits etyD (etyVal etyA (vget c va etyA (h + i))))

/-- Write the listed elements whose lanes take part. -/
def lanesPut (p : Pred) (vd ety : Nat) (l : List (Nat × Nat)) (c : Cell) : Cell :=
  (l.filter fun e => laneOn c p (laneOf ety e.1)).foldl (fun d e => vset vd ety e.1 e.2 d) c

/-- A mask register from a function of its bits. -/
def maskWord (f : Nat → Bool) : Word :=
  BitVec.ofNat 64 ((rangeFrom 0 64).foldl (fun a i => a + if f i then 2 ^ i else 0) 0)

/-- VMSK but LD and ST: 0 AND, 1 OR, 2 XOR, 3 ANDN, 4 NOT, 5 FIRSTN, 8 ALL, 9 NONE (R165).
DEDUCED: notes/assumptions/20.md. -/
def maskFn (fn : Nat) (a b : Word) (n : Nat) : Word :=
  match fn with
  | 0 => a &&& b
  | 1 => a ||| b
  | 2 => a ^^^ b
  | 3 => a &&& ~~~ b
  | 4 => ~~~ a
  | 5 => maskWord fun i => decide (i < n)
  | 8 => BitVec.allOnes 64
  | _ => 0#64

/-- The bits of lanes that take part from one word, the others from another (R43). -/
def mergeMask (on new old : Word) : Word := (new &&& on) ||| (old &&& ~~~ on)

/-- Write a mask register.
DEDUCED: notes/assumptions/20.md. -/
def setM (m : Nat) (w : Word) (c : Cell) : Cell := { c with m := tset 0#64 c.m m w }

/-- The places of VLD and VST: element number of the register, row and column (R166). -/
def vmemPlaces (w : VmemWord) (idx : Nat) : List (Nat × Nat × Nat) :=
  let add := if w.idxEn then idx % 128 else 0
  if w.orient then
    let col := (w.col.toNat + add) % 128
    (rangeFrom 0 64).map fun i => (i, w.row.toNat + i, col)
  else
    let row := (w.row.toNat + add) % 128
    (rangeFrom 0 (elemsOf w.ety.toNat)).map fun i => (i, row, w.col.toNat + i)

/-- The places whose lanes take part. -/
def livePlaces (c : Cell) (p : Pred) (w : VmemWord) (idx : Nat) : List (Nat × Nat × Nat) :=
  (vmemPlaces w idx).filter fun e => laneOn c p (laneOf w.ety.toNat e.1)

/-- VLD (R166). -/
def vldCell (op : Bool) (p : Pred) (w : VmemWord) (ref idx : Nat) (c : Cell) : Except RtFault Cell := do
  let pl := livePlaces c p w idx
  if pl.isEmpty then .ok c
  else
    let r ← decodeRef w.fmt.toNat ref
    checkElems op c r w.fmt.toNat 128 false (pl.map (·.2))
    .ok (pl.foldl (fun d e => vset w.v.toNat w.ety.toNat e.1
      (etyBits w.ety.toNat (getVal c r w.fmt.toNat 128 e.2.1 e.2.2)) d) c)

/-- VST (R166): the stored elements and what they report. -/
def vstCell (op : Bool) (p : Pred) (w : VmemWord) (ref idx : Nat) (c : Cell) : Except RtFault (Cell × Sts) := do
  let pl := livePlaces c p w idx
  if pl.isEmpty then .ok (c, {})
  else
    let r ← decodeRef w.fmt.toNat ref
    store op r w.fmt.toNat w.satf 128
      (pl.map fun e => (e.2.1, e.2.2, etyVal w.ety.toNat (vget c w.v.toNat w.ety.toNat e.1))) c

end Sys2Proof.Machine
end

