-- ==== Sys2Proof/Machine/Matrix.lean ====
section
/-!
DEFINITION. What the matrix array and the drain path compute (R27 to R32, R81 to R87, R162, R163).
-/
namespace Sys2Proof.Machine

/-- Check the rows of a matrix operand: row r of cols elements, for r below rows. -/
def checkRows (op : Bool) (c : Cell) (r : Ref) (code rows cols : Nat) : List Nat → Except RtFault Unit
  | [] => .ok ()
  | row :: rest =>
    let lo := r.bitAddr code cols row 0 / 8
    let hi := (r.bitAddr code cols row cols + 7) / 8
    match checkSpace op c r.space lo (hi - lo) false with
    | .error e => .error e
    | .ok () =>
      if blockLen code = 0 then checkRows op c r code rows cols rest
      else match checkSpace op c 0 (r.scaleAddr code cols row 0) (ceilDiv cols (blockLen code)) false with
        | .error e => .error e
        | .ok () => checkRows op c r code rows cols rest

/-- The bytes that a matrix operand lies in, row by row (R146). -/
def rowReads (i : Nat) (r : Ref) (code rows cols : Nat) : List Reading :=
  (rangeFrom 0 rows).map fun row =>
    let lo := r.bitAddr code cols row 0 / 8
    ⟨i, r.space, lo, (r.bitAddr code cols row cols + 7) / 8 - lo⟩

/-- The bytes that an MMA reads while it is in the array. -/
def mmaReads (i : Nat) (ta tb : Bool) (w : MmaWord) (aRef bRef : Nat) : List Reading :=
  let m := w.m1.toNat + 1
  let n := w.n1.toNat + 1
  let k := w.k1.toNat + 1
  let of := fun (code ref rows cols : Nat) => match decodeRef code ref with
    | .ok r => rowReads i r code rows cols
    | .error _ => []
  of w.fmtA.toNat aRef (if ta then k else m) (if ta then m else k) ++
    of w.fmtB.toNat bRef (if tb then k else n) (if tb then n else k)

/-- The reduction vectors of an operand: n vectors of k values; across reads them through the
transpose port, from k rows of n elements (R162). -/
def matrixOf (c : Cell) (r : Ref) (code n k : Nat) (across : Bool) : List (List Num) :=
  (rangeFrom 0 n).map fun i => (rangeFrom 0 k).map fun j =>
    if across then getVal c r code n j i else getVal c r code k i j

/-- One chain: exact products added to an FP32 value in order, one rounding each (R81, R82). -/
def chainSum : Num → List Num → List Num → Num
  | acc, x :: xs, y :: ys => chainSum (fpRoundNum fp32 (acc.add (x.mul y))) xs ys
  | acc, _, _ => acc

/-- The bank of a cell. -/
def getBank (c : Cell) (b : Bool) : Bank := if b then c.acc1 else c.acc0
/-- Write the bank of a cell. -/
def setBank (b : Bool) (x : Bank) (c : Cell) : Cell := if b then { c with acc1 := x } else { c with acc0 := x }

/-- Element (r, c) of a bank. -/
def Bank.val (b : Bank) (r c : Nat) : Num := fpDecode fp32 (tget 0#32 b.vals (128 * r + c)).toNat

/-- What the flags of an MMA do to its bank before any product is added: a zero start sets the used
positions to +0.0 and restarts the extent; an MMA without it extends an open chain, or opens a new
one on the values that are held (R30, R32).
The bound mark of R86 stays with the sum until the next zero start.
DEDUCED: notes/assumptions/12.md.
DEDUCED: notes/assumptions/155.md. -/
def openBank (zs : Bool) (m n k : Nat) (b : Bank) : Bank :=
  if zs then
    { vals := (rangeFrom 0 m).foldl (fun t r => (rangeFrom 0 n).foldl (fun t c => tset 0#32 t (128 * r + c) 0#32) t) b.vals
      st := .filling, extM := m, extN := n, chain := k, bound := false }
  else
    let run := (if b.st = .filling then b.chain else 0) + k
    { b with st := .filling, extM := max b.extM m, extN := max b.extN n
             chain := if run % 65536 = 0 then min run 65536 else run % 65536
             bound := b.bound || decide (65536 < run) }

/-- Add the products of two operands to a bank (R82, R86).
DEDUCED: notes/assumptions/12.md. -/
def accumulate (a b : List (List Num)) (bank : Bank) : Bank :=
  let cells := (a.zip (rangeFrom 0 a.length)).flatMap fun x => (b.zip (rangeFrom 0 b.length)).map fun y =>
    (128 * x.2 + y.2, fpRound fp32 (chainSum (bank.val x.2 y.2) x.1 y.1))
  { bank with vals := cells.foldl (fun t e => tset 0#32 t e.1 (BitVec.ofNat 32 e.2)) bank.vals }

/-- An MMA on its cell: operand references, checks, products (R162). ta and tb read A or B through
the transpose port. A suppressed MMA adds no product: a zero start opens its chain, and without one the
bank stays as it is, its extent too (R32, R151).
DEDUCED: notes/assumptions/12.md. -/
def mmaCell (op : Bool) (on ta tb : Bool) (w : MmaWord) (aRef bRef : Nat) (c : Cell) : Except RtFault Cell := do
  let m := w.m1.toNat + 1
  let n := w.n1.toNat + 1
  let k := w.k1.toNat + 1
  if !on then
    .ok (if w.zs then setBank w.bank (openBank true m n 0 (getBank c w.bank)) c else c)
  else
    let fa := w.fmtA.toNat
    let fb := w.fmtB.toNat
    let ra ← decodeRef fa aRef
    let rb ← decodeRef fb bRef
    checkRows op c ra fa (if ta then k else m) (if ta then m else k) (rangeFrom 0 (if ta then k else m))
    checkRows op c rb fb (if tb then k else n) (if tb then n else k) (rangeFrom 0 (if tb then k else n))
    let bank := openBank w.zs m n k (getBank c w.bank)
    .ok (setBank w.bank (accumulate (matrixOf c ra fa m k ta) (matrixOf c rb fb n k tb) bank) c)

/-- One element of a drain: its scaled value, or none when it is masked (R163 steps 1 and 2). -/
def drainElem (c : Cell) (bank : Bank) (w : DrainWord) (mult : Num) (delta : Int) (mask : Ref) (r col : Nat) : Option Num :=
  let v := bank.val r col
  let v := if w.scaleEn then fpRoundNum fp32 (v.mul mult) else v
  if (w.diagEn ∧ (col : Int) > r + delta) ∨ (w.maskEn ∧ !maskBit c mask (128 * r + col)) then none else some v

/-- The maximum of a row in the order of R93, −∞ when every element is masked. -/
def rowMax (l : List (Option Num)) : Num :=
  l.foldl (fun a x => match x with | some v => a.max v | none => a) (.inf true)

/-- The format that a drain writes: a drain to a tile buffer takes FP32 (R163).
DEDUCED: notes/assumptions/13.md. -/
def drainFmt (w : DrainWord) (dst : Nat) : Nat := if refSpace dst = 1 then 0 else w.fmt.toNat

/-- The bytes of the mask tile that a drain reads: rows of 128 bits (R163). -/
def checkMaskRows (op : Bool) (c : Cell) (r : Ref) (cols : Nat) : List Nat → Except RtFault Unit
  | [] => .ok ()
  | row :: rest => match checkSpace op c r.space (r.a + 16 * row) (ceilDiv cols 8) false with
    | .error e => .error e
    | .ok () => checkMaskRows op c r cols rest

/-- A drain on its cell (R163): the converted elements, −∞ for the masked ones, and the row maxima.
DEDUCED: notes/assumptions/13.md. -/
def drainCell (op : Bool) (w : DrainWord) (dst aux maskRef mult delta : Nat) (c : Cell) : Except RtFault (Cell × Sts) := do
  let bank := getBank c w.bank
  let fmt := drainFmt w dst
  let rd ← decodeRef fmt dst
  let ra ← if w.rowmaxEn then decodeRef 0 aux else .ok ⟨0, 0, 0, 0, 0⟩
  let rm ← if w.maskEn then decodeRef 0xC maskRef else .ok ⟨0, 0, 0, 0, 0⟩
  if w.maskEn then checkMaskRows op c rm bank.extN (rangeFrom 0 bank.extM)
  let rows := (rangeFrom 0 bank.extM).map fun r => (rangeFrom 0 bank.extN).map fun col =>
    drainElem c bank w (fpDecode fp32 (mult % 2 ^ 32)) (signedOf 64 delta) rm r col
  let all := (rows.zip (rangeFrom 0 bank.extM)).flatMap fun x =>
    (x.1.zip (rangeFrom 0 bank.extN)).map fun y => (x.2, y.2, y.1)
  let live := all.filterMap fun e => e.2.2.map fun v => (e.1, e.2.1, v)
  let dead := (all.filter fun e => e.2.2.isNone).map fun e => (e.1, e.2.1, Num.inf true)
  checkElems op c rd fmt bank.extN true (dead.map fun e => (e.1, e.2.1))
  let x ← store op rd fmt w.satf bank.extN live c
  let c := (dead.foldl (putElem rd fmt false bank.extN) (x.1, {})).1
  let sts := { x.2 with bound := x.2.bound || bank.bound }
  if w.rowmaxEn then
    let y ← store op ra 0 false bank.extM ((rows.zip (rangeFrom 0 bank.extM)).map fun r => (0, r.2, rowMax r.1)) c
    .ok (y.1, sts)
  else .ok (c, sts)

end Sys2Proof.Machine
end

