-- ==== Sys2Proof/Machine/StreamUnit.lean ====
section
/-!
DEFINITION. What the stream unit and the table unit compute (R42, R44, R90 to R97, R167, R168).
A vector is one row of n elements from its reference's ADDR.
-/
namespace Sys2Proof.Machine

/-- The operands of a SOP or TAB instruction as its registers give them: n, references, threshold,
fill value. -/
structure VecArgs where
  n : Nat
  d : Nat
  x : Nat
  y : Nat
  d2 : Nat := 0      -- the companion of D: the output mask
  x2 : Nat := 0      -- the companion of X: the row vector W
  mask : Nat := 0
  thr : Nat := 0
  fill : Nat := 0
  rowsum : Nat := 0
  deriving DecidableEq, Repr

/-- The empty reference. -/
def noRef : Ref := ⟨0, 0, 0, 0, 0⟩

/-- A reference that is used only when a condition holds. -/
def refIf (b : Bool) (code w : Nat) : Except RtFault Ref := if b then decodeRef code w else .ok noRef

/-- Check n bits of a mask vector. -/
def checkMask (op : Bool) (c : Cell) (r : Ref) (n : Nat) (write : Bool) : Except RtFault Unit :=
  checkSpace op c r.space r.a (ceilDiv n 8) write

/-- Addition rounded to FP32. -/
def addFp (a b : Num) : Num := fpRoundNum fp32 (a.add b)

/-- One level of the pairwise combination of R84, where an absent value passes its partner. -/
def pairUp : List (Option Num) → List (Option Num)
  | a :: b :: rest =>
    (match a, b with
      | some x, some y => some (addFp x y)
      | some x, none => some x
      | none, y => y) :: pairUp rest
  | l => l

/-- The pairwise combination of R84 over a number of levels. -/
def pairAll : Nat → List (Option Num) → Option Num
  | 0, l => match l with
    | x :: _ => x
    | [] => none
  | n + 1, l => pairAll n (pairUp l)

/-- The lane partials of R90: lane i takes the elements i, i + 64, … in order. -/
def lanePartial (xs : List (Nat × Num)) (lane : Nat) : Option Num :=
  (xs.filter fun e => e.1 % 64 == lane).foldl (fun a e => match a with
    | none => some e.2
    | some v => some (addFp v e.2)) none

/-- The sum of R90 over the unmasked elements (index, value). -/
def sumFp (xs : List (Nat × Num)) : Num :=
  match pairAll 6 ((rangeFrom 0 64).map (lanePartial xs)) with
  | some v => v
  | none => .fin false 0 0

/-- The exact integer of an INT32 element. -/
def numInt (x : Num) : Int :=
  match x with
  | .fin neg m e => let v : Int := ((m : Int) * (2 ^ e.toNat : Nat)); if neg then -v else v
  | _ => 0

/-- An INT32 sum of R91: its wrapped value, and whether one of its additions wrapped.
DEDUCED: notes/assumptions/157.md. -/
def sumInt (xs : List (Nat × Num)) : Num × Bool :=
  xs.foldl (fun a e =>
    let v := numInt a.1 + numInt e.2
    let w := signedOf 32 (unsignedOf 32 v)
    (Num.ofInt w, a.2 || decide (w ≠ v))) (Num.ofInt 0, false)

/-- An element ranks above another by R93: a NaN first, then the larger value, then the lower index. -/
def ranksAbove (hi : Bool) (a b : Nat × Num) : Bool :=
  match a.2, b.2 with
  | .nan, .nan => decide (a.1 < b.1)
  | .nan, _ => true
  | _, .nan => false
  | x, y => if hi then y.ranksBelow x || (!x.ranksBelow y && decide (a.1 < b.1))
    else x.ranksBelow y || (!y.ranksBelow x && decide (a.1 < b.1))

/-- The first in rank of a list. -/
def best (hi : Bool) : List (Nat × Num) → Option (Nat × Num)
  | [] => none
  | e :: rest => match best hi rest with
    | none => some e
    | some b => if ranksAbove hi b e then some b else some e

/-- The k first in rank, in order. -/
def topK : Nat → List (Nat × Num) → List (Nat × Num)
  | 0, _ => []
  | k + 1, l => match best true l with
    | none => []
    | some b => b :: topK k (l.filter fun e => e.1 != b.1)

/-- The 8 bytes of a value and an index (R94).
DEDUCED: notes/assumptions/17.md. -/
def pairBytes (e : Nat × Num) : List Byte := toBytes 4 (fpRound fp32 e.2) ++ toBytes 4 e.1

/-- What pairs report to a status word. -/
def pairSts (l : List (Nat × Num)) : Sts :=
  l.foldl (fun a e => a.merge (if e.2.finite then Sts.seen e.2 else if e.1 = 0xFFFFFFFF then {} else { nonfinite := true })) {}

/-- NO_INDEX of R92. -/
def noIndex : Nat := 0xFFFFFFFF

/-- One operator of a scan: 0 ADD, 1 MAX, 2 MIN (R95); the Bool says that an INT32 addition wrapped. -/
def scanOp (isInt : Bool) (fn : Nat) (a x : Num) : Num × Bool :=
  match fn with
  | 0 =>
    if isInt then
      let v := numInt a + numInt x
      let w := signedOf 32 (unsignedOf 32 v)
      (Num.ofInt w, decide (w ≠ v))
    else (addFp a x, false)
  | 1 => (a.max x, false)
  | _ => (a.min x, false)

/-- The identity of a scan operator (R95). -/
def scanId (isInt : Bool) (fn : Nat) : Num :=
  match fn with
  | 0 => .fin false 0 0
  | 1 => if isInt then Num.ofInt (-(2 ^ 31 : Nat)) else .inf true
  | _ => if isInt then Num.ofInt ((2 ^ 31 : Nat) - 1) else .inf false

/-- The sequential rule of R95 and R96: elements (index, value), none where masked, with their start
bits; the outputs and whether an addition wrapped. -/
def scanGo (isInt excl : Bool) (fn : Nat) : Option Num → List (Nat × Option Num × Bool) → List (Nat × Num) × Bool
  | _, [] => ([], false)
  | acc, (i, x, start) :: rest =>
    let acc := if start then none else acc
    match x with
    | none => scanGo isInt excl fn acc rest
    | some v =>
      let new := match acc with
        | none => (v, false)
        | some a => scanOp isInt fn a v
      let out := if excl then (match acc with | none => scanId isInt fn | some a => a) else new.1
      let r := scanGo isInt excl fn (some new.1) rest
      ((i, out) :: r.1, new.2 || r.2)

/-- The unmasked indices of a vector. -/
def liveIdx (c : Cell) (maskEn : Bool) (rm : Ref) (n : Nat) : List Nat :=
  (rangeFrom 0 n).filter fun i => !maskEn || maskBit c rm i

/-- SOP ELEM (R167): 0 ADD, 1 SUB, 2 MUL, 3 MIN, 4 MAX, 5 FMA, 6 FMAR, 7 MULR, 8 COPY. -/
def elemOp (fn : Nat) (x y d w : Num) : Num :=
  match fn with
  | 0 => x.add y
  | 1 => x.sub y
  | 2 => x.mul y
  | 3 => x.min y
  | 4 => x.max y
  | 5 => (x.mul y).add d
  | 6 => (x.mul w).add y
  | 7 => x.mul w
  | _ => x

/-- An INT32 result wraps (R165); any other is rounded once by the conversion that stores it.
DEDUCED: notes/assumptions/18.md. -/
def elemWrap (isInt : Bool) (x : Num) : Num := if isInt then Num.ofInt (signedOf 32 (unsignedOf 32 (numInt x))) else x

/-- SOP ELEM on its cell.
DEDUCED: notes/assumptions/18.md. -/
def sopElemCell (op : Bool) (w : SopWord) (a : VecArgs) (c : Cell) : Except RtFault (Cell × Sts) := do
  let fx := w.fmtX.toNat
  let fd := w.fmtD.toNat
  let fn := w.fn.toNat
  let useY := decide (fn ≤ 6)
  let useW := decide (fn = 6 ∨ fn = 7)
  let rx ← decodeRef fx a.x
  let ry ← refIf useY fx a.y
  let rw ← refIf useW 0 a.x2
  let rd ← decodeRef fd a.d
  let rm ← refIf w.maskEn 0xC a.mask
  if w.maskEn then checkMask op c rm a.n false
  let live := liveIdx c w.maskEn rm a.n
  let len := 2 ^ w.aux.toNat
  let pl := live.map fun i => (0, i)
  checkElems op c rx fx a.n false pl
  if useY then checkElems op c ry fx a.n false pl
  if useW then checkElems op c rw 0 a.n false (live.map fun i => (0, i / len))
  if fn = 5 then checkElems op c rd fd a.n false pl
  let isInt := decide (fx = 0xB ∧ fd = 0xB)
  let z := Num.fin false 0 0
  store op rd fd w.satf a.n (live.map fun i =>
    (0, i, elemWrap isInt (elemOp fn (getVal c rx fx a.n 0 i) (if useY then getVal c ry fx a.n 0 i else z)
      (if fn = 5 then getVal c rd fd a.n 0 i else z) (if useW then getVal c rw 0 a.n 0 (i / len) else z)))) c

/-- SOP RED on its cell: 0 SUM, 1 MEAN, 2 MAXI, 3 MINI (R90 to R93).
DEDUCED: notes/assumptions/17.md.
DEDUCED: notes/assumptions/156.md. -/
def sopRedCell (op : Bool) (w : SopWord) (a : VecArgs) (c : Cell) : Except RtFault (Cell × Sts) := do
  let fx := w.fmtX.toNat
  let fn := w.fn.toNat
  let rx ← decodeRef fx a.x
  let rd ← decodeRef (if fn ≤ 1 then w.fmtD.toNat else 0) a.d
  let rm ← refIf w.maskEn 0xC a.mask
  if w.maskEn then checkMask op c rm a.n false
  let live := liveIdx c w.maskEn rm a.n
  checkElems op c rx fx a.n false (live.map fun i => (0, i))
  let xs := live.map fun i => (i, getVal c rx fx a.n 0 i)
  if fn ≤ 1 then
    let total := if fx = 0xB then sumInt xs else (sumFp xs, false)
    let v := if fn = 0 then total.1
      else if xs.isEmpty then .fin false 0 0 else fpRoundNum fp32 (total.1.div (Num.ofInt xs.length))
    let r ← store op rd w.fmtD.toNat w.satf 1 [(0, 0, v)] c
    .ok (r.1, { r.2 with intWrap := total.2, empty := decide (fn = 1) && xs.isEmpty })
  else
    let hi := decide (fn = 2)
    let e := (best hi xs).getD (noIndex, .inf hi)
    checkSpace op c rd.space rd.a 8 true
    .ok (spaceWrite rd.space rd.a (pairBytes e) c, pairSts [e])

/-- SOP SCAN and SEGSCAN on its cell (R95 to R97): the threshold meets the output before its conversion.
DEDUCED: notes/assumptions/156.md.
DEDUCED: notes/assumptions/158.md. -/
def sopScanCell (op seg : Bool) (w : SopWord) (a : VecArgs) (c : Cell) : Except RtFault (Cell × Sts) := do
  let fx := w.fmtX.toNat
  let fd := w.fmtD.toNat
  let rx ← decodeRef fx a.x
  let ry ← refIf seg 0xC a.y
  let rd ← decodeRef fd a.d
  let ro ← refIf w.outmask 0xC a.d2
  let rm ← refIf w.maskEn 0xC a.mask
  if w.maskEn then checkMask op c rm a.n false
  if seg then checkMask op c ry a.n false
  if w.outmask then checkMask op c ro a.n true
  let live := liveIdx c w.maskEn rm a.n
  checkElems op c rx fx a.n false (live.map fun i => (0, i))
  let isInt := decide (fx = 0xB)
  let items := (rangeFrom 0 a.n).map fun i =>
    (i, if i ∈ live then some (getVal c rx fx a.n 0 i) else none, seg && maskBit c ry i)
  let r := scanGo isInt w.excl w.fn.toNat none items
  let x ← store op rd fd w.satf a.n (r.1.map fun e => (0, e.1, e.2)) c
  let sts := { x.2 with intWrap := x.2.intWrap || r.2 }
  if w.outmask then
    let thr := if isInt then Num.ofInt (signedOf 32 a.thr) else fpDecode fp32 (a.thr % 2 ^ 32)
    let bits := (rangeFrom 0 a.n).map fun i => match r.1.find? fun e => e.1 == i with
      | some e => e.2.lt thr || e.2.eqv thr
      | none => false
    .ok (putMask ro bits x.1, sts)
  else .ok (x.1, sts)

/-- SOP TOPK on its cell (R94). -/
def sopTopkCell (op : Bool) (w : SopWord) (a : VecArgs) (c : Cell) : Except RtFault (Cell × Sts) := do
  let fx := w.fmtX.toNat
  let k := w.aux.toNat + 1
  let rx ← decodeRef fx a.x
  let rd ← decodeRef 0 a.d
  let ro ← refIf w.outmask 0xC a.d2
  let rm ← refIf w.maskEn 0xC a.mask
  if w.maskEn then checkMask op c rm a.n false
  if w.outmask then checkMask op c ro a.n true
  let live := liveIdx c w.maskEn rm a.n
  checkElems op c rx fx a.n false (live.map fun i => (0, i))
  checkSpace op c rd.space rd.a (8 * k) true
  let top := topK k (live.map fun i => (i, getVal c rx fx a.n 0 i))
  let all := top ++ List.replicate (k - top.length) (noIndex, Num.inf true)
  let c := spaceWrite rd.space rd.a (all.flatMap pairBytes) c
  let c := if w.outmask then putMask ro ((rangeFrom 0 a.n).map fun i => top.any fun e => e.1 == i) c else c
  .ok (c, pairSts all)

/-- SOP CVT on its cell (R72, R167). -/
def sopCvtCell (op : Bool) (w : SopWord) (a : VecArgs) (c : Cell) : Except RtFault (Cell × Sts) := do
  let fx := w.fmtX.toNat
  let fd := w.fmtD.toNat
  let rx ← decodeRef fx a.x
  let rd ← decodeRef fd a.d
  let rm ← refIf w.maskEn 0xC a.mask
  if w.maskEn then checkMask op c rm a.n false
  let live := liveIdx c w.maskEn rm a.n
  checkElems op c rx fx a.n false (live.map fun i => (0, i))
  store op rd fd w.satf a.n (live.map fun i => (0, i, getVal c rx fx a.n 0 i)) c

/-- SOP FILL on its cell (R167). -/
def sopFillCell (op : Bool) (w : SopWord) (a : VecArgs) (c : Cell) : Except RtFault (Cell × Sts) := do
  let rd ← decodeRef w.fmtD.toNat a.d
  let rm ← refIf w.maskEn 0xC a.mask
  if w.maskEn then checkMask op c rm a.n false
  store op rd w.fmtD.toNat w.satf a.n
    ((liveIdx c w.maskEn rm a.n).map fun i => (0, i, fpDecode fp32 (a.fill % 2 ^ 32))) c

/-- The cubic of segment i at t (R44): three fused steps in FP32. -/
def cubic (g : TabSlot) (i : Nat) (t : Num) : Num :=
  let k := fun j => fpDecode fp32 (tget 0#32 g.coeff (4 * i + j)).toNat
  let step := fun y j => fpRoundNum fp32 ((y.mul t).add (k j))
  step (step (step (k 3) 2) 1) 0

/-- floor of a non-negative number. -/
def floorNum (x : Num) : Nat :=
  match x with
  | .fin false m e => if 0 ≤ e then m <<< e.toNat else m >>> (-e).toNat
  | _ => 0

/-- The value of a table slot at x (R44): 0 CLAMP, 1 EXTEND, 2 CONST.
DEDUCED: notes/assumptions/19.md. -/
def tabEval (g : TabSlot) (x : Num) : Num :=
  let neg := fpDecode fp32 g.negInf
  let pos := fpDecode fp32 g.posInf
  match x with
  | .nan => .nan
  | .inf b => if b then neg else pos
  | _ =>
    let r := fpRoundNum fp32
    let lo := fpDecode fp32 g.lo
    let u := r ((r ((r (x.sub lo)).scale 8)).div (r ((fpDecode fp32 g.hi).sub lo)))
    let below := u.lt (.fin false 0 0)
    let above := !u.lt (Num.ofInt 256)
    if below ∨ above then
      let i := if below then 0 else 255
      if g.mode = 0 then cubic g i (if below then .fin false 0 0 else Num.ofInt 1)
      else if g.mode = 1 then cubic g i (r (u.sub (Num.ofInt i)))
      else if below then neg else pos
    else
      let i := floorNum u
      cubic g i (r (u.sub (Num.ofInt i)))

/-- What the table unit makes of an element: it converts no block-scaled code (R247), and what it reads there is
open.
DESIGN CHOICE: notes/assumptions/168.md. -/
def tabIn (code : Nat) (x : Num) : Num :=
  if blockLen code = 0 then x else fpDecode fp32 (Config.tabRead code (fpRound fp32 x) % 2 ^ 32)

/-- TAB on its cell (R168): 0 plain, 1 MUL, 2 ROWBIAS.
DEDUCED: notes/assumptions/16.md.
DEDUCED: notes/assumptions/19.md. -/
def tabCell (op : Bool) (w : TabWord) (a : VecArgs) (c : Cell) : Except RtFault (Cell × Sts) := do
  let fx := w.fmtX.toNat
  let fd := w.fmtD.toNat
  let mode := w.mode.toNat
  let len := 2 ^ w.rowlen.toNat
  let g := tget {} c.slots w.slot.toNat
  let rx ← decodeRef fx a.x
  let fy := if mode = 1 then fx else 0
  let ry ← refIf (decide (mode = 1 ∨ mode = 2)) fy a.y
  let rd ← decodeRef fd a.d
  let rs ← refIf w.rowsumEn 0 a.rowsum
  let rm ← refIf w.maskEn 0xC a.mask
  if w.maskEn then checkMask op c rm a.n false
  let live := liveIdx c w.maskEn rm a.n
  checkElems op c rx fx a.n false (live.map fun i => (0, i))
  if mode = 1 then checkElems op c ry fy a.n false (live.map fun i => (0, i))
  if mode = 2 then checkElems op c ry fy a.n false (live.map fun i => (0, i / len))
  let f := fun i =>
    let x := tabIn fx (getVal c rx fx a.n 0 i)
    if mode = 2 then
      let b := getVal c ry fy a.n 0 (i / len)
      if b = .inf true then .fin false 0 0 else tabEval g (fpRoundNum fp32 (x.sub b))
    else if mode = 1 then fpRoundNum fp32 ((tabEval g x).mul (tabIn fy (getVal c ry fy a.n 0 i)))
    else tabEval g x
  let ys := live.map fun i => (i, f i)
  let r ← store op rd fd w.satf a.n (ys.map fun e => (0, e.1, e.2)) c
  if w.rowsumEn then
    let sums := (rangeFrom 0 (ceilDiv a.n len)).map fun row =>
      let l := (rangeFrom (row * len) len).map fun i => (ys.find? fun e => e.1 == i).map (·.2)
      (0, row, (pairAll w.rowlen.toNat l).getD (.fin false 0 0))
    let q ← store op rs 0 false sums.length sums r.1
    .ok (q.1, r.2)
  else .ok r

end Sys2Proof.Machine
end

