-- ==== Sys2Proof/Machine/Compute.lean ====
section
/-!
DEFINITION. The matrix, vector, stream-unit and table classes (R162 to R168), and the ends of MMAs
and drains (R30 to R32). What an instruction computes is done when it issues; its unit is held until
the matching completion.
-/
namespace Sys2Proof.Machine

/-- The A register that a field names, and its companion (R146). -/
def aReg (s : State) (u : StreamAt) (r : BitVec 4) : Nat := getA (streamOf s u) r.toNat
/-- The companion of an A register (R146). -/
def aNext (s : State) (u : StreamAt) (r : BitVec 4) : Nat := getA (streamOf s u) (r.toNat + 1)
/-- The S register that a field names. -/
def sReg (s : State) (u : StreamAt) (r : BitVec 4) : Nat := getS (streamOf s u) r.toNat

/-- A predicate field is well formed (R149). -/
def predOk (p : Pred) : Bool := p.men || (p.mreg == 0 && !p.minv)

/-- The operand formats of an MMA are admitted (R28, R29, R162). -/
def mmaOk (ta tb : Bool) (w : MmaWord) : Bool :=
  let fa := w.fmtA.toNat
  let fb := w.fmtB.toNat
  let k := w.k1.toNat + 1
  let blk := fun f => blockLen f == 0 || k % blockLen f == 0
  mulFamily fa == mulFamily fb && mulFamily fa != 0 && blk fa && blk fb &&
    !(ta && blockLen fa != 0) && !(tb && blockLen fb != 0)

/-- An MMA waits for the array under ARBITER and for a draining bank under ACC, the earlier cause of R47
counting where both hold (R31, R47); then it takes the array (R162). A suppressed MMA holds no array (R184): it applies its zero-start and close
flags (R151), after an MMA of its own bank that is in the array.
DESIGN CHOICE: notes/assumptions/11.md.
DEDUCED: notes/assumptions/25.md. -/
def mmaEffect (u : StreamAt) (p : Pred) (ta tb : Bool) (w : MmaWord) (s : State) : State :=
  let c := getCell s u.cell
  let on := takesEffect c p
  if c.array.isSome ∧ (on ∨ c.array.map (·.1) = some w.bank) then blockUnit u .arbiter s
  else if (getBank c w.bank).st = .draining then blockUnit u .acc s
  else finishCell u ((mmaCell (opMode s c) on ta tb w (aReg s u w.aRef) (aReg s u w.bRef) c).map fun c =>
    if on then { c with array := some (w.bank, w.close)
                        reading := mmaReads u.stream.toNat ta tb w (aReg s u w.aRef) (aReg s u w.bRef) }
    else if w.close then setBank w.bank { getBank c w.bank with st := .closed } c else c) s

/-- MMA. -/
def execMma (u : StreamAt) (p : Pred) (w : MmaWord) (s : State) : Host.Outcome State Fault Refusal :=
  issue u (predOk p && mmaOk false false w) (mmaEffect u p false false w) s
/-- MMA.TA. -/
def execMmaTa (u : StreamAt) (p : Pred) (w : MmaWord) (s : State) : Host.Outcome State Fault Refusal :=
  issue u (predOk p && mmaOk true false w) (mmaEffect u p true false w) s
/-- MMA.TB. -/
def execMmaTb (u : StreamAt) (p : Pred) (w : MmaWord) (s : State) : Host.Outcome State Fault Refusal :=
  issue u (predOk p && mmaOk false true w) (mmaEffect u p false true w) s

/-- The last product of the MMA in the array: the array is free, and CLOSE closes the bank (R30).
DESIGN CHOICE: notes/assumptions/11.md. -/
def mmaDone (c : Cell) : Cell :=
  match c.array with
  | none => c
  | some (b, close) =>
    let c := { c with array := none, reading := [] }
    if close ∧ (getBank c b).st = .filling then setBank b { getBank c b with st := .closed } c else c

/-- MMA_COMPLETE. -/
def execMmaComplete (cell : Nat) (s : State) : Host.Outcome State Fault Refusal :=
  onUnit (cellOk cell) (modCell cell mmaDone s)

/-- The drain in progress of a bank. -/
def getDrain (c : Cell) (b : Bool) : Option DrainJob := if b then c.drain1 else c.drain0
/-- Set the drain in progress of a bank. -/
def setDrain (b : Bool) (d : Option DrainJob) (c : Cell) : Cell := if b then { c with drain1 := d } else { c with drain0 := d }

/-- A DRAIN waits for its drain path under ARBITER and for the MMA of its bank under ACC; a filling
bank is closed first (R31). A suppressed DRAIN only signals (R151).
DEDUCED: notes/assumptions/25.md. -/
def drainEffect (u : StreamAt) (p : Pred) (w : DrainWord) (s : State) : State :=
  let c := getCell s u.cell
  let off := sReg s u w.sts
  if !takesEffect c p then signalSem u.cell w.sem.toNat w.amt.toNat s |> stepOn u
  else if (getDrain c w.bank).isSome then blockUnit u .arbiter s
  else if (c.array.map (·.1)) = some w.bank then blockUnit u .acc s
  else
    let r := drainCell (opMode s c) w (aReg s u w.dst) (aReg s u w.aux) (aReg s u w.mask)
      (sReg s u w.scale) (sReg s u w.diag) c
    finishSts u w.stsEn off (r.map fun x =>
      (setBank w.bank { getBank x.1 w.bank with st := .draining } x.1
        |> setDrain w.bank (some ⟨u.stream.toNat, w.sem.toNat, w.amt.toNat⟩), x.2)) s

/-- The destination formats of a DRAIN (R163). -/
def drainOk (w : DrainWord) : Bool :=
  let f := w.fmt.toNat
  decide (f ≤ 6) && (!(w.diagEn || w.maskEn) || decide (f ≤ 2))

/-- DRAIN. -/
def execDrain (u : StreamAt) (p : Pred) (w : DrainWord) (s : State) : Host.Outcome State Fault Refusal :=
  issue u (predOk p && drainOk w) (drainEffect u p w) s

/-- A drain has read its last row: it signals, and its bank is closed and free (R32). -/
def drainDone (cell : Nat) (b : Bool) (s : State) : State :=
  let c := getCell s cell
  match getDrain c b with
  | none => s
  | some d =>
    modCell cell (fun c => setDrain b none c |> setBank b { getBank c b with st := .closed }) s
      |> signalSem cell d.sem d.amt

/-- DRAIN_COMPLETE. -/
def execDrainComplete (cell : Nat) (bank : Bool) (s : State) : Host.Outcome State Fault Refusal :=
  onUnit (cellOk cell) (drainDone cell bank s)

/-- A VOP that changes only registers of its cell. -/
def vop (u : StreamAt) (p : Pred) (word : Bool) (f : Cell → Cell) (s : State) : Host.Outcome State Fault Refusal :=
  issue u (predOk p && word) (fun s => stepOn u (modCell u.cell f s)) s

/-- VLD (R166). -/
def execVld (u : StreamAt) (p : Pred) (w : VmemWord) (s : State) : Host.Outcome State Fault Refusal :=
  issue u (predOk p && !(w.orient && is16 w.ety.toNat) && w.fmt != 0xF) (fun s =>
    let c := getCell s u.cell
    finishCell u (vldCell (opMode s c) p w (aReg s u w.ref) (sReg s u w.idx) c) s) s

/-- VST (R166). -/
def execVst (u : StreamAt) (p : Pred) (w : VmemWord) (s : State) : Host.Outcome State Fault Refusal :=
  issue u (predOk p && !(w.orient && is16 w.ety.toNat) && w.fmt != 0xF) (fun s =>
    let c := getCell s u.cell
    finishLong u (w.stsEn && takesEffect c p) (sReg s u w.sts)
      (vstCell (opMode s c) p w (aReg s u w.ref) (sReg s u w.idx) c) s) s

/-- VBIN (R165). -/
def execVbin (u : StreamAt) (p : Pred) (vd va vb : BitVec 5) (ety : BitVec 2) (fn : BitVec 6) (s : State) :
    Host.Outcome State Fault Refusal :=
  vop u p (decide (fn.toNat ≤ 9)) (fun c => lanesWrite p vd.toNat ety.toNat (fun i =>
    binOp ety.toNat fn.toNat (vget c va.toNat ety.toNat i) (vget c vb.toNat ety.toNat i)) c) s

/-- VFMA (R165). -/
def execVfma (u : StreamAt) (p : Pred) (vd va vb vc : BitVec 5) (ety : BitVec 2) (s : State) :
    Host.Outcome State Fault Refusal :=
  vop u p true (fun c => lanesWrite p vd.toNat ety.toNat (fun i => fmaOp ety.toNat
    (vget c va.toNat ety.toNat i) (vget c vb.toNat ety.toNat i) (vget c vc.toNat ety.toNat i)) c) s

/-- VCMP: one bit per lane, 0 where the lane takes no part (R165). -/
def execVcmp (u : StreamAt) (p : Pred) (va vb : BitVec 5) (md : BitVec 3) (half : Bool) (ety : BitVec 2)
    (fn : BitVec 6) (s : State) : Host.Outcome State Fault Refusal :=
  vop u p (decide (fn.toNat ≤ 6) && (!half || is16 ety.toNat)) (fun c =>
    let el := fun i => if is16 ety.toNat then 2 * i + bit01 half else i
    setM md.toNat (maskWord fun i => laneOn c p i && cmpOp ety.toNat fn.toNat
      (vget c va.toNat ety.toNat (el i)) (vget c vb.toNat ety.toNat (el i))) c) s

/-- VSEL (R165). -/
def execVsel (u : StreamAt) (p : Pred) (vd va vb : BitVec 5) (ma : BitVec 3) (s : State) :
    Host.Outcome State Fault Refusal :=
  vop u p true (fun c => lanesWrite p vd.toNat 0 (fun i =>
    if (tget 0#64 c.m ma.toNat).getLsbD i then vget c va.toNat 0 i else vget c vb.toNat 0 i) c) s

/-- VCVT (R165). -/
def execVcvt (u : StreamAt) (p : Pred) (vd va : BitVec 5) (etyD etyA : BitVec 2) (half : Bool) (s : State) :
    Host.Outcome State Fault Refusal :=
  vop u p (!half || is16 etyD.toNat != is16 etyA.toNat) (fun c =>
    lanesPut p vd.toNat etyD.toNat (cvtElems c etyD.toNat etyA.toNat va.toNat half) c) s

/-- VBCAST (R165). -/
def execVbcast (u : StreamAt) (p : Pred) (vd : BitVec 5) (sreg : BitVec 4) (ety : BitVec 2) (s : State) :
    Host.Outcome State Fault Refusal :=
  let b := sReg s u sreg % 2 ^ 32
  let x := if ety = 3 then b else etyBits ety.toNat (fpDecode fp32 b)
  vop u p true (lanesWrite p vd.toNat ety.toNat fun _ => x) s

/-- VMSK LD and ST: 8 bytes at the reference, for the lanes that take part (R43, R165). -/
def vmskMem (s : State) (u : StreamAt) (p : Pred) (md ma : Nat) (ld : Bool) (ref : Nat) : Except RtFault Cell := do
  let c := getCell s u.cell
  let on := predMask c p
  if on = 0#64 then .ok c
  else do
    let r ← decodeRef 0xC ref
    checkSpace (opMode s c) c r.space r.a 8 (!ld)
    let old := BitVec.ofNat 64 (ofBytes (spaceRead c r.space r.a 8))
    if ld then .ok (setM md (mergeMask on old (tget 0#64 c.m md)) c)
    else .ok (spaceWrite r.space r.a (toBytes 8 (mergeMask on (tget 0#64 c.m ma) old).toNat) c)

/-- VMSK (R165). -/
def execVmsk (u : StreamAt) (p : Pred) (md ma mb : BitVec 3) (fn : BitVec 6) (reg : BitVec 4) (s : State) :
    Host.Outcome State Fault Refusal :=
  issue u (predOk p && decide (fn.toNat ≤ 9)) (fun s =>
    if fn = 6 ∨ fn = 7 then
      finishCell u (vmskMem s u p md.toNat ma.toNat (fn == 6) (aReg s u reg)) s
    else
      let n := sReg s u reg % 2 ^ 32
      stepOn u (modCell u.cell (fun c => setM md.toNat (mergeMask (predMask c p)
        (maskFn fn.toNat (tget 0#64 c.m ma.toNat) (tget 0#64 c.m mb.toNat) n) (tget 0#64 c.m md.toNat)) c) s)) s

/-- VUN (R165). -/
def execVun (u : StreamAt) (p : Pred) (vd va : BitVec 5) (ety : BitVec 2) (fn : BitVec 6) (s : State) :
    Host.Outcome State Fault Refusal :=
  vop u p (decide (fn.toNat ≤ 4) && !(ety == 3 && (fn == 2 || fn == 3))) (fun c =>
    let e := if fn = 4 then 3 else ety.toNat
    lanesWrite p vd.toNat e (fun i => unOp e fn.toNat i (vget c va.toNat e i)) c) s

/-- VXS (R165). -/
def execVxs (u : StreamAt) (p : Pred) (va : BitVec 5) (sreg : BitVec 4) (lane : BitVec 6) (s : State) :
    Host.Outcome State Fault Refusal :=
  issue u (predOk p) (fun s =>
    let c := getCell s u.cell
    (if laneOn c p lane.toNat then setS u.cell u.stream.toNat sreg.toNat (vget c va.toNat 0 lane.toNat) s else s)
      |> stepOn u) s

/-- The operands of a SOP instruction as its registers give them (R145, R167).
DEDUCED: notes/assumptions/16.md. -/
def sopArgs (s : State) (u : StreamAt) (w : SopWord) : VecArgs :=
  { n := sReg s u w.n % 2 ^ 32, d := aReg s u w.dRef, x := aReg s u w.xRef, y := aReg s u w.yRef
    d2 := aNext s u w.dRef, x2 := aNext s u w.xRef, mask := aReg s u w.mask
    thr := sReg s u (BitVec.ofNat 4 w.aux.toNat) % 2 ^ 32
    fill := getS (streamOf s u) (w.n.toNat + 1) % 2 ^ 32 }

/-- D_REF with a companion, the output mask, is not A15 (R146). -/
def sopMaskOk (w : SopWord) : Bool := !w.outmask || w.dRef != 15

/-- FMAR and MULR: X_REF has a companion and is not A15 (R146); AUX is log2 of a row length (R167). -/
def sopRowOk (w : SopWord) : Bool := !(w.fn == 6 || w.fn == 7) || (w.xRef != 15 && decide (w.aux.toNat ≤ 7))

/-- A SOP instruction: suppressed, or done by the stream unit and finished as given (R151, R167). -/
def sopBy (fin : StreamAt → Bool → Nat → Except RtFault (Cell × Sts) → State → State) (u : StreamAt) (p : Pred)
    (w : SopWord) (word : Bool) (f : Bool → SopWord → VecArgs → Cell → Except RtFault (Cell × Sts)) (s : State) :
    Host.Outcome State Fault Refusal :=
  issue u (predOk p && word && w.fmtX != 0xF && w.fmtD != 0xF && sopMaskOk w) (fun s =>
    let c := getCell s u.cell
    if !takesEffect c p then stepOn u s
    else fin u w.stsEn (sReg s u w.sts) (f (opMode s c) w (sopArgs s u w) c) s) s

/-- A SOP instruction that ends no long reduction. -/
def sop (u : StreamAt) (p : Pred) (w : SopWord) (word : Bool)
    (f : Bool → SopWord → VecArgs → Cell → Except RtFault (Cell × Sts)) (s : State) : Host.Outcome State Fault Refusal :=
  sopBy finishSts u p w word f s

/-- SOP ELEM, which combines partials (R84, R85). -/
def execSopElem (u : StreamAt) (p : Pred) (w : SopWord) (s : State) : Host.Outcome State Fault Refusal :=
  sopBy finishLong u p w (decide (w.fn.toNat ≤ 8) && sopRowOk w) sopElemCell s
/-- SOP RED. -/
def execSopRed (u : StreamAt) (p : Pred) (w : SopWord) (s : State) : Host.Outcome State Fault Refusal :=
  sop u p w (decide (w.fn.toNat ≤ 3)) sopRedCell s
/-- SOP SCAN. -/
def execSopScan (u : StreamAt) (p : Pred) (w : SopWord) (s : State) : Host.Outcome State Fault Refusal :=
  sop u p w (decide (w.fn.toNat ≤ 2)) (fun op => sopScanCell op false) s
/-- SOP SEGSCAN. -/
def execSopSegscan (u : StreamAt) (p : Pred) (w : SopWord) (s : State) : Host.Outcome State Fault Refusal :=
  sop u p w (decide (w.fn.toNat ≤ 2)) (fun op => sopScanCell op true) s
/-- SOP TOPK. -/
def execSopTopk (u : StreamAt) (p : Pred) (w : SopWord) (s : State) : Host.Outcome State Fault Refusal :=
  sop u p w (w.fn == 0) sopTopkCell s
/-- SOP CVT: FN 1 takes a block-scaled destination, FN 0 any other (R167). -/
def execSopCvt (u : StreamAt) (p : Pred) (w : SopWord) (s : State) : Host.Outcome State Fault Refusal :=
  sop u p w (decide (w.fn.toNat ≤ 1) && (w.fn == 1) == (blockLen w.fmtD.toNat != 0)) sopCvtCell s
/-- SOP FILL. -/
def execSopFill (u : StreamAt) (p : Pred) (w : SopWord) (s : State) : Host.Outcome State Fault Refusal :=
  sop u p w (w.fn == 0 && w.n != 15) sopFillCell s

/-- TAB (R168). -/
def execTab (u : StreamAt) (p : Pred) (w : TabWord) (s : State) : Host.Outcome State Fault Refusal :=
  issue u (predOk p && w.mode != 3 && w.fmtX != 0xF && decide (w.fmtD.toNat ≤ 4)) (fun s =>
    let c := getCell s u.cell
    if !takesEffect c p then stepOn u s
    else
      let a : VecArgs := { n := sReg s u w.n % 2 ^ 32, d := aReg s u w.dRef, x := aReg s u w.xRef
                           y := aReg s u w.yRef, mask := aReg s u w.mask, rowsum := aReg s u w.rowsumRef }
      finishSts u w.stsEn (sReg s u w.sts) (tabCell (opMode s c) w a c) s) s

end Sys2Proof.Machine
end

