-- ==== Sys2Proof/Machine/Remote.lean ====
section
/-!
DEFINITION. Remote loads and stores as their sender makes them (R334): the frames of a transfer, and
what is still to be acknowledged or to land.
-/
namespace Sys2Proof.Machine

/-- The port that a remote MOVE leaves a Gallery die by: its quad port for the peer cabled there, else its
spine port (R317). -/
def remotePort (s : State) (die peer : Nat) : Nat := if die ≠ 0 ∧ quadPeer s die = peer then 2 * die + 1 else 2 * die

/-- A remote transfer by its number. -/
def getXfer (s : State) (id : Nat) : Option RemoteXfer := tget none s.xfers id
/-- Set a remote transfer. -/
def setXfer (id : Nat) (x : Option RemoteXfer) (s : State) : State := { s with xfers := tset none s.xfers id x }

/-- A new transfer takes the next XFER, never 0 (R334). -/
def newXfer (x : RemoteXfer) (s : State) : Nat × State :=
  let id := s.nextXfer % (2 ^ 32 - 1) + 1
  (id, setXfer id (some x) { s with nextXfer := id })

/-- Cut a range of len bytes into parts of at most n: offset and length. -/
def parts (n len : Nat) : List (Nat × Nat) :=
  (rangeFrom 0 (ceilDiv len n)).map fun i => (n * i, min n (len - n * i))

/-- The class area of a MOVE frame: ADDR, ADDR2, XFER. -/
def moveArea (addr addr2 xfer : Nat) : List Byte := toBytes 8 addr ++ toBytes 8 addr2 ++ toBytes 4 xfer

/-- Write pieces (destination address, bytes) to a peer; sig is the logical cell, semaphore and amount
to be signalled when every byte is acknowledged (R334). -/
def remoteWrite (what : XferFor) (peer want : Nat) (pieces : List (Nat × List Byte)) (sig : Nat × Nat × Nat)
    (s : State) : State :=
  let total := pieces.foldl (fun n p => n + p.2.length) 0
  let r := newXfer { what := what, write := true, peer := peer, left := total, dst := want, cell := sig.1,
                     sem := sig.2.1, amt := sig.2.2 } s
  let frames := pieces.flatMap fun p => (parts 8192 p.2.length).map fun q =>
    mkFrame s false peer 0 3 (moveArea (p.1 + q.1) 0 0) ((p.2.drop q.1).take q.2)
  frames.foldl (fun s f => handOff want { frame := f, xfer := r.1 + 1 } s) r.2

/-- Read pieces (source address, local destination address, length) from a peer: READ frames of at
most 64 KiB, each with its own XFER (R334).
DESIGN CHOICE: notes/assumptions/57.md. -/
def remoteRead (what : XferFor) (peer want : Nat) (pieces : List (Nat × Nat × Nat)) (s : State) : State :=
  let reads := pieces.flatMap fun p => (parts 65536 p.2.2).map fun q => (p.1 + q.1, p.2.1 + q.1, q.2)
  reads.foldl (fun s q =>
    let r := newXfer { what := what, write := false, peer := peer, left := q.2.2, dst := want } s
    handOff want { frame := mkFrame s false peer 3 3 (moveArea q.1 q.2.1 r.1) (toBytes 8 q.2.2), xfer := r.1 + 1 } r.2) s

/-- Parts of a transfer that are still under way.
DESIGN CHOICE: notes/assumptions/57.md. -/
def xfersLeft (s : State) (what : XferFor) : Nat :=
  (s.xfers.filter fun e => match e.2 with | some x => x.what == what | none => false).length

/-- Bytes of a remote transfer were acknowledged (a write) or landed (a read); at the last one a write
sends its SIGNAL frame, and otherwise the transfer is done (R334). -/
def xferProgress (id n : Nat) (s : State) : State :=
  match getXfer s id with
  | none => s
  | some x =>
    let left := x.left - n
    if 0 < left then setXfer id (some { x with left := left }) s
    else if x.write ∧ x.amt ≠ 0 ∧ !x.signalled then
      let area := toBytes 8 0 ++ toBytes 2 x.cell ++ toBytes 1 x.sem ++ toBytes 1 x.amt ++ toBytes 8 0
      handOff x.dst { frame := mkFrame s false x.peer 4 3 area [], xfer := id + 1 }
        (setXfer id (some { x with left := 1, signalled := true }) s)
    else setXfer id none s

end Sys2Proof.Machine
end

