-- ==== Sys2Proof/Machine/Walks.lean ====
section
/-!
DEFINITION. Walks and edits of the page map as streams, fences and the map unit see them (R217 to
R239): serving walks, recomputation requests, edits that wait for COPYING or for a frame, page copies
and relocations.
-/
namespace Sys2Proof.Machine

/-- The fault of a walk or an edit: the address of the map entry (R218, R223).
DEDUCED: notes/assumptions/43.md. -/
def mapFault (s : State) (key : Nat) : RtFault := ⟨1, mkGaddr s.me 0 (s.pmap.base + 16 * key)⟩

/-- Push the recompute requests that wait for room, in order (R235). -/
def pumpPend (s : State) : State :=
  match recompRing s with
  | none => s
  | some ring =>
    s.pmap.pendWait.foldl (fun s key =>
      let r := enginePush ring (toBytes 4 key ++ toBytes 4 (peGen (pentry s key)) ++ toBytes 8 0) s
      if r.2 ∧ s.pmap.pendWait.head? = some key then
        { r.1 with pmap := { r.1.pmap with pend := r.1.pmap.pend ++ [key], pendWait := r.1.pmap.pendWait.drop 1 } }
      else s) s

/-- Record a pending recomputation, unless it is recorded or the table of 256 is full (R235). -/
def requestRecomp (key : Nat) (s : State) : State :=
  if key ∈ s.pmap.pend ∨ key ∈ s.pmap.pendWait ∨ 256 ≤ s.pmap.pend.length + s.pmap.pendWait.length then s
  else pumpPend { s with pmap := { s.pmap with pendWait := s.pmap.pendWait ++ [key] } }

/-- What a walk finds at an entry (*Walk results by state*). -/
inductive WalkHit where
  | addr (a : Nat)
  | nothing
  /-- Waits for the entry to leave COPYING. -/
  | wait
  /-- Waits for a recomputation. -/
  | recompute
  /-- All ones, and an address fault (RETIRED without RECOMP_RING, DROPPED without map configuration). -/
  | fault
  deriving DecidableEq, Repr

/-- What a walk finds at an entry (R213, R218). Without map configuration a DROPPED entry gives the fault
of R217.
DEDUCED: notes/assumptions/43.md. -/
def walkHit (s : State) (e : Nat) : WalkHit :=
  match peState e with
  | 1 => if peTier e = 0 then .nothing else .addr (peAddr s e)
  | 2 => if (mapCfg s).isSome then .recompute else .fault
  | 4 => if peTier e = 0 then .nothing else .wait
  | 5 => if (recompRing s).isSome then .recompute else .fault
  | _ => .nothing

/-- Write one result of a walk: an address in the list and a bit of the mask (R169). -/
def walkWrite (w : Walk) (i addr : Nat) (hit : Bool) (s : State) : State :=
  modCell w.cell (fun c =>
    let c := spaceWrite (refSpace w.list) (fieldOf w.list 20 0 + 8 * i) (toBytes 8 addr) c
    writeBits (refSpace w.mask) (8 * fieldOf w.mask 20 0 + i) 1 (bit01 hit) c) s

/-- A walk waits at its entry, and its walker reads ahead (R218, R220). -/
def parkWalk (w : Walk) (s : State) : State :=
  let r := readAhead (w.key + w.i) (w.key + w.n) w.ahead s
  { r.2 with pmap := { r.2.pmap with walks := r.2.pmap.walks ++ [{ w with ahead := r.1 }] } }

/-- The copy of the entry that a walk serves: the one read ahead, or one read now through the near cache of the
cell (R37, R218, R220). -/
def walkCopy (w : Walk) (s : State) : Nat × State :=
  match w.ahead.find? fun x => x.1 == w.key + w.i with
  | some x => (x.2, s)
  | none => let r := nearRead w.cell 0 (s.pmap.base + 16 * (w.key + w.i)) 16 s; (ofBytes r.1, r.2)

/-- The copies that a walk still has to reach. -/
def Walk.left (w : Walk) : List (Nat × Nat) := w.ahead.filter fun x => x.1 != w.key + w.i

/-- A walk faults at its entry: what it read ahead is discarded (R218, R220). -/
def walkFails (w : Walk) (s : State) : State :=
  let r := readAhead (w.key + w.i) (w.key + w.n) w.left s
  discardAhead r.1.length (walkWrite w w.i allOnes64 false r.2)
    |> streamFaultAt w.ip w.cell w.stream (mapFault s (w.key + w.i))

/-- Serve the entries of a walk in order until one makes it wait (R218). The number bounds the entries.
DESIGN CHOICE: notes/assumptions/45.md. -/
def serveWalk (w : Walk) : Nat → State → State
  | 0, s => s
  | n + 1, s =>
    if w.n ≤ w.i then s
    else
    let r := walkCopy w s
    let s := r.2
    let next := { w with i := w.i + 1, ahead := w.left }
    match walkHit s r.1 with
    | .addr a => serveWalk next n (walkWrite w w.i a true s)
    | .nothing => serveWalk next n (walkWrite w w.i allOnes64 false s)
    | .wait => parkWalk { w with ahead := w.left } s
    | .recompute => requestRecomp (w.key + w.i) (parkWalk { w with ahead := w.left } s)
    | .fault => walkFails w s

/-- A waiting walk goes on where it can, unless its stream has stopped. -/
def runWalk (s : State) (w : Walk) : State :=
  if (getStream (getCell s w.cell) w.stream).running then serveWalk w (w.n + 1 - w.i) s
  else discardAhead w.ahead.length s

/-! ## Walks of the circulator -/

/-- A channel of the circulator. -/
def getChan (s : State) (c : Nat) : Channel := tget {} s.circ.chans c

/-- Change a channel. -/
def modChan (c : Nat) (f : Channel → Channel) (s : State) : State :=
  { s with circ := { s.circ with chans := tmod {} s.circ.chans c f } }

/-- The step aborts over a token or a page (R195, R199, R207, R208). -/
def circFail (c : Nat) (s : State) : State := sendFail cStepAborted (source 3 (chanDie s c)) s

/-- The key of a channel's record of present pages (R196). -/
def presenceKey (s : State) (c : Nat) : Nat := chanNum s c 4 4 * 2 ^ 32 + chanLayer s c

/-- What the FORWARD channel recorded of page i, for a BACKWARD one (R208). -/
def recorded (s : State) (c i : Nat) : Option Bool :=
  if chanBack s c then (tget [] s.circ.presence (presenceKey s c))[i]? else none

/-- The entry of page i of the own shard as its walk reads it: read ahead, or now (R218, R220). -/
def chanCopy (s : State) (c i : Nat) : Nat :=
  match (getChan s c).ahead.find? fun x => x.1 == chanMap s c + i with
  | some x => x.2
  | none => pentry s (chanMap s c + i)

/-- The next page of the own shard is walked: present, or absent. -/
def ownPage (c : Nat) (x : Option (Nat × Nat)) (s : State) : State :=
  let key := chanMap s c + (getChan s c).own.length
  modChan c (fun ch => { ch with own := ch.own ++ [x], ahead := ch.ahead.filter fun y => y.1 != key }) s

/-- A page that the FORWARD channel recorded as absent is not walked (R208): a copy of it is discarded. -/
def skipPage (c : Nat) (s : State) : State :=
  let key := chanMap s c + (getChan s c).own.length
  ownPage c none (discardAhead ((getChan s c).ahead.filter fun y => y.1 == key).length s)

/-- The walk of a channel waits, and its walker reads ahead (R220). -/
def parkChan (c : Nat) (s : State) : State :=
  let key := chanMap s c + (getChan s c).own.length
  let r := readAhead key (chanMap s c + chanPages s c) ((getChan s c).ahead.filter fun y => y.1 != key) s
  modChan c (fun ch => { ch with ahead := r.1 }) r.2

/-- Walk the own shard's pages in order until one makes the walk wait (R196, R207, R208, R218). The number
bounds the pages.
DESIGN CHOICE: notes/assumptions/76.md. -/
def walkOwn (c : Nat) : Nat → State → State
  | 0, s => s
  | n + 1, s =>
    let i := (getChan s c).own.length
    let e := chanCopy s c i
    if !(getChan s c).isOpen ∨ chanPages s c ≤ i then s
    else if recorded s c i = some false then walkOwn c n (skipPage c s)
    else match walkHit s e with
    | .addr a => walkOwn c n (ownPage c (some (a, fieldOf e 39 32)) s)
    | .nothing =>
      let bad := peState e = 3 ∧ (!evicting s ∨ recorded s c i = some true)
      walkOwn c n (ownPage c none (if bad then circFail c s else s))
    | .wait => parkChan c s
    | .recompute => requestRecomp (chanMap s c + i) (parkChan c s)
    | .fault => walkOwn c n (ownPage c none (circFail c s))

/-- The walk of a channel waits for a page (R235). -/
def chanAwaits (s : State) (c : Nat) : Bool :=
  let i := (getChan s c).own.length
  (getChan s c).isOpen && decide (i < chanPages s c) && walkHit s (pentry s (chanMap s c + i)) == .recompute

/-- Let the waiting walks of streams and channels go on where they can. -/
def runWalks (s : State) : State :=
  let s := s.pmap.walks.foldl runWalk { s with pmap := { s.pmap with walks := [] } }
  (s.circ.chans.map (·.1)).foldl (fun s c => walkOwn c (chanPages s c + 1) s) s

/-- The stream of an edit goes on, with the previous GEN in RES (R222). -/
def editReply (by_ : Editor) (prev : Nat) (s : State) : State :=
  match by_ with
  | .unit => s
  | .stream k i res =>
    if (getStream (getCell s k) i).wait = some (.edit res) then setS k i res prev s |> advance k i else s

/-- The stream of an edit goes on without a result: an edit that the full step log refused (R237).
DEDUCED: notes/assumptions/44.md. -/
def editSkip (by_ : Editor) (s : State) : State :=
  match by_ with
  | .unit => s
  | .stream k i res => if (getStream (getCell s k) i).wait = some (.edit res) then advance k i s else s

/-- The stream of an edit meets an address fault (R217). -/
def editFault (by_ : Editor) (key : Nat) (s : State) : State :=
  match by_ with
  | .unit => s
  | .stream k i res =>
    if (getStream (getCell s k) i).wait = some (.edit res) then streamFault k i (mapFault s key) s else s

/-- A RESIDENT write completes a pending recomputation (R235). -/
def endRecomp (key : Nat) (s : State) : State :=
  if peState (pentry s key) = 1 ∧ (key ∈ s.pmap.pend ∨ key ∈ s.pmap.pendWait) then
    { s with pmap := { s.pmap with pend := s.pmap.pend.filter (· != key)
                                   pendWait := s.pmap.pendWait.filter (· != key) } }
      |> bump (pmapBase + 0x48) 1 |> raise (mapSrc s) 0x0303 [(20, 4, key)] |> pumpPend
  else s

/-- Try SET (R223): true when it is done with, false when it waits for a frame. -/
def trySet (e : Edit) (val : Nat) (s : State) : Bool × State :=
  let old := pentry s e.key
  if logs s old val ∧ logFull s then (true, sendFail cStepAborted (mapSrc s) s |> editSkip e.by_)
  else if peState val = 1 ∧ (peTier val = 1 ∨ peTier val = 2) ∧ peFrame val = 0xFFFFFF then
    if (mapCfg s).isNone then (true, editFault e.by_ e.key s)
    else
      let r := allocFrame (peTier val) s
      match r.1 with
      | none => (false, r.2)
      | some f => (true, writeEntry e.key (putField val 63 40 f.frame) r.2 |> editReply e.by_ (peGen old)
          |> endRecomp e.key)
  else (true, writeEntry e.key val s |> editReply e.by_ (peGen old) |> endRecomp e.key)

/-- The Gallery die that a remote access of the page-map die takes, and its port (R161, R317). -/
def mapPort (s : State) (peer : Nat) : Nat :=
  let g := s.pmap.base / 2 ^ 37 / 2
  if g ≠ 0 ∧ quadPeer s g = peer then 2 * g + 1 else 2 * g

/-- Try COW (R224): true when it is done with or its copy runs, false when it waits for a frame. -/
def tryCow (e : Edit) (s : State) : Bool × State :=
  let old := pentry s e.key
  if peState old ≠ 1 ∨ !bitAt old 25 ∨ peTier old = 0 then (true, editReply e.by_ (peGen old) s)
  else
    let sole := match peNames old with | some f => frameCount s f == 1 | none => false
    if sole then
      (true, writeEntry e.key (putField (putField old 25 25 0) 27 27 0) s |> editReply e.by_ (peGen old))
    else if (mapCfg s).isNone ∨ (peTier old = 3 ∧ peModule old ≠ s.me ∧ !isRemote s (peModule old)) then
      (true, editFault e.by_ e.key s)
    else
      let r := allocFrame (if peTier old = 3 then 1 else peTier old) s
      match r.1 with
      | none => (false, r.2)
      | some f =>
        let s := incCount f r.2 |> writeEntry e.key (putField old 31 28 4)
        let s := { s with pmap := { s.pmap with cows := s.pmap.cows ++
          [⟨e.key, peTier old, peModule old, peFrame old, f, e.by_, peGen old, e.no⟩] } }
        (true, if peTier old = 3 then
          remoteRead (.cow e.key) (peModule old) (mapPort s (peModule old))
            [(peAddr s old, mkGaddr s.me 0 (f.frame * pageSize s), pageSize s)] s
          else s)

/-- Try FREE (R225). -/
def tryFree (e : Edit) (s : State) : Bool × State :=
  let prev := peGen (pentry s e.key)
  (true, freeEntry e.key s |> editReply e.by_ prev)

/-- Apply an edit whose turn has come, unless its entry is COPYING or an earlier edit of the same entry
waits; what cannot go on waits (R222 to R225, R234).
DEDUCED: notes/assumptions/42.md. -/
def tryEdit (s : State) (e : Edit) : State :=
  let wait := fun (s : State) => { s with pmap := { s.pmap with edits := s.pmap.edits ++ [e] } }
  if peState (pentry s e.key) = 4 ∨ s.pmap.edits.any (fun x => x.key == e.key) then wait s
  else
    let r := match e.op with
      | .set val => trySet e val s
      | .cow => tryCow e s
      | .free => tryFree e s
    if r.1 then r.2 else wait r.2

/-- Let the waiting edits go on in order, then the walks and the fences that waited for them.
DEDUCED: notes/assumptions/42.md. -/
def pumpMap (s : State) : State :=
  s.pmap.edits.foldl tryEdit { s with pmap := { s.pmap with edits := [] } } |> runWalks |> fenceCheck

/-- An edit arrives at the epoch keeper and takes its number. -/
def arriveEdit (e : Edit) (s : State) : State :=
  tryEdit { s with pmap := { s.pmap with editNo := s.pmap.editNo + 1 } } { e with no := s.pmap.editNo } |> pumpMap

/-- A pop of RECOMP_RING lets waiting requests go out (R235). -/
def mapAfterPop (ring : Nat) (s : State) : State := if recompRing s = some ring then pumpPend s else s

/-- A push to VICTIM_RING may let a waiting allocation go on (R232, R234). -/
def mapAfterPush (ring : Nat) (s : State) : State :=
  if victimRing s = some ring ∧ s.pmap.edits ≠ [] then pumpMap s else s

/-- Copy one page within the module (R224, R239). -/
def copyPage (fromTier fromFrame : Nat) (new : FrameId) (s : State) : State :=
  writeTier (new.tier - 1) (new.frame * pageSize s)
    (readTier s (fromTier - 1) (fromFrame * pageSize s) (pageSize s)) s

/-- Set a frame's count. -/
def setCount (f : FrameId) (n : Nat) (s : State) : State :=
  match countAddr s f with
  | some a => writeTier 0 a (toBytes 2 n) s
  | none => s

/-- The page copy of a COW ends: the entry becomes RESIDENT with the new frame, COW and SHARED clear,
and the old count falls (R224). An entry that has left COPYING meanwhile takes no frame. -/
def cowDone (c : CowJob) (s : State) : State :=
  let s := { s with pmap := { s.pmap with cows := s.pmap.cows.filter (· != c) } }
  let e := pentry s c.key
  if peState e ≠ 4 then returnFrame c.new (setCount c.new 0 s) |> editReply c.by_ c.prevGen |> pumpMap
  else
    let s := if c.oldTier = 3 then s else copyPage c.oldTier c.oldFrame c.new s
    let e' := putField (putField (putField (pePlace e 1 c.new.tier c.new.frame) 25 25 0) 27 27 0) 79 66 s.me
    writeEntry c.key e' (setCount c.new 0 s) |> editReply c.by_ c.prevGen |> pumpMap

/-- Start the relocation of an entry: COPYING with its GEN recorded (R239). -/
def startReloc (key : Nat) (s : State) : State :=
  let e := pentry s key
  match peNames e with
  | none => s
  | some f =>
    let s := writeEntry key (putField e 31 28 4) s
    { s with pmap := { s.pmap with relocs := s.pmap.relocs ++ [⟨key, peGen e, s.pmap.epoch, f, s.pmap.editNo⟩]
                                   editNo := s.pmap.editNo + 1 } }

/-- Relocate every entry that names a frame (R236). -/
def relocateFrame (f : FrameId) (s : State) : State :=
  ((liveKeys s).filter fun k => peState (pentry s k) == 1 && peNames (pentry s k) == some f).foldl
    (fun s k => startReloc k s) s

/-- A frame lies in the range of MAP_COMPACT. -/
def inCompact (s : State) (f : FrameId) : Bool :=
  match s.pmap.compact with
  | some (t, lo, hi) => f.tier == t + 1 && decide (lo < (f.frame + 1) * pageSize s) && decide (f.frame * pageSize s < hi)
  | none => false

/-- The first frame of a tier's FIFO that a relocation may take: outside the range, and not the frame
it leaves (R239). -/
def relocTarget (s : State) (r : Reloc) : Option FrameId :=
  match s.pmap.moved.find? fun m => m.1 == r.old with
  | some m => some m.2
  | none => ((fifo s r.old.tier).find? fun n => !inCompact s ⟨r.old.tier, n⟩ && n != r.old.frame).map (⟨r.old.tier, ·⟩)

/-- The copy of a relocation: the first relocation of a frame takes the frame f for it and copies it. -/
def relocCopy (r : Reloc) (f : FrameId) (s : State) : State :=
  if s.pmap.moved.any fun m => m.1 == r.old then s
  else copyPage r.old.tier r.old.frame f (setFifo f.tier ((fifo s f.tier).erase f.frame)
    { s with pmap := { s.pmap with moved := s.pmap.moved ++ [(r.old, f)] } })

/-- A relocation is over. Where its frame went is kept while entries still name the frame and the compaction runs
(R239), so that they follow it in a later batch. -/
def relocDrop (r : Reloc) (s : State) : State :=
  let relocs := s.pmap.relocs.filter (· != r)
  { s with pmap := { s.pmap with
      relocs := relocs
      moved := if relocs.any (fun x => x.old == r.old) ∨ s.pmap.compact.isSome then s.pmap.moved
        else s.pmap.moved.filter fun m => m.1 != r.old } }

/-- End the relocation of an entry after two advances of the epoch: copy and repoint it, or drop it for
a later pass when its GEN changed (R239). Without a free frame it waits. -/
def endReloc (r : Reloc) (s : State) : State :=
  let e := pentry s r.key
  if peGen e ≠ (r.gen + 1) % 2 ^ 32 ∨ peState e ≠ 4 then
    pumpMap (relocDrop r s)
  else
  let s := if s.pmap.moved.any (fun m => m.1 == r.old) then s else refillFifo r.old.tier s
  match relocTarget s r with
  | none => s
  | some f => pumpMap (relocDrop r (writeEntry r.key (pePlace e 1 f.tier f.frame) (relocCopy r f s)))

/-- The kind and number of a pin's holder as an event source (R478): a stream's cell, or the Gallery die of the
channel. -/
def pinSource (s : State) (w : PinHolder) : Nat :=
  match w with
  | .stream k _ => source 1 k
  | .hop c => source 3 (chanDie s c)
  | .feed f => source 3 (chanDie s (feedNum s f 0 1))

/-- Undo the step log in reverse order and empty it (R237). A copy-on-write under way completes first (R238). -/
def undoLog (s : State) : State :=
  let s := (s.pmap.cows.filter fun c => s.pmap.log.any fun x => x.1 == c.key).foldl (fun s c => cowDone c s) s
  let l := s.pmap.log.reverse
  let s := { s with pmap := { s.pmap with log := [] } }
  let s := l.foldl (fun s x =>
    writeEntry x.1 (pePlace (pentry s x.1) x.2 0 0) s) s
  { s with pmap := { s.pmap with log := [] } }

end Sys2Proof.Machine
end

