-- ==== Sys2Proof/Machine/FaultOps.lean ====
section
/-!
DEFINITION. Counting faults and retiring what is lasting (R370, R490 to R502), the places of memory
rows (R366, R367), and the update table as far as published weights go (R274).
-/
namespace Sys2Proof.Machine

/-! ## Places -/

/-- The channel, bank (numbered as in R379) and row of an offset within a stack (R366, R367); ctl 0 to
15 names HBM stacks, 16 to 31 deep stacks. -/
def rowPlace (ctl off : Nat) : Nat × Nat × Nat :=
  if ctl < 16 then
    let r := fieldOf off 35 20
    (fieldOf off 15 10, r % 3 * 16 + fieldOf off 19 18 * 4 + fieldOf off 17 16, r / 3)
  else (fieldOf off 13 10, fieldOf off 19 18 * 16 + fieldOf off 17 14, fieldOf off 35 20)

/-- The bank of an offset, as channel × 64 + bank. -/
def bankOf (ctl off : Nat) : Nat := let p := rowPlace ctl off; p.1 * 64 + p.2.1

/-- The tier of a controller: 0 HBM, 1 deep. -/
def ctlTier (ctl : Nat) : Nat := ctl / 16
/-- The tier OFFSET of a byte of a controller's stack (R18). -/
def tierOff (ctl off : Nat) : Nat := ctl % 16 * 2 ^ 36 + off
/-- The fault site of a row (*Site locator*). -/
def rowSite (ctl off : Nat) : Site :=
  let p := rowPlace ctl off
  ⟨ctl / 16, ctl % 16, p.1, p.2.1, p.2.2⟩
/-- The event source of a controller (R478). -/
def ctlSource (ctl : Nat) : Nat := source (7 + ctl / 16) (ctl % 16)

/-- A memory controller. -/
def getMc (s : State) (ctl : Nat) : Mc := tget {} s.mcs ctl
/-- Change a memory controller. -/
def modMc (ctl : Nat) (f : Mc → Mc) (s : State) : State := { s with mcs := tmod {} s.mcs ctl f }

/-- Spare rows of a bank at manufacture: 32 in a deep bank (R373). -/
def bankSpares (ctl bank : Nat) : Nat := if ctl < 16 then Config.hbmSpares ctl bank else 32

/-! ## Events and records -/

/-- The event source of the block that holds a site (R497). -/
def siteSource (x : Site) : Nat :=
  match x.kind with
  | 0 => source 7 x.b20
  | 1 => source 8 x.b20
  | 2 => if x.b21 ≠ 0xFF then source 1 (x.b20 % 32 * 128 + x.b21)
         else source (if x.b20 / 32 = 1 then 2 else if x.b20 / 32 = 2 then 3 else 1) (x.b20 % 32)
  | 3 => source 1 (x.b20 % 32 * 128 + x.b21)
  | _ =>
    if x.b20 = 40 then source 9 0
    else if 32 ≤ x.b20 then source 3 ((x.b20 - 32) / 2)
    else if 26 ≤ x.b20 then source 3 (2 * (x.b20 - 26))
    else if 18 ≤ x.b20 then source 3 ((x.b20 - 18) / 2)
    else if 10 ≤ x.b20 then source 1 ((x.b20 - 10) * 128)
    else if 6 ≤ x.b20 then source 1 ((x.b20 - 6) * 128)
    else source 1 ((x.b20 + x.b20 / 3) * 128)

/-- The payload of a fault event (*Fault events*, *Site locator*). -/
def locator (x : Site) (b19 : Nat) : List (Nat × Nat × Nat) :=
  [(18, 1, x.kind), (19, 1, b19), (20, 1, x.b20), (21, 1, x.b21), (22, 1, x.b22), (24, 4, x.row)]

/-- Correctable errors in one window that make a fault lasting (*Fault sites*). -/
def siteThreshold (kind : Nat) : Nat := if kind = 3 then 4 else if kind = 4 then 64 else 8

/-- Change the fault state. -/
def modFaults (f : Faults → Faults) (s : State) : State := { s with faults := f s.faults }

/-- The module rewrites the health report (R508).
DEDUCED: notes/assumptions/125.md. -/
def rewriteReport (s : State) : State := modFaults (fun f => { f with reportSeq := (f.reportSeq + 1) % 2 ^ 32 }) s

/-- A retirement takes effect (R497, R508). -/
def raiseRetired (x : Site) (action : Nat) (s : State) : State :=
  rewriteReport (modFaults (fun f => { f with retired := insertNew f.retired x
                                              history := f.history ++ [.retired x action] }) s)
    |> raise (siteSource x) 0x0A03 (locator x action)

/-! ## Consequences -/

/-- The frame of a FRAME_POOL region that holds a byte of a tier. -/
def frameAt (s : State) (tier off : Nat) : Option FrameId :=
  let f : FrameId := ⟨tier + 1, off / pageSize s⟩
  if s.plan.active && (frameIndex s f).isSome then some f else none

/-- A frame leaves its pool for good (R226). -/
def dropFrame (f : FrameId) (s : State) : State :=
  let s := { s with pmap := { s.pmap with gone := insertNew s.pmap.gone f } }
  if f.frame ∈ fifo s f.tier then setFifo f.tier ((fifo s f.tier).erase f.frame) s else s

/-- A retired row's frame leaves the stash pool (R263). -/
def stashDrop (tier off : Nat) (s : State) : State :=
  let f : FrameId := ⟨tier + 1, off / pageSize s⟩
  if s.plan.active ∧ (imgRegions s s.act).any (fun r => r.kind == 5 && r.tier == tier &&
      decide (r.base ≤ off) && decide (off < r.base + r.len)) then
    { s with stash := { s.stash with
        gone := insertNew s.stash.gone f
        freeHbm := if tier = 0 then s.stash.freeHbm.filter (· != f.frame) else s.stash.freeHbm
        freeDeep := if tier = 1 then s.stash.freeDeep.filter (· != f.frame) else s.stash.freeDeep } }
  else s

/-- A lasting row that no spare repairs (R498). -/
def rowUnrepaired (ctl off : Nat) (s : State) : State :=
  let p := rowPlace ctl off
  stashDrop (ctlTier ctl) (tierOff ctl off) s
    |> modFaults (fun f => { f with badRows := f.badRows ++ [⟨ctl % 16, p.1, p.2.1, ctlTier ctl, p.2.2⟩] })
    |> raiseRetired (rowSite ctl off) 1

/-- An uncorrectable error in a frame retires it, whatever its fault site has counted (R236). -/
def frameUE (tier off : Nat) (s : State) : State :=
  match frameAt s tier off with
  | some f => if f ∈ s.pmap.gone then s else retireFrame f s |> pumpMap
  | none => s

/-- A row's fault became lasting: its frame is moved or retired (R236), and the row is queued for
repair or recorded as unrepaired (R373, R498). -/
def rowLasting (ctl off : Nat) (ue : Bool) (s : State) : State :=
  let t := ctlTier ctl
  let a := tierOff ctl off
  let s := stashDrop t a s
  let spare := decide (tget 0 (getMc s ctl).used (bankOf ctl off) < bankSpares ctl (bankOf ctl off))
  let s := match frameAt s t a with
    | none => s
    | some f =>
      if ue then frameUE t a s
      else relocateFrame f (if spare then s else dropFrame f s)
  if spare then modMc ctl (fun m => { m with repairQ := m.repairQ ++ [off / 1024 * 1024] }) s
  else rowUnrepaired ctl off s

/-- A cell's fault became lasting (R499): it retires at the next swap; after an uncorrectable error its
streams stop. -/
def cellLasting (k : Nat) (ue : Bool) (s : State) : State :=
  let s := modCell k (fun c => { c with health := .retirePending }) s
    |> modFaults (fun f => { f with pendingCells := insertNew f.pendingCells k })
  if ue then
    (runningStreams (getCell s k)).foldl (fun s i => stopStream true k i s) s
      |> modCell k (fun c => { c with st := .halted })
      |> modFaults (fun f => { f with stoppedCells := insertNew f.stoppedCells k })
  else s

/-- What follows when the fault of a site becomes lasting; off is the offset within the stack for a
row. -/
def siteLasting (x : Site) (off : Nat) (ue : Bool) (s : State) : State :=
  match x.kind with
  | 0 => rowLasting x.b20 off ue s
  | 1 => rowLasting (16 + x.b20) off ue s
  | 2 => if x.b21 = 0xFF then raiseRetired x 4 s else cellLasting (x.b20 % 32 * 128 + x.b21) ue s
  | 3 => cellLasting (x.b20 % 32 * 128 + x.b21) ue s
  | _ => s

/-- The fault of a site becomes lasting (R490, R494, R497); count 0xFF for an uncorrectable error. -/
def makeLasting (x : Site) (off count : Nat) (s : State) : State :=
  modFaults (fun f => { f with
      ledger := f.ledger.filter fun w => w.site != x
      lasting := f.lasting ++ [x]
      history := f.history ++ [.lasting x] }) s
    |> bump 0x718 1
    |> raise (siteSource x) 0x0A02 (locator x count)
    |> siteLasting x off (count == 0xFF)

/-- Errors of a site do not count: it is lasting already (R496), or a margin survey runs (R504). -/
def uncounted (s : State) (x : Site) : Bool :=
  decide (x ∈ s.faults.lasting) || s.modes.running.any fun m => m.activity == 3

/-- A window opens (R490, R494). -/
def openWindow (x : Site) (s : State) : State :=
  let f := s.faults
  let full := decide (16384 ≤ f.ledger.length)
  let l := if full then f.ledger.drop 1 else f.ledger
  modFaults (fun f => { f with ledger := l ++ [⟨x, f.elapsed, 1⟩] }) s
    |> bump 0x710 (bit01 full) |> raise (siteSource x) 0x0A01 (locator x 1)

/-- A correctable error of a site (R490). -/
def countCE (x : Site) (off : Nat) (s : State) : State :=
  if uncounted s x then s
  else match s.faults.ledger.find? fun w => w.site == x with
  | none => openWindow x s
  | some w =>
    if 117964800 < s.faults.elapsed - w.opened then
      openWindow x (modFaults (fun f => { f with ledger := f.ledger.filter fun v => v.site != x }) s)
    else if siteThreshold x.kind ≤ w.count + 1 then makeLasting x off (w.count + 1) s
    else modFaults (fun f => { f with ledger := f.ledger.map fun v =>
      if v.site = x then { v with count := v.count + 1 } else v }) s

/-- An uncorrectable error of a site (R490). -/
def countUE (x : Site) (off : Nat) (s : State) : State :=
  if uncounted s x then s else makeLasting x off 0xFF s

/-! ## Memory errors -/

/-- The update table of the active plan (R274). -/
def updTab (s : State) : Option Region := s.cfg 4
/-- Descriptors of the update table. -/
def updCount (s : State) : Nat := match updTab s with | some r => cfgNum s r 0 4 | none => 0
/-- A field of update descriptor j. -/
def updNum (s : State) (j off n : Nat) : Nat :=
  match updTab s with | some r => cfgNum s r (64 + 128 * j + off) n | none => 0

/-- A byte lies in what committed state is read from: the committed state copy, or published weights
(R502). -/
def committedHit (s : State) (tier off : Nat) : Bool :=
  s.plan.active && (if tier = 1 then
      (imgRegions s s.act).any fun r => r.kind == 6 + s.steps.committed % 2 && decide (r.base ≤ off) &&
        decide (off < r.base + r.len)
    else (rangeFrom 0 (updCount s)).any fun j =>
      updNum s j 6 1 != 0xFF && decide (updNum s j 72 8 ≤ off) &&
        decide (off < updNum s j 72 8 + updNum s j 8 4 * updNum s j 12 4 * elemBits (updNum s j 6 1) / 8))

/-- A corrected read (R370). -/
def memCE (ctl off : Nat) (s : State) : State :=
  modMc ctl (fun m => { m with errKind := 1, errOff := tierOff ctl off }) s
    |> bump (mcBase ctl + 0x08) 1 |> countCE (rowSite ctl off) off

/-- An uncorrectable read without its FAIL (R370, R502): the granule reads as all ones until it is
written. -/
def memUE (ctl off kind : Nat) (s : State) : State :=
  let a := tierOff ctl off
  let s := { s with bad := insertNew s.bad (ctlTier ctl, a / 64) }
  let s := if s.steps.phase ≠ .running ∧ committedHit s (ctlTier ctl) a then
      modFaults (fun f => { f with damaged := true }) s else s
  modMc ctl (fun m => { m with errKind := kind, errOff := a }) s
    |> bump (mcBase ctl + 0x10) 1 |> frameUE (ctlTier ctl) a |> countUE (rowSite ctl off) off

/-! ## Lanes -/

/-- The halves of a link that hold a lasting lane fault: bit 0 the low half, bit 1 the high half of its
lanes. -/
def badHalves (s : State) (link lanes : Nat) : Nat :=
  let l := s.faults.lasting.filter fun x => x.kind == 4 && x.b20 == link
  bit01 (l.any fun x => decide (x.b21 < lanes / 2)) + 2 * bit01 (l.any fun x => decide (lanes / 2 ≤ x.b21))

/-- The lanes retired by a training take effect: each lasting lane is retired once at half width, and
the stored width follows (R313, R440, R501). -/
def lanesRetire (link lanes : Nat) (s : State) : State :=
  let new := s.faults.lasting.filter fun x => x.kind == 4 && x.b20 == link && decide (x ∉ s.faults.retired)
  new.foldl (fun s x => raiseRetired x 3 s)
    (modFaults (fun f => { f with widths := tset 0 f.widths link (badHalves s link lanes) }) s)

/-- The lanes that failed one training, while others of the link passed, count towards three; the ones
that passed start again (*Fault sites*, R492).
DEDUCED: notes/assumptions/55.md. -/
def lanesTrained (link lanes : Nat) (bad : List Nat) (s : State) : State :=
  if lanes ≤ bad.length then s
  else (rangeFrom 0 lanes).foldl (fun s l =>
    let k := link * 64 + l
    if l ∈ bad then
      let n := tget 0 s.faults.laneFails k + 1
      let s := modFaults (fun f => { f with laneFails := tset 0 f.laneFails k (if 3 ≤ n then 0 else n) }) s
      if 3 ≤ n then countUE ⟨4, link, l, 0, 0⟩ 0 s else s
    else modFaults (fun f => { f with laneFails := tset 0 f.laneFails k 0 }) s) s

end Sys2Proof.Machine
end

