-- ==== Sys2Proof/Machine/Tags.lean ====
section
/-!
DEFINITION. Transfer tags (R52, R53, R158): taking a tag, ending a transfer, and the streams that wait
in TAGW.
-/
namespace Sys2Proof.Machine

/-- The state of a tag of a stream. -/
def tagOf (t : Stream) (tag : Nat) : TagSt := tget .free t.tags tag

/-- Tags of a cell that are not free (CELL_TAGS.IN_USE).
DEDUCED: notes/assumptions/47.md. -/
def tagsInUse (c : Cell) : Nat := c.streams.foldl (fun n e => n + e.2.tags.length) 0

/-- The tag can be taken: it is free and the cell uses fewer than 512 (R53, R158). -/
def canTake (c : Cell) (i tag : Nat) : Bool :=
  tagOf (getStream c i) tag == .free && decide (tagsInUse c < 512)

/-- Set the state of a tag. -/
def setTag (k i tag : Nat) (st : TagSt) (s : State) : State :=
  modStream k i (fun t => { t with tags := tset .free t.tags tag st }) s

/-- A tag is taken: the peak of the cell follows (R66). -/
def takeTag (k i tag : Nat) (st : TagSt) (s : State) : State :=
  setTag k i tag st s |> modCell k fun c => { c with tagsPeak := max c.tagsPeak (tagsInUse c) }

/-- A transfer starts: its tag is busy (R158). -/
def startTransfer (k : Nat) (t : Transfer) (s : State) : State :=
  takeTag k t.stream t.tag .busy s |> modCell k fun c => { c with xfers := c.xfers ++ [t] }

/-- The stream's pin goes when a TAGW with ALL returns (R228). -/
def tagwAll (k i : Nat) (s : State) : State :=
  modStream k i (fun t => { t with tags := [] }) s |> advance k i |> dropPin (.stream k i)

/-- No tag of the stream is busy. -/
def noneBusy (t : Stream) : Bool := t.tags.all fun e => e.2 != .busy

/-- A stream that waits in TAGW goes on when its tag is done, or every tag of it is (R158). -/
def wakeTagw (k i : Nat) (s : State) : State :=
  let t := getStream (getCell s k) i
  match t.wait with
  | some (.tag n) => if tagOf t n = .busy then s else setTag k i n .free s |> advance k i
  | some .allTags => if noneBusy t then tagwAll k i s else s
  | _ => s

/-- A transfer is over: its tag becomes done, or free with AUTO, and its signals leave for its cells
(R52, R158). -/
def endTransfer (k : Nat) (t : Transfer) (s : State) : State :=
  t.cells.foldl (fun s c => signalSem c t.sem t.amt s)
    (modCell k (fun c => { c with xfers := c.xfers.erase t }) s)
    |> setTag k t.stream t.tag (if t.auto then .free else .done)
    |> wakeTagw k t.stream

/-- An instruction under a tag is suppressed: it signals and completes its tag (R151). -/
def suppressTag (u : StreamAt) (tag : Nat) (auto : Bool) (sem amt : Nat) (cells : List Nat) (s : State) : State :=
  cells.foldl (fun s c => signalSem c sem amt s) s
    |> takeTag u.cell u.stream.toNat tag (if auto then .free else .done)
    |> stepOn u

/-- The place of a transfer's cause in the order of R47: MAP, REMOTE, DEEP, BANK. -/
def causeRank (c : StallCause) : Nat := match c with | .map => 0 | .remote => 1 | .deep => 2 | _ => 3

/-- The first cause in the order of R47 among some transfers. -/
def firstCause (l : List Transfer) : StallCause :=
  l.foldl (fun a x => if causeRank x.cause < causeRank a then x.cause else a) .bank

/-- TAGW: wait until the tag is done and free it, or every tag with ALL (R158). A wait counts under the
tier of the transfer, with ALL under the first cause of those that it waits for (R47). -/
def tagwEffect (u : StreamAt) (tag : Nat) (all : Bool) (s : State) : State :=
  let k := u.cell
  let i := u.stream.toNat
  let c := getCell s k
  let t := getStream c i
  let cause := firstCause (c.xfers.filter fun x => x.stream == i && (all || x.tag == tag))
  if all then
    if noneBusy t then tagwAll k i s
    else modStream k i (fun t => { t with wait := some .allTags, cause := cause }) s
  else if tagOf t tag = .busy then modStream k i (fun t => { t with wait := some (.tag tag), cause := cause }) s
  else setTag k i tag .free s |> stepOn u

/-- TAGW. -/
def execTagw (u : StreamAt) (tag : BitVec 9) (all : Bool) (s : State) : Host.Outcome State Fault Refusal :=
  issue u true (tagwEffect u tag.toNat all) s

end Sys2Proof.Machine
end

