-- ==== Sys2Proof/Machine/PageMap.lean ====
section
/-!
DEFINITION. The page-map class PMW and the events of the map unit (R169, R218 to R239), the near-cache
fill (R37) and the register accesses that the map has commands for (R559, R560).
-/
namespace Sys2Proof.Machine

/-- WALK (R169, R218): the checks, then the walk under its tag.
DEDUCED: notes/assumptions/43.md.
DEDUCED: notes/assumptions/46.md. -/
def walkEffect (u : StreamAt) (p : Pred) (w : WalkWord) (s : State) : State :=
  let k := u.cell
  let i := u.stream.toNat
  let c := getCell s k
  let tag := w.tag.toNat
  let list := aReg s u w.list
  let mask := aNext s u w.list
  let key := sReg s u w.key % 2 ^ 24
  let n := sReg s u w.n % 2 ^ 32
  let checked : Except RtFault Unit := do
    let r ← decodeRef 0 list
    let m ← decodeRef 0 mask
    checkSpace (opMode s c) c r.space r.a (8 * n) true
    checkSpace (opMode s c) c m.space m.a (ceilDiv n 8) true
  if !canTake c i tag then blockUnit u .map s
  else if !takesEffect c p then suppressTag u tag w.auto w.sem.toNat w.amt.toNat [k] s
  else if s.pmap.entries < key + n then streamFault k i (mapFault s (key + n - 1)) s
  else match checked with
  | .error f => streamFault k i f s
  | .ok () =>
    let x : Transfer := { stream := i, tag := tag, auto := w.auto, sem := w.sem.toNat, amt := w.amt.toNat
                          walk := true, cells := [k], cause := .map }
    takePin (.stream k i) s |> startTransfer k x |> stepOn u
      |> serveWalk { cell := k, stream := i, tag := tag, list := list, mask := mask, key := key, n := n, i := 0
                     ip := (streamOf s u).ip } (n + 1)

/-- WALK: LIST_REF has a companion and is not A15 (R146). -/
def execWalk (u : StreamAt) (p : Pred) (w : WalkWord) (s : State) : Host.Outcome State Fault Refusal :=
  issue u (predOk p && w.list != 15) (walkEffect u p w) s

/-- An edit leaves the stream, which blocks until the epoch keeper answers (R222). -/
def editEffect (u : StreamAt) (p : Pred) (res key : Nat) (op : EditOp) (ok : Bool) (s : State) : State :=
  let k := u.cell
  let i := u.stream.toNat
  if !takesEffect (getCell s k) p then stepOn u s
  else if s.pmap.entries ≤ key ∨ !ok then streamFault k i (mapFault s key) s
  else modStream k i (fun t => { t with wait := some (.edit res), cause := .map }) s
    |> arriveEdit { key := key, op := op, by_ := .stream k i res }

/-- A value that PMAP.SET writes: known STATE, reserved bits zero, and a TIER with RESIDENT and COPYING
(R223).
DEDUCED: notes/assumptions/46.md. -/
def setOk (v : Nat) : Bool :=
  decide (peState v ≤ 5) && fieldOf v 4 0 == 0 && !((peState v == 1 || peState v == 4) && peTier v == 0)

/-- PMAP.SET (R223): VAL's registers hold the entry. -/
def execPmapSet (u : StreamAt) (p : Pred) (res key val : BitVec 4) (s : State) : Host.Outcome State Fault Refusal :=
  issue u (predOk p && val.toNat % 2 == 0) (fun s =>
    let v := sReg s u val + getS (streamOf s u) (val.toNat + 1) * 2 ^ 64
    editEffect u p res.toNat (sReg s u key % 2 ^ 24) (.set v) (setOk v) s) s

/-- PMAP.COW (R224). -/
def execPmapCow (u : StreamAt) (p : Pred) (res key : BitVec 4) (s : State) : Host.Outcome State Fault Refusal :=
  issue u (predOk p) (fun s => editEffect u p res.toNat (sReg s u key % 2 ^ 24) .cow true s) s

/-- PMAP.FREE (R225). -/
def execPmapFree (u : StreamAt) (p : Pred) (res key : BitVec 4) (s : State) : Host.Outcome State Fault Refusal :=
  issue u (predOk p) (fun s => editEffect u p res.toNat (sReg s u key % 2 ^ 24) .free true s) s

/-- What a fence that starts now waits for (R230). -/
def fenceSnap (s : State) : FenceSnap := ⟨s.pmap.pins, editsNow s⟩

/-- PMAP.FENCE blocks its stream until earlier edits and walks have ended (R230). -/
def execPmapFence (u : StreamAt) (s : State) : Host.Outcome State Fault Refusal :=
  issue u true (fun s =>
    if fenceDone s (fenceSnap s) then stepOn u s
    else modStream u.cell u.stream.toNat (fun t => { t with wait := some .fence, cause := .map })
      { s with pmap := { s.pmap with fenceStreams := s.pmap.fenceStreams ++ [(u.cell, u.stream.toNat, fenceSnap s)] } }) s

/-- COW_COPY_COMPLETE: the page copy of an entry ends; a copy of a TIER 3 entry once all of it has
landed (R224). -/
def execCowCopyComplete (key : Nat) (s : State) : Host.Outcome State Fault Refusal :=
  .next (match s.pmap.cows.find? fun c => c.key == key with
    | some c => if xfersLeft s (.cow key) = 0 then cowDone c s else s
    | none => s)

/-- The near cache as an SRAM-bank fault site (*Site locator*). -/
def nearSite (cell : Nat) : Site := ⟨2, cell / 128, cell % 128, 32, 0⟩

/-- NEAR_CACHE_FILL: a miss returns its line, which is put first in its set of 8 (R37). Deep-tier line
numbers carry bit 41. A line that the cache holds misses only by a parity error, which counts as corrected
(R39).
DESIGN CHOICE: notes/assumptions/28.md. -/
def execNearCacheFill (cell line : Nat) (s : State) : Host.Outcome State Fault Refusal :=
  let tier := line / 2 ^ 41
  let off := 128 * (line % 2 ^ 41)
  let c := getCell s cell
  let setOf := fun (l : NcLine) => l.line % 256
  let rest := c.near.filter fun l => l.line != line
  let kept := if 8 ≤ (rest.filter fun l => setOf l == line % 256).length then
      match (rest.filter fun l => setOf l == line % 256).getLast? with
      | some old => rest.filter (· != old)
      | none => rest
    else rest
  onUnit (cellOk cell && decide (tier ≤ 1) && (if tier = 0 then hbmOk off 128 else deepOk off 128))
    (if opMode s c then s
     else
       let held := c.near.any fun l => l.line == line
       modCell cell (fun c => { c with near := ⟨line, readTier s tier off 128⟩ :: kept }) s
         |> fun s => if held then countCE (nearSite cell) 0 s else s)

/-- EPOCH_EXAMINE: the epoch advances when no pin is older than it (R229); frames leave limbo (R226). -/
def execEpochExamine (s : State) : Host.Outcome State Fault Refusal :=
  .next (if s.pmap.pins.any fun p => decide (p.epoch < s.pmap.epoch) then s
    else leaveLimbo { s with pmap := { s.pmap with epoch := s.pmap.epoch + 1, reclaimRaised := false } } |> pumpMap)

/-- MAP_RECLAIM_EXPIRE: frames wait in limbo behind an old pin (R231). -/
def execMapReclaimExpire (s : State) : Host.Outcome State Fault Refusal :=
  .next (match s.pmap.pins with
    | p :: _ =>
      if s.pmap.limbo = [] ∨ s.pmap.reclaimRaised ∨ s.pmap.epoch ≤ p.epoch then s
      else raise (mapSrc s) 0x0304 [(18, 2, pinSource s p.who), (24, 8, p.epoch)]
        { s with pmap := { s.pmap with reclaimRaised := true } }
    | [] => s)

/-- The tier that a waiting edit asks a frame of. -/
def editTier (s : State) (e : Edit) : Option Nat :=
  let old := pentry s e.key
  if peState old = 4 then none
  else match e.op with
    | .set v => some (peTier v)
    | .cow => some (if peTier old = 3 then 1 else peTier old)
    | .free => none

/-- ALLOCATION_CANARY_EXPIRE: an edit has waited for a frame too long (R234). -/
def execAllocationCanaryExpire (s : State) : Host.Outcome State Fault Refusal :=
  .next (match s.pmap.edits.find? fun e => (editTier s e).isSome with
    | none => s
    | some e =>
      let s := raise (mapSrc s) 0x0401 [(20, 4, e.key), (24, 1, (editTier s e).getD 0)] s
      if workload s = 2 then endUser (e.key / 2 ^ slotShift s) cBudget s |> pumpMap
      else sendFail cCanaryTimeout (mapSrc s) s)

/-- COMPACT_RELOCATE: after two advances of the epoch an entry moves to its new frame (R239). -/
def execCompactRelocate (key : Nat) (s : State) : Host.Outcome State Fault Refusal :=
  .next (match s.pmap.relocs.find? fun r => r.key == key with
    | some r => if r.epoch + 2 ≤ s.pmap.epoch then endReloc r s else s
    | none => s)

end Sys2Proof.Machine
end

