-- ==== Sys2Proof/Machine/Gate.lean ====
section
/-!
DEFINITION. Which register accesses of the host are served (R442, R552, R556), and the refusal of a
remote transfer (R334).
-/
namespace Sys2Proof.Machine

/-- The block at a BAR0 offset answers in the present state (*Blocks served*); the link is ACTIVE. -/
def served (s : State) (off : Nat) : Bool :=
  let st := s.pwr.state
  if s.pwr.reset == .hot then decide (off < 0x800000)
  else if stMemtrain ≤ st ∧ st ≤ stRecovery then true
  else decide (st = stFault) && s.hf.bootFail && decide (off < 0x300000)

/-- A register access that is refused counts in BXL_BAD_ACCESS (R442, R450, R556). -/
def badAccess (s : State) : State := bump (bxlBase + 0x130) 1 s

/-- A register write of the host: without an ACTIVE link no message arrives; in a block that is not
served it writes nothing and counts (R556). -/
def hostAccess (off : Nat) (f : State → State) (s : State) : State :=
  if s.bxl.st ≠ .active then s else if served s off then f s else badAccess s

/-- Every part of a remote transfer is given up. -/
def dropXfers (what : XferFor) (s : State) : State :=
  { s with xfers := s.xfers.filter fun e => match e.2 with | some x => x.what != what | none => true }

/-- A frame of a remote transfer was refused: a stream's MOVE is an address fault (R334). An engine's
transfer loses its parts and ends with what has landed. -/
def refusedXfer (id addr : Nat) (s : State) : State :=
  match getXfer s id with
  | none => s
  | some x =>
    let s := dropXfers x.what s
    match x.what with
    | .stream k i t =>
      let ip := ((getCell s k).xfers.find? fun x => x.stream == i && x.tag == t).elim 0 (·.ip)
      modCell k (fun c => { c with xfers := c.xfers.filter fun x => !(x.stream == i && x.tag == t) }) s
        |> modStream k i (fun u => { u with tags := tdel u.tags t, ip := ip }) |> streamFault k i ⟨1, addr⟩
    | _ => s

end Sys2Proof.Machine
end

