-- ==== Sys2Proof/Machine/Receive.lean ====
section
/-!
DEFINITION. The receiving side of the Gallery transport: the acceptance checks (R323, R324, R359), PSN
windows and acknowledgements (R326, R327), congestion (R330, R331) and remote loads and stores (R334).
-/
namespace Sys2Proof.Machine

/-- The port of a received frame. -/
def rxPort (r : RxFrame) : Nat := 2 * r.die + r.port

/-- The port of its flow: another one when the sender's port has left UP (R316).
DEDUCED: notes/assumptions/34.md. -/
def rxFlowPort (r : RxFrame) : Nat :=
  match r.f.flow with
  | some q => if portOk (q / 2) (q % 2) then q else rxPort r
  | none => rxPort r

/-- A frame that checks 5 to 9 hold against the staged image (R359). -/
def rxStaged (s : State) (f : Frame) : Bool := swapHeld s && isSwapFrame f

/-- What the acceptance checks find (R323). -/
inductive RxCheck where
  | ok
  /-- Dropped; the counter at this offset of the port window counts. -/
  | drop (ctr : Nat)
  /-- A stranger, with its reason (R324). -/
  | stranger (reason : Nat)
  /-- A duplicate (R326). -/
  | duplicate
  deriving DecidableEq, Repr

/-- A sender that check 7 admits: a worker; in a swap any member of the staged image that fills a
position; for MOVE frames the member's own buddy, which may be a spare (R137, R308).
DEDUCED: notes/assumptions/33.md. -/
def rxSender (s : State) (b : Nat) (f : Frame) : Bool :=
  decide (f.src < imgSetSize s b) && !imgEmpty s b f.src &&
    (imgRole s b f.src == 0 || rxStaged s f || (f.cls == 3 && imgBuddy s b (imgSetIndex s b) == f.src) ||
      (f.cls == 3 && imgBuddy s b f.src == imgSetIndex s b))

/-- Check 8: the spine source address, or the quad port's own peer (R15, R323). -/
def rxPeerOk (s : State) (b : Nat) (r : RxFrame) : Bool :=
  if r.port = 0 then imgSpineAddr s b r.f.src r.die == r.srcAddr
  else imgSetIndex s b ^^^ r.die == r.f.src

/-- The addressing of check 3: on a spine port the port's address and UDP_PORT of the image that the frame is
checked against, of which there is none before a plan (R335); on a quad port its own MAC address or broadcast
(R322, R323, R359). -/
def rxAddressed (s : State) (b : Nat) (r : RxFrame) : Bool :=
  if r.port = 0 then
    (rxStaged s r.f || s.plan.active) && imgSpineAddr s b (imgSetIndex s b) r.die == r.dstAddr &&
      r.udpPort == imgUdpPort s b
  else r.dstMac == portMac (rxPort r) || r.dstMac == 2 ^ 48 - 1

/-- Checks 1 to 9 (R323).
DEDUCED: notes/assumptions/33.md. -/
def rxIdentity (s : State) (r : RxFrame) : RxCheck :=
  let f := r.f
  let st := rxStaged s f
  let b := if st then s.stg else s.act
  if !r.fcs then .drop 0x120
  else if !(r.form && rxAddressed s b r) then .drop 0x130
  else if r.crc ≠ frameCrc f then .drop 0x120
  else if !(st || s.plan.active) || f.version != 1 then .stranger 6
  else if f.setId ≠ imgSetId s b then .stranger 1
  else if f.cookie ≠ imgCookie s b then .stranger 2
  else if !rxSender s b f then .stranger 3
  else if f.dst ≠ imgSetIndex s b then .stranger 5
  else if !rxPeerOk s b r then .stranger 4
  else if f.planTag ≠ ofBytes ((imgDigest s b).take 4) then .drop 0x138
  else .ok

/-- A frame that takes a PSN of a windowed flow (R326). -/
def hasPsn (f : Frame) : Bool := f.cls != 0 && (f.typ == 0 || f.typ == 3 || f.typ == 4)

/-- The flow that a received frame belongs to. -/
def rxFlow (r : RxFrame) : Nat := flowKey (rxFlowPort r) r.f.src r.f.cls

/-- Check 10: the distance of a PSN from the next one expected (R326).
DEDUCED: notes/assumptions/30.md. -/
def rxWindow (s : State) (r : RxFrame) : RxCheck :=
  let c := getRecv s (rxFlow r)
  let d := (r.f.psn + 2 ^ 32 - c.cum) % 2 ^ 32
  if !hasPsn r.f then .ok
  else if 2 ^ 31 ≤ d ∨ r.f.psn ∈ c.marks then .duplicate
  else if 1023 < d then .drop 0x118 else .ok

/-- Checks 10 and 11 after the others (R323): a class has 4 MiB of receive buffer (R332). -/
def rxCheck (s : State) (r : RxFrame) : RxCheck :=
  match rxIdentity s r with
  | .ok =>
    match rxWindow s r with
    | .ok => if 4 * 2 ^ 20 < r.fill then .drop 0x118 else .ok
    | c => c
  | c => c

/-- A stranger is dropped and counted; the port raises EV_STRANGER at most once a second for each reason
(R324). The first frame of the set on a quad port fails the check of R15 when another member than the cabled one
sent it, for whichever of checks 7 and 8 drops it.
DEDUCED: notes/assumptions/33.md. -/
def stranger (r : RxFrame) (reason : Nat) (s : State) : State :=
  let p := rxPort r
  let s := bump (portBase p + 0x128) 1 s
  let s := if reason ∈ [3, 4, 5] ∧ r.port = 1 ∧ !(getPort s p).peerSeen ∧ !rxPeerOk s s.act r then
      { modPort p (fun q => { q with peerSeen := true }) s with plan := { s.plan with peerBad := true } } else s
  let last := tget 0 (getPort s p).strangers reason
  if last = 0 ∨ last - 1 + 32768 ≤ s.lamp.rtc then
    raise (source 3 r.die) 0x0603
      [(18, 1, r.port), (19, 1, reason), (20, 8, r.f.setId), (28, 2, r.f.src)]
      (modPort p (fun q => { q with strangers := tset 0 q.strangers reason (s.lamp.rtc + 1) }) s)
  else s

/-- The port carries out PFC on a priority (R332). -/
def pfcOn (s : State) (p prio : Nat) : Bool :=
  let c := (getPort s p).ctl
  if p % 2 = 1 then decide (prio ∈ [2, 4, 6]) else c.vlanEn && bitAt c.pfcEn prio

/-- PFC XOFF above 3 MiB of a priority's receive buffer (R332). -/
def pfcRise (p prio fill : Nat) (s : State) : State :=
  if pfcOn s p prio ∧ 3 * 2 ^ 20 < fill ∧ prio ∉ (getPort s p).xoff then
    emit p (.pfc prio true) (modPort p (fun q => { q with xoff := q.xoff ++ [prio] }) s)
  else s

/-- PFC XON when a priority's receive buffer falls below 1 MiB (R332). -/
def pfcFall (p prio fill : Nat) (s : State) : State :=
  if pfcOn s p prio ∧ fill < 2 ^ 20 ∧ prio ∈ (getPort s p).xoff then
    emit p (.pfc prio false) (modPort p (fun q => { q with xoff := q.xoff.filter (· != prio) }) s)
  else s

/-- The receive buffer with a frame, and without it once the frame is delivered (R332). -/
def pfcFill (p prio fill own : Nat) (s : State) : State := pfcRise p prio fill s |> pfcFall p prio (fill - own)

/-- What the port learns from a frame that it accepts: a quad peer, once, and its address (R15, R322).
DEDUCED: notes/assumptions/36.md.
DESIGN CHOICE: notes/assumptions/56.md. -/
def learnPeer (r : RxFrame) (s : State) : State :=
  if r.port = 0 then s
  else modPort (rxPort r) (fun q => { q with
    peerSeen := true
    peer := if q.peerOk then q.peer else r.f.src
    peerOk := true
    quadMac := q.quadMac.or (some r.srcMac) }) s

/-- A CE mark on a DATA frame: it counts, and with ECN_EN a CNP answers the flow's first one in 10 µs (R330).
DEDUCED: notes/assumptions/58.md. -/
def ceArrive (r : RxFrame) (s : State) : State :=
  let p := rxPort r
  if !r.ce || r.f.typ != 0 then s
  else
    let s := bump (portBase p + 0x140) 1 s
    let due := match (getRecv s (rxFlow r)).cnpAt with
      | some t => decide (t + 10000 ≤ s.lamp.tick)
      | none => true
    if due && r.f.cls != 0 && (getPort s p).ctl.ecnEn then
      sendCnp (rxFlowPort r) r.f.src r.f.cls (modRecv (rxFlow r) (fun c => { c with cnpAt := some s.lamp.tick }) s)
    else s

/-- The acceptance of a received frame (R323): whether it is delivered, and the state after the checks.
A port that is not UP receives nothing. -/
def accept (r : RxFrame) (s : State) : Bool × State :=
  let p := rxPort r
  if !portUp s p then (false, s)
  else match rxCheck s r with
  | .drop c => (false, bump (portBase p + c) 1 s)
  | .stranger n => (false, stranger r n s)
  | .duplicate => (false, bump (portBase p + 0x138) 1 s |> sendSack (rxFlowPort r) r.f.src r.f.cls 0)
  | .ok => (true, bump (portBase p + 0x108) 1 s |> learnPeer r |> ceArrive r |> pfcFill p (priority r.f.cls) r.fill r.f.payload.length)

/-- The cumulative point passes the marks that follow it; the number bounds its way. -/
def absorb : Nat → RecvCtx → RecvCtx
  | 0, c => c
  | n + 1, c =>
    if c.cum ∈ c.marks then absorb n { c with cum := (c.cum + 1) % 2 ^ 32, marks := c.marks.filter (· != c.cum) }
    else c

/-- A frame is marked as arrived (R326). -/
def markPsn (r : RxFrame) (s : State) : State :=
  modRecv (rxFlow r) (fun c => absorb 1024 { c with marks := c.marks ++ [r.f.psn], pending := c.pending + 1 }) s

/-- A frame whose payload has been written or delivered is acknowledged with 15 others or later (R327). -/
def ackFrame (r : RxFrame) (s : State) : State :=
  let s := markPsn r s
  if 16 ≤ (getRecv s (rxFlow r)).pending then sendSack (rxFlowPort r) r.f.src r.f.cls 0 s else s

/-- A frame of refused address: what is pending is acknowledged, then this frame with REFUSED_ADDRESS
(R334).
DESIGN CHOICE: notes/assumptions/31.md. -/
def refuseFrame (r : RxFrame) (s : State) : State :=
  let p := rxFlowPort r
  let s := if (getRecv s (rxFlow r)).pending = 0 then s else sendSack p r.f.src r.f.cls 0 s
  markPsn r s |> sendSack p r.f.src r.f.cls 1

/-- A frame of the given class and type arrives: the checks, then its effect. -/
def onFrame (r : RxFrame) (cls typ : Nat) (f : State → State) (s : State) : Host.Outcome State Fault Refusal :=
  onUnit (portOk r.die r.port && r.f.cls == cls && r.f.typ == typ)
    (let a := accept r s
     if a.1 then f a.2 else a.2)

/-- A MOVE frame: tier 3 is dropped (R23), another layout epoch is acknowledged and discarded (R325). -/
def onMove (r : RxFrame) (typ : Nat) (f : State → State) (s : State) : Host.Outcome State Fault Refusal :=
  onFrame r 3 typ (fun s =>
    if (typ = 0 ∨ typ = 3) ∧ (gaddr (fld r.f 44 8)).tier = 3 then bump (portBase (rxPort r) + 0x130) 1 s
    else if r.f.epoch ≠ s.steps.epoch then bump (portBase (rxPort r) + 0x138) 1 s |> ackFrame r
    else f s) s

/-- The receiver's check of an address (R18, R20, R334, R390).
DEDUCED: notes/assumptions/110.md. -/
def rxAddrOk (s : State) (a len : Nat) : Bool :=
  let g := gaddr a
  isLocal s g.mod && decide (g.tier ≤ 2) && localOk s g len

/-- READ (R334): the bytes leave as DATA frames of the responder's own flow, from the Gallery die that
received the READ (R318). -/
def execRead (r : RxFrame) (s : State) : Host.Outcome State Fault Refusal :=
  onMove r 3 (fun s =>
    let a := fld r.f 44 8
    let n := numAt r.f.payload 0 4
    if n = 0 ∨ 65536 < n ∨ !rxAddrOk s a n then refuseFrame r s
    else
      let data := readLocal s (gaddr a) n
      let frames := (parts 8192 n).map fun q =>
        { mkFrame s false r.f.src 0 3 (moveArea (fld r.f 52 8 + q.1) 0 (fld r.f 60 4)) ((data.drop q.1).take q.2) with
          resp := true }
      frames.foldl (fun s f => handOff (rxPort r) { frame := f } s) (ackFrame r s)) s

/-- SIGNAL (R334): a semaphore of a logical cell is signalled. -/
def execSignal (r : RxFrame) (s : State) : Host.Outcome State Fault Refusal :=
  onMove r 4 (fun s => signalLogical (fld r.f 52 2) (fld r.f 54 1 % 64) (fld r.f 55 1 % 16) s |> ackFrame r) s

/-- A held frame that a SACK frees: at or below the cumulative point, or marked (R327). -/
def sackFrees (f : Frame) (psn : Nat) : Bool :=
  let cum := f.psn
  let bits := ofBytes (f.payload.take 128)
  let d := (psn + 2 ^ 32 - cum) % 2 ^ 32
  d == 0 || decide (2 ^ 31 ≤ d) || (decide (d ≤ 1024) && bitAt bits (d - 1))

/-- The highest PSN that a SACK acknowledges. -/
def sackTop (f : Frame) : Nat :=
  let bits := ofBytes (f.payload.take 128)
  if bits = 0 then f.psn else (f.psn + 1 + bits.log2) % 2 ^ 32

/-- An acknowledged frame counts for its transfer: a write's bytes or its SIGNAL (R334). -/
def freedFrame (refused : Bool) (s : State) (h : Held) : State :=
  if h.xfer = 0 then s
  else if refused then refusedXfer (h.xfer - 1) (fld h.frame 44 8) s
  else match h.frame.typ with
    | 0 => xferProgress (h.xfer - 1) h.frame.payload.length s
    | 4 => xferProgress (h.xfer - 1) 1 s
    | _ => s

/-- SACK (R327).
DESIGN CHOICE: notes/assumptions/31.md. -/
def sackEffect (r : RxFrame) (s : State) : State :=
  let p := rxFlowPort r
  let k := rxFlow r
  let c := getSend s k
  let freed := c.unacked.filter fun h => sackFrees r.f h.frame.psn
  let kept := (c.unacked.filter fun h => !sackFrees r.f h.frame.psn).map fun h =>
    if serialLt 32 h.frame.psn (sackTop r.f) then { h with exposed := true } else h
  let late := kept.filter fun h => h.exposed && !h.allowance
  let s := modSend k (fun c => { c with
    unacked := kept
    timeout := if freed.isEmpty then c.timeout else 100000 }) s
  let s := freed.foldl (freedFrame (r.f.status == 1)) s
  let s := late.foldl (fun s h => resendHeld p r.f.src r.f.cls h.frame.psn s) s
  pumpPort s p

/-- SACK: an acknowledgement of a flow arrives. -/
def execSack (r : RxFrame) (s : State) : Host.Outcome State Fault Refusal :=
  onFrame r r.f.cls 1 (sackEffect r) s

/-- CNP (R331): it counts against the flow's rate interval when ECN is enabled. -/
def execCnp (r : RxFrame) (s : State) : Host.Outcome State Fault Refusal :=
  onFrame r r.f.cls 2 (fun s =>
    let s := bump (portBase (rxPort r) + 0x150) 1 s
    if (getPort s (rxPort r)).ctl.ecnEn then modSend (rxFlow r) (fun c => { c with cnps := c.cnps + 1 }) s else s) s

/-- The key of a flow's contexts. -/
def flowIdKey (w : FlowId) : Nat := flowKey (2 * w.die + w.port) w.peer w.cls

/-- The module has the flow's port and class. -/
def flowOk (w : FlowId) : Bool := portOk w.die w.port && decide (w.cls < 4)

/-- SACK_DELAY_EXPIRE (R327): 2 µs after the oldest frame not yet acknowledged. -/
def execSackDelayExpire (w : FlowId) (s : State) : Host.Outcome State Fault Refusal :=
  onUnit (flowOk w)
    (if (getRecv s (flowIdKey w)).pending = 0 then s else sendSack (2 * w.die + w.port) w.peer w.cls 0 s)

/-- REORDER_EXPIRE (R327): a frame's reorder allowance ends; below the highest PSN acknowledged it is
sent again at once. -/
def execReorderExpire (w : FlowId) (psn : Nat) (s : State) : Host.Outcome State Fault Refusal :=
  let k := flowIdKey w
  onUnit (flowOk w)
    (match (getSend s k).unacked.find? fun h => h.frame.psn == psn with
    | none => s
    | some h =>
      let s := modSend k (fun c => { c with unacked := c.unacked.map fun g =>
        if g.frame.psn = psn then { g with allowance := false } else g }) s
      if h.exposed then resendHeld (2 * w.die + w.port) w.peer w.cls psn s else s)

/-- RETX_TIMEOUT (R327): every unacknowledged frame is sent again and the timeout doubles, up to 6.4 ms. -/
def execRetxTimeout (w : FlowId) (s : State) : Host.Outcome State Fault Refusal :=
  let k := flowIdKey w
  let c := getSend s k
  onUnit (flowOk w)
    (if c.unacked.isEmpty then s
     else c.unacked.foldl (fun s h => resendHeld (2 * w.die + w.port) w.peer w.cls h.frame.psn s)
      (modSend k (fun c => { c with timeout := min (2 * c.timeout) 6400000 }) s))

/-- The line rate of a port, in bit/s (R331). -/
def lineRate (s : State) (p : Nat) : Nat := if (getPort s p).half then 100000000000 else 200000000000

/-- The rate after an interval (R331). -/
def nextRate (line : Nat) (c : SendCtx) : SendCtx :=
  let r := c.rate.getD line
  if 0 < c.cnps then { c with rate := some (max (r * (8 - min c.cnps 4) / 8) 2000000000), calm := 0, cnps := 0 }
  else
    let calm := c.calm + 1
    { c with calm := calm, rate := some (min (r + line / (if calm ≤ 3 then 64 else 16)) line) }

/-- RATE_INTERVAL_END (R331). -/
def execRateIntervalEnd (w : FlowId) (s : State) : Host.Outcome State Fault Refusal :=
  onUnit (flowOk w) (modSend (flowIdKey w) (nextRate (lineRate s (2 * w.die + w.port))) s)

end Sys2Proof.Machine
end

