-- ==== Sys2Proof/Machine/Circulator.lean ====
section
/-!
DEFINITION. The circulator (R191 to R203): hop engines that pass shards round the context ring, feed
engines that deliver key blocks to attention cells, and the tokens and credits that pace them.
-/
namespace Sys2Proof.Machine

/-! ## The own shard -/

/-- A FORWARD channel records which pages were present, once all are walked (R196). -/
def recordPresence (c : Nat) (s : State) : State :=
  let own := (getChan s c).own
  if chanBack s c ∨ own.length < chanPages s c then s
  else { s with circ := { s.circ with
    presence := tset [] s.circ.presence (presenceKey s c) (own.map Option.isSome) } }

/-- The pages of a byte range of the own shard are walked. -/
def ownWalked (s : State) (c off len : Nat) : Bool :=
  decide (off + len ≤ (getChan s c).own.length * pageSize s)

/-- Some page of a byte range of the own shard is absent.
DESIGN CHOICE: notes/assumptions/72.md. -/
def ownAbsent (s : State) (c off len : Nat) : Bool :=
  let ps := pageSize s
  (rangeFrom (off / ps) ((off + len - 1) / ps + 1 - off / ps)).any fun p => ((getChan s c).own.getD p none).isNone

/-- One byte of a page at a global address. No rule says how the circulator reads a page that lies in
another module's memory: its bytes are free. -/
def pageByte (s : State) (a : Nat) : Byte :=
  let g := gaddr a
  if g.mod = s.me then (readTier s g.tier g.off 1).headD 0#8 else BitVec.ofNat 8 (Config.freeNat (s.free + g.off))

/-- Bytes of the own shard's K and V areas, in page order (R191).
DESIGN CHOICE: notes/assumptions/72.md. -/
def ownBytes (s : State) (c off len : Nat) : List Byte :=
  let ps := pageSize s
  (rangeFrom off len).map fun x => match (getChan s c).own.getD (x / ps) none with
    | some p => pageByte s (p.1 + x % ps)
    | none => 0#8

/-! ## Sending -/

/-- The port of unit u (R200, R317): the (u mod n)-th of PORT_MASK, or for one that takes no unit the
remaining ports in order. -/
def unitPort (s : State) (c u : Nat) : Nat :=
  let l := chanPorts s c
  let p := l.getD (u % max 1 l.length) 0
  let up := l.filter (portUp s)
  if portUp s p then p else up.getD (u / max 1 l.length % max 1 up.length) p

/-- What sender's hop h carries at an offset of its layout: none for an absent page (R195, R196, R201). -/
def hopData (s : State) (c h off len : Nat) : Option (List Byte) :=
  let shard := chanShard s c
  if h + 1 = chanR s c then
    some (readTier s 0 ((if h = 0 then gradOwn s c else landBase s c h + shard) + off) len)
  else if h = 0 ∧ off < shard then
    if ownAbsent s c off len then none else some (ownBytes s c off len)
  else if h = 0 then some (readTier s 0 (gradOwn s c + (off - shard)) len)
  else if (h, off) ∈ (getChan s c).holes then none
  else some (readTier s 0 (landBase s c h + off) len)

/-- Data of hop t lands at an offset: in the landing buffer, or in HOME for the return hop (R195, R201).
A frame without data stands for an absent page. -/
def landData (c t off : Nat) (d : List Byte) (s : State) : State :=
  let n := if d.isEmpty then min 8192 (hopBytes s c t - off) else d.length
  let base := if t = chanR s c then homeBase s c else landBase s c t
  let s := if d.isEmpty then s else writeTier 0 (base + off) d s
  modChan c (fun ch => { ch with
    unitBytes := tmod 0 ch.unitBytes (t * 65536 + off / 65536) (· + n)
    holes := if d.isEmpty then ch.holes ++ [(t, off)] else ch.holes }) s

/-- The class area of a CIRC frame: CHANNEL, HOP, ATTEMPT, step, OFFSET (R202). -/
def circArea (s : State) (c t off : Nat) : List Byte :=
  toBytes 4 c ++ toBytes 4 t ++ toBytes 4 s.steps.attempt ++ toBytes 4 s.steps.step ++ toBytes 4 off

/-- Send one piece of hop h to the successor as its hop h + 1: its frame takes its turn at its port, whose engine
counts it (R200, R210, R317). -/
def sendPiece (c h port off len : Nat) (s : State) : State :=
  let d := (hopData s c h off len).getD []
  if chanSucc s c = s.me then landData c (h + 1) off d s
  else
    bump (galBase ((choosePort s port).getD port / 2) + 0x20008) d.length s
      |> enqueue port { frame := mkFrame s false (chanSucc s c) 0 1 (circArea s c (h + 1) off) d }

/-- Send a unit (R200): frames of at most 8,192 bytes.
DEDUCED: notes/assumptions/70.md. -/
def sendUnit (c h : Nat) (s : State) (u : Nat) : State :=
  (parts 8192 (unitLen s c (h + 1) u)).foldl
    (fun s q => sendPiece c h (unitPort s c u) (65536 * u + q.1) q.2 s) s

/-- A unit of hop t has landed whole. -/
def unitLanded (s : State) (c t u : Nat) : Bool :=
  decide (unitLen s c t u ≤ tget 0 (getChan s c).unitBytes (t * 65536 + u))

/-- Every unit of hop t has landed. -/
def hopLanded (s : State) (c t : Nat) : Bool := (rangeFrom 0 (hopUnits s c t)).all (unitLanded s c t)

/-- Hops that a member sends: all but the last in FORWARD (R195). -/
def hopsSent (s : State) (c : Nat) : Nat := if chanBack s c then chanR s c else chanR s c - 1

/-- The data of unit u of hop h can be read: walked, landed, and in BACKWARD released by GRAD_DONE (R196,
R201). -/
def unitReady (s : State) (c h u : Nat) : Bool :=
  if chanBack s c then
    decide (h ∈ (getChan s c).gradDone) && (h != 0 || ownWalked s c 0 (chanShard s c))
  else if h = 0 then ownWalked s c (65536 * u) (unitLen s c 1 u)
  else unitLanded s c h u

/-- The successor's buffer is granted for sender's hop h; HOME needs no grant (R197).
DEDUCED: notes/assumptions/70.md.
DESIGN CHOICE: notes/assumptions/71.md. -/
def hopCredit (s : State) (c h : Nat) : Bool :=
  h + 1 == chanR s c || decide (h + 1 ∈ (getChan s c).credit)

/-- A page that the FORWARD channel recorded as present is EVICTED at the backward send (R208). -/
def evictedSince (s : State) (c h : Nat) : Bool :=
  chanBack s c && h == 0 && (rangeFrom 0 (chanPages s c)).any fun i =>
    recorded s c i == some true && peState (pentry s (chanMap s c + i)) == 3

/-- Send every unit that can be sent, hop after hop; the number bounds the hops.
DEDUCED: notes/assumptions/73.md. -/
def sendHops (c : Nat) : Nat → State → State
  | 0, s => s
  | n + 1, s =>
    let ch := getChan s c
    let h := ch.sendHop
    if !ch.isOpen ∨ hopsSent s c ≤ h ∨ !hopCredit s c h then s
    else
      let now := (rangeFrom 0 (hopUnits s c (h + 1))).filter fun u => decide (u ∉ ch.sent) && unitReady s c h u
      if !now.isEmpty && evictedSince s c h then (if s.steps.failed then s else circFail c s)
      else
      let s := now.foldl (sendUnit c h) s
      if hopUnits s c (h + 1) ≤ ch.sent.length + now.length then
        sendHops c n (modChan c (fun ch => { ch with sendHop := h + 1, sent := [] }) s)
      else modChan c (fun ch => { ch with sent := ch.sent ++ now }) s

/-! ## Hops -/

/-- RELEASE tokens popped for a block of a feed group. -/
def tokensPopped (s : State) (c f n : Nat) : Nat := tget 0 (getChan s c).popped (f * 2 ^ 32 + n)

/-- Every release token of every block of hop h has been popped, in every feed group (R197). -/
def hopDone (s : State) (c h : Nat) : Bool :=
  (chanFeeds s c).all fun f =>
    (rangeFrom (h * chanBlocks s c) (chanBlocks s c)).all fun n => decide (feedTokens s f ≤ tokensPopped s c f n)

/-- The landing buffer of hop h is free (R197). -/
def bufferFree (s : State) (c h : Nat) : Bool :=
  hopDone s c h && (decide (hopsSent s c ≤ h) || decide (h < (getChan s c).sendHop))

/-- Grant the predecessor the buffer of hop h + 2 once that of hop h is free (R197).
DESIGN CHOICE: notes/assumptions/71.md. -/
def grantCredit (c : Nat) (s : State) (h : Nat) : State :=
  if h + 2 < chanR s c ∧ bufferFree s c h then
    modChan c (fun ch => { ch with granted := insertNew ch.granted (h + 2) }) s
  else s

/-- Gradient areas that have landed signal GRAD_SEM once each (R201).
DEDUCED: notes/assumptions/73.md. -/
def signalGrad (c : Nat) (s : State) (t : Nat) : State :=
  let first := if t = chanR s c then 0 else chanShard s c / 65536
  if chanBack s c ∧ t ∉ (getChan s c).gradHops ∧
      (rangeFrom first (hopUnits s c t - first)).all (unitLanded s c t) then
    signalLogical (chanNum s c 48 2) (chanNum s c 50 1) 1
      (modChan c (fun ch => { ch with gradHops := ch.gradHops ++ [t] }) s)
  else s

/-- The channel has run to its end: every hop is done, sent and, in BACKWARD, returned. -/
def chanOver (s : State) (c : Nat) : Bool :=
  let ch := getChan s c
  let r := chanR s c
  hopDone s c (r - 1) && decide (hopsSent s c ≤ ch.sendHop) && (!chanBack s c || decide (r ∈ ch.gradHops))

/-- Hops begin as the ones before end; the return hop is R. The number bounds the hops. -/
def nextHop (c : Nat) : Nat → State → State
  | 0, s => s
  | n + 1, s =>
    let h := (getChan s c).hop
    let top := if chanBack s c then chanR s c else chanR s c - 1
    if h < top ∧ hopDone s c h then
      nextHop c n { modChan c (fun ch => { ch with hop := h + 1 }) s with
        circ := { (modChan c (fun ch => { ch with hop := h + 1 }) s).circ with last := c } }
    else s

/-- Drop the pins whose reads have landed (R228). -/
def chanPins (c : Nat) (s : State) : State :=
  let ch := getChan s c
  let s := if chanPages s c ≤ ch.own.length ∧ (0 < ch.sendHop ∨ hopsSent s c = 0) then dropPin (.hop c) s else s
  (chanFeeds s c).foldl (fun s f =>
    if chanBlocks s c ≤ tget 0 (getChan s c).delivered f then dropPin (.feed f) s else s) s

/-- A channel does all it can: walks, sends, hops, grants, and its end.
DESIGN CHOICE: notes/assumptions/76.md. -/
def runChan (c : Nat) (s : State) : State :=
  if !(getChan s c).isOpen then s
  else
    let r := chanR s c
    let s := walkOwn c (chanPages s c + 1) s |> recordPresence c |> sendHops c (r + 1)
    let s := (rangeFrom 1 r).foldl (signalGrad c) s
    let s := nextHop c (r + 1) s
    let s := (rangeFrom 1 r).foldl (grantCredit c) s |> chanPins c
    if chanOver s c then modChan c (fun ch => { finished := true, credit := ch.creditNext }) s else s

/-- A channel does all it can, and its frames leave. -/
def pumpChan (c : Nat) (s : State) : State := runChan c s |> pumpPorts

/-! ## Tokens -/

/-- The oldest entry of a ring, if it has one. -/
def ringHead? (s : State) (r : Nat) : Option (List Byte) :=
  if (getRing s r).len = 0 then none else some (ringRead s r (getRing s r).head)

/-- The token at the head of a feed group's release ring. -/
def headToken (s : State) (f : Nat) : Option (List Byte) := ringHead? s (feedRing s f)

/-- A token that the circulator did not expect aborts the step (R199). -/
def tokenFail (c : Nat) (d : List Byte) (s : State) : State :=
  raise (source 3 (chanDie s c)) 0x0103 [(18, 1, c), (20, 4, numAt d 4 4)] s |> circFail c

/-- Pop the head of a feed group's release ring.
DEDUCED: notes/assumptions/74.md. -/
def popToken (f : Nat) (s : State) : List Byte × State := enginePop (feedRing s f) s

/-- A token of a TYPE for this channel.
DEDUCED: notes/assumptions/74.md. -/
def tokenIs (d : List Byte) (typ c : Nat) : Bool := numAt d 0 1 == typ && numAt d 2 1 == c

/-- A channel opens (R195, R201, R228): its first two landing buffers are granted, and GRAD_OWN is filled
with +0.0. -/
def openChan (c : Nat) (s : State) : State :=
  let r := chanR s c
  let s := modChan c (fun ch => { isOpen := true, credit := ch.credit, fillBase := s.free
                                  granted := (rangeFrom 1 2).filter fun h => decide (h < r) })
    { s with free := s.free + r * chanPages s c }
  let s := { s with circ := { s.circ with last := c } }
  let s := (chanFeeds s c).foldl (fun s f => takePin (.feed f) s) (takePin (.hop c) s)
  if chanBack s c then
    writeTier 0 (gradOwn s c) (List.replicate (gradBytes s c + massBytes s c) 0#8) s
      |> signalLogical (chanNum s c 48 2) (chanNum s c 50 1) 1
  else s

/-- The channels are numbered 0 to 63. -/
def chanOk (c : Nat) : Bool := decide (c < 64)

/-- CIRC_START (R195): the START token of the channel's first feed entry; for an open channel it aborts the
step. -/
def execCircStart (chan : Nat) (s : State) : Host.Outcome State Fault Refusal :=
  onUnit (chanOk chan) (match (chanFeeds s chan).head? with
    | none => s
    | some f =>
      match headToken s f with
      | none => s
      | some d =>
        if circCount s ≤ chan ∨ !tokenIs d 1 chan then s
        else
          let s := (popToken f s).2
          if (getChan s chan).isOpen then circFail chan s else openChan chan s |> pumpChan chan)

/-- A RELEASE token is the one expected next from its cell (R199). -/
def releaseOk (s : State) (c f : Nat) (d : List Byte) : Bool :=
  let n := numAt d 4 4
  let l := numAt d 8 2
  let at_ := tget 0 (getChan s c).cellAt (f * 1024 + l)
  (getChan s c).isOpen && tokenIs d 0 c && numAt d 1 1 == n % 2 && decide (l ∈ feedCells s f) &&
    decide (n < tget 0 (getChan s c).delivered f) && decide (tokensPopped s c f n < feedTokens s f) &&
    (n + 1 == at_ || n == at_)

/-- The token at the head of a feed group is none that CIRC_START or GRAD_DONE takes. -/
def isRelease (s : State) (c f : Nat) : Bool :=
  match headToken s f with
  | none => false
  | some d => !tokenIs d 2 c && !(tokenIs d 1 c && (chanFeeds s c).head? == some f)

/-- CIRC_RELEASE (R197, R199): the oldest token of the first feed group that has one. -/
def execCircRelease (chan : Nat) (s : State) : Host.Outcome State Fault Refusal :=
  onUnit (chanOk chan) (match (chanFeeds s chan).find? (isRelease s chan) with
    | none => s
    | some f =>
      if circCount s ≤ chan then s
      else
        let x := popToken f s
        if !releaseOk s chan f x.1 then tokenFail chan x.1 x.2
        else
          let n := numAt x.1 4 4
          modChan chan (fun ch => { ch with
            popped := tmod 0 ch.popped (f * 2 ^ 32 + n) (· + 1)
            cellAt := tset 0 ch.cellAt (f * 1024 + numAt x.1 8 2) (n + 1) }) x.2 |> pumpChan chan)

/-- GRAD_DONE (R201): the gradient area of the next hop is complete. -/
def execGradDone (chan : Nat) (s : State) : Host.Outcome State Fault Refusal :=
  onUnit (chanOk chan)
    (match (chanFeeds s chan).find? fun f => (headToken s f).any fun d => tokenIs d 2 chan with
    | none => s
    | some f =>
      if circCount s ≤ chan then s
      else
        let x := popToken f s
        let ch := getChan s chan
        let h := numAt x.1 4 4
        if !ch.isOpen ∨ !chanBack s chan ∨ h ≠ ch.gradDone.length ∨ chanR s chan ≤ h then tokenFail chan x.1 x.2
        else modChan chan (fun ch => { ch with gradDone := ch.gradDone ++ [h] }) x.2 |> pumpChan chan)

/-! ## Units and credits -/

/-- A CIRC frame matches an open receive (R202). -/
def openReceive (s : State) (f : Frame) : Bool :=
  let c := fld f 44 1
  let t := fld f 48 4
  let off := fld f 60 4
  let r := chanR s c
  decide (c < circCount s) && (getChan s c).isOpen && inAttempt s && f.src == chanPred s c &&
    fld f 52 4 == s.steps.attempt && fld f 56 4 == s.steps.step % 2 ^ 32 &&
    (decide (t ∈ (getChan s c).granted) || (chanBack s c && t == r)) &&
    decide (off + f.payload.length ≤ hopBytes s c t) && !unitLanded s c t (off / 65536)

/-- CIRC_UNIT_LAND (R196, R201, R202): a frame of a unit arrives. -/
def execCircUnitLand (r : RxFrame) (s : State) : Host.Outcome State Fault Refusal :=
  onFrame r 1 0 (fun s =>
    let s := ackFrame r s
    let c := fld r.f 44 1
    if openReceive s r.f then
      bump (galBase r.die + 0x20010) r.f.payload.length s
        |> landData c (fld r.f 48 4) (fld r.f 60 4) r.f.payload |> pumpChan c
    else bump (galBase r.die + 0x20028) 1 s) s

/-- CIRC_CREDIT (R197): the successor grants its buffer for a hop. A second grant of one hop is for the
channel's next run. -/
def execCircCredit (chan hop : Nat) (s : State) : Host.Outcome State Fault Refusal :=
  onUnit (chanOk chan)
    (if circCount s ≤ chan ∨ hop = 0 ∨ chanR s chan ≤ hop then s
     else modChan chan (fun ch =>
        if hop ∈ ch.credit then { ch with creditNext := insertNew ch.creditNext hop }
        else { ch with credit := ch.credit ++ [hop] }) s |> pumpChan chan)

/-! ## Feeding -/

/-- Part of block j of hop h has arrived. -/
def blockThere (s : State) (c h off len : Nat) : Bool :=
  if h = 0 then ownWalked s c off len
  else (rangeFrom (off / 65536) ((off + len - 1) / 65536 + 1 - off / 65536)).all (unitLanded s c h)

/-- Part of block j of hop h lies in a page that came without data. -/
def blockAbsent (s : State) (c h off len : Nat) : Bool :=
  if h = 0 then ownAbsent s c off len
  else (getChan s c).holes.any fun x => x.1 == h && decide (x.2 < off + len) && decide (off < x.2 + 8192)

/-- Bytes of the K or V area of hop h. -/
def blockBytesAt (s : State) (c h off len : Nat) : List Byte :=
  if h = 0 then ownBytes s c off len else readTier s 0 (landBase s c h + off) len

/-- Write 128 rows at a pitch. -/
def writeRows (slot pitch d : Nat) (bytes : List Byte) (m : Memory) : Memory :=
  (rangeFrom 0 128).foldl (fun m r => mwrite m (slot + r * pitch) ((bytes.drop (r * d)).take d)) m

/-- Key r of a block is valid: it lies below its page's FILL (R185). For a page of another member's shard no rule
says how its FILL reaches this member: that number is free, one for each page and hop of the channel.
DESIGN CHOICE: notes/assumptions/72.md. -/
def keyValid (s : State) (c h j r : Nat) : Bool :=
  let d := chanK s c / 128
  let x := j * chanK s c + r * d
  let ps := pageSize s
  let shift := match mapCfg s with | some m => cfgNum s m 0 1 | none => 0
  let fill := if h = 0 then ((getChan s c).own.getD (x / ps) none).map (·.2)
    else some (Config.freeNat ((getChan s c).fillBase + h * chanPages s c + x / ps) % 256)
  match fill with
  | some n => decide (x % ps / d < (n + 1) <<< shift)
  | none => false

/-- A key mask tile: the same 128 bits in every row (R185). -/
def maskTile (bits : Nat) : List Byte := (List.replicate 128 (toBytes 16 bits)).flatten

/-- The bits of the valid keys of a block. -/
def keyBits (s : State) (c h j : Nat) : Nat :=
  (rangeFrom 0 128).foldl (fun n r => if keyValid s c h j r then n + 2 ^ r else n) 0

/-- Place block n in every listed cell and signal (R198). -/
def deliver (c f n : Nat) (s : State) : State :=
  let nkb := chanBlocks s c
  let h := n / nkb
  let j := n % nkb
  let k := chanK s c
  let v := chanV s c
  let slot := n % 2
  let gone := blockAbsent s c h (j * k) k || blockAbsent s c h (nkb * k + j * v) v
  let kb := if gone then List.replicate k 0#8 else blockBytesAt s c h (j * k) k
  let vb := if gone then List.replicate v 0#8 else blockBytesAt s c h (nkb * k + j * v) v
  let mask := maskTile (if gone then 0 else keyBits s c h j)
  let put := fun (x : Cell) =>
    let m := writeRows (feedNum s f (16 + 4 * slot) 4) (feedNum s f 40 2) (k / 128) kb x.scratch
    let m := writeRows (feedNum s f (24 + 4 * slot) 4) (feedNum s f 42 2) (v / 128) vb m
    { x with scratch := if chanKeymask s c then mwrite m (feedNum s f (32 + 4 * slot) 4) mask else m }
  let s := (feedCells s f).foldl (fun s l => match physOf s l with
    | some p => modCell p put s
    | none => s) s
  let a := feedNum s f 10 1
  let b := feedNum s f 11 1
  let s := (feedCells s f).foldl (fun s l =>
    let s := signalLogical l a 1 s
    if b = 0xFF then s else signalLogical l b 1 s) s
  modChan c (fun ch => { ch with delivered := tmod 0 ch.delivered f (· + 1) }) s

/-- The next block of a feed group can be delivered: its data is there and its slot is free (R198). -/
def feedReady (s : State) (c f : Nat) : Bool :=
  let nkb := chanBlocks s c
  let n := tget 0 (getChan s c).delivered f
  let h := n / nkb
  let j := n % nkb
  (getChan s c).isOpen && decide (n < chanR s c * nkb) &&
    (decide (n < 2) || decide (feedTokens s f ≤ tokensPopped s c f (n - 2))) &&
    blockThere s c h (j * chanK s c) (chanK s c) &&
    blockThere s c h (nkb * chanK s c + j * chanV s c) (chanV s c)

/-- FEED_DELIVER (R198): the feed engine of a group delivers its next block when it can. -/
def execFeedDeliver (feed : Nat) (s : State) : Host.Outcome State Fault Refusal :=
  onUnit (decide (feed < 1024))
    (if feedCount s ≤ feed then s
     else
      let c := feedNum s feed 0 1
      let s := pumpChan c s
      if feedReady s c feed then
        deliver c feed (tget 0 (getChan s c).delivered feed) s |> pumpChan c
      else s)

/-! ## Waits and the end of an attempt -/

/-- The hop engine waits for the predecessor's data (R204, R206). -/
def waitsData (s : State) (c : Nat) : Bool :=
  let ch := getChan s c
  ch.isOpen && ch.hop != 0 && !hopLanded s c ch.hop

/-- The hop engine waits for the successor's credit (R204, R206). -/
def waitsCredit (s : State) (c : Nat) : Bool :=
  let ch := getChan s c
  ch.isOpen && decide (ch.sendHop < hopsSent s c) && !hopCredit s c ch.sendHop &&
    (rangeFrom 0 (hopUnits s c (ch.sendHop + 1))).any (unitReady s c ch.sendHop)

/-- The hop engine waits for page walks (R204). -/
def waitsPages (s : State) (c : Nat) : Bool :=
  (getChan s c).isOpen && decide ((getChan s c).own.length < chanPages s c)

/-- The hop engine waits for local release tokens (R204). -/
def waitsTokens (s : State) (c : Nat) : Bool :=
  (getChan s c).isOpen && decide ((getChan s c).hop < chanR s c) && !hopDone s c (getChan s c).hop

/-- The waits for peers that a channel has open: hop and peer, the data wait first (R206). -/
def chanWaits (s : State) (c : Nat) : List (Nat × Nat) :=
  (if waitsData s c then [((getChan s c).hop, chanPred s c)] else []) ++
    (if waitsCredit s c then [((getChan s c).sendHop + 1, chanSucc s c)] else [])

/-- The wait whose Canary expires next: one whose Canary has not expired yet (R206).
DEDUCED: notes/assumptions/49.md. -/
def chanPeer (s : State) (c : Nat) : Option (Nat × Nat) :=
  (chanWaits s c).find? fun x => decide (x ∉ (getChan s c).expired)

/-- A step abort closes every channel, empties the release rings and clears the circulator's semaphores,
with the signals on their way (R203). -/
def circAbort (s : State) : State :=
  let rings := (rangeFrom 0 (feedCount s)).map (feedRing s)
  let pairs := (circSems s).filterMap fun x => (physOf s x.1).map fun k => (k, x.2)
  let s := (s.circ.chans.map (·.1)).foldl (fun s c =>
    (chanFeeds s c).foldl (fun s f => dropPin (.feed f) s)
      (dropPin (.hop c) (discardAhead (getChan s c).ahead.length s))) s
  let s := { s with
    circ := { s.circ with chans := [], presence := [] }
    sigs := s.sigs.filter fun g => decide ((g.cell, g.sem) ∉ pairs)
    pushes := s.pushes.filter fun p => decide (p.ring ∉ rings) }
  let s := rings.foldl (fun s r => modRing r (fun g => { g with head := g.tail, flying := 0 }) s) s
  pairs.foldl (fun s x => modCell x.1 (fun c => { c with sems := tset 0 c.sems x.2 0 }) s) s

/-- bfloat16 of an FP32 value. -/
def toBf16 (x : Num) : Nat := (convElem 1 false 0 x).1

/-- After a commit the owner folds the returned masses into the SCORE of its pages (R209). No rule names
the constant that holds the decay: it is free.
DESIGN CHOICE: notes/assumptions/75.md. -/
def circScores (s : State) : State :=
  let decay := fpDecode fp32 (Config.freeNat s.free % 2 ^ 32)
  let done := (rangeFrom 0 (circCount s)).filter fun c => chanBack s c && chanMass s c && (getChan s c).finished
  done.foldl (fun s c =>
    (rangeFrom 0 (chanPages s c)).foldl (fun s i =>
      let key := chanMap s c + i
      let e := pentry s key
      let mass := fpDecode fp32 (mreadNum s.hbm (homeBase s c + gradBytes s c + 4 * i) 4)
      let old := valueElem 1 0 (fieldOf e 95 80)
      let new := putField (putField e 95 80 (toBf16 ((decay.mul old).add mass))) 127 96 (peGen e + 1)
      dropEntryLine key (writeTier 0 (s.pmap.base + 16 * key) (toBytes 16 new) s)) s)
    (if done.isEmpty then s else { s with free := s.free + 1 })

/-- Every open channel does all it can, and their frames leave in turns (R196, R200, R204). -/
def pumpChans (s : State) : State :=
  if s.circ.chans.any fun e => e.2.isOpen then
    (s.circ.chans.map (·.1)).foldl (fun s c => runChan c s) s |> pumpPorts
  else s

/-- At a step boundary the circulator forgets what was present and what has run. -/
def circStepEnd (s : State) : State :=
  { s with circ := { s.circ with
      presence := []
      chans := s.circ.chans.filterMap fun e =>
        let ch := { e.2 with finished := false }
        if ch = {} then none else some (e.1, ch) } }

end Sys2Proof.Machine
end

