-- ==== Sys2Proof/Machine/BellOps.lean ====
section
/-!
DEFINITION. The Bell keeper: operations over the tree of a group's ranks (R355 to R357), the receipt of
Bell messages (R354, R358), and the BELL instruction (R170).
-/
namespace Sys2Proof.Machine

/-- The members of the group of an operation, in rank order; channel 4 uses the staged image (R362). -/
def bellGroup (s : State) (grp chan : Nat) : List Nat :=
  (imgGroup s (if chan = 4 then s.stg else s.act) grp).getD []

/-- This member's rank in a list of members. -/
def rankIn (l : List Nat) (me : Nat) : Nat := l.findIdx (· == me)

/-- The children of a rank (R355). -/
def bellChildren (l : List Nat) (rank : Nat) : List Nat := (l.drop (64 * rank + 1)).take 64

/-- The parent of a rank (R355). -/
def bellParent (l : List Nat) (rank : Nat) : Nat := l.getD ((rank - 1) / 64) 0

/-- An FP32 function of two operands in bits [31:0]. -/
def fpFn (f : Num → Num → Num) (a b : Nat) : Nat :=
  fpRound fp32 (f (fpDecode fp32 (a % 2 ^ 32)) (fpDecode fp32 (b % 2 ^ 32)))

/-- One combination (R356). A BCAST keeps the value of the lower rank, a BARRIER delivers zero. -/
def bellFn (fn a b : Nat) : Nat :=
  match fn with
  | 0 => (a + b) % 2 ^ 64
  | 1 => fpFn Num.add a b
  | 2 => fpFn Num.max a b
  | 3 => fpFn Num.min a b
  | 4 => max a b
  | 5 => a &&& b
  | 6 => a ||| b
  | 7 => 0
  | _ => a

/-- The key of an operation. -/
def bellKey (grp chan : Nat) : Nat := grp * 8 + chan

/-- The operation of a group and channel. -/
def getOp (s : State) (grp chan : Nat) : BellOp := tget {} s.bell.ops (bellKey grp chan)

/-- Set the operation of a group and channel. -/
def setOp (grp chan : Nat) (o : BellOp) (s : State) : State :=
  { s with bell := { s.bell with ops := tset {} s.bell.ops (bellKey grp chan) o } }

/-- A divergent collective (R353).
DESIGN CHOICE: notes/assumptions/80.md. -/
def collDivergent (coll grp die : Nat) (s : State) : State :=
  let s := { s with collEngs := tmod {} s.collEngs die fun e => { e with diverged := true } }
  bump (galBase die + 0x40030) 1 s
    |> raise (source 3 die) 0x0604 [(20, 4, coll), (24, 4, grp)]
    |> sendFail cChunkDivergent (source 3 die)

/-- The result of an operation reaches the one who took part (R170, R103, R280, R353, R362). -/
def bellTo (who : BellFor) (v : Nat) (s : State) : State :=
  match who with
  | .stream k i d => setS k i d v s |> advance k i
  | .scale region => { s with steps := { s.steps with scaleDone := tset 0 s.steps.scaleDone region (v + 1) } }
  | .sumsq => { s with update := { s.update with sum := some v } }
  | .digest c =>
    let die := collNum s c 5 1 % 4
    if v = 0 then
      { s with colls := tmod {} s.colls c fun x => { x with passed := true }
               collEngs := tmod {} s.collEngs die fun e => { e with diverged := false } }
    else collDivergent c (collNum s c 8 4) die s
  | .permute _ => { s with plan := { s.plan with barrier := s.plan.barrier + 1 } }

/-- An operation has its result: DOWN goes to each child, and the result is delivered (R355). The
latency of the operation is a time that no input states. -/
def bellDeliver (grp chan v : Nat) (s : State) : State :=
  let o := getOp s grp chan
  let l := bellGroup s grp chan
  let me := if chan = 4 then imgSetIndex s s.stg else s.me
  let r := takeFree s
  let s := (bellChildren l (rankIn l me)).foldl (fun s c =>
    bellSend c { kind := 1, code := o.fn, chan := chan, group := grp, seq := o.seq, value := v } s) r.2
  let s := setOp grp chan { seq := (o.seq + 1) % 2 ^ 32, early := o.early } s
  let s := bump (galBase 0 + 0x50008) 1 { s with bell := { s.bell with lastLatency := r.1 % 2 ^ 32 } }
  match o.who with
  | some w => bellTo w v s
  | none => s

/-- When every child's UP is combined, UP goes to the parent; rank 0 has the result (R355). -/
def bellTry (grp chan : Nat) (s : State) : State :=
  let o := getOp s grp chan
  let l := bellGroup s grp chan
  let rank := rankIn l (if chan = 4 then imgSetIndex s s.stg else s.me)
  if !o.active || o.upSent || !(bellChildren l rank).all fun c => decide (c ∈ o.heard) then s
  else if rank = 0 then bellDeliver grp chan o.acc s
  else
    bellSend (bellParent l rank) { kind := 0, code := o.fn, chan := chan, group := grp, seq := o.seq, value := o.acc }
      (setOp grp chan { o with upSent := true } s)

/-- One child's value enters. -/
def bellHear (o : BellOp) (e : Nat × Nat) : BellOp :=
  { o with acc := bellFn o.fn o.acc e.2, heard := o.heard ++ [e.1] }

/-- This member enters its next operation of a group and channel (R355, R357). -/
def bellEnter (grp chan fn operand : Nat) (who : BellFor) (s : State) : State :=
  let o := getOp s grp chan
  let acc := if fn = 7 then 0 else if 1 ≤ fn ∧ fn ≤ 3 then operand % 2 ^ 32 else operand % 2 ^ 64
  let n : BellOp := { seq := o.seq, active := true, fn := fn, acc := acc, who := some who }
  bellTry grp chan (setOp grp chan (o.early.foldl bellHear n) s)

/-! ## Receipt -/

/-- The message of a received frame, or the first message to itself, that a test picks. -/
def bellIs (m : BellIn) (p : BellMsg → Bool) (s : State) : Bool :=
  match m with
  | .own => s.bell.selfQ.any fun e => p e.2
  | .frame r => r.f.cls == 0 && r.f.typ == 0 && p (bellOf r.f)

/-- Two messages of one sender take the same place in the record of applied messages. -/
def sameSlot (a b : Nat × BellMsg) : Bool :=
  a.1 == b.1 && a.2.kind == b.2.kind && a.2.code == b.2.code && a.2.chan == b.2.chan &&
    (2 ≤ a.2.kind || a.2.group == b.2.group)

/-- A Bell message with its sender: a duplicate is acknowledged again, a stale one is dropped and
counted, any other is acknowledged, recorded and applied (R358). -/
def bellApply (src : Nat) (msg : BellMsg) (ack : Bool) (stale : State → Nat → BellMsg → Bool)
    (f : Nat → BellMsg → State → State) (s : State) : State :=
  if ack && s.bell.seen.any (· == (src, msg)) then bellSend src (ackOf msg) s
  else if stale s src msg then bump (galBase 0 + 0x50018) 1 s
  else
    let s := if ack then bellSend src (ackOf msg)
        { s with bell := { s.bell with seen := s.bell.seen.filter (fun e => !sameSlot e (src, msg)) ++ [(src, msg)] } }
      else s
    f src msg s

/-- A message to itself leaves its queue.
DEDUCED: notes/assumptions/62.md. -/
def bellTake (p : BellMsg → Bool) : List (Nat × BellMsg) → Option (Nat × BellMsg) × List (Nat × BellMsg)
  | [] => (none, [])
  | e :: rest => if p e.2 then (some e, rest) else
    let r := bellTake p rest
    (r.1, e :: r.2)

/-- A Bell message that a test picks reaches its receiver; anything else is no event of this row. -/
def onBell (m : BellIn) (p : BellMsg → Bool) (stale : State → Nat → BellMsg → Bool)
    (f : Nat → BellMsg → State → State) (s : State) : Host.Outcome State Fault Refusal :=
  if !bellIs m p s then .next s
  else match m with
  | .own =>
    let t := bellTake p s.bell.selfQ
    let s' := { s with bell := { s.bell with selfQ := t.2 } }
    .next (match t.1 with
      | some e => bellApply e.1 e.2 false stale f s'
      | none => s')
  | .frame r => onFrame r 0 0 (bellApply r.f.src (bellOf r.f) ((bellOf r.f).kind != 2) stale f) s

/-- A message that no test drops. -/
def neverStale (_ : State) (_ : Nat) (_ : BellMsg) : Bool := false

/-- One OPSEQ lies behind another, compared by RFC 1982 (R357). -/
def seqBehind (a b : Nat) : Bool := a != b && decide ((b + 2 ^ 32 - a) % 2 ^ 32 < 2 ^ 31)

/-- An UP or DOWN whose OPSEQ lies behind the member's own (R357, R358). -/
def opStale (s : State) (_ : Nat) (m : BellMsg) : Bool := seqBehind m.seq (getOp s m.group m.chan).seq

/-! ## The instruction -/

/-- BELL (R170): the stream blocks until the result arrives. -/
def execBell (u : StreamAt) (d x fn : BitVec 4) (group : BitVec 32) (s : State) : Host.Outcome State Fault Refusal :=
  issue u (decide (fn.toNat ≤ 8)) (fun s =>
    let k := u.cell
    let i := u.stream.toNat
    let v := getS (streamOf s u) x.toNat
    modStream k i (fun t => { t with wait := some (.bell group.toNat d.toNat), cause := .collective }) s
      |> bellEnter group.toNat 0 fn.toNat v (.stream k i d.toNat)) s

end Sys2Proof.Machine
end

