-- ==== Sys2Proof/Machine/Collective.lean ====
section
/-!
DEFINITION. The collective engines (R338 to R353, R361): ranks and parts, the sending of chunks under
slots and credits, landing tokens, combiner tokens, and the digest exchange.
-/
namespace Sys2Proof.Machine

/-! ## Ranks and parts -/

/-- The members of a collective's group by final rank: ascending set index (R338). -/
def collFinals (s : State) (c : Nat) : List Nat :=
  ((imgGroup s s.act (collNum s c 8 4)).getD []).insertionSort (· ≤ ·)

/-- What every stage of a collective turns on (R338 to R340). -/
structure CollShape where
  op : Nat
  n : Nat       -- members
  k : Nat       -- members of each quad
  f : Nat       -- this member's final rank
  root : Nat    -- final rank of ROOT
  chunks : Nat  -- C
  slots : Nat
  deriving DecidableEq, Repr

/-- The shape of collective c. -/
def collShape (s : State) (c : Nat) : CollShape :=
  let l := collFinals s c
  let grp := (imgGroup s s.act (collNum s c 8 4)).getD []
  { op := collNum s c 4 1
    n := l.length
    k := max 1 (l.filter fun i => i / 4 == l.headD 0 / 4).length
    f := l.findIdx (· == s.me)
    root := l.findIdx (· == grp.getD (collNum s c 12 2) 0)
    chunks := collNum s c 32 8 / max 1 (collChunk s)
    slots := collNum s c 7 1 }

/-- Chunks of a part. -/
def partChunks (h : CollShape) : Nat := h.chunks / max 1 h.n
/-- The part of a chunk: the final rank of its owner (R339). -/
def collPart (h : CollShape) (c : Nat) : Nat := c / max 1 (partChunks h)
/-- Lane of a final rank. -/
def collLane (h : CollShape) (f : Nat) : Nat := f % h.k
/-- Quad ordinal of a final rank. -/
def collQuad (h : CollShape) (f : Nat) : Nat := f / h.k
/-- Quads of the group. -/
def collQuads (h : CollShape) : Nat := h.n / h.k
/-- The final stage: the last that is not empty of Q (0) and S (1). -/
def finalStage (h : CollShape) : Nat := if 1 < collQuads h then 1 else 0
/-- The chunks of a part in ascending order. -/
def partList (h : CollShape) (f : Nat) : List Nat := rangeFrom (f * partChunks h) (partChunks h)

/-- All chunks in the order of rounds: parts from f + 1, wrapping (R339).
DEDUCED: notes/assumptions/77.md. -/
def roundOrder (h : CollShape) : List Nat :=
  (rangeFrom 0 (partChunks h)).flatMap fun j =>
    (rangeFrom 1 h.n).map fun i => ((h.f + i) % h.n) * partChunks h + j

/-- A sending key. -/
def sendKey (stage recv : Nat) : Nat := stage * 65536 + recv

/-- Stage S of a chunk: from the lane that holds the quad sum to the owner, in another quad. -/
def stageS (h : CollShape) (c : Nat) : List (Nat × Nat) :=
  let o := collPart h c
  if collQuad h o ≠ collQuad h h.f ∧ collLane h o = collLane h h.f then [(sendKey 1 o, c)] else []

/-- Stage S′ of a chunk: from the owner to the same lane of every other quad. -/
def stageS' (h : CollShape) (c : Nat) : List (Nat × Nat) :=
  ((rangeFrom 0 (collQuads h)).filter (· != collQuad h h.f)).map fun q => (sendKey 2 (q * h.k + collLane h (collPart h c)), c)

/-- Stage Q′ of a chunk: to the other members of the quad. -/
def stageQ' (h : CollShape) (c : Nat) : List (Nat × Nat) :=
  ((rangeFrom 0 h.k).filter (· != collLane h h.f)).map fun l => (sendKey 3 (collQuad h h.f * h.k + l), c)

/-- What a member sends when its bucket is complete (*Stages of a collective*). -/
def firstSends (h : CollShape) : List (Nat × Nat) :=
  match h.op with
  | 2 => (partList h h.f).flatMap fun c => stageS' h c ++ stageQ' h c
  | 3 => if h.f = h.root then
      (rangeFrom 0 h.chunks).flatMap fun c => ((rangeFrom 0 h.n).filter (· != h.f)).map fun r => (sendKey 4 r, c)
    else []
  | _ =>
    (roundOrder h).flatMap fun c =>
      let l := collLane h (collPart h c)
      if l ≠ collLane h h.f then [(sendKey 0 (collQuad h h.f * h.k + l), c)]
      else if h.k = 1 then stageS h c else []

/-- What a DONE token lets the engine send (R345).
DEDUCED: notes/assumptions/77.md. -/
def afterDone (h : CollShape) (stage c : Nat) : List (Nat × Nat) :=
  if stage ≠ finalStage h then stageS h c
  else if h.op = 1 ∧ collPart h c = h.f then stageS' h c ++ stageQ' h c
  else []

/-- Everything that lands at a member: stage, final rank of the sender, chunk. -/
def collExpected (h : CollShape) : List (Nat × Nat × Nat) :=
  let l := collLane h h.f
  let q := collQuad h h.f
  let all := rangeFrom 0 h.chunks
  let qs := (rangeFrom 0 h.k).filter (· != l)
  let ss := (rangeFrom 0 (collQuads h)).filter (· != q)
  match h.op with
  | 3 => if h.f = h.root then [] else all.map fun c => (4, h.root, c)
  | op =>
    (if op ≤ 1 then
      (all.filter fun c => collLane h (collPart h c) == l).flatMap (fun c => qs.map fun x => (0, q * h.k + x, c)) ++
        (partList h h.f).flatMap (fun c => ss.map fun y => (1, y * h.k + l, c))
     else []) ++
    (if op = 1 ∨ op = 2 then
      (all.filter fun c => collPart h c != h.f).map fun c =>
        if collLane h (collPart h c) = l then (2, collPart h c, c) else (3, q * h.k + collLane h (collPart h c), c)
     else [])

/-- The DONE tokens that a member's combiner gives. -/
def collDones (h : CollShape) : List (Nat × Nat) :=
  if 2 ≤ h.op then []
  else
    (if h.k = 1 then [] else
      ((rangeFrom 0 h.chunks).filter fun c => collLane h (collPart h c) == collLane h h.f).map fun c => (0, c)) ++
    (if collQuads h = 1 then [] else (partList h h.f).map fun c => (1, c))

/-! ## Places -/

/-- Where chunk x lies in DST (R340): OFFSET in DST_TIER. -/
def dstPlace (s : State) (c : Nat) (h : CollShape) (x : Nat) : Nat :=
  collNum s c 24 8 + (if h.op = 0 then x - h.f * partChunks h else x) * collChunk s

/-- Where chunk x lies in SRC. -/
def srcPlace (s : State) (c : Nat) (h : CollShape) (x : Nat) : Nat :=
  collNum s c 16 8 + (if h.op = 2 then x - h.f * partChunks h else x) * collChunk s

/-- The bytes of a chunk that a stage sends: the bucket, or the result in DST. -/
def chunkBytes (s : State) (c : Nat) (h : CollShape) (stage x : Nat) : List Byte :=
  if stage = 2 ∨ stage = 3 then readTier s (collNum s c 6 1) (dstPlace s c h x) (collChunk s)
  else readTier s 0 (srcPlace s c h x) (collChunk s)

/-- The digest of a chunk (R352). -/
def chunkDigest (d : List Byte) : Nat :=
  ((rangeFrom 0 (ceilDiv d.length 4096)).foldl
    (fun n u => n + (u + 1) * (crc32c (sliceBytes d (4096 * u) 4096)).toNat) 0) % 2 ^ 64

/-- The digest of chunk x as DST holds it. -/
def dstDigest (s : State) (c : Nat) (h : CollShape) (x : Nat) : Nat :=
  chunkDigest (readTier s (collNum s c 6 1) (dstPlace s c h x) (collChunk s))

/-- The block of a sender among the slot blocks of a receiver (R343). -/
def slotBlock (h : CollShape) (stage src recv : Nat) : Nat :=
  let rank := fun (a b : Nat) => if a < b then a else a - 1
  if stage = 0 then rank (collLane h src) (collLane h recv)
  else h.k - 1 + rank (collQuad h src) (collQuad h recv)

/-- The sender of a block at this member. -/
def blockSender (h : CollShape) (blk : Nat) : Nat :=
  let l := collLane h h.f
  let q := collQuad h h.f
  if blk < h.k - 1 then q * h.k + (if blk < l then blk else blk + 1)
  else let y := blk - (h.k - 1); (if y < q then y else y + 1) * h.k + l

/-! ## State -/

/-- A collective of the running attempt. -/
def getColl (s : State) (c : Nat) : Coll := tget {} s.colls c

/-- Change a collective. -/
def modColl (c : Nat) (f : Coll → Coll) (s : State) : State := { s with colls := tmod {} s.colls c f }

/-- The engine that holds a collective's state. -/
def collDie (s : State) (c : Nat) : Nat := collNum s c 5 1 % 4

/-- The set index of a final rank. -/
def collMember (s : State) (c r : Nat) : Nat := (collFinals s c).getD r 0

/-- Add to the digest sum. -/
def addDigest (c : Nat) (v : Int) (s : State) : State :=
  modColl c (fun x => { x with digest := (((x.digest : Int) + v) % 2 ^ 64).toNat }) s

/-- Landings of each chunk in the group (R353).
DESIGN CHOICE: notes/assumptions/78.md. -/
def collCopies (h : CollShape) : Nat := if h.op = 0 then 1 else h.n

/-- A result that this member owns lies in DST: its digest counts as sent and as landed (R352, R353). -/
def ownResult (c : Nat) (h : CollShape) (x : Nat) (s : State) : State :=
  let d := dstDigest s c h x
  addDigest c ((collCopies h : Int) * d - d) s

/-- The latest chunk that an engine served. -/
def noteLast (c : Nat) (s : State) : State :=
  { s with collEngs := tmod {} s.collEngs (collDie s c) fun e => { e with last := c } }

/-! ## Sending -/

/-- The port of a stage (*Stages of a collective*). -/
def stagePort (s : State) (c stage recv x : Nat) : Nat :=
  if stage = 0 ∨ stage = 3 then 2 * ((s.me ^^^ collMember s c recv) % 4) + 1 else 2 * (x % 4)

/-- The class area of a COLL frame (R342). -/
def collArea (s : State) (c stage slot chunk off : Nat) : List Byte :=
  toBytes 4 (stage <<< 28 + slot <<< 12 + c) ++ toBytes 4 chunk ++ toBytes 4 s.steps.attempt ++
    toBytes 4 s.steps.step ++ toBytes 4 off

/-- The chunk at the head of a receiver's order may go: a slot is free for it, or it is a result (R343). -/
def mayGo (x : Coll) (h : CollShape) (key : Nat) : Bool :=
  let m := tget 0 x.sent key
  decide (2 ≤ key / 65536) || decide (m < h.slots) || decide (m - h.slots ∈ tget [] x.credit key)

/-- Send one chunk of a collective, unless it must wait for a slot; the engine of the port that takes it counts its
bytes (R317, R342, R343). -/
def sendChunk (c : Nat) (h : CollShape) (s : State) (e : Nat × Nat) : State :=
  let stage := e.1 / 65536
  let recv := e.1 % 65536
  let m := tget 0 (getColl s c).sent e.1
  if !mayGo (getColl s c) h e.1 ∨ (getColl s c).queue.any (fun y => y.1 == e.1) then
    modColl c (fun x => { x with queue := x.queue ++ [e] }) s
  else
    let slot := if 2 ≤ stage then 0xFFFF else slotBlock h stage h.f recv * h.slots + m % h.slots
    let d := chunkBytes s c h stage e.2
    let port := stagePort s c stage recv e.2
    let s := bump (galBase ((choosePort s port).getD port / 2) + 0x40008) d.length
      (modColl c (fun x => { x with sent := tset 0 x.sent e.1 (m + 1) }) s)
    (parts 8192 d.length).foldl (fun s q =>
      let area := collArea s c stage slot e.2 q.1
      handOff port { frame := mkFrame s false (collMember s c recv) 0 2 area ((d.drop q.1).take q.2) } s) (noteLast c s)

/-- Send what can go, in order. -/
def pumpColl (c : Nat) (s : State) : State :=
  (getColl s c).queue.foldl (sendChunk c (collShape s c)) (modColl c (fun x => { x with queue := [] }) s)

/-- Queue chunks behind the ones that wait, and send what can go. -/
def sendMore (c : Nat) (l : List (Nat × Nat)) (s : State) : State :=
  modColl c (fun x => { x with queue := x.queue ++ l }) s |> pumpColl c

/-- The request ring of a Gallery die (R340). -/
def reqRing (s : State) (die : Nat) : Option Nat := (s.cfg 5).map fun r => cfgNum s r (16 + 4 * die) 4

/-- The member's own results of a request lie in DST at once: the part that it gathers, the bucket that
it broadcasts, and any bucket of a group of one.
DESIGN CHOICE: notes/assumptions/78.md. -/
def ownCopy (c : Nat) (h : CollShape) (s : State) : State :=
  let own := if h.op = 2 then partList h h.f
    else if h.op = 3 then (if h.f = h.root then rangeFrom 0 h.chunks else [])
    else if h.n = 1 then rangeFrom 0 h.chunks else []
  own.foldl (fun s x =>
    writeTier (collNum s c 6 1) (dstPlace s c h x) (readTier s 0 (srcPlace s c h x) (collChunk s)) s
      |> ownResult c h x) s

/-- COLL_REQUEST (R340, R341): the oldest request of a die. -/
def execCollRequest (die : Nat) (s : State) : Host.Outcome State Fault Refusal :=
  onUnit (decide (die < 4)) (match reqRing s die with
    | none => s
    | some ring =>
      if (getRing s ring).len = 0 then s
      else
        let x := enginePop ring s
        let c := numAt x.1 0 4
        let s := x.2
        if collCount s ≤ c then s
        else if (getColl s c).started then sendFail cStepAborted (source 3 die) s
        else
          let h := collShape s c
          modColl c (fun x => { x with active := true, started := true }) s
            |> ownCopy c h |> sendMore c (firstSends h))

/-! ## Landing -/

/-- The key of a chunk's landed bytes. -/
def landKey (e : Nat × Nat × Nat) : Nat := (e.1 * 65536 + e.2.1) * 2 ^ 32 + e.2.2

/-- A chunk has landed whole. -/
def chunkLanded (s : State) (c : Nat) (e : Nat × Nat × Nat) : Bool :=
  decide (collChunk s ≤ tget 0 (getColl s c).bytes (landKey e))

/-- A landing token (R344). -/
def landToken (stage slot chunk src : Nat) : List Byte :=
  toBytes 2 stage ++ toBytes 2 slot ++ toBytes 4 chunk ++ toBytes 2 src ++ toBytes 6 0

/-- Every byte of a chunk has landed (R344, R352): its token, and for a result its digest and the stage
that it starts. -/
def landWhole (c : Nat) (h : CollShape) (stage slot src x : Nat) (s : State) : State :=
  let s := (enginePush (collNum s c 44 4) (landToken stage slot x src) s).1
  if stage ≤ 1 then s
  else addDigest c (-(dstDigest s c h x : Int)) s
    |> sendMore c (if stage = 2 then stageQ' h x else [])

/-- A frame of another layout epoch (R350). -/
def epochReject (r : RxFrame) (s : State) : State :=
  let c := fld r.f 44 4 % 4096
  let die := r.die
  let seen := (tget {} s.collEngs die).epochRaised
  let s := { s with collEngs := tmod {} s.collEngs die fun e => { e with epochFault := true, epochRaised := true } }
  let s := bump (galBase r.die + 0x40020) 1 s
  let s := if seen then s else
    raise (source 3 die) 0x0605 [(18, 2, r.f.src), (20, 4, c), (24, 8, r.f.epoch)] s
  sendFail cLayoutEpoch (source 3 die) s

/-- A credit arrives (R343): the receiver has released an ordinal. The stage follows from the collQuads of the
two members. -/
def creditLand (c : Nat) (f : Frame) (s : State) : State :=
  let h := collShape s c
  let peer := (collFinals s c).findIdx (· == f.src)
  let key := sendKey (if collQuad h peer = collQuad h h.f then 0 else 1) peer
  modColl c (fun x => { x with credit := tmod [] x.credit key fun l => insertNew l (fld f 48 4) }) s |> pumpColl c

/-- A chunk's bytes land in their slot or in DST (R343, R344). A frame that no stage of the member expects
is discarded.
DESIGN CHOICE: notes/assumptions/79.md. -/
def chunkLand (r : RxFrame) (c : Nat) (s : State) : State :=
  let f := r.f
  let h := collShape s c
  let stage := fld f 44 4 / 2 ^ 28
  let slot := fld f 44 4 / 4096 % 65536
  let x := fld f 48 4
  let off := fld f 60 4
  let src := (collFinals s c).findIdx (· == f.src)
  let place := if 2 ≤ stage then dstPlace s c h x else regionBase s (collNum s c 40 4) + slot * collChunk s
  let tier := if 2 ≤ stage then collNum s c 6 1 else 0
  let slotOk := 2 ≤ stage || slot / max 1 h.slots == slotBlock h stage src h.f
  if (stage, src, x) ∉ collExpected h ∨ !slotOk ∨ collChunk s < off + f.payload.length then s
  else
    let s := bump (galBase r.die + 0x40010) f.payload.length s |> writeTier tier (place + off) f.payload |> noteLast c
    let s := modColl c (fun y => { y with
      active := true
      bytes := tmod 0 y.bytes (landKey (stage, src, x)) (· + f.payload.length)
      slotPort := if 2 ≤ stage then y.slotPort else tset 0 y.slotPort slot (rxPort r) }) s
    if chunkLanded s c (stage, src, x) then landWhole c h stage slot src x s else s

/-- A COLL frame: the checks of R350 and R351, then its chunk or credit.
DESIGN CHOICE: notes/assumptions/79.md. -/
def collFrame (r : RxFrame) (s : State) : State :=
  let s := ackFrame r s
  let c := fld r.f 44 4 % 4096
  if r.f.epoch ≠ s.steps.epoch then epochReject r s
  else if fld r.f 52 4 ≠ s.steps.attempt ∨ fld r.f 56 4 ≠ s.steps.step % 2 ^ 32 ∨ !inAttempt s ∨ collCount s ≤ c then
    bump (galBase r.die + 0x40028) 1 s
  else if fld r.f 44 4 / 2 ^ 28 = 15 then creditLand c r.f s
  else chunkLand r c s

/-- COLL_CHUNK_LAND (R344). -/
def execCollChunkLand (r : RxFrame) (s : State) : Host.Outcome State Fault Refusal := onFrame r 2 0 (collFrame r) s

/-- COLL_CREDIT (R343). -/
def execCollCredit (r : RxFrame) (s : State) : Host.Outcome State Fault Refusal := onFrame r 2 0 (collFrame r) s

/-! ## The combiner -/

/-- A slot is released: its sender gets the ordinal that the slot held (R342 to R344). -/
def releaseSlot (c slot : Nat) (s : State) : State :=
  let h := collShape s c
  let slots := max 1 h.slots
  let m := slot % slots + slots * tget 0 (getColl s c).released slot
  let peer := collMember s c (blockSender h (slot / slots))
  let port := tget 0 (getColl s c).slotPort slot
  handOff port { frame := mkFrame s false peer 0 2 (collArea s c 15 slot m 0) [] }
    (modColl c (fun x => { x with released := tmod 0 x.released slot (· + 1) }) s)

/-- A stage sum is complete (R345): the next stage of the chunk starts, and a sum of the final stage is
the member's own result. -/
def stageDone (c stage x : Nat) (s : State) : State :=
  let h := collShape s c
  let s := modColl c (fun y => { y with done := insertNew y.done (stage, x) }) s
  let s := if stage = finalStage h ∧ collPart h x = h.f then ownResult c h x s else s
  sendMore c (afterDone h stage x) s

/-- COMBINER_TOKEN (R344, R345): the oldest token of the first collective of a die that has one. -/
def execCombinerToken (die : Nat) (s : State) : Host.Outcome State Fault Refusal :=
  onUnit (decide (die < 4))
    (match (rangeFrom 0 (collCount s)).find? fun c =>
        collDie s c == die && decide (collNum s c 4 1 ≤ 1) && decide (0 < (getRing s (collNum s c 48 4)).len) with
    | none => s
    | some c =>
      let x := enginePop (collNum s c 48 4) s
      let stage := numAt x.1 1 1
      let chunk := numAt x.1 4 4
      if numAt x.1 0 1 = 0 then releaseSlot c (numAt x.1 2 2) x.2
      else if numAt x.1 0 1 = 1 ∧ (stage, chunk) ∈ collDones (collShape x.2 c) ∧
          (stage, chunk) ∉ (getColl x.2 c).done then stageDone c stage chunk x.2
      else x.2)

/-! ## The end of a collective -/

/-- Every result that the member is due to hold has landed in DST (R346). -/
def resultsLanded (s : State) (c : Nat) : Bool :=
  let h := collShape s c
  let x := getColl s c
  x.active &&
    (if h.op ≤ 1 then
      (if h.n = 1 then x.started else (partList h h.f).all fun k => decide ((finalStage h, k) ∈ x.done))
     else decide (h.op = 3 ∧ h.f ≠ h.root) || x.started) &&
    ((collExpected h).filter fun e => decide (2 ≤ e.1)).all (chunkLanded s c)

/-- COLL_DIGEST_EXCHANGE (R353): a member that holds every result contributes to the group's sum, one
exchange of a group at a time. -/
def execCollDigestExchange (coll : Nat) (s : State) : Host.Outcome State Fault Refusal :=
  onUnit (decide (coll < 4096))
    (if collCount s ≤ coll ∨ (getColl s coll).asked ∨ !resultsLanded s coll ∨ !inAttempt s ∨
        (getOp s (collNum s coll 8 4) 3).active then s
     else modColl coll (fun x => { x with asked := true }) s
      |> bellEnter (collNum s coll 8 4) 3 0 (getColl s coll).digest (.digest coll))

/-- A frame of a chunk of a collective is still to be acknowledged; a credit, STAGE 15, is no chunk (R342, R346). -/
def collUnacked (s : State) (c : Nat) : Bool :=
  s.sends.any fun e => e.1 % 4 == 2 &&
    (e.2.unacked ++ e.2.waiting).any fun h =>
      h.frame.typ == 0 && fld h.frame 44 4 % 4096 == c && fld h.frame 44 4 / 2 ^ 28 != 15

/-- A collective of the attempt is complete (R346). -/
def collComplete (s : State) (c : Nat) : Bool :=
  let x := getColl s c
  x.passed && x.queue.isEmpty && !collUnacked s c && (collDones (collShape s c)).all fun e => decide (e ∈ x.done)

/-- Every collective of the attempt is complete (R292). -/
def collsComplete (s : State) : Bool := s.colls.all fun e => !e.2.active || collComplete s e.1

/-- The member waits for a peer, by its final rank: for a credit, a partial or a result (R361). -/
def waitsOn (s : State) (c peer : Nat) : Bool :=
  let x := getColl s c
  x.active && (x.queue.any (fun e => e.1 % 65536 == peer) ||
    (collExpected (collShape s c)).any fun e => e.2.1 == peer && !chunkLanded s c e)

/-- A collective waits for some peer. -/
def collWaits (s : State) (c : Nat) : Bool :=
  let x := getColl s c
  x.active && (!x.queue.isEmpty || (collExpected (collShape s c)).any fun e => !chunkLanded s c e)

/-- An ABORT empties the landing and combiner rings, resets every credit and zeroes the semaphores of the
combiners (R361).
DEDUCED: notes/assumptions/81.md. -/
def collAbort (s : State) : State :=
  let l := rangeFrom 0 (collCount s)
  let rings := l.flatMap fun c => if collNum s c 4 1 ≤ 1 then [collNum s c 44 4, collNum s c 48 4] else [collNum s c 44 4]
  let cells := l.filterMap fun c => physOf s (collNum s c 44 4 / 256)
  let s := rings.foldl (fun s r => modRing r (fun g => { g with head := g.tail, flying := 0 }) s)
    { s with colls := []
             pushes := s.pushes.filter fun p => decide (p.ring ∉ rings)
             sigs := s.sigs.filter fun g => decide (g.cell ∉ cells) }
  cells.foldl (fun s k => modCell k (fun c => { c with sems := [] }) s) s

/-- An attempt starts or ends: no collective of an earlier one is left, and the engines report afresh
(R350). -/
def collReset (s : State) : State :=
  { s with colls := []
           collEngs := (s.collEngs.map fun e => (e.1, { e.2 with epochFault := false, epochRaised := false })).filter
             fun e => e.2 != {} }

end Sys2Proof.Machine
end

