-- ==== Sys2Proof/Machine/IntakeOps.lean ====
section
/-!
DEFINITION. The intake as other units see it: its table (R402), the manifest (R414), the handing out of
batches (R413), and what an attempt's end and a swap do to them.
-/
namespace Sys2Proof.Machine

/-- The intake table of the active plan (R402). -/
def intakeTab (s : State) : Option Region := s.cfg 7
/-- A field of the intake table, 0 without one. -/
def intakeNum (s : State) (off n : Nat) : Nat := match intakeTab s with | some r => cfgNum s r off n | none => 0
/-- SLOT_COUNT. -/
def slotCount (s : State) : Nat := intakeNum s 0 4
/-- The slot byte of a slot. -/
def slotByte (s : State) (slot : Nat) : Nat := intakeNum s (32 + 64 * intakeNum s 4 1 + slot) 1
/-- A field of the class entry of a slot. -/
def classNum (s : State) (slot off n : Nat) : Nat := intakeNum s (32 + 64 * (slotByte s slot % 16) + off) n
/-- Bytes of a slot's staging window (R404). -/
def slotWindow (s : State) (slot : Nat) : Nat := min (classNum s slot 4 4) 4194304
/-- Change the intake. -/
def modIntake (f : Intake → Intake) (s : State) : State := { s with intake := f s.intake }

/-- Push an entry to MANIFEST_RING, in order; one that finds it full waits (R414). -/
def pushManifest (d : List Byte) (s : State) : State :=
  let r := if s.intake.manifest = [] then enginePush (intakeNum s 12 4) d s else (s, false)
  if r.2 then r.1 else modIntake (fun i => { i with manifest := i.manifest ++ [d] }) r.1

/-- Push the manifest entries that wait, after the host has popped the ring. -/
def pumpManifest (s : State) : State :=
  s.intake.manifest.foldl (fun s d => pushManifest d s) (modIntake (fun i => { i with manifest := [] }) s)

/-- Push the outcome entry of a batch (R414): 0 committed, 1 aborted, 2 discarded, with a code. -/
def pushOutcome (outcome code batch : Nat) (s : State) : State :=
  pushManifest (toBytes 1 2 ++ toBytes 1 outcome ++ toBytes 2 0 ++ toBytes 4 s.steps.attempt ++ toBytes 8 batch ++
    toBytes 8 s.steps.step ++ toBytes 8 code) s

/-- Hand the complete batch to the attempt that it is owed to: its token goes to BATCH_RING and the next
batch begins (R413). A full BATCH_RING holds the token back.
DEDUCED: notes/assumptions/85.md. -/
def handOut (s : State) : State :=
  let i := s.intake
  if !(i.built && i.owed) then s
  else
    let r := enginePush (intakeNum s 8 4) (toBytes 8 i.batch ++ toBytes 8 (i.batch % 2)) s
    if r.2 then modIntake (fun i => { i with
      consumed := some i.batch, built := false, owed := false, batch := i.batch + 1, slot := 0, resRaised := false }) r.1
    else s

/-- STEP_GO: the attempt is owed a batch, except in GENERATE (R413). -/
def intakeGo (s : State) : State :=
  if (intakeTab s).isNone ∨ workload s = 2 then s else handOut (modIntake (fun i => { i with owed := true, consumed := none }) s)

/-- The attempt ends: the outcome of the batch that it consumed (R414). -/
def intakeEnd (outcome code : Nat) (s : State) : State :=
  let c := s.intake.consumed
  let s := modIntake (fun i => { i with owed := false, consumed := none }) s
  match c with
  | some n => pushOutcome outcome code n s
  | none => s

/-- The reads of the intake lose their purpose. -/
def dropIntakeReads (s : State) : State := dropReads (fun w => match w with | .sample _ => true | _ => false) s

/-- A swap: the batch that is built or under construction is discarded, its code being free, and every
pending feed completes with NOT_READY (*Events that meet the intake*). -/
def intakeSwap (s : State) : State :=
  let i := s.intake
  let f := takeFree s
  let s := if i.built ∨ 0 < i.slot ∨ i.work ≠ .idle then pushOutcome 2 (f.1 % 17) i.batch f.2 else s
  let s := dropIntakeReads s
  (i.main ++ i.reserve).foldl (fun s f => complete f.cmd cNotReady s) { s with intake := {} }

/-- The feed queue of a source: 0 MAIN, 1 RESERVE. -/
def feedsOf (s : State) (src : Nat) : List Feed := if src = 0 then s.intake.main else s.intake.reserve

/-- Change the feeds of a source. -/
def setFeeds (src : Nat) (l : List Feed) (s : State) : State :=
  modIntake (fun i => if src = 0 then { i with main := l } else { i with reserve := l }) s

end Sys2Proof.Machine
end

