-- ==== Sys2Proof/Machine/Update.lean ====
section
/-!
DEFINITION. The update engines of the Stope dies (09_stope_update): the optimiser rule in exact
arithmetic (R276 to R279), update requests (R282 to R284), the sum of squares (R280) and publication
(R285, R286).
-/
namespace Sys2Proof.Machine

/-! ## Arithmetic -/

/-- One rounding to nearest even in FP32. -/
def r32 (x : Num) : Num := fpRoundNum fp32 x

/-- A fused multiply and add with one rounding. -/
def fma32 (a b c : Num) : Num := r32 ((a.mul b).add c)

/-- The number 1. -/
def numOne : Num := .fin false 1 0

/-- n FP32 values of the deep tier. -/
def f32s (s : State) (off n : Nat) : List Num :=
  let b := readTier s 1 off (4 * n)
  (rangeFrom 0 n).map fun i => f32 (numAt b (4 * i) 4)

/-- n elements of a format of the deep tier. -/
def elems (s : State) (code off n : Nat) : List Num :=
  let w := elemBits code / 8
  let b := readTier s 1 off (w * n)
  (rangeFrom 0 n).map fun i => valueElem code 0 (numAt b (w * i) w)

/-- Update parameter n (*Update parameters*). -/
def updParam (s : State) (n : Nat) : Num := f32 (tget 0#32 s.update.params n).toNat

/-- ρ = round32(μ × gclip) (R279). -/
def updRho (s : State) : Num :=
  let norm := match updTab s with | some r => f32 (cfgNum s r 4 4) | none => f32 0
  let q := match updTab s with | some r => f32 (mreadNum s.hbm (r.base + 8) 4) | none => f32 0
  let y := r32 q.sqrt
  let zero := f32 0
  let clip := if zero.lt norm ∧ zero.lt q ∧ norm.lt y then r32 (norm.div y) else numOne
  r32 ((updParam s 7).mul clip)

/-- round32(round32(x × ρ) × ρ). -/
def twice (rho x : Num) : Num := r32 ((r32 (x.mul rho)).mul rho)

/-- x rounded up to a multiple of 64. -/
def up64 (x : Nat) : Nat := ceilDiv x 64 * 64

/-- The places of a state block (R273): W, M, and r and c or V, from the block's start. -/
structure BlockMap where
  w : Nat
  m : Nat
  r : Nat
  c : Nat
  v : Nat
  deriving DecidableEq, Repr

/-- The layout of a block of m × n elements. -/
def blockMap (factored : Bool) (mom m n : Nat) : BlockMap :=
  let w := 64
  let mo := w + up64 (4 * m * n)
  let a := mo + up64 (elemBits mom / 8 * m * n)
  if factored then ⟨w, mo, a, a + up64 (4 * m), 0⟩ else ⟨w, mo, 0, 0, a⟩

/-- The deep-tier offset of a descriptor's block in copy 0 or 1. -/
def updBlock (s : State) (j copy : Nat) : Nat :=
  let base := match imgRegion s s.act (updNum s j (16 + 4 * copy) 4) with | some r => r.base | none => 0
  base + updNum s j 24 8

/-- FP32 values as bytes. -/
def f32Bytes (l : List Num) : List Byte := l.flatMap fun x => toBytes 4 (fpRound fp32 x)

/-- The lane partials of u × u: each product is exact and each addition rounds once, the first on its
entry into the FP32 partial (R90, R277).
DEDUCED: notes/assumptions/59.md. -/
def squarePartial (us : List (Nat × Num)) (lane : Nat) : Option Num :=
  (us.filter fun e => e.1 % 64 == lane).foldl (fun a e => match a with
    | none => some (r32 (e.2.mul e.2))
    | some v => some (fma32 e.2 e.2 v)) none

/-- u2: the sum of the squares of the unclipped update. -/
def sumSquares (us : List Num) : Num :=
  let idx := us.mapIdx fun i u => (i, u)
  match pairAll 6 ((rangeFrom 0 64).map (squarePartial idx)) with
  | some v => v
  | none => f32 0

/-- What a pass writes: the parts of the new block, the RMS pattern, and what the status word takes. -/
structure PassOut where
  w : List Byte
  m : List Byte
  r : List Byte
  c : List Byte
  v : List Byte
  rms : Nat
  sts : Sts
  deriving DecidableEq, Repr

/-- The status of FP32 results as stored (R281). -/
def stsOf32 (l : List Num) : Sts := l.foldl (fun a x => a.merge (convElem 0x0 false 0 x).2) {}

/-- The inputs of one element of the pass (R276). -/
structure ElemIn where
  w : Num
  mo : Num
  g : Num
  den : Num       -- the divisor of the update: round32(sqrt v)
  deriving DecidableEq, Repr

/-- The unclipped update of one element. -/
def elemU (e : ElemIn) : Num := r32 (e.g.div e.den)

/-- One element after clipping: the stored momentum pattern and its status, and the new weight. -/
def elemOut (s : State) (mom : Nat) (decay : Bool) (cf : Num) (e : ElemIn) : (Nat × Sts) × Num :=
  let u := r32 ((elemU e).mul cf)
  let mo := convElem mom false 0 (fma32 (updParam s 1) (r32 (e.mo.sub u)) u)
  let d := r32 ((valueElem mom 0 mo.1).mul (updParam s 3))
  let w1 := fma32 (updParam s 0).neg d e.w
  (mo, if decay then fma32 (updParam s 5).neg e.w w1 else w1)

/-- The pass over a descriptor's tensor from copy t mod 2 (R276 to R279, R281). -/
def updPass (s : State) (j t : Nat) : PassOut :=
  let factored := updNum s j 4 1 == 0
  let mom := updNum s j 5 1
  let m := updNum s j 8 4
  let n := updNum s j 12 4
  let old := updBlock s j (t % 2)
  let bm := blockMap factored mom m n
  let rho := updRho s
  let eps := f32 (updNum s j 48 4)
  let invN := f32 (updNum s j 52 4)
  let invM := f32 (updNum s j 56 4)
  let invMN := f32 (updNum s j 60 4)
  let beta2 := updParam s 2
  let stats := updNum s j 40 8
  let g := (f32s s (updNum s j 32 8) (m * n)).map fun x => r32 (x.mul rho)
  let w := f32s s (old + bm.w) (m * n)
  let mo := elems s mom (old + bm.m) (m * n)
  let ema := fun (o x : Num) => fma32 beta2 (r32 (o.sub x)) x
  let r := if factored then
      (f32s s stats m).zipWith (fun a o => ema o (fma32 (twice rho a) invN eps)) (f32s s (old + bm.r) m) else []
  let c := if factored then
      (f32s s (stats + 4 * m) n).zipWith (fun a o => ema o (fma32 (twice rho a) invM eps)) (f32s s (old + bm.c) n) else []
  let sr := sumFp (r.mapIdx fun i x => (i, x))
  let k := r32 ((r32 (numOne.div (r32 (sr.mul invM)))).mul (updParam s 4))
  let rmsPrev := f32 (numAt (readTier s 1 (old + 12) 4) 0 4)
  let q := r32 (rmsPrev.div (updParam s 6))
  let cf := if q.lt numOne || q.eqv numOne || rmsPrev.eqv (f32 0) then numOne else r32 (numOne.div q)
  let v := if factored then [] else
      (g.zip (f32s s (old + bm.v) (m * n))).map fun e => ema e.2 (r32 ((r32 (e.1.mul e.1)).add eps))
  let den := if factored then
      r.flatMap fun ri => let a := r32 (ri.mul k); c.map fun cj => r32 (r32 (a.mul cj)).sqrt
    else v.map fun x => r32 (r32 (x.mul (updParam s 4))).sqrt
  let ins := ((w.zip mo).zip (g.zip den)).map fun e => (⟨e.1.1, e.1.2, e.2.1, e.2.2⟩ : ElemIn)
  let outs := ins.map (elemOut s mom (bitAt (updNum s j 104 1) 0) cf)
  let rms := r32 (r32 ((sumSquares (ins.map elemU)).mul invMN)).sqrt
  let ws := outs.map (·.2)
  { w := f32Bytes ws
    m := outs.flatMap fun o => toBytes (elemBits mom / 8) o.1.1
    r := f32Bytes r, c := f32Bytes c, v := f32Bytes v, rms := fpRound fp32 rms
    sts := outs.foldl (fun a o => a.merge o.1.2) (stsOf32 (ws ++ r ++ c ++ v ++ [rms])) }

/-! ## Requests -/

/-- An update engine. -/
def getEng (s : State) (die : Nat) : StopeEng := tget {} s.update.engs die

/-- Change an update engine. -/
def modEng (die : Nat) (f : StopeEng → StopeEng) (s : State) : State :=
  { s with update := { s.update with engs := tmod {} s.update.engs die f } }

/-- The update request ring of a Stope die (R274). -/
def updRing (s : State) (die : Nat) : Option Nat := (updTab s).map fun r => cfgNum s r (16 + 4 * die) 4

/-- The step that an update works for: that of the running attempt, else the next (R282).
DEDUCED: notes/assumptions/59.md. -/
def updStep (s : State) : Nat := if inAttempt s then s.steps.step else s.steps.committed + 1

/-- Write the parts of the new copy (R282). -/
def passWrite (j t : Nat) (o : PassOut) (s : State) : State :=
  let bm := blockMap (updNum s j 4 1 == 0) (updNum s j 5 1) (updNum s j 8 4) (updNum s j 12 4)
  let new := updBlock s j ((t + 1) % 2)
  let parts := [(bm.w, o.w), (bm.m, o.m), (bm.r, o.r), (bm.c, o.c), (bm.v, o.v)]
  parts.foldl (fun s p => if p.2.isEmpty then s else writeTier 1 (new + p.1) p.2 s) s

/-- Insert a term in descriptor order. -/
def insertTerm (j v : Nat) : List (Nat × Nat) → List (Nat × Nat)
  | [] => [(j, v)]
  | x :: rest => if j < x.1 then (j, v) :: x :: rest else x :: insertTerm j v rest

/-- The partial of a die: its terms added in descriptor order, from +0.0 (R280). -/
def partialSum (l : List (Nat × Nat)) : Num := l.foldl (fun a x => r32 (a.add (f32 x.2))) (f32 0)

/-- The partial sum of squares takes a descriptor's QT once in an attempt (R280).
DEDUCED: notes/assumptions/60.md. -/
def addPart (die j : Nat) (s : State) : State :=
  let rho := updRho s
  let m := updNum s j 8 4
  let n := updNum s j 12 4
  let qt := f32 (numAt (readTier s 1 (updNum s j 40 8 + if updNum s j 4 1 = 0 then 4 * (m + n) else 0) 4) 0 4)
  if (getEng s die).terms.any fun x => x.1 == j then s
  else modEng die (fun e => { e with terms := insertTerm j (fpRound fp32 (twice rho qt)) e.terms }) s

/-- An UPDATE descriptor: the check, then the pass (R282, R283).
DEDUCED: notes/assumptions/60.md. -/
def updateOne (die : Nat) (s : State) (j : Nat) : State :=
  let id := updNum s j 0 4
  if updCount s ≤ j ∨ updNum s j 7 1 ≠ die then bump (stopeBase die + 0x10010) 1 s
  else
    let s := modEng die (fun e => { e with last := id }) s
    let t := updStep s - 1
    let hdr := readTier s 1 (updBlock s j (t % 2)) 64
    if numAt hdr 0 8 ≠ t ∨ numAt hdr 8 4 ≠ id ∨ s.steps.committed ≠ t then
      modEng die (fun e => { e with refused := true }) s
        |> raise (source 2 die) 0x0501 [(18, 4, id), (24, 8, numAt hdr 0 8)]
        |> bump (stopeBase die + 0x10010) 1
        |> sendFail cStepMismatch (source 2 die)
    else
      let o := updPass s j t
      addPart die j s |> passWrite j t o
        |> bump (stopeBase die + 0x10008) (updNum s j 8 4 * updNum s j 12 4)
        |> updateStsAt (source 2 die) (updNum s j 64 8 + 8 * ((t + 1) % 2)) o.sts
        |> modEng die (fun e => { e with headers := e.headers ++ [⟨j, o.rms⟩] })

/-- Every descriptor of the table has its header of this attempt (R284). -/
def allWritten (s : State) : Bool := (rangeFrom 0 (updCount s)).all fun j => decide (j ∈ s.update.written)

/-- After the last update of the step the module adds the partials of dies 0 to 7 and enters one Bell SUM
of FP32 over GROUP (R280). -/
def sumUpdates (s : State) : State :=
  match updTab s with
  | none => s
  | some r =>
    if s.update.sumAsked || !allWritten s || !inAttempt s then s
    else
      let total := (rangeFrom 0 8).foldl (fun a d => r32 (a.add (partialSum (getEng s d).terms))) (f32 0)
      bellEnter (cfgNum s r 12 4) 2 1 (fpRound fp32 total) .sumsq
        { s with update := { s.update with sumAsked := true } }

/-- A request is over when its headers are written: its signal leaves (R282). -/
def requestOver (die : Nat) (s : State) : State :=
  let e := getEng s die
  match e.headers, e.signal with
  | [], some g => signalLogical g.1 g.2 1 (modEng die (fun e => { e with signal := none }) s)
  | _, _ => s

/-- The head of a request ring, when an engine can take it. -/
def ringHead (s : State) (ring : Option Nat) : Option (Nat × List Byte) :=
  ring.bind fun r => if 0 < (getRing s r).len then some (r, ringRead s r (getRing s r).head) else none

/-- A checkpoint of step c reads the copy that step c + 2 would write, so updates of that step wait
(R305). -/
def ckptHolds (s : State) : Bool := s.ckpt.st == .writing && updStep s == s.ckpt.step + 2

/-- UPDATE_REQUEST (R282): the engine pops the next request, an UPDATE, and runs its descriptors in
order. -/
def execUpdateRequest (die : Nat) (s : State) : Host.Outcome State Fault Refusal :=
  onUnit (decide (die < 8))
    (match ringHead s (updRing s die) with
    | none => s
    | some (r, d) =>
      if numAt d 8 1 = 1 ∨ (getEng s die).signal.isSome ∨ ckptHolds s then s
      else
        let s := (enginePop r s).2
        let s := modEng die (fun e => { e with signal := some (numAt d 10 2, numAt d 9 1 % 64) }) s
        (rangeFrom (numAt d 0 4) (numAt d 4 4)).foldl (updateOne die) s |> requestOver die)

/-- Every element write of a die's next descriptor has landed, and its header is written (R282).
DEDUCED: notes/assumptions/102.md. -/
def headerWrite (die : Nat) (s : State) : State :=
  match (getEng s die).headers with
  | [] => s
  | h :: rest =>
    let t1 := updStep s
    let hdr := toBytes 8 t1 ++ toBytes 4 (updNum s h.desc 0 4) ++ toBytes 4 h.rms ++ List.replicate 48 0#8
    let s := writeTier 1 (updBlock s h.desc (t1 % 2)) hdr s
    let s := modEng die (fun e => { e with headers := rest }) s
    { s with update := { s.update with written := insertNew s.update.written h.desc } }
      |> requestOver die |> sumUpdates

/-- Every update pass runs to its end (R298). -/
def finishPasses (s : State) : State :=
  (rangeFrom 0 8).foldl (fun s d => (rangeFrom 0 (getEng s d).headers.length).foldl (fun s _ => headerWrite d s) s) s

/-- UPDATE_HEADER_WRITE (R282). -/
def execUpdateHeaderWrite (die : Nat) (s : State) : Host.Outcome State Fault Refusal :=
  onUnit (decide (die < 8)) (headerWrite die s)

/-! ## Publication -/

/-- The tag of a shard header. -/
def setTagHdr (hdr tag : Nat) (s : State) : State := writeTier 0 hdr (toBytes 8 tag) s

/-- Start publishing a list of descriptors of a die: the first run's tag becomes all ones (R285). -/
def startPublish (die : Nat) (l : List Nat) (s : State) : State :=
  let s := modEng die (fun e => { e with publishing := l }) s
  match l with
  | j :: _ => setTagHdr (updNum s j 80 8) allOnes64 s
  | [] => s

/-- The descriptors that a die publishes among some. -/
def publishable (s : State) (die : Nat) (l : List Nat) : List Nat :=
  l.filter fun j => decide (j < updCount s) && updNum s j 7 1 == die && updNum s j 6 1 != 0xFF

/-- Each Stope die publishes its descriptors in order (R285). -/
def publishAll (s : State) : State :=
  (rangeFrom 0 8).foldl (fun s d => startPublish d (publishable s d (rangeFrom 0 (updCount s))) s) s

/-- PUBLISH_REQUEST (R285): the engine pops the next request, a PUBLISH, once no publication runs. -/
def execPublishRequest (die : Nat) (s : State) : Host.Outcome State Fault Refusal :=
  onUnit (decide (die < 8))
    (match ringHead s (updRing s die) with
    | none => s
    | some (r, d) =>
      let e := getEng s die
      if numAt d 8 1 ≠ 1 ∨ e.publishing ≠ [] then s
      else
        let l := rangeFrom (numAt d 0 4) (numAt d 4 4)
        let s := (enginePop r s).2
        let skipped := l.filter fun j => decide (updCount s ≤ j) || updNum s j 7 1 != die
        let s := bump (stopeBase die + 0x10010) skipped.length s
        match publishable s die l with
        | [] => signalLogical (numAt d 10 2) (numAt d 9 1 % 64) 1 s
        | p => startPublish die p (modEng die (fun e => { e with pubSignal := some (numAt d 10 2, numAt d 9 1 % 64) }) s))

/-- The body that a descriptor publishes, and what its conversion reports (R285). -/
def pubBody (s : State) (j : Nat) : List Byte × Sts :=
  let code := updNum s j 6 1
  let m := updNum s j 8 4
  let n := updNum s j 12 4
  let rec_ := updNum s j 88 8
  let scaled := rec_ != allOnes64
  let exp := if scaled then signedOf 8 (mreadNum s.hbm (rec_ + 4) 1) else 0
  let satf := scaled && bitAt (mreadNum s.hbm (rec_ + 6) 1) 0
  let w := f32s s (updBlock s j (s.steps.committed % 2) + 64) (m * n)
  let es := w.map (convElem code satf exp)
  (es.flatMap fun e => toBytes (elemBits code / 8) e.1, es.foldl (fun a e => a.merge e.2) {})

/-- The field PUB_AMAX of a descriptor.
DEDUCED: notes/assumptions/61.md. -/
def setPubAmax (j v : Nat) (s : State) : State :=
  match updTab s with
  | some r => writeTier 0 (r.base + 64 + 128 * j + 108) (toBytes 4 v) s
  | none => s

/-- The flags of a status, as four bits. -/
def flagBits (x : Sts) : Nat :=
  bit01 x.nonfinite + 2 * bit01 x.overflow + 4 * bit01 x.saturated + 8 * bit01 x.underflow

/-- What a publication adds to a status word: PUB_AMAX and its flags (R286). -/
def pubSts (amax flags : Nat) : Sts :=
  { amax := amax, nonfinite := bitAt flags 0, overflow := bitAt flags 1, saturated := bitAt flags 2
    underflow := bitAt flags 3 }

/-- Another die still publishes a part of the run of a shard header (R285). -/
def runGoesOn (s : State) (hdr : Nat) : Bool :=
  s.update.engs.any fun e => e.2.publishing.any fun j => updNum s j 80 8 == hdr

/-- The run of a shard header ends: its tag is written once every body write of the run has landed (R285). -/
def tagRun (hdr : Nat) (s : State) : State :=
  if runGoesOn s hdr then s else setTagHdr hdr s.steps.committed s

/-- The body writes of a descriptor have landed (R285, R286): PUB_AMAX is recorded, an attempt that runs
takes it into its status word, and the last descriptor of a run writes the tag.
DEDUCED: notes/assumptions/61.md. -/
def publishOne (die j : Nat) (rest : List Nat) (s : State) : State :=
  let b := pubBody s j
  let hdr := updNum s j 80 8
  let s := writeTier 0 (updNum s j 72 8) b.1 s |> setPubAmax j b.2.amax
    |> bump (stopeBase die + 0x10018) b.1.length
    |> modEng die (fun e => { e with publishing := rest, last := updNum s j 0 4 })
    |> fun s => { s with update := { s.update with pubFlags := tset 0 s.update.pubFlags j (flagBits b.2) } }
  let s := if inAttempt s then
      updateStsAt (source 2 die) (updNum s j 96 8 + 8 * ((s.steps.committed + 1) % 2)) b.2 s else s
  match rest with
  | [] => tagRun hdr s
  | k :: _ => if updNum s k 80 8 = hdr then s else tagRun hdr s |> setTagHdr (updNum s k 80 8) allOnes64

/-- A CKPT_RESTORE completes once publication has ended (R306); then no committed state is damaged any
more (R502). -/
def restoreOver (s : State) : State :=
  if !s.ckpt.publishing || !s.update.engs.all (fun e => e.2.publishing.isEmpty) then s
  else
    let cmd := s.ckpt.cmd
    let c := s.ckpt
    let s := { s with
      ckpt := { target := c.target, lastCode := cOk, mirrorHeader := c.mirrorHeader, mirrorUnits := c.mirrorUnits
                mirrorTarget := c.mirrorTarget }
      steps := { s.steps with phase := .idle } }
    completeOpt cmd cOk (modFaults (fun f => { f with damaged := false }) s)

/-- PUBLICATION_END (R285, R286): the publication of a die's next descriptor ends. -/
def execPublicationEnd (die : Nat) (s : State) : Host.Outcome State Fault Refusal :=
  onUnit (decide (die < 8))
    (match (getEng s die).publishing with
    | [] => s
    | j :: rest =>
      let s := publishOne die j rest s |> restoreOver
      match rest, (getEng s die).pubSignal with
      | [], some g => signalLogical g.1 g.2 1 (modEng die (fun e => { e with pubSignal := none }) s)
      | _, _ => s)

/-- PUB_AMAX of a descriptor, as its table in HBM holds it now. -/
def updPub (s : State) (j : Nat) : Nat :=
  match updTab s with | some r => mreadNum s.hbm (r.base + 64 + 128 * j + 108) 4 | none => 0

/-- At the start of an attempt every publication that has ended adds PUB_AMAX to its status word (R286). -/
def addPubAmax (s : State) : State :=
  (rangeFrom 0 (updCount s)).foldl (fun s j =>
    let die := updNum s j 7 1
    if updNum s j 6 1 = 0xFF ∨ j ∈ (getEng s die).publishing then s
    else updateStsAt (source 2 die) (updNum s j 96 8 + 8 * (s.steps.step % 2)) 
        (pubSts (updPub s j) (tget 0 s.update.pubFlags j)) s) s

end Sys2Proof.Machine
end

