-- ==== Sys2Proof/Machine/Intake.lean ====
section
/-!
DEFINITION. The intake engine (14_intake): feeds, the taking and checking of records (R405 to R412), the
staging windows (R404), the slots of a batch and the balance word (R416). The tensors of a slot are written
by the streams of the plan's intake formation (R415), whose data pass through the staging window.
-/
namespace Sys2Proof.Machine

/-- The source of the intake's events (R478). -/
def intakeSrc : Nat := source 4 0

/-! ## Record checks -/

/-- The fields of a record that the checks read. -/
structure SampleRec where
  typ : Nat
  flags : Nat
  channels : Nat
  id : Nat
  payloadLen : Nat
  declared : Nat
  width : Nat
  height : Nat
  crc : Nat
  payload : List Byte
  deriving DecidableEq, Repr

/-- Read a record (R396). -/
def sampleOf (d : List Byte) : SampleRec :=
  ⟨numAt d 5 1, numAt d 6 1, numAt d 7 1, numAt d 8 8, numAt d 16 4, numAt d 20 4, numAt d 24 2, numAt d 26 2,
    numAt d 28 4, (d.drop 32).take (numAt d 16 4)⟩

/-- What the markers of a JPEG give up to its first scan: width, height and components with their sampling
factors. -/
structure Jpeg where
  w : Nat
  h : Nat
  comps : List Nat
  deriving DecidableEq, Repr

/-- Big-endian number of two bytes. -/
def be16 (l : List Byte) (i : Nat) : Nat := numAt l i 1 * 256 + numAt l (i + 1) 1

/-- The frame header SOF0 (ITU-T T.81), with the options of R398. -/
def jpegSof (l : List Byte) : Option Jpeg :=
  let n := numAt l 7 1
  let comps := (rangeFrom 0 n).map fun i => numAt l (9 + 3 * i) 1
  if numAt l 2 1 = 8 ∧ be16 l 0 = 8 + 3 * n ∧
      ((n = 1 ∧ comps.headD 0 ∈ [0x11, 0x21, 0x22]) ∨
       (n = 3 ∧ comps.headD 0 ∈ [0x11, 0x21, 0x22] ∧ comps.drop 1 = [0x11, 0x11])) then
    some ⟨be16 l 5, be16 l 3, comps⟩
  else none

/-- Parse the segments of a JPEG up to its first scan (R398): none for what the decoder does not accept. The
number bounds the segments. -/
def jpegSegs : Nat → Option Jpeg → List Byte → Option Jpeg
  | 0, _, _ => none
  | n + 1, f, l =>
    let m := numAt l 1 1
    let rest := l.drop 2
    if numAt l 0 1 ≠ 0xFF ∨ l.length < 4 then none
    else if m = 0xFF then jpegSegs n f (l.drop 1)
    else if m = 0xDA then f
    else if m = 0xC0 then match f, jpegSof rest with
      | none, some g => jpegSegs n (some g) (rest.drop (be16 rest 0))
      | _, _ => none
    else if m ∈ [0xC4, 0xDB, 0xDD, 0xFE] ∨ (0xE0 ≤ m ∧ m ≤ 0xEF) then jpegSegs n f (rest.drop (be16 rest 0))
    else none

/-- The markers of a JPEG image. -/
def jpegOf (l : List Byte) : Option Jpeg :=
  if l.take 2 = [0xFF#8, 0xD8#8] then jpegSegs l.length none (l.drop 2) else none

/-- The 8 × 8 blocks of an image: MCUs × blocks per MCU. -/
def jpegBlocks (j : Jpeg) : Nat :=
  if j.comps.length = 1 then ceilDiv j.w 8 * ceilDiv j.h 8
  else
    let h := j.comps.headD 0 / 16
    let v := j.comps.headD 0 % 16
    ceilDiv j.w (8 * h) * ceilDiv j.h (8 * v) * (h * v + 2)

/-- The header of a zstd frame (RFC 8878) with the options of R399: its Frame_Content_Size, if it has one;
none for what the decoder does not accept. -/
def zstdOf (l : List Byte) : Option (Option Nat) :=
  let d := numAt l 4 1
  let single := bitAt d 5
  let flag := d / 64
  let n := if flag = 0 then bit01 single else 2 ^ flag
  let at_ := if single then 5 else 6
  let size := numAt l at_ n + if flag = 1 then 256 else 0
  let wd := numAt l 5 1
  let window := if single then size else 2 ^ (10 + wd / 8) + 2 ^ (10 + wd / 8) / 8 * (wd % 8)
  if numAt l 0 4 ≠ 0xFD2FB528 ∨ d % 4 ≠ 0 ∨ bitAt d 3 ∨ 8388608 < window ∨ l.length < at_ + n then none
  else some (if n = 0 then none else some size)

/-- Checks 6 to 8 of a compressed record: the cause, 0 for none. -/
def codecCause (r : SampleRec) : Nat :=
  if r.typ = 2 then
    match jpegOf r.payload with
    | none => 6
    | some j =>
      if j.w ≠ r.width ∨ j.h ≠ r.height ∨ j.comps.length ≠ r.channels then 5
      else if 8 * r.payloadLen < 2 * jpegBlocks j then 7 else 0
  else if r.typ = 3 ∨ r.typ = 4 then
    match zstdOf r.payload with
    | none => 6
    | some none => 8
    | some (some n) => if n = r.declared then 0 else 2
  else 0

/-- The type carries tokens. -/
def isTokens (typ : Nat) : Bool := typ == 0 || typ == 3

/-- The checks of a record in their order (*Record checks*): the cause of the first that fails, 0 for none.
listed is the length in the record list, none for a loop-back record.
DEDUCED: notes/assumptions/86.md. -/
def recordCause (s : State) (slot : Nat) (listed : Option Nat) (bad : Bool) (d : List Byte) : Nat :=
  let r := sampleOf d
  let f := classNum s slot
  if bad then 1
  else if numAt d 0 4 ≠ 0x4D53474E ∨ numAt d 4 1 ≠ 1 ∨ 2 ≤ r.flags ∨ 5 ≤ r.typ ∨ !bitAt (f 0 1) r.typ ∨
      (r.flags = 1 ∧ listed.isSome) ∨ (listed.any fun n => n != 32 + r.payloadLen) then 2
  else if r.flags = 0 ∧ (crc32c r.payload).toNat ≠ r.crc then 3
  else if f 4 4 < r.declared ∨ (isTokens r.typ ∧ 4 * f 12 4 < r.declared) then 4
  else if isTokens r.typ ∧ (r.declared % 4 ≠ 0 ∨ r.channels ≠ 0 ∨ r.width ≠ 0 ∨ r.height ≠ 0) then 5
  else if !isTokens r.typ ∧ (r.declared ≠ r.width * r.height * r.channels ∨ r.channels ∉ [1, 3] ∨ r.width = 0 ∨ r.height = 0 ∨
      f 8 2 < r.width ∨ f 10 2 < r.height) then 5
  else if r.typ ≤ 1 ∧ r.declared ≠ r.payloadLen then 5
  else codecCause r

/-! ## Slots -/

/-- A slot is done: its manifest entry, and the next slot (R409, R414). -/
def slotDone (source id pos : Nat) (s : State) : State :=
  let i := s.intake
  let f := takeFree s
  let first := i.firstId.getD (f.1 % 2 ^ 64)
  pushManifest (toBytes 1 1 ++ toBytes 1 source ++ toBytes 1 i.cause ++ toBytes 1 i.tries ++ toBytes 4 i.slot ++
      toBytes 8 id ++ toBytes 8 first ++ toBytes 8 pos) (if i.firstId.isSome then s else f.2)
    |> modIntake (fun i => { i with
        slot := i.slot + 1, work := .idle, freed := 0, firstId := none, firstPos := 0, cause := 0, tries := 0
        needRes := false, starved := false })

/-- A record of a feed is settled: its feed ends with the last one (R405). -/
def settle (src : Nat) (s : State) : State :=
  if 2 ≤ src then s
  else
    let l := feedsOf s src
    match l with
    | [] => s
    | f :: rest =>
      if f.settled + 1 = f.count then complete f.cmd cOk (setFeeds src rest s)
      else setFeeds src ({ f with settled := f.settled + 1 } :: rest) s

/-- The record fills its slot. -/
def acceptRecord (src pos id : Nat) (s : State) : State :=
  settle src s |> bump (intakeBase + 0x20) 1
    |> modIntake (fun i => if i.firstId.isNone then { i with firstId := some id, firstPos := pos } else i) |> slotDone src id pos

/-- Mask the slot: the reserve has no record (R410). -/
def maskSlot (s : State) : State :=
  let i := s.intake
  let s := raise intakeSrc 0x0702 [(18, 2, i.slot), (20, 1, i.cause)] s |> bump (intakeBase + 0x30) 1
  let s := if i.resRaised then s else raise intakeSrc 0x0703 [(24, 8, i.batch)] s
  modIntake (fun i => { i with resEmpty := true, resRaised := true }) s |> slotDone 3 0 i.firstPos

/-- Take the next record of a queue into the slot: the cursor advances and the record's list entry is read
(R405, R406); none when the queue has no record waiting. -/
def takeRecord (src : Nat) (s : State) : Option State :=
  let l := feedsOf s src
  let k := l.findIdx fun f => decide (f.taken < f.count)
  match l[k]? with
  | none => none
  | some f =>
    let pos := if src = 0 then s.intake.curMain else s.intake.curRes
    let s := setFeeds src (l.set k { f with taken := f.taken + 1 }) s
    let s := modIntake (fun i => { i with
      curMain := if src = 0 then i.curMain + 1 else i.curMain
      curRes := if src = 0 then i.curRes else i.curRes + 1
      tries := if src = 0 then i.tries else i.tries + 1
      freed := 0, work := .reading true src pos 16 [] 0 false }) s
    some (hostReadRange .sample (f.addr + 16 * f.taken) 16 s)

/-- The slot takes a reserve record, or is masked (R409, R410). -/
def takeReserve (s : State) : State :=
  match takeRecord 1 s with
  | some t => modIntake (fun i => { i with resEmpty := false }) t
  | none => maskSlot s

/-- A record is rejected and the slot turns to the reserve (R409). -/
def rejectRecord (src pos id cause : Nat) (s : State) : State :=
  let i := s.intake
  settle src s |> bump (intakeBase + 0x28) 1 |> raise intakeSrc 0x0701 [(18, 2, i.slot), (20, 1, cause), (24, 8, id)]
    |> modIntake (fun i => { i with
        work := .idle, freed := 0, needRes := true
        firstId := i.firstId.or (some id), firstPos := if i.firstId.isNone then pos else i.firstPos
        cause := if i.cause = 0 then cause else i.cause })
    |> takeReserve

/-- The address of the slot's staging window in the half of the batch (R404). -/
def windowBase (s : State) : Nat :=
  let w := fun n => (rangeFrom 0 n).foldl (fun t i => t + slotWindow s i) 0
  let reg := match imgRegion s s.act (intakeNum s 20 4) with | some r => r.base | none => 0
  reg + s.intake.batch % 2 * w (slotCount s) + w s.intake.slot

/-- Write the last bytes of the data to the window, which is a ring (R404).
DEDUCED: notes/assumptions/85.md. -/
def writeWindow (base w : Nat) (d : List Byte) (s : State) : State :=
  let keep := min d.length w
  let at_ := (d.length - keep) % max 1 w
  let tail := d.drop (d.length - keep)
  writeTier 0 (base + at_) (tail.take (w - at_)) s |> writeTier 0 base (tail.drop (w - at_))

/-- The data passes through the window as the formation frees it; the slot is filled when the rest fits
(R404). -/
def fillTry (s : State) : State :=
  match s.intake.work with
  | .filling src pos id d =>
    let w := slotWindow s s.intake.slot
    if d.length ≤ s.intake.freed + w then writeWindow (windowBase s) w d s |> acceptRecord src pos id else s
  | _ => s

/-- A whole record has been read: it is rejected, passes to a decoder, or fills its slot as it is.
DEDUCED: notes/assumptions/86.md. -/
def checkRecord (src pos : Nat) (listed : Option Nat) (bad : Bool) (d : List Byte) (s : State) : State :=
  let r := sampleOf d
  let cause := recordCause s s.intake.slot listed bad d
  if cause ≠ 0 then rejectRecord src pos r.id cause s
  else
    let s := modIntake (fun i => { i with
      freed := 0, firstId := i.firstId.or (some r.id), firstPos := if i.firstId.isNone then pos else i.firstPos
      work := if r.typ ≤ 1 then .filling src pos r.id r.payload else .decoding src pos r.id r.typ r.declared }) s
    fillTry s

/-- The oldest loop-back entry: its record is read whole, then the entry is popped and its buffer is free
(R407, R429). -/
def takeLoop (ring : Nat) (s : State) : State :=
  let pos := (getRing s ring).head
  let off := numAt (ringRead s ring pos) 0 8
  let len := 32 + ofBytes (readTier s 0 (off + 16) 4)
  let d := readTier s 0 off len
  checkRecord 2 pos none false d ((enginePop ring s).2 |> freeLoop off)

/-- The slot takes its record from its source (R409, R410, R412).
DESIGN CHOICE: notes/assumptions/88.md. -/
def takeSlot (s : State) : State :=
  if s.intake.needRes then takeReserve s
  else if slotByte s s.intake.slot / 16 = 1 then
    match loopRing s with
    | some ring =>
      if 0 < (getRing s ring).len then takeLoop ring s
      else takeReserve (modIntake (fun i => { i with needRes := true, cause := 12 }) s)
    | none => takeReserve (modIntake (fun i => { i with needRes := true, cause := 12 }) s)
  else match takeRecord 0 s with
  | some t => modIntake (fun i => { i with starved := false }) t
  | none => modIntake (fun i => { i with starved := true }) s

/-- The intake builds a batch: not in RECOVERY (R464), not while the manifest holds it up (R414), and not
beyond its last slot. -/
def building (s : State) : Bool :=
  (intakeTab s).isSome && !inRecovery s && s.intake.manifest.isEmpty && !s.intake.built && decide (s.intake.slot < slotCount s)

/-- INTAKE_RECORD (R408, R409): the slot takes its next record, or a record that has been read is
checked. -/
def execIntakeRecord (s : State) : Host.Outcome State Fault Refusal :=
  .next (let s := handOut s
    if !building s then s
    else match s.intake.work with
      | .idle => takeSlot s
      | .reading false src pos len got count bad =>
        if count < len then s else checkRecord src pos (some len) bad (mread got 0 len) s
      | _ => s)

/-- Bytes of the list entry or of the record have arrived from the host, or their read failed (R408, R449).
DESIGN CHOICE: notes/assumptions/88.md. -/
def intakeArrived (off len : Nat) (data : List Byte) (ok : Bool) (s : State) : State :=
  match s.intake.work with
  | .reading list src pos n got count bad =>
    let got := mwrite got off data
    let bad := bad || !ok
    let w := fun (x : SlotWork) => modIntake (fun i => { i with work := x }) s
    if count + len < n ∨ !list then w (.reading list src pos n got (count + len) bad)
    else if bad then w (.reading false src pos 0 [] 0 true)
    else
      let addr := mreadNum got 0 8
      let m := mreadNum got 8 4
      hostReadRange .sample addr m (w (.reading false src pos m [] 0 false))
  | _ => s

/-- DECODE_END (R408, checks 9 and 10): the decoder of the slot ends with its data, or with a cause of
rejection. -/
def execDecodeEnd (out : DecodeOut) (s : State) : Host.Outcome State Fault Refusal :=
  .next (match s.intake.work, out with
    | .decoding src pos id typ declared, .filled d =>
      if typ ≠ 2 ∧ d.length < declared then rejectRecord src pos id 9 s
      else if typ ≠ 2 ∧ declared < d.length then rejectRecord src pos id 10 s
      else fillTry (modIntake (fun i => { i with work := .filling src pos id d }) s)
    | .decoding src pos id _ _, .rejected cause => if cause ∈ [9, 10, 11] then rejectRecord src pos id cause s else s
    | _, _ => s)

/-- STAGING_WINDOW_FREED (R404): the formation frees bytes of the record under way, and a waiting decoder
resumes. -/
def execStagingWindowFreed (slot bytes : Nat) (s : State) : Host.Outcome State Fault Refusal :=
  .next (if (intakeTab s).isNone ∨ slot ≠ s.intake.slot then s
    else match s.intake.work with
      | .decoding _ _ _ _ _ => modIntake (fun i => { i with freed := i.freed + bytes }) s
      | .filling _ _ _ _ => fillTry (modIntake (fun i => { i with freed := i.freed + bytes }) s)
      | _ => s)

/-! ## Batches -/

/-- A fraction in units of 1/256, rounded to nearest, ties to even.
DEDUCED: notes/assumptions/87.md. -/
def units256 (x : Num) : Nat := (convInt 32 (r32 (x.mul (f32 0x43800000)))).1 % 2 ^ 32

/-- A number clamped to 0 to 1. -/
def clamp01 (x : Num) : Num := if x.lt (f32 0) then f32 0 else if numOne.lt x then numOne else x

/-- SHARE_NEXT from b and SHARE (R416): each operation in FP32.
DEDUCED: notes/assumptions/87.md. -/
def shareNext (b share : Nat) : Nat :=
  let s := r32 ((Num.ofInt share).div (f32 0x43800000))
  let d := r32 ((r32 ((f32 0x3F59999A).sub (f32 b))).div (f32 0x40000000))
  units256 (clamp01 (r32 (s.add d)))

/-- The larger of two FP32 patterns of fractions. -/
def maxFrac (a b : Nat) : Nat := if (f32 a).lt (f32 b) then b else a

/-- BATCH_COMPLETE (R413, R414, R416): the last slot is built; busy of total cycles is the busy fraction of
the busiest unit of the intake in this batch. -/
def execBatchComplete (busy total : Nat) (s : State) : Host.Outcome State Fault Refusal :=
  let i := s.intake
  .next (if (intakeTab s).isNone ∨ i.built ∨ i.slot ≠ slotCount s ∨ i.manifest ≠ [] then s
    else
      let frac := fpRound fp32 ((Num.ofInt (min busy total)).div (Num.ofInt (max 1 total)))
      let hist := (frac :: i.busyHist).take 8
      let b := hist.foldl maxFrac 0
      let next := shareNext b i.share
      modIntake (fun i => { i with built := true, busyHist := hist, busy := units256 (f32 b), share := next }) s
        |> pushManifest (toBytes 4 0 ++ toBytes 4 i.slot ++ toBytes 8 i.batch ++ toBytes 2 next ++ List.replicate 14 0#8)
        |> handOut)

/-! ## The command -/

/-- INTAKE_FEED (R405, R448). -/
def cmdIntakeFeed (id queue count addr : Nat) (s : State) : State :=
  let r := take id 0x70 s
  let s := r.2
  if 1 < queue ∨ count = 0 ∨ 65536 < count then complete r.1 cPlanInvalid s
  else if (intakeTab s).isNone ∨ 256 ≤ (feedsOf s queue).length then complete r.1 cNotReady s
  else setFeeds queue (feedsOf s queue ++ [{ cmd := r.1, addr := addr, count := count }]) s

/-- INTAKE_FEED (R405). -/
def execIntakeFeed (id : BitVec 16) (queue : BitVec 8) (count : BitVec 32) (addr : BitVec 64) (s : State) :
    Host.Outcome State Fault Refusal := .next (cmdIntakeFeed id.toNat queue.toNat count.toNat addr.toNat s)

end Sys2Proof.Machine
end

