-- ==== Sys2Proof/Machine/Queue.lean ====
section
/-!
DEFINITION. The command queue and the completion queue (R443 to R445), the doorbells of the host rings
(R450, R562) and the interrupt hold-off (R451). A register write gives the value and the mask of the
bits that it covers (R442).
-/
namespace Sys2Proof.Machine

/-- The mask of a whole register. -/
def allBits : Nat := 0xFFFFFFFFFFFFFFFF

/-- Change the host link. -/
def modBxl (f : Bxl → Bxl) (s : State) : State := { s with bxl := f s.bxl }

/-- Reads of commands that have not come lose their purpose. -/
def dropCommands (s : State) : State := dropReads (fun w => w == .command) s

/-- ENABLE clears: no command is taken any more, and completions not yet written are discarded (R443). -/
def queueOff (s : State) : State :=
  dropCommands (modBxl (fun b => { b with enable := false, waitCpl := [] }) s)

/-- The host rings of the active plan. -/
def hostRings (s : State) : List Nat := (s.rings.filter fun e => e.2.kind == 3).map (·.1)

/-- ENABLE sets: both heads and both tails are 0, and DIR 1 rings copy again (R443, R450). -/
def queueOn (s : State) : State :=
  modBxl (fun b => { b with enable := true, cmdTail := 0, cmdHead := 0, cmdAsked := 0, cplHead := 0, cplTail := 0
                            dbHold := false }) s
    |> fun s => (hostRings s).foldl (fun s r => copyOut r s) s

/-- A write of BXL_CMDQ_CFG (R443). -/
def cmdqCfgPut (v m : Nat) (s : State) : State :=
  let b := s.bxl
  if b.enable then if bitAt m 16 ∧ !bitAt v 16 then queueOff s else s
  else
    let cfg := mixModes m v (b.cmdqLog + b.cplqLog * 256)
    let cmd := fieldOf cfg 3 0
    let cpl := fieldOf cfg 11 8
    let s := modBxl (fun b => { b with cmdqLog := cmd, cplqLog := cpl }) s
    let ok := fun n => decide (4 ≤ n) && decide (n ≤ 12)
    if bitAt m 16 ∧ bitAt v 16 ∧ ok cmd ∧ ok cpl then queueOn s else s

/-- A write of BXL_CMDQ_BASE (R443). -/
def cmdqBasePut (v m : Nat) (s : State) : State :=
  if s.bxl.enable then s else modBxl (fun b => { b with cmdqBase := mixModes m v b.cmdqBase / 4096 * 4096 }) s

/-- A write of BXL_CPLQ_BASE (R443). -/
def cplqBasePut (v m : Nat) (s : State) : State :=
  if s.bxl.enable then s else modBxl (fun b => { b with cplqBase := mixModes m v b.cplqBase / 4096 * 4096 }) s

/-- A write of BXL_CMDQ_TAIL (R444). -/
def cmdqTailPut (v m : Nat) (s : State) : State :=
  if m % 2 ^ 32 = 0 then s
  else
    let b := s.bxl
    let v := v % 2 ^ 32
    if 2 ^ b.cmdqLog < (v + 2 ^ 32 - b.cmdHead) % 2 ^ 32 then badAccess s
    else pumpCmds { s with bxl := { b with cmdTail := v } }

/-- A write of BXL_CPLQ_HEAD (R445). -/
def cplqHeadPut (v m : Nat) (s : State) : State :=
  if m % 2 ^ 32 = 0 then s else pumpCpl (modBxl (fun b => { b with cplHead := v % 2 ^ 32 }) s)

/-- BXL_CMDQ_CFG_WRITE: the host writes BXL_CMDQ_CFG. -/
def execBxlCmdqCfgWrite (v : BitVec 64) (s : State) : Host.Outcome State Fault Refusal :=
  .next (hostAccess (bxlBase + 0x18) (cmdqCfgPut v.toNat allBits) s)

/-- BXL_CMDQ_TAIL_WRITE: the host writes BXL_CMDQ_TAIL. -/
def execBxlCmdqTailWrite (v : BitVec 64) (s : State) : Host.Outcome State Fault Refusal :=
  .next (hostAccess (bxlBase + 0x20) (cmdqTailPut v.toNat allBits) s)

/-- BXL_CPLQ_HEAD_WRITE: the host writes BXL_CPLQ_HEAD. -/
def execBxlCplqHeadWrite (v : BitVec 64) (s : State) : Host.Outcome State Fault Refusal :=
  .next (hostAccess (bxlBase + 0x38) (cplqHeadPut v.toNat allBits) s)

/-! ## Doorbells -/

/-- The ring of a doorbell. -/
def bellRing (n : Nat) : Nat := 245760 + n

/-- BAR2 answers in the present state: as the blocks that HOT reset stops (R556). -/
def bar2Served (s : State) : Bool :=
  s.pwr.reset != .hot && decide (stMemtrain ≤ s.pwr.state) && decide (s.pwr.state ≤ stRecovery)

/-- Change one doorbell. -/
def modDoorbell (n : Nat) (f : Doorbell → Doorbell) (s : State) : State := { s with bells := tmod {} s.bells n f }

/-- Read the next entry of a DIR 0 ring that the host has written, one at a time and in order (R450). -/
def pumpBell (n : Nat) (s : State) : State :=
  let d := getBell s n
  let g := getRing s (bellRing n)
  if g.alloc ∧ d.enable ∧ !d.dir ∧ d.asked = g.tail % 2 ^ 32 ∧ serialLt 32 d.asked d.hostIdx then
    hostRead (.ringEntry n d.asked) ((d.base + d.asked % g.depth * g.entry) % 2 ^ 64) g.entry
      (modDoorbell n (fun d => { d with asked := (d.asked + 1) % 2 ^ 32 }) s)
  else s

/-- An entry of a DIR 0 ring has been read: it can be popped. A failed read is made again at the next
write of the doorbell. -/
def ringArrived (n idx : Nat) (data : List Byte) (ok : Bool) (s : State) : State :=
  let r := bellRing n
  if !(getRing s r).alloc then s
  else if !ok then modDoorbell n (fun d => { d with asked := idx }) s
  else ringLand r data s |> ringServe r |> pumpBell n

/-- A write of DB_CTL (R450). -/
def dbCtlPut (n v m : Nat) (s : State) : State :=
  let d := getBell s n
  let old := bit01 d.enable + bit01 d.dir * 2 + d.vector * 256 + bit01 d.irqEn * 16384
  let new := mixModes m v old
  modDoorbell n (fun d => { d with
      enable := bitAt new 0
      dir := if d.enable then d.dir else bitAt new 1
      vector := fieldOf new 13 8
      irqEn := bitAt new 14 }) s
    |> copyOut (bellRing n) |> pumpBell n

/-- What may have waited for the host to pop a DIR 1 ring. -/
def afterHostPop (n : Nat) (s : State) : State := ringServe (bellRing n) s |> pumpProgress |> pumpManifest

/-- A write of DB_HOST_IDX (R450): in DIR 0 the host has written entries, in DIR 1 it has popped some.
DEDUCED: notes/assumptions/150.md. -/
def dbHostIdxPut (n v m : Nat) (s : State) : State :=
  let d := getBell s n
  let g := getRing s (bellRing n)
  let v := v % 2 ^ 32
  if m % 2 ^ 32 = 0 then s
  else if d.dir then
    if (d.modIdx + 2 ^ 32 - d.hostIdx) % 2 ^ 32 < (v + 2 ^ 32 - d.hostIdx) % 2 ^ 32 then badAccess s
    else
      modDoorbell n (fun d => { d with hostIdx := v }) s
        |> modRing (bellRing n) (fun g => { g with head := g.tail - (g.tail % 2 ^ 32 + 2 ^ 32 - v) % 2 ^ 32 })
        |> afterHostPop n
  else if g.depth < (v + 2 ^ 32 - d.modIdx) % 2 ^ 32 then badAccess s
  else modDoorbell n (fun d => { d with hostIdx := v }) s |> pumpBell n

/-- A write to BAR2 at an 8-byte aligned place (R450, R562). -/
def doorbellPut (addr v m : Nat) (s : State) : State :=
  let n := addr / 64
  if !(getRing s (bellRing n)).alloc then s
  else match addr % 64 with
  | 0x00 => modDoorbell n (fun d => if d.enable then d else { d with base := mixModes m v d.base / 4096 * 4096 }) s
  | 0x08 => dbCtlPut n v m s
  | 0x10 => dbHostIdxPut n v m s
  | 0x20 => modDoorbell n (fun d => if d.enable then d else { d with shadow := mixModes m v d.shadow / 8 * 8 }) s
  | _ => s

/-- A read of BAR2 at an 8-byte aligned place (R450, R562). -/
def doorbellGet (s : State) (addr : Nat) : Nat :=
  let n := addr / 64
  let d := getBell s n
  let g := getRing s (bellRing n)
  if !g.alloc then 0
  else match addr % 64 with
  | 0x00 => d.base
  | 0x08 => bit01 d.enable + place (bit01 d.dir) 1 1 + place d.vector 6 8 + place (bit01 d.irqEn) 1 14 + 2 ^ 15 +
      place g.depthLog 8 16 + place g.entryLog 4 24
  | 0x10 => d.hostIdx
  | 0x18 => d.modIdx
  | 0x20 => d.shadow
  | _ => 0

/-- DB_HOST_IDX_WRITE: the host writes DB_HOST_IDX of a doorbell. -/
def execDbHostIdxWrite (bell : Nat) (v : BitVec 64) (s : State) : Host.Outcome State Fault Refusal :=
  onUnit (decide (bell < 16384))
    (if s.bxl.st ≠ .active then s
    else if bar2Served s then doorbellPut (64 * bell + 0x10) v.toNat allBits s else badAccess s)

/-! ## Interrupts -/

/-- The cause of a vector is still present (R451): a completion not yet read, an event not yet read, and for
a doorbell an index that the other side has not followed. A change of state stays a cause. -/
def irqCause (s : State) (v : Nat) : Bool :=
  if v = 0 then s.bxl.cplTail != s.bxl.cplHead
  else if v = 1 then s.obs.head != s.obs.tail
  else if v = 2 then true
  else s.bells.any fun e => e.2.irqEn && e.2.vector == v && (!e.2.dir || e.2.modIdx != e.2.hostIdx)

/-- IRQ_HOLDOFF_EXPIRE (R451): the hold-off of a vector ends, and an interrupt held off goes out if its cause
is still present. -/
def execIrqHoldoffExpire (vector : Nat) (s : State) : Host.Outcome State Fault Refusal :=
  onUnit (decide (vector < 64))
    (if vector ∉ s.bxl.irqHeld then s
    else
      let waits := decide (vector ∈ s.bxl.irqWait)
      let s := modBxl (fun b => { b with irqHeld := b.irqHeld.filter (· != vector)
                                         irqWait := b.irqWait.filter (· != vector) }) s
      if waits && irqCause s vector then irq vector s else s)

end Sys2Proof.Machine
end

