-- ==== Sys2Proof/Machine/HfKey.lean ====
section
/-!
DEFINITION. The plan-signing key of the Headframe (R524), and the checks of a firmware image (R512 to R514).
-/
namespace Sys2Proof.Machine

/-- Change the Headframe. -/
def modHf (f : Headframe → Headframe) (s : State) : State := { s with hf := f s.hf }

/-- LOCK sets; a hash other than zero is then enrolled (R524).
DEDUCED: notes/assumptions/124.md. -/
def lockKey (s : State) : State :=
  if s.hf.planKeyLock then s
  else modHf (fun h => { h with planKeyLock := true, enrolled := h.planKey.any (· != 0#8) }) s

/-- A write of HF_PLAN_KEY_n: bytes 8 n to 8 n + 7 of the hash, until LOCK is set. -/
def planKeyPut (n v m : Nat) (s : State) : State :=
  if s.hf.planKeyLock then s
  else modHf (fun h =>
    let k := sliceBytes h.planKey 0 32
    { h with planKey := k.take (8 * n) ++ toBytes 8 (mixModes m v (numAt k (8 * n) 8)) ++ k.drop (8 * n + 8) }) s

/-- A write of HF_PLAN_KEY_CTL. -/
def planKeyCtlPut (v m : Nat) (s : State) : State := if bitAt v 0 && bitAt m 0 then lockKey s else s

/-- PLAN_KEY_LOCK (R524): the host writes 1 to HF_PLAN_KEY_CTL.LOCK. The first PLAN_STAGE after a COLD start
locks the key as well. -/
def execPlanKeyLock (s : State) : Host.Outcome State Fault Refusal :=
  .next (hostAccess (hfBase + 0x40) (planKeyCtlPut 1 allBits) s)

/-- Check 1 of *Boot checks* on header bytes 0 to 511 of an image of at most len bytes: MAGIC "NGFW", VERSION,
reserved fields, STAGE_COUNT, IMAGE_LENGTH, and the stages within the image (R513).
DEDUCED: notes/assumptions/176.md. -/
def imageFormed (h : List Byte) (len : Nat) : Bool :=
  let n := numAt h 17 1
  let size := numAt h 24 8
  numAt h 0 4 == 0x5746474E && numAt h 4 2 == 1 && decide (numAt h 7 1 < 2) && decide (numAt h 16 1 < 8) &&
    numAt h 18 6 == 0 && numAt h 100 28 == 0 && decide (1 ≤ n) && decide (n ≤ 8) && decide (size ≤ len) &&
    decide (len ≤ 23 * 2 ^ 20) &&
    (rangeFrom 0 8).all fun i =>
      let off := numAt h (128 + 48 * i) 8
      if i < n then off % 4096 == 0 && decide (16384 ≤ off) && decide (off + numAt h (136 + 48 * i) 8 ≤ size)
      else numAt h (128 + 48 * i) 48 == 0

/-- The first of *Boot checks* that an image fails (R512 to R514): what its header shows, and a check that needs
more than the header.
DEDUCED: notes/assumptions/176.md. -/
def bootFlaw (f : Headframe) (h : List Byte) (len : Nat) (other : Option Nat) : Option Nat :=
  let slot := numAt h 6 1
  let svn := numAt h 8 8
  let fails := fun (n : Nat) => match n with
    | 1 => !imageFormed h len
    | 2 => decide (2 < slot) || bitAt f.revoked slot
    | 4 => !isPow2 (svn + 1) || decide (svn < f.svnFused)
    | 5 => bitAt (numAt h 16 1) slot
    | _ => false
  [1, 2, 3, 4, 5, 6].find? fun n => fails n || other == some n

end Sys2Proof.Machine
end

