-- ==== Sys2Proof/Machine/Memory.lean ====
section
/-!
DEFINITION. The memory controllers, the arbiters and the lend region (13_memory_system).
-/
namespace Sys2Proof.Machine

/-! ## Requests and the sorter -/

/-- Pseudo-channels or channels of a controller (R366, R367). -/
def ctlChans (ctl : Nat) : Nat := if ctl < 16 then 64 else 16

/-- Banks of a pseudo-channel or channel (R366, R367). -/
def ctlBanks (ctl : Nat) : Nat := if ctl < 16 then 48 else 64

/-- Bytes of a stack (R18). -/
def stackBytes (ctl : Nat) : Nat := if ctl < 16 then 0x900000000 else 2 ^ 36

/-- The channel of an offset. -/
def chanOf (ctl off : Nat) : Nat := (rowPlace ctl off).1

/-- The row of an offset. -/
def rowOf (ctl off : Nat) : Nat := (rowPlace ctl off).2.2

/-- Requesters of a controller: cells and engines of its die, and incoming links (R385). -/
def ctlRequesters (ctl : Nat) : Nat := if ctl < 16 then 132 else 6

/-- The other controller of the die: its slots are shared (R378). -/
def ctlTwin (ctl : Nat) : Nat := if ctl % 2 = 0 then ctl + 1 else ctl - 1

/-- Request slots of the die in use (R378, R393). -/
def slotsInUse (s : State) (ctl : Nat) : Nat := (getMc s ctl).pool.length + (getMc s (ctlTwin ctl)).pool.length

/-- Per bank and requester: 16 for a cell, 64 for an engine or incoming link (R378). -/
def requesterQuota (ctl r : Nat) : Nat := if ctl < 16 ∧ r < 100 then 16 else 64

/-- The pool takes the request within the quotas of R378. -/
def quotaOk (s : State) (ctl : Nat) (q : MemReq) : Bool :=
  let m := getMc s ctl
  let bank := m.pool.filter fun p => bankOf ctl p.off == bankOf ctl q.off
  let mine := bank.filter fun p => p.requester == q.requester
  let chan := m.pool.filter fun p => chanOf ctl p.off == chanOf ctl q.off
  let fills := (m.pool ++ m.issued).filter fun p => p.fill && p.requester == q.requester
  decide (mine.length < requesterQuota ctl q.requester) && decide (bank.length < 128) &&
    decide (chan.length < 256) && decide (slotsInUse s ctl < 4096) && (!q.fill || decide (fills.length < 32))

/-- Some quota of the controller is full: one more request like one that it holds would find no room (R379). -/
def quotaFull (s : State) (ctl : Nat) : Bool :=
  ((getMc s ctl).pool ++ (getMc s ctl).issued).any fun q => !quotaOk s ctl q

/-- Admit a request to the pool, or leave it waiting at its requester (R378).
DESIGN CHOICE: notes/assumptions/48.md.
DEDUCED: notes/assumptions/50.md. -/
def admitReq (ctl : Nat) (s : State) (q : MemReq) : State :=
  if quotaOk s ctl q then modMc ctl (fun m => { m with pool := m.pool ++ [q] }) s
  else modMc ctl (fun m => { m with waiting := m.waiting ++ [q] }) s

/-- Admit the waiting requests that fit, oldest first. -/
def admitWaiting (ctl : Nat) (s : State) : State :=
  (getMc s ctl).waiting.foldl (admitReq ctl) (modMc ctl (fun m => { m with waiting := [] }) s)

/-- The request belongs to an attempt whose step an error would abort: scrubs and lend traffic belong to
none (R370, R372, R392). -/
def ofAttempt (s : State) (ctl r : Nat) : Bool :=
  inAttempt s && !(decide (ctl < 16) && r == 103) && !(decide (16 ≤ ctl) && (r == 4 || r == 5))

/-- MEMORY_REQUEST (R375, R378): a request of 64 B to 1 KiB within one page. -/
def execMemoryRequest (ctl : Nat) (w : ReqWord) (s : State) : Host.Outcome State Fault Refusal :=
  onUnit (decide (ctl < 32) && decide (w.requester < ctlRequesters ctl) && decide (w.off + w.len ≤ stackBytes ctl))
    (if 64 ≤ w.len ∧ w.len ≤ 1024 ∧ w.off % 1024 + w.len ≤ 1024 ∧ (w.fill → w.len = 128 ∧ !w.write) then
      admitReq ctl s ⟨w.requester, w.off, w.len, w.write, w.fill, ofAttempt s ctl w.requester⟩
     else s)

/-- The first n requests of a channel, at most 32 of one bank, and none of a bank under repair (R373,
R375, R377). -/
def windowGo (ctl chan : Nat) (busy : Option Nat) : List MemReq → Nat → List MemReq → List MemReq
  | [], _, acc => acc
  | _ :: _, 0, acc => acc
  | q :: rest, n + 1, acc =>
    let b := bankOf ctl q.off
    if chanOf ctl q.off ≠ chan ∨ busy = some b ∨ 32 ≤ (acc.filter fun p => bankOf ctl p.off == b).length then
      windowGo ctl chan busy rest (n + 1) acc
    else windowGo ctl chan busy rest n (acc ++ [q])

/-- The sorter window of a channel. -/
def window (s : State) (ctl chan : Nat) : List MemReq :=
  let m := getMc s ctl
  windowGo ctl chan (m.repairing.map (bankOf ctl)) m.pool 64 []

/-- The row of a request is open. -/
def rowOpen (m : Mc) (ctl : Nat) (q : MemReq) : Bool :=
  tget 0 m.openRows (bankOf ctl q.off) == rowOf ctl q.off + 1

/-- The request that the sorter chooses (R376). -/
def chooseReq (s : State) (ctl chan : Nat) (aged : Bool) : Option MemReq :=
  let w := window s ctl chan
  if aged then w.head? else (w.find? (rowOpen (getMc s ctl) ctl)).or w.head?

/-- Issue requests to the DRAM: reads wait for their answer; an accepted write is done (R368).
DESIGN CHOICE: notes/assumptions/48.md. -/
def issueReqs (ctl : Nat) (l : List MemReq) (s : State) : State :=
  modMc ctl (fun m => { m with pool := l.foldl (fun p q => p.erase q) m.pool
                               issued := m.issued ++ l.filter fun q => !q.write }) s
    |> admitWaiting ctl |> admitWaiting (ctlTwin ctl)

/-- MC_COMMAND (R376, R377): the sorter issues its choice; opening a row, it issues every request of the
window to that page. -/
def execMcCommand (ctl chan : Nat) (aged : Bool) (s : State) : Host.Outcome State Fault Refusal :=
  onUnit (decide (ctl < 32) && decide (chan < ctlChans ctl))
    (match chooseReq s ctl chan aged with
    | none => s
    | some q =>
      if rowOpen (getMc s ctl) ctl q then issueReqs ctl [q] s
      else
        let b := bankOf ctl q.off
        let page := (window s ctl chan).filter fun p =>
          bankOf ctl p.off == b && rowOf ctl p.off == rowOf ctl q.off
        modMc ctl (fun m => { m with openRows := tset 0 m.openRows b (rowOf ctl q.off + 1) }) s
          |> issueReqs ctl page)

/-- MEMORY_READ_COMPLETE (R370): the oldest read at the DRAM is answered. -/
def execMemoryReadComplete (ctl : Nat) (result : ReadResult) (s : State) : Host.Outcome State Fault Refusal :=
  onUnit (decide (ctl < 32))
    (match (getMc s ctl).issued with
    | [] => s
    | q :: rest =>
      let s := modMc ctl (fun m => { m with issued := rest }) s
      let s := match result with
        | .clean => s
        | .corrected => memCE ctl q.off s
        | .uncorrectable =>
          let s := memUE ctl q.off 2 s
          if q.attempt ∧ workload s ≤ 1 then sendFail cStepAborted (ctlSource ctl) s else s
      admitWaiting ctl s)

/-- Close the row of a bank. -/
def closeRow (ctl chan bank : Nat) (s : State) : State :=
  modMc ctl (fun m => { m with openRows := tset 0 m.openRows (chan * 64 + bank) 0 }) s

/-- The controller has the bank. -/
def bankOk (ctl chan bank : Nat) : Bool :=
  decide (ctl < 32) && decide (chan < ctlChans ctl) && decide (bank < ctlBanks ctl)

/-- ROW_IDLE_CLOSE (R368). -/
def execRowIdleClose (ctl chan bank : Nat) (s : State) : Host.Outcome State Fault Refusal :=
  onUnit (bankOk ctl chan bank) (closeRow ctl chan bank s)

/-- BANK_REFRESH (R368): a refresh closes the bank's row. -/
def execBankRefresh (ctl chan bank : Nat) (s : State) : Host.Outcome State Fault Refusal :=
  onUnit (bankOk ctl chan bank) (closeRow ctl chan bank s)

/-- CHANNEL_CANARY_EXPIRE (R381): the channel is reset and its outstanding requests complete as
uncorrectable; the member sends FAIL with CANARY_TIMEOUT in place of R370's FAIL. -/
def execChannelCanaryExpire (ctl chan : Nat) (s : State) : Host.Outcome State Fault Refusal :=
  onUnit (decide (ctl < 32) && decide (chan < ctlChans ctl))
    (match (getMc s ctl).issued.filter fun q => chanOf ctl q.off == chan with
    | [] => s
    | q :: rest =>
      let s := raise (ctlSource ctl) 0x0401 [(18, 1, chan), (19, 1, (rowPlace ctl q.off).2.1)] s
      let s := modMc ctl (fun m => { m with
        chanReset := true
        issued := m.issued.filter fun p => chanOf ctl p.off != chan
        openRows := tclear m.openRows (chan * 64) (chan * 64 + 64) }) s
      let s := (q :: rest).foldl (fun s p => memUE ctl p.off 3 s |> bump (mcBase ctl + 0x30) 1) s
      (if workload s ≤ 1 then sendFail cCanaryTimeout (ctlSource ctl) s else s) |> admitWaiting ctl)

/-- BANK_QUOTA_EXPIRE (R379): the quota of all requesters of a bank has stayed full. -/
def execBankQuotaExpire (ctl chan bank age : Nat) (s : State) : Host.Outcome State Fault Refusal :=
  let m := getMc s ctl
  let held := m.pool.filter fun q => bankOf ctl q.off == chan * 64 + bank
  onUnit (bankOk ctl chan bank)
    (if held.length < 128 ∨ m.quotaRaised then s
     else raise (ctlSource ctl) 0x0402 [(18, 1, chan), (19, 1, bank), (20, 4, age)]
       (modMc ctl (fun m => { m with quotaRaised := true }) s))

/-- PATROL_SCRUB (R371, R372): the next granule is read. A correction writes back what the granule
holds already; an uncorrectable one aborts no step. -/
def execPatrolScrub (ctl : Nat) (result : ReadResult) (s : State) : Host.Outcome State Fault Refusal :=
  let m := getMc s ctl
  onUnit (decide (ctl < 32))
    (if !m.trained then s
     else
      let s := match result with
        | .clean => s
        | .corrected => memCE ctl m.scrubPos s
        | .uncorrectable => memUE ctl m.scrubPos 2 s
      modMc ctl (fun m => { m with scrubPos := (m.scrubPos + 64) % stackBytes ctl }) s)

/-! ## Row repair -/

/-- REPAIR_START (R374): the oldest queued repair starts when no attempt is in progress, or in
RECOVERY. A row whose bank has no spare left any more is not repaired (R498). -/
def execRepairStart (ctl : Nat) (s : State) : Host.Outcome State Fault Refusal :=
  let m := getMc s ctl
  onUnit (decide (ctl < 32))
    (match m.repairQ with
    | [] => s
    | off :: rest =>
      if m.repairing.isSome ∨ (inAttempt s ∧ !inRecovery s) then s
      else if tget 0 m.used (bankOf ctl off) < bankSpares ctl (bankOf ctl off) then
        modMc ctl (fun m => { m with repairQ := rest, repairing := some off }) s |> closeRow ctl (chanOf ctl off) (rowPlace ctl off).2.1
      else
        let s := modMc ctl (fun m => { m with repairQ := rest }) s
        let s := match frameAt s (ctlTier ctl) (tierOff ctl off) with
          | some f => dropFrame f s
          | none => s
        rowUnrepaired ctl off s)

/-- The granules of a 1 KiB row that read as uncorrectable are written back as they were read (R373). -/
def rowBack (tier off : Nat) (s : State) : State :=
  (rangeFrom (off / 64) 16).foldl (fun s g =>
    if (tier, g) ∈ s.bad then writeTier tier (64 * g) (List.replicate 64 0xFF#8) s else s) s

/-- REPAIR_COMPLETE (R373, R497): the row lies in a spare row; its site starts anew. -/
def execRepairComplete (ctl : Nat) (s : State) : Host.Outcome State Fault Refusal :=
  onUnit (decide (ctl < 32))
    (match (getMc s ctl).repairing with
    | none => s
    | some off =>
      let x := rowSite ctl off
      rowBack (ctlTier ctl) (tierOff ctl off / 1024 * 1024) s
        |> modMc ctl (fun m => { m with repairing := none, used := tmod 0 m.used (bankOf ctl off) (· + 1) })
        |> bump (mcBase ctl + 0x18) 1
        |> modFaults (fun f => { f with lasting := f.lasting.filter (· != x) })
        |> raiseRetired x 0)

/-! ## Arbiters -/

/-- The key of an arbiter. -/
def arbKey (site arb : Nat) : Nat := site * 8192 + arb

/-- Requesters of an arbiter, 0 where the die has no such arbiter (*Arbiter numbers*). -/
def arbReqs (site arb : Nat) : Nat :=
  let die := site % 32
  match site / 32 with
  | 0 =>
    if 8 ≤ die then 0
    else if arb < 0x80 then 132
    else if 0x100 ≤ arb ∧ arb < 0x11C then 132
    else if 0x200 ≤ arb ∧ arb < 0x390 then 5
    else if 0x400 ≤ arb ∧ arb < 0x1D00 then 7 else 0
  | 1 =>
    if 8 ≤ die then 0
    else if arb < 0x20 then 6
    else if 0x100 ≤ arb ∧ arb < 0x11C then 6 else 0
  | 2 =>
    if 4 ≤ die then 0
    else if 0x100 ≤ arb ∧ arb < 0x11C then 6
    else if 0x200 ≤ arb ∧ arb < 0x202 ∧ portOk die (arb - 0x200) then 5 else 0
  | _ => 0

/-- The arbiter is the egress of a fabric port, which follows R333. -/
def isEgress (site arb : Nat) : Bool := site / 32 == 2 && decide (0x200 ≤ arb)

/-- The weight of a requester (R333, R384, R385). -/
def arbWeight (s : State) (site arb r : Nat) : Nat :=
  if isEgress site arb then (if r = 1 ∨ r = 2 then 2 else 1)
  else match s.cfg 6 with
    | none => 1
    | some g =>
      match (rangeFrom 0 (cfgNum s g 0 4)).find? fun i =>
          cfgNum s g (16 + 8 * i) 1 == site && cfgNum s g (17 + 8 * i) 2 == arb && cfgNum s g (19 + 8 * i) 1 == r with
      | some i => cfgNum s g (20 + 8 * i) 1
      | none => 1

/-- The waiting requester with the largest credit, the lowest number on a tie.
DESIGN CHOICE: notes/assumptions/52.md. -/
def bestCredit (credits : Table Int) : List Nat → Option Nat
  | [] => none
  | r :: rest =>
    match bestCredit credits rest with
    | none => some r
    | some b => if tget 0 credits r < tget 0 credits b ∨ (tget 0 credits r = tget 0 credits b ∧ b < r) then some b else some r

/-- One choice among the waiting requesters: the winner and the credits after it (R384).
DESIGN CHOICE: notes/assumptions/52.md. -/
def wrr (w : Nat → Nat) (waiting : List Nat) (credits : Table Int) : Option Nat × Table Int :=
  let up := waiting.foldl (fun c r => tmod 0 c r (· + (w r : Int))) credits
  let total : Int := (waiting.foldl (fun n r => n + w r) 0 : Nat)
  match bestCredit up waiting with
  | none => (none, credits)
  | some r => (some r, tmod 0 up r (· - total))

/-- The choice of an arbiter: BELL first and SACK and CNP next at a port's egress (R333), the weighted
round robin otherwise.
DEDUCED: notes/assumptions/53.md. -/
def arbChoose (s : State) (site arb : Nat) (waiting : List Nat) : Option Nat × Table Int :=
  let credits := (tget {} s.arbs (arbKey site arb)).credits
  if isEgress site arb ∧ 0 ∈ waiting then (some 0, credits)
  else if isEgress site arb ∧ 4 ∈ waiting then (some 4, credits)
  else wrr (arbWeight s site arb) waiting credits

/-- The block of an arbiter's die as an event source (R478). -/
def arbSource (site : Nat) : Nat :=
  match site / 32 with
  | 0 => source 1 (site % 32 * 128)
  | 1 => source 2 (site % 32)
  | _ => source 3 (site % 32)

/-- A saturating tally of w bits: its new value and whether it reached its end now (R386).
DESIGN CHOICE: notes/assumptions/51.md. -/
def tallyAdd (w old n : Nat) (ovf : Bool) : Nat × Bool :=
  let v := min (old + n) (2 ^ w - 1)
  (v, v == 2 ^ w - 1 && !ovf)

/-- A grant counts: one more grant, and the cycles that the winner waited, which no input states (R386).
DESIGN CHOICE: notes/assumptions/51.md. -/
def tally (site arb r : Nat) (s : State) : State :=
  let f := takeFree s
  let s := f.2
  let w := f.1 % 2 ^ 32
  let t := tget {} (tget {} s.arbs (arbKey site arb)).tallies r
  let g := tallyAdd 64 t.grants 1 t.grantsOvf
  let a := tallyAdd 64 t.wait w t.waitOvf
  let l := tallyAdd 32 (max t.longest w) 0 t.longestOvf
  let t' : Tally := ⟨g.1, a.1, l.1, t.grantsOvf || g.2, t.waitOvf || a.2, t.longestOvf || l.2⟩
  let s := { s with arbs := tmod {} s.arbs (arbKey site arb) fun b => { b with tallies := tset {} b.tallies r t' } }
  [g.2, a.2, l.2].foldl (fun s b =>
    if b then raise (arbSource site) 0x0104 [(20, 2, arb), (22, 1, r)] s else s) s

/-- The units that lose a scratchpad bank's port count under BANK (R34). -/
def bankLosers (site arb : Nat) (lost : Nat) (s : State) : State :=
  if site < 8 ∧ 0x400 ≤ arb then bump (cellBase (128 * site + (arb - 0x400) / 64) + 0x108) lost s else s

/-- ARBITER_GRANT (R383, R384): the transfer in progress ends and the choice among the requesters
present, less the isolated ones, is granted next. -/
def execArbiterGrant (site arb : Nat) (present : List Nat) (s : State) : Host.Outcome State Fault Refusal :=
  let b := tget {} s.arbs (arbKey site arb)
  let waiting := (rangeFrom 0 (arbReqs site arb)).filter fun r => decide (r ∈ present) && decide (r ∉ b.isolated)
  onUnit (decide (0 < arbReqs site arb) && present.all fun r => decide (r < arbReqs site arb))
    (let c := arbChoose s site arb waiting
     let s := { s with arbs := tset {} s.arbs (arbKey site arb) { b with holder := c.1, credits := c.2 } }
     match c.1 with
     | some r => tally site arb r s |> bankLosers site arb (waiting.length - 1)
     | none => s)

/-- The cell that a requester is, or is a unit of (*Arbiter numbers*).
DEDUCED: notes/assumptions/53.md. -/
def arbCell (site arb r : Nat) : Option Nat :=
  if 8 ≤ site then none
  else if arb < 0x200 then (if r < 100 then some (site * 128 + r) else none)
  else if arb < 0x400 then (if r = 4 then some (site * 128 + (arb - 0x200) / 4) else none)
  else some (site * 128 + (arb - 0x400) / 64)

/-- GRANT_HELD_CANARY_EXPIRE (R387, R499): the resource is released and its requester isolated. -/
def execGrantHeldCanaryExpire (site arb : Nat) (s : State) : Host.Outcome State Fault Refusal :=
  let b := tget {} s.arbs (arbKey site arb)
  onUnit (decide (0 < arbReqs site arb))
    (match b.holder with
    | none => s
    | some r =>
      let s := { s with
        arbs := tset {} s.arbs (arbKey site arb) { b with holder := none, isolated := insertNew b.isolated r }
        arbWins := tmod {} s.arbWins site fun w => { w with isoValid := true, isoArb := arb, isoReq := r } }
      let s := raise (arbSource site) 0x0401 [(20, 2, arb), (22, 1, r)] s
      let s := if workload s ≤ 1 then sendFail cCanaryTimeout (arbSource site) s else s
      match arbCell site arb r with
      | some k => stopFormation k cCanaryTimeout s |> countUE ⟨3, k / 128, k % 128, 0, 0⟩ 0
      | none => s)

/-- Zero the tallies of a selection (R394). -/
def arbClearAt (site : Nat) (s : State) : State :=
  let w := tget {} s.arbWins site
  { s with arbs := tmod {} s.arbs (arbKey site (fieldOf w.sel 28 16)) fun b =>
      { b with tallies := tset {} b.tallies (w.sel % 256) {} } }

/-! ## The lend region -/

/-- Two ranges meet. -/
def rangesMeet (a n b m : Nat) : Bool := decide (a < b + m) && decide (b < a + n) && decide (0 < n) && decide (0 < m)

/-- A range of the deep tier meets the plan store or a deep region of the active or staged plan (R388).
DEDUCED: notes/assumptions/54.md. -/
def lendConflict (s : State) (base size : Nat) : Bool :=
  let lo := base * 2 ^ 30
  let n := size * 2 ^ 30
  let hits := fun b => (imgRegions s b).any fun r => r.tier == 1 && rangesMeet lo n r.base r.len
  decide (1024 < base + size) || rangesMeet lo n 0xFF00000000 0x100000000 ||
    (s.plan.active && hits s.act) || (s.plan.staged == .staged && hits s.stg)

/-- The new lend range takes effect (R388, R389). -/
def lendCommit (base size : Nat) (s : State) : State :=
  { s with lend := { s.lend with on := decide (0 < size), base := base, size := size, zeroing := false, cmd := none } }

/-- A GiB enters the lend range. -/
def lendEnters (s : State) (base size : Nat) : Bool :=
  (rangeFrom base size).any fun g => !(s.lend.on && decide (s.lend.base ≤ g) && decide (g < s.lend.base + s.lend.size))

/-- LEND_SET, as a command (R388, R389, R448). After a boot failure only FW_STAGE is accepted (R514).
DEDUCED: notes/assumptions/54.md. -/
def cmdLendSet (c : CmdRef) (b n : Nat) (s : State) : State :=
  if s.pwr.state = stFault then complete c cNotReady s
  else if 512 < n then complete c cPlanInvalid s
  else if s.bxl.hdm ∨ s.lend.zeroing then complete c cNotReady s
  else if 0 < n ∧ lendConflict s b n then complete c cLendConflict s
  else if lendEnters s b n then
    { s with lend := { s.lend with zeroing := true, newBase := b, newSize := n, cmd := some c } }
  else lendCommit b n s |> complete c cOk

/-- LEND_SET. -/
def execLendSet (id : BitVec 16) (base size : BitVec 16) (s : State) : Host.Outcome State Fault Refusal :=
  let r := take id.toNat 0x50 s
  .next (cmdLendSet r.1 base.toNat size.toNat r.2)

/-- Write zero to a range of the deep tier. -/
def zeroDeep (lo hi : Nat) (s : State) : State :=
  { s with deep := tclear s.deep lo hi
           bad := s.bad.filter fun b => !(b.1 == 1 && decide (lo ≤ 64 * b.2) && decide (64 * b.2 < hi)) }

/-- LEND_ZEROING_COMPLETE (R389): the entering GiB are zero and the new range takes effect. -/
def execLendZeroingComplete (s : State) : Host.Outcome State Fault Refusal :=
  .next (if !s.lend.zeroing then s
    else
      let l := s.lend
      let inOld := fun g => l.on && decide (l.base ≤ g) && decide (g < l.base + l.size)
      let s := (rangeFrom l.newBase l.newSize).foldl (fun s g =>
        if inOld g then s else zeroDeep (g * 2 ^ 30) ((g + 1) * 2 ^ 30) s) s
      lendCommit l.newBase l.newSize s |> completeOpt l.cmd cOk)

end Sys2Proof.Machine
end

