-- ==== Sys2Proof/Machine/Hash.lean ====
section
/-!
DEFINITION. SHAKE256 with 256 bits of output (FIPS 202), which R109, R111, R134 and the Headframe name.
-/
namespace Sys2Proof.Machine

/-- Lane x + 5 y of a Keccak state. -/
def lane64 (a : List (BitVec 64)) (i : Nat) : BitVec 64 := a.getD i 0

/-- The places that the rho step visits in turn from (1, 0), as x + 5 y (FIPS 202, algorithm 2). -/
def rhoWalk : Nat → Nat → Nat → List Nat
  | 0, _, _ => []
  | n + 1, x, y => (x + 5 * y) :: rhoWalk n y ((2 * x + 3 * y) % 5)

/-- How far the lane at a place turns: the t-th place of the walk turns by the triangular number of t, and
(0, 0), which the walk never visits, does not turn. -/
def rhoTurn (i : Nat) : Nat :=
  if i = 0 then 0 else
    let t := (rhoWalk 24 1 0).findIdx (· == i) + 1
    t * (t + 1) / 2 % 64

/-- One shift of the register that makes the round constants, x^8 + x^6 + x^5 + x^4 + 1 (FIPS 202, algorithm 5). -/
def rcShift (r : Nat) : Nat := (2 * r % 256) ^^^ (if 128 ≤ r then 0x71 else 0)

/-- Seven output bits of the register, the j-th of them in bit 2^j - 1 of a round constant, with the register
after them. -/
def rcBits : Nat → Nat → Nat × Nat
  | 0, r => (0, r)
  | n + 1, r =>
    let rest := rcBits n (rcShift r)
    (r % 2 * 2 ^ (2 ^ (6 - n) - 1) + rest.1, rest.2)

/-- The constants of n rounds from a state of the register. -/
def rcRounds : Nat → Nat → List (BitVec 64)
  | 0, _ => []
  | n + 1, r =>
    let b := rcBits 7 r
    BitVec.ofNat 64 b.1 :: rcRounds n b.2

/-- One round of Keccak-f[1600]. -/
def keccakRound (a : List (BitVec 64)) (rc : BitVec 64) : List (BitVec 64) :=
  let c := (rangeFrom 0 5).map fun x =>
    lane64 a x ^^^ lane64 a (x + 5) ^^^ lane64 a (x + 10) ^^^ lane64 a (x + 15) ^^^ lane64 a (x + 20)
  let d := (rangeFrom 0 5).map fun x => lane64 c ((x + 4) % 5) ^^^ (lane64 c ((x + 1) % 5)).rotateLeft 1
  let t := (rangeFrom 0 25).map fun i => (lane64 a i ^^^ lane64 d (i % 5)).rotateLeft (rhoTurn i)
  -- lane (x, y) of t moves to (y, 2 x + 3 y): the lane at (X, Y) comes from x = X + 3 Y, y = X
  let b := (rangeFrom 0 25).map fun i => lane64 t ((i % 5 + 3 * (i / 5)) % 5 + 5 * (i % 5))
  let e := (rangeFrom 0 25).map fun i =>
    let r := i / 5 * 5
    lane64 b i ^^^ (~~~ lane64 b (r + (i + 1) % 5) &&& lane64 b (r + (i + 2) % 5))
  match e with
  | [] => []
  | x :: rest => (x ^^^ rc) :: rest

/-- Keccak-f[1600]. -/
def keccakF (a : List (BitVec 64)) : List (BitVec 64) := (rcRounds 24 1).foldl keccakRound a

/-- Absorb a block of 136 bytes. -/
def keccakAbsorb (a : List (BitVec 64)) (blk : List Byte) : List (BitVec 64) :=
  keccakF ((rangeFrom 0 25).map fun i =>
    if i < 17 then lane64 a i ^^^ BitVec.ofNat 64 (numAt blk (8 * i) 8) else lane64 a i)

/-- Absorb n blocks. -/
def keccakBlocks : Nat → List Byte → List (BitVec 64) → List (BitVec 64)
  | 0, _, a => a
  | n + 1, l, a => keccakBlocks n (l.drop 136) (keccakAbsorb a (l.take 136))

/-- The padding of a message of SHAKE256: 0x1F, zeros, and 0x80 in the last byte of the block. -/
def shakePad (len : Nat) : List Byte :=
  let n := 136 - len % 136
  if n = 1 then [0x9F#8] else 0x1F#8 :: (List.replicate (n - 2) 0#8 ++ [0x80#8])

/-- SHAKE256 with 32 bytes of output. -/
def shake256 (l : List Byte) : List Byte :=
  let m := l ++ shakePad l.length
  let a := keccakBlocks (m.length / 136) m (List.replicate 25 0#64)
  ((rangeFrom 0 4).flatMap fun i => toBytes 8 (lane64 a i).toNat)

end Sys2Proof.Machine
end

