-- ==== Sys2Proof/Machine/Requests.lean ====
section
/-!
DEFINITION. The stash table (R254 to R258) and the gather table of the active plan, and what a stream waits for
in a semaphore that a stash request or a gather signals (R260, R268).
-/
namespace Sys2Proof.Machine

/-! ## The stash table -/

/-- The stash table of the active plan (R255). -/
def stashTab (s : State) : Option Region := s.cfg 2

/-- A field of the stash table, 0 without one. -/
def stashNum (s : State) (off n : Nat) : Nat := match stashTab s with | some r => cfgNum s r off n | none => 0

/-- A stash entry (R255). -/
structure StashDesc where
  layer : Nat
  cls : Nat
  keep : Bool
  reserved : Bool
  chanMajor : Bool
  src : Nat
  stored : Nat
  rows : Nat
  cols : Nat
  first : Nat
  pages : Nat
  sts : Nat
  deriving DecidableEq, Repr

/-- Entries of the stash table. -/
def stashCount (s : State) : Nat := stashNum s 0 2

/-- Entry i of the stash table. -/
def stashDesc (s : State) (i : Nat) : StashDesc :=
  let f := fun o n => stashNum s (64 + 32 * i + o) n
  ⟨f 0 2, f 2 1, bitAt (f 3 1) 0, bitAt (f 3 1) 1, bitAt (f 3 1) 2, f 4 1, f 5 1, f 8 4, f 12 4, f 16 3, f 20 4, f 24 8⟩

/-- The stash mode in force (R254, R470). -/
def stashMode (s : State) : Nat := fieldOf s.modes.inForce 9 8

/-- The stored form of an entry under the mode in force; none when it is not stored (*Stash modes*). -/
def storedForm (s : State) (e : StashDesc) : Option Nat :=
  if !e.keep ∨ (2 ≤ stashMode s ∧ e.cls ≠ 0) then none
  else some (if stashMode s % 2 = 1 then e.stored else e.src)

/-- The index of an element in the stored order (R242, R258). -/
def stashIdx (e : StashDesc) (t c : Nat) : Nat := if e.chanMajor then c * e.rows + t else t * e.cols + c

/-- Elements of one stored row. -/
def stashRow (e : StashDesc) : Nat := if e.chanMajor then e.rows else e.cols

/-- The byte where the scale area begins: the page boundary after the element area (R258). -/
def scaleStart (s : State) (e : StashDesc) (code : Nat) : Nat :=
  ceilDiv (ceilDiv (e.rows * e.cols * elemBits code) 8) (pageSize s) * pageSize s

/-- The place of the scale byte of the block that holds an element (R71, R258). -/
def scalePlace (s : State) (e : StashDesc) (code t c : Nat) : Nat :=
  scaleStart s e code + stashIdx e t c / blockLen code

/-- A part of an entry: its first token and tokens. -/
structure StashPart where
  t0 : Nat
  n : Nat
  deriving DecidableEq, Repr

/-- The part that a request names; none when it runs past the entry (R259). -/
def stashPart (e : StashDesc) (first count : Nat) : Option StashPart :=
  let groups := e.rows / 128
  let n := if count = 0 then groups - first else count
  if first + n ≤ groups then some ⟨128 * first, 128 * n⟩ else none

/-- The stash ring of a Spire die (R255). -/
def stashRing (s : State) (die : Nat) : Option Nat := (stashTab s).map fun r => cfgNum s r (32 + 4 * die) 4

/-! ## Gathers -/

/-- The gather table (*Weight gathers and version tags*). -/
def gathTab (s : State) : Option Region := s.cfg 3

/-- A field of gather entry e. -/
def gathNum (s : State) (e off n : Nat) : Nat :=
  match gathTab s with | some r => cfgNum s r (32 + 32 * e + off) n | none => 0

/-- Gather entries. -/
def gathCount (s : State) : Nat := match gathTab s with | some r => cfgNum s r 0 4 | none => 0

/-- The request ring of a Gallery die. -/
def gathRing (s : State) (die : Nat) : Option Nat := (gathTab s).map fun r => cfgNum s r (16 + 4 * die) 4

/-- A gather engine. -/
def getGath (s : State) (die : Nat) : GatherEng := tget {} s.gather.engs die

/-! ## What a semaphore stands for -/

/-- The pages of an entry that a part in its stored form touches, elements and scales (R258). -/
def partPages (s : State) (e : StashDesc) (p : StashPart) (code : Nat) : List Nat :=
  let ps := pageSize s
  let span := fun (a b : Nat) => (rangeFrom (a / ps) (ceilDiv b ps - a / ps)).map (e.first + ·)
  let w := elemBits code
  let lo := if e.chanMajor then 0 else p.t0 * e.cols
  let hi := if e.chanMajor then e.rows * e.cols else (p.t0 + p.n) * e.cols
  let scales := if blockLen code = 0 then [] else
    span (scaleStart s e code + lo / blockLen code) (scaleStart s e code + hi / blockLen code)
  span (lo * w / 8) (ceilDiv (hi * w) 8) ++ scales

/-- The cause of a wait for a stash request (R260). -/
def stashCause (s : State) (d : List Byte) : StallCause :=
  let e := stashDesc s (numAt d 4 2)
  if numAt d 0 1 = 2 then .map
  else match stashPart e (numAt d 16 4) (numAt d 20 4) with
  | some p =>
    if (partPages s e p ((storedForm s e).getD e.src)).all fun k => peState (pentry s k) == 1 && peTier (pentry s k) == 1
    then .bank else .deep
  | none => .deep

/-- The requests in a ring and on their way to it. -/
def ringRequests (s : State) (r : Nat) : List (List Byte) :=
  ((rangeFrom 0 (getRing s r).len).map fun i => ringRead s r ((getRing s r).head + i)) ++
    (s.pushes.filter fun p => p.ring == r).map (·.data)

/-- A gather signals the semaphore of a logical cell: its request waits, or its engine serves it (R268). -/
def gathSem (s : State) (cell sem : Nat) : Bool :=
  (rangeFrom 0 4).any fun g =>
    ((gathRing s g).elim false fun r => (ringRequests s r).any fun d => numAt d 2 2 == cell && numAt d 1 1 % 64 == sem) ||
      ((getGath s g).job.any fun j => j.cell == cell && j.sem == sem)

/-- The oldest stash request that signals the semaphore of a logical cell. -/
def stashFor (s : State) (cell sem : Nat) : Option (List Byte) :=
  ((rangeFrom 0 8).filterMap (stashRing s)).findSome? fun r =>
    (ringRequests s r).find? fun d => numAt d 6 2 == cell && numAt d 3 1 % 64 == sem

/-- The cause under which a wait for a semaphore counts: a peer's progress through the circulator or a gather, a
stash request, or else the semaphore (R204, R260, R268). -/
def semCause (s : State) (k sem : Nat) : StallCause :=
  let l := (getCell s k).logical
  if circSem s k sem || gathSem s l sem then .collective
  else match stashFor s l sem with
  | some d => stashCause s d
  | none => .semaphore

end Sys2Proof.Machine
end

