-- ==== Sys2Proof/Machine/Control.lean ====
section
/-!
DEFINITION. The control class CTL and the synchronisation class SYNC (R153, R155 to R158).
-/
namespace Sys2Proof.Machine

/-- NOP takes its issue slot (R153). -/
def execNop (u : StreamAt) (s : State) : Host.Outcome State Fault Refusal := issue u true (stepOn u) s

/-- STOP ends the program (R153). -/
def execStop (u : StreamAt) (s : State) : Host.Outcome State Fault Refusal :=
  issue u true (fun s => stepOn u s |> stopStream false u.cell u.stream.toNat) s

/-- LOOP pushes the loop stack and writes iteration 0 (R153). -/
def execLoop (u : StreamAt) (count : BitVec 24) (idx : BitVec 4) (idxEn : Bool) (s : State) :
    Host.Outcome State Fault Refusal :=
  issue u (count != 0) (fun s =>
    modStream u.cell u.stream.toNat (fun t => { t with loops :=
      ⟨t.ip + 1, count.toNat, 0, if idxEn then some idx.toNat else none⟩ :: t.loops }) s
    |> (fun s => if idxEn then setS u.cell u.stream.toNat idx.toNat 0 s else s) |> stepOn u) s

/-- ENDL starts the next iteration or leaves the loop (R153). -/
def endlEffect (u : StreamAt) (s : State) : State :=
  match (streamOf s u).loops with
  | [] => stepOn u s
  | l :: rest =>
    if l.iter + 1 < l.count then
      let s := modStream u.cell u.stream.toNat (fun t =>
        { t with ip := l.top, wait := none, loops := { l with iter := l.iter + 1 } :: rest }) s
      match l.idx with
      | some r => setS u.cell u.stream.toNat r (l.iter + 1) s
      | none => s
    else stepOn u (modStream u.cell u.stream.toNat (fun t => { t with loops := rest }) s)

/-- ENDL. -/
def execEndl (u : StreamAt) (s : State) : Host.Outcome State Fault Refusal := issue u true (endlEffect u) s

/-- CALL continues at TARGET (R153). -/
def execCall (u : StreamAt) (target : BitVec 32) (s : State) : Host.Outcome State Fault Refusal :=
  issue u true (modStream u.cell u.stream.toNat fun t =>
    { t with ip := target.toNat, wait := none, calls := (t.ip + 1) :: t.calls }) s

/-- RET continues after the CALL (R153). -/
def execRet (u : StreamAt) (s : State) : Host.Outcome State Fault Refusal :=
  issue u true (modStream u.cell u.stream.toNat fun t =>
    match t.calls with
    | [] => { t with ip := t.ip + 1, wait := none }
    | a :: rest => { t with ip := a, wait := none, calls := rest }) s

/-- SLI: the immediate sign-extended, or into the upper half (R153). -/
def sliValue (old : Nat) (high : Bool) (imm : BitVec 32) : Nat :=
  if high then imm.toNat * 2 ^ 32 + old % 2 ^ 32 else (imm.signExtend 64).toNat

/-- SLI. -/
def execSli (u : StreamAt) (d : BitVec 4) (file high : Bool) (imm : BitVec 32) (s : State) :
    Host.Outcome State Fault Refusal :=
  issue u true (fun s => setReg file u.cell u.stream.toNat d.toNat
    (sliValue (getReg file (streamOf s u) d.toNat) high imm) s |> stepOn u) s

/-- SALU: 64-bit arithmetic that wraps (R145, R153). -/
def saluFn (fn : Nat) (x y imm : Word) : Word :=
  match fn with
  | 0 => x + y
  | 1 => x - y
  | 2 => x * y
  | 3 => x &&& y
  | 4 => x ||| y
  | 5 => x ^^^ y
  | 6 => x <<< (y.toNat % 64)
  | 7 => x >>> (y.toNat % 64)
  | 8 => x + imm
  | 9 => x
  | 10 => if x.toNat ≤ y.toNat then x else y
  | _ => if x.toNat ≤ y.toNat then y else x

/-- SALU. -/
def execSalu (u : StreamAt) (w : SaluWord) (s : State) : Host.Outcome State Fault Refusal :=
  issue u (decide (w.fn.toNat ≤ 11) && (w.fn == 8 || w.imm == 0)) (fun s =>
    let t := streamOf s u
    let x := BitVec.ofNat 64 (getReg w.fx t w.x.toNat)
    let y := BitVec.ofNat 64 (getReg w.fy t w.y.toNat)
    setReg w.fd u.cell u.stream.toNat w.d.toNat (saluFn w.fn.toNat x y (w.imm.signExtend 64)).toNat s
      |> stepOn u) s

/-- The place of SLD and SST: the reference's ADDR plus the signed offset, in the scratchpad or the
operand cache; kind 6 when it is not a multiple of 8 (R153, R173). -/
def ldPlace (s : State) (c : Cell) (w : LdWord) (base : Nat) (write : Bool) : Except RtFault (Nat × Nat) := do
  let r ← decodeRef 0 base
  let a : Int := r.a + signedOf 32 w.off.toNat
  let n := a.toNat
  if r.space = 1 then .error ⟨5, 0⟩
  else if a < 0 then .error ⟨1, unsignedOf 64 a⟩
  else if n % 8 ≠ 0 then .error ⟨6, n⟩
  else do
    checkSpace (opMode s c) c r.space n 8 write
    .ok (r.space, n)

/-- SLD (R153). -/
def execSld (u : StreamAt) (w : LdWord) (s : State) : Host.Outcome State Fault Refusal :=
  issue u true (fun s =>
    let c := getCell s u.cell
    match ldPlace s c w (getA (streamOf s u) w.base.toNat) false with
    | .error f => streamFault u.cell u.stream.toNat f s
    | .ok p => setReg w.fd u.cell u.stream.toNat w.d.toNat (ofBytes (spaceRead c p.1 p.2 8)) s |> stepOn u) s

/-- SST (R153). -/
def execSst (u : StreamAt) (w : LdWord) (s : State) : Host.Outcome State Fault Refusal :=
  issue u true (fun s =>
    let c := getCell s u.cell
    let t := streamOf s u
    finishCell u ((ldPlace s c w (getA t w.base.toNat) true).map fun p =>
      spaceWrite p.1 p.2 (toBytes 8 (getReg w.fd t w.d.toNat)) c) s) s

/-- SEMW waits for its amount and subtracts it, or blocks under the cause that the semaphore stands for (R49, R204,
R260, R268). -/
def semwEffect (u : StreamAt) (sem n : Nat) (s : State) : State :=
  let i := u.stream.toNat
  let c := getCell s u.cell
  if n ≤ tget 0 c.sems sem then
    modCell u.cell (fun c => { c with sems := tset 0 c.sems sem (tget 0 c.sems sem - n) }) s |> stepOn u
  else modCell u.cell (fun c => { c with semQ := c.semQ ++ [i] }) s
    |> modStream u.cell i (fun t => { t with wait := some (.sem sem n), cause := semCause s u.cell sem })

/-- SEMW. -/
def execSemw (u : StreamAt) (sem : BitVec 6) (n : BitVec 16) (s : State) : Host.Outcome State Fault Refusal :=
  issue u (n != 0) (semwEffect u sem.toNat n.toNat) s

/-- SEMS: the signal leaves; 0x3FF names the stream's own cell (R155).
DESIGN CHOICE: notes/assumptions/24.md. -/
def semsEffect (u : StreamAt) (sem cell n : Nat) (s : State) : State :=
  if cell = 0x3FF then signalSem u.cell sem n s |> stepOn u
  else match physOf s cell with
    | some k => signalSem k sem n s |> stepOn u
    | none => streamFault u.cell u.stream.toNat ⟨1, mkGaddr s.me 2 (cell * 2 ^ 21)⟩ s

/-- CELL of SEMS: a logical cell, or 0x3FF for the stream's own (R155). -/
def semsCellOk (cell : Nat) : Bool := decide (cell < 768) || cell == 0x3FF

/-- SEMS. -/
def execSems (u : StreamAt) (sem : BitVec 6) (cell : BitVec 10) (n : BitVec 16) (s : State) :
    Host.Outcome State Fault Refusal :=
  issue u (n != 0 && semsCellOk cell.toNat) (semsEffect u sem.toNat cell.toNat n.toNat) s

/-- The oldest signal on its way to a semaphore arrives (R49, R54).
DESIGN CHOICE: notes/assumptions/24.md. -/
def semArrive (cell sem : Nat) (s : State) : State :=
  match s.sigs.find? fun g => g.cell == cell && g.sem == sem with
  | none => s
  | some g => semAdd cell sem g.amt { s with sigs := s.sigs.erase g }

/-- SEM_SIGNAL_ARRIVE. -/
def execSemSignalArrive (cell sem : Nat) (s : State) : Host.Outcome State Fault Refusal :=
  onUnit (cellOk cell && decide (sem < 64)) (semArrive cell sem s)

/-- The place of a ring entry in a cell: kind 6 when it is not aligned to its size (R156, R173). -/
def entryPlace (s : State) (c : Cell) (w size : Nat) (write : Bool) : Except RtFault Nat := do
  let r ← decodeRef 0 w
  if r.a % size ≠ 0 then .error ⟨6, r.a⟩
  else do
    checkSpace (opMode s c) c r.space r.a size write
    .ok r.a

/-- RPUSH: one entry into the ring, blocking while it is full (R51, R156); a ring in a held scratchpad is a fault
of kind 3 (R57). -/
def rpushEffect (u : StreamAt) (src ring : Nat) (s : State) : State :=
  let i := u.stream.toNat
  let c := getCell s u.cell
  let g := getRing s ring
  let w := getA (streamOf s u) src
  match entryPlace s c w g.entry false with
  | .error f => streamFault u.cell i f s
  | .ok a => match ringHeld s ring with
    | some a => streamFault u.cell i ⟨3, a⟩ s
    | none =>
      if g.full then
        modRing ring (fun g => { g with pushQ := queueIn s (u.cell, i) g.pushQ }) s
          |> modStream u.cell i (fun t => { t with wait := some (.push ring src), cause := .ring })
      else pushEntry ring u.cell i (spaceRead c (refSpace w) a g.entry) s |> stepOn u |> ringServe ring |> mapAfterPush ring

/-- RPUSH. -/
def execRpush (u : StreamAt) (src : BitVec 4) (ring : BitVec 18) (s : State) : Host.Outcome State Fault Refusal :=
  issue u (getRing s ring.toNat).alloc (rpushEffect u src.toNat ring.toNat) s

/-- RPOP: the oldest entry of the ring, blocking while it is empty (R51, R156); a wait for a
landing token counts under COLLECTIVE (R345). -/
def rpopEffect (u : StreamAt) (dst ring : Nat) (s : State) : State :=
  let i := u.stream.toNat
  let c := getCell s u.cell
  let g := getRing s ring
  let w := getA (streamOf s u) dst
  match entryPlace s c w g.entry true with
  | .error f => streamFault u.cell i f s
  | .ok a => match ringHeld s ring with
    | some a => streamFault u.cell i ⟨3, a⟩ s
    | none =>
      if g.len = 0 then
        modRing ring (fun g => { g with popQ := queueIn s (u.cell, i) g.popQ }) s
          |> modStream u.cell i (fun t =>
              { t with wait := some (.pop ring dst), cause := if isLandRing s ring then .collective else .ring })
      else
        let x := ringTake ring s
        modCell u.cell (spaceWrite (refSpace w) a x.1) x.2 |> stepOn u |> ringServe ring |> mapAfterPop ring

/-- RPOP. -/
def execRpop (u : StreamAt) (dst : BitVec 4) (ring : BitVec 18) (s : State) : Host.Outcome State Fault Refusal :=
  issue u (getRing s ring.toNat).alloc (rpopEffect u dst.toNat ring.toNat) s

/-- The oldest push on its way to a ring arrives (R54, R156); at a held scratchpad it is a fault of the stream that
pushed it (R57).
DESIGN CHOICE: notes/assumptions/29.md. -/
def ringArrive (ring : Nat) (s : State) : State :=
  match s.pushes.find? fun p => p.ring == ring with
  | none => s
  | some p =>
    let s := { s with pushes := s.pushes.erase p } |> modRing ring (fun g => { g with flying := g.flying - 1 })
    match ringHeld s ring with
    | some a => streamFault p.cell p.stream ⟨3, a⟩ s
    | none => ringLand ring p.data s |> ringServe ring |> mapAfterPush ring

/-- RING_PUSH_ARRIVE. -/
def execRingPushArrive (ring : Nat) (s : State) : Host.Outcome State Fault Refusal :=
  onUnit (decide (ring < 262144)) (ringArrive ring s)

/-- NCINV empties the cell's near cache (R157). -/
def execNcinv (u : StreamAt) (s : State) : Host.Outcome State Fault Refusal :=
  issue u true (fun s => modCell u.cell (fun c => { c with near := [] }) s |> stepOn u) s

end Sys2Proof.Machine
end

