-- ==== Sys2Proof/Machine/StreamWord.lean ====
section
/-!
DEFINITION. Stream instruction words (R149 to R170): the decoder of a 64-bit word into the instruction that
a stream issues, and what the load checks of R118, R154 and R156 ask of it.
-/
namespace Sys2Proof.Machine

/-- Bits from lo on, as a field of n bits. -/
def wf {n : Nat} (w lo : Nat) : BitVec n := BitVec.ofNat n (w >>> lo)

/-- Bits [hi:lo] are zero. -/
def wz (w hi lo : Nat) : Bool := fieldOf w hi lo == 0

/-- The instruction when the reserved bits are zero. -/
def ifZero (ok : Bool) (i : Instr) : Option Instr := if ok then some i else none

/-- CTL (*CTL encodings*). -/
def decCtl (u : StreamAt) (w op : Nat) : Option Instr :=
  match op with
  | 0 => ifZero (wz w 50 0) (.nop u)
  | 1 => ifZero (wz w 50 0) (.stop u)
  | 2 => ifZero (wz w 45 24 && !wz w 23 0) (.loop u (wf w 0) (wf w 47) (bitAt w 46))
  | 3 => ifZero (wz w 50 0) (.endl u)
  | 4 => ifZero (wz w 50 32) (.call u (wf w 0))
  | 5 => ifZero (wz w 50 0) (.ret u)
  | 6 => ifZero (wz w 44 32) (.sli u (wf w 47) (bitAt w 46) (bitAt w 45) (wf w 0))
  | 7 => ifZero (decide (fieldOf w 35 32 ≤ 11) && (fieldOf w 35 32 == 8 || wz w 31 0))
      (.salu u ⟨wf w 47, bitAt w 46, wf w 42, wf w 38, bitAt w 37, bitAt w 36, wf w 32, wf w 0⟩)
  | 8 => ifZero (wz w 41 32) (.sld u ⟨wf w 47, bitAt w 46, wf w 42, wf w 0⟩)
  | 9 => ifZero (wz w 41 32) (.sst u ⟨wf w 47, bitAt w 46, wf w 42, wf w 0⟩)
  | _ => none

/-- SYNC (*SYNC encodings*). -/
def decSync (u : StreamAt) (w op : Nat) : Option Instr :=
  match op with
  | 0 => ifZero (wz w 28 0 && !wz w 44 29) (.semw u (wf w 45) (wf w 29))
  | 1 => ifZero (wz w 18 0 && !wz w 34 19 && semsCellOk (fieldOf w 44 35)) (.sems u (wf w 45) (wf w 35) (wf w 19))
  | 2 => ifZero (wz w 28 0) (.rpush u (wf w 47) (wf w 29))
  | 3 => ifZero (wz w 28 0) (.rpop u (wf w 47) (wf w 29))
  | 4 => ifZero (wz w 50 0) (.ncinv u)
  | 5 => ifZero (wz w 50 39 && wz w 28 0) (.tagw u (wf w 30) (bitAt w 29))
  | _ => none

/-- MOVE (*MOVE encodings*): an odd SHAPE is refused (R160). -/
def decMove (u : StreamAt) (p : Pred) (w op : Nat) : Option Instr :=
  let m : MoveWord := ⟨wf w 47, wf w 43, wf w 39, wf w 30, bitAt w 29, wf w 23, wf w 19, wf w 15⟩
  if !wz w 14 0 ∨ bitAt w 39 ∨ (op ≠ 1 ∧ !wz w 18 15) then none
  else match op with
  | 0 => some (.move u p m)
  | 1 => some (.move2 u p m)
  | 4 => some (.movel u p m)
  | _ => none

/-- MMA and DRAIN (*MMA encodings*, *DRAIN encoding*). -/
def decMma (u : StreamAt) (p : Pred) (w op : Nat) : Option Instr :=
  let m : MmaWord := ⟨wf w 47, wf w 43, bitAt w 42, bitAt w 41, bitAt w 40, wf w 36, wf w 32, wf w 24, wf w 16, wf w 0⟩
  let d : DrainWord := ⟨wf w 47, wf w 43, bitAt w 42, wf w 35, wf w 31, bitAt w 30, wf w 24, wf w 20, bitAt w 19,
    wf w 15, bitAt w 14, wf w 10, bitAt w 9, bitAt w 8, wf w 4, bitAt w 3⟩
  let z := wz w 31 31 && wz w 23 23
  match op with
  | 0 => ifZero (z && mmaOk false false m) (.mma u p m)
  | 1 => ifZero (z && mmaOk true false m) (.mmaTa u p m)
  | 2 => ifZero (z && mmaOk false true m) (.mmaTb u p m)
  | 8 => ifZero (wz w 41 39 && wz w 2 0 && drainOk d) (.drain u p d)
  | _ => none

/-- VOP (*VOP encodings*). -/
def decVop (u : StreamAt) (p : Pred) (w op : Nat) : Option Instr :=
  let ety := fieldOf w 21 20
  let fn := fieldOf w 19 14
  let m : VmemWord := { v := wf w 46, ref := wf w 42, orient := bitAt w 41, idx := wf w 37, idxEn := bitAt w 36
                        row := wf w 29, col := wf w 22, ety := wf w 20, fmt := wf w 16 }
  let mem := !(bitAt w 41 && is16 ety) && fieldOf w 19 16 != 0xF
  match op with
  | 0 => ifZero (wz w 15 0 && mem) (.vld u p m)
  | 1 => ifZero (wz w 9 0 && mem) (.vst u p { m with sts := wf w 12, stsEn := bitAt w 11, satf := bitAt w 10 })
  | 2 => ifZero (wz w 35 22 && wz w 13 0 && decide (fn ≤ 9)) (.vbin u p (wf w 46) (wf w 41) (wf w 36) (wf w 20) (wf w 14))
  | 3 => ifZero (wz w 30 22 && wz w 19 0) (.vfma u p (wf w 46) (wf w 41) (wf w 36) (wf w 31) (wf w 20))
  | 4 => ifZero (wz w 50 46 && wz w 35 31 && wz w 27 23 && wz w 13 0 && decide (fn ≤ 6) && (!bitAt w 22 || is16 ety))
      (.vcmp u p (wf w 41) (wf w 36) (wf w 28) (bitAt w 22) (wf w 20) (wf w 14))
  | 5 => ifZero (wz w 35 28 && wz w 24 0) (.vsel u p (wf w 46) (wf w 41) (wf w 36) (wf w 25))
  | 6 => ifZero (wz w 40 22 && wz w 16 0 && (!bitAt w 17 || is16 ety != is16 (fieldOf w 19 18)))
      (.vcvt u p (wf w 46) (wf w 41) (wf w 20) (wf w 18) (bitAt w 17))
  | 7 => ifZero (wz w 45 22 && wz w 19 14 && wz w 9 0) (.vbcast u p (wf w 46) (wf w 10) (wf w 20))
  | 8 => ifZero (wz w 50 31 && wz w 21 20 && wz w 9 0 && decide (fn ≤ 9))
      (.vmsk u p (wf w 28) (wf w 25) (wf w 22) (wf w 14) (wf w 10))
  | 9 => ifZero (wz w 40 22 && wz w 13 0 && decide (fn ≤ 4) && !(ety == 3 && (fn == 2 || fn == 3)))
      (.vun u p (wf w 46) (wf w 41) (wf w 20) (wf w 14))
  | 10 => ifZero (wz w 50 46 && wz w 40 14 && wz w 3 0) (.vxs u p (wf w 41) (wf w 10) (wf w 4))
  | _ => none

/-- SOP (*SOP encoding*, *SOP operations*, R167). -/
def decSop (u : StreamAt) (p : Pred) (w op : Nat) : Option Instr :=
  let m : SopWord := ⟨wf w 47, wf w 43, wf w 39, wf w 35, wf w 31, bitAt w 30, wf w 26, wf w 22, wf w 16, wf w 12,
    bitAt w 11, wf w 7, bitAt w 6, bitAt w 5, bitAt w 4⟩
  let fn := fieldOf w 21 16
  if !wz w 3 0 ∨ fieldOf w 29 26 = 0xF ∨ fieldOf w 25 22 = 0xF ∨ !sopMaskOk m then none
  else match op with
  | 0 => ifZero (decide (fn ≤ 8) && sopRowOk m) (.sopElem u p m)
  | 1 => ifZero (decide (fn ≤ 3)) (.sopRed u p m)
  | 2 => ifZero (decide (fn ≤ 2)) (.sopScan u p m)
  | 3 => ifZero (decide (fn ≤ 2)) (.sopSegscan u p m)
  | 4 => ifZero (fn == 0) (.sopTopk u p m)
  | 5 => ifZero (decide (fn ≤ 1) && (fn == 1) == (blockLen (fieldOf w 25 22) != 0)) (.sopCvt u p m)
  | 6 => ifZero (fn == 0 && fieldOf w 38 35 != 15) (.sopFill u p m)
  | _ => none

/-- TAB (*TAB encoding*). -/
def decTab (u : StreamAt) (p : Pred) (w op : Nat) : Option Instr :=
  let m : TabWord := ⟨wf w 47, wf w 43, wf w 38, wf w 34, wf w 30, wf w 26, wf w 22, bitAt w 21, bitAt w 20, wf w 16,
    wf w 14, wf w 10, bitAt w 9, wf w 6, wf w 2, bitAt w 1⟩
  ifZero (op == 0 && wz w 0 0 && fieldOf w 15 14 != 3 && fieldOf w 33 30 != 0xF && decide (fieldOf w 29 26 ≤ 4))
    (.tab u p m)

/-- PMW (*PMW encodings*). -/
def decPmw (u : StreamAt) (p : Pred) (w op : Nat) : Option Instr :=
  match op with
  | 0 => ifZero (wz w 18 0 && fieldOf w 50 47 != 15) (.walk u p ⟨wf w 47, wf w 43, wf w 39, wf w 30, bitAt w 29, wf w 23, wf w 19⟩)
  | 1 => ifZero (wz w 38 0 && !bitAt w 39) (.pmapSet u p (wf w 47) (wf w 43) (wf w 39))
  | 2 => ifZero (wz w 42 0) (.pmapCow u p (wf w 47) (wf w 43))
  | 3 => ifZero (wz w 42 0) (.pmapFree u p (wf w 47) (wf w 43))
  | 4 => ifZero (wz w 50 0 && !p.men) (.pmapFence u)
  | _ => none

/-- BELL (*BELL encoding*). -/
def decBell (u : StreamAt) (w op : Nat) : Option Instr :=
  ifZero (op == 0 && wz w 6 0 && decide (fieldOf w 42 39 ≤ 8)) (.bell u (wf w 47) (wf w 43) (wf w 39) (wf w 7))

/-- The instruction that a word encodes; none for a word that fails to decode (R149, R152). -/
def decodeStreamWord (u : StreamAt) (w : Nat) : Option Instr :=
  let p : Pred := ⟨bitAt w 55, wf w 52, bitAt w 51⟩
  let cls := fieldOf w 63 60
  let op := fieldOf w 59 56
  if !p.men ∧ !wz w 54 51 then none
  else if p.men ∧ (cls ≤ 1 ∨ cls = 8) then none
  else match cls with
  | 0 => decCtl u w op
  | 1 => decSync u w op
  | 2 => decMove u p w op
  | 3 => decMma u p w op
  | 4 => decVop u p w op
  | 5 => decSop u p w op
  | 6 => decTab u p w op
  | 7 => decPmw u p w op
  | 8 => decBell u w op
  | _ => none

/-- The predicate of an instruction, when it has one. -/
def instrPred : Instr → Option Pred
  | .move _ p _ | .move2 _ p _ | .movel _ p _ | .mma _ p _ | .mmaTa _ p _ | .mmaTb _ p _ | .drain _ p _ => some p
  | .vld _ p _ | .vst _ p _ | .vbin _ p _ _ _ _ _ | .vfma _ p _ _ _ _ _ | .vcmp _ p _ _ _ _ _ _ => some p
  | .vsel _ p _ _ _ _ | .vcvt _ p _ _ _ _ _ | .vbcast _ p _ _ _ | .vmsk _ p _ _ _ _ _ => some p
  | .vun _ p _ _ _ _ | .vxs _ p _ _ _ => some p
  | .sopElem _ p _ | .sopRed _ p _ | .sopScan _ p _ | .sopSegscan _ p _ | .sopTopk _ p _ | .sopCvt _ p _ => some p
  | .sopFill _ p _ | .tab _ p _ | .walk _ p _ | .pmapSet _ p _ _ _ | .pmapCow _ p _ _ | .pmapFree _ p _ _ => some p
  | _ => none

/-- The vector registers that an instruction names (R118): COPY has one operand and IOTA none (R165).
DEDUCED: notes/assumptions/84.md. -/
def vectorRegs : Instr → List Nat
  | .vld _ _ w | .vst _ _ w => [w.v.toNat]
  | .vbin _ _ d a b _ fn => if fn = 9 then [d.toNat, a.toNat] else [d.toNat, a.toNat, b.toNat]
  | .vsel _ _ d a b _ => [d.toNat, a.toNat, b.toNat]
  | .vfma _ _ d a b c _ => [d.toNat, a.toNat, b.toNat, c.toNat]
  | .vcmp _ _ a b _ _ _ _ => [a.toNat, b.toNat]
  | .vcvt _ _ d a _ _ _ => [d.toNat, a.toNat]
  | .vun _ _ d a _ fn => if fn = 4 then [d.toNat] else [d.toNat, a.toNat]
  | .vbcast _ _ d _ _ => [d.toNat]
  | .vxs _ _ a _ _ => [a.toNat]
  | _ => []

/-- The mask registers that an instruction names (R118). -/
def maskRegs (i : Instr) : List Nat :=
  let own : List Nat := match i with
    | .vcmp _ _ _ _ md _ _ _ => [md.toNat]
    | .vsel _ _ _ _ _ ma => [ma.toNat]
    | .vmsk _ _ md ma mb fn _ => match fn.toNat with
      | 4 => [md.toNat, ma.toNat]
      | 5 | 6 | 8 | 9 => [md.toNat]
      | 7 => [ma.toNat]
      | _ => [md.toNat, ma.toNat, mb.toNat]
    | _ => []
  match instrPred i with
  | some p => if p.men then p.mreg.toNat :: own else own
  | none => own

/-- The transfer tag that an instruction names (R160). -/
def instrTag : Instr → Option Nat
  | .move _ _ w | .move2 _ _ w | .movel _ _ w => some w.tag.toNat
  | .walk _ _ w => some w.tag.toNat
  | .tagw _ t all => if all then none else some t.toNat
  | _ => none

/-! ## The control structure (R154) -/

/-- What an instruction does to the path of a stream. -/
inductive Ctl where
  | plain | stop | loop | endl | ret
  | call (target : Nat)
  deriving DecidableEq, Repr

/-- What an instruction does to the path of a stream. -/
def ctlOf : Instr → Ctl
  | .stop _ => .stop
  | .loop _ _ _ _ => .loop
  | .endl _ => .endl
  | .ret _ => .ret
  | .call _ t => .call t.toNat
  | _ => .plain

/-- LOOP and ENDL pair in the text. -/
def loopsPair : List Ctl → Nat → Bool
  | [], d => d == 0
  | .loop :: rest, d => loopsPair rest (d + 1)
  | .endl :: rest, d => d != 0 && loopsPair rest (d - 1)
  | _ :: rest, d => loopsPair rest d

/-- Follow a routine from a place: at most 8 loops nested, every call good, and an end in RET at its own
depth for a subroutine, in STOP for a program. The number bounds the words. -/
def routineOk (call : Nat → Nat → Bool) (code : List Ctl) (sub : Bool) (base : Nat) : Nat → Nat → Nat → Bool
  | 0, _, _ => false
  | n + 1, pos, depth =>
    match code[pos]? with
    | none => false
    | some .stop => !sub
    | some .ret => sub && depth == base
    | some .loop => decide (depth < 8) && routineOk call code sub base n (pos + 1) (depth + 1)
    | some .endl => decide (base < depth) && routineOk call code sub base n (pos + 1) (depth - 1)
    | some (.call t) => call t depth && routineOk call code sub base n (pos + 1) depth
    | some .plain => routineOk call code sub base n (pos + 1) depth

/-- A subroutine called with so many call levels left. A cycle of the call graph uses up every level. -/
def subroutineOk (code : List Ctl) : Nat → Nat → Nat → Bool
  | 0 => fun _ _ => false
  | n + 1 => fun t depth => routineOk (subroutineOk code n) code true depth (code.length + 1) t depth

/-- The control structure of a stream that starts at a word (R154). -/
def pathOk (code : List Ctl) (entry : Nat) : Bool :=
  loopsPair code 0 && routineOk (subroutineOk code 8) code false 0 (code.length + 1) entry 0

end Sys2Proof.Machine
end

