-- ==== Sys2Proof/Machine/PlanCheck.lean ====
section
/-!
DEFINITION. The checks that a plan image passes at staging (R106 to R134): header and digests, signature,
clock, lend range and the contents of every section, and the trial cell mapping (R59, R60). A check
answers the first fault that it finds, as a section type and the offset within it (R136).
-/
namespace Sys2Proof.Machine

/-- Where an image breaks a rule: section type, 0 for the header and the table, and byte offset. -/
structure Flaw where
  sec : Nat
  off : Nat
  deriving DecidableEq, Repr

/-- No flaw when the condition holds. -/
def need (ok : Bool) (sec off : Nat) : Option Flaw := if ok then none else some ⟨sec, off⟩

/-- The first flaw of a list of checks. -/
def firstFlaw (l : List (Option Flaw)) : Option Flaw := l.findSome? id

/-- Check every member of a list, in order. -/
def eachOf {α : Type} (l : List α) (f : α → Option Flaw) : Option Flaw := l.findSome? f

/-- A second check, when the first finds nothing. -/
def andThen (a : Option Flaw) (b : Unit → Option Flaw) : Option Flaw :=
  match a with
  | some x => some x
  | none => b ()

/-! ## Header, table, signature -/

/-- The header (R107, R108); len is the length that PLAN_STAGE gave. -/
def headerFlaw (s : State) (b len : Nat) : Option Flaw :=
  let f := imgNum s b
  let size := f 28 2
  firstFlaw [need (f 0 4 == 0x434C5453) 0 0, need (f 4 2 == 1) 0 4, need (f 6 2 == 0) 0 6,
    need (decide (f 8 8 ≤ 0x80000000) && f 8 8 == len) 0 8, need (f 16 2 == 256) 0 16,
    need (f 18 2 == 9 + f 20 4 % 2) 0 18, need (decide (f 20 4 < 8)) 0 20,
    need (f 24 2 == 1600 || f 24 2 == 1500 || f 24 2 == 1400) 0 24,
    need (size == 1 || (size % 4 == 0 && size != 0 && decide (size ≤ 16384))) 0 28,
    need (decide (f 26 2 < size)) 0 26, need (f 30 2 == 0) 0 30, need (f 88 168 == 0) 0 88]

/-- The section table and the digests (R106, R109, R110). -/
def tableFlaw (s : State) (b : Nat) : Option Flaw :=
  let n := imgNum s b 18 2
  eachOf (rangeFrom 0 n) fun i =>
    let e := 256 + 64 * i
    let f := fun o k => imgNum s b (e + o) k
    let prev := if i = 0 then 256 + 64 * n else imgNum s b (e - 64 + 8) 8 + imgNum s b (e - 64 + 16) 8
    firstFlaw [need (f 0 2 == i + 1) 0 e, need (f 2 6 == 0) 0 (e + 2),
      need (f 8 8 % 4096 == 0 && decide (prev ≤ f 8 8)) 0 (e + 8),
      need (decide (f 8 8 + f 16 8 ≤ imgNum s b 8 8)) 0 (e + 16), need (f 56 8 == 0) 0 (e + 56)] |> fun a =>
    andThen a fun _ => need (shake256 (mread s.deep (b + f 8 8) (f 16 8)) == mread s.deep (b + e + 24) 32) 0 (e + 24)

/-- The plan measurement (R111). -/
def planMeas (s : State) (b : Nat) : List Byte := shake256 (mread s.deep b (256 + 64 * 9))

/-- A parameter set of the registry of XMSS and XMSS^MT (RFC 8391, NIST SP 800-208): bytes of a digest, height,
layers (0 for XMSS), and whether it hashes with SHAKE. -/
structure XmssSet where
  n : Nat
  h : Nat
  d : Nat
  shake : Bool
  deriving DecidableEq, Repr

/-- The sets that a type code names: seven families of digest, each with three XMSS heights and eight XMSS^MT
shapes, in the registry's order.
PRESUMED: notes/assumptions/162.md. -/
def xmssSets (code : Nat) : List XmssSet :=
  let digest := [32, 64, 32, 64, 24, 32, 24]
  let shake := [false, false, true, true, false, true, true]
  let shape := [(20, 2), (20, 4), (40, 2), (40, 4), (40, 8), (60, 3), (60, 6), (60, 12)]
  let i := code - 1
  (if code = 0 ∨ 21 < code then [] else [⟨digest.getD (i / 3) 32, [10, 16, 20].getD (i % 3) 10, 0, shake.getD (i / 3) false⟩]) ++
    if code = 0 ∨ 56 < code then [] else
      let p := shape.getD (i % 8) (20, 2)
      [⟨digest.getD (i / 8) 32, p.1, p.2, shake.getD (i / 8) false⟩]

/-- Bytes of a public key: the root and the seed (R134, R517). -/
def XmssSet.keyLen (x : XmssSet) : Nat := 2 * x.n

/-- Bytes of a signature: index, randomiser, one-time signatures and authentication paths (RFC 8391).
PRESUMED: notes/assumptions/162.md. -/
def XmssSet.sigLen (x : XmssSet) : Nat :=
  let len := if x.n = 24 then 51 else if x.n = 32 then 67 else 131
  if x.d = 0 then 4 + x.n + (len + x.h) * x.n else ceilDiv x.h 8 + x.n + (x.h + x.d * len) * x.n

/-- The form of SIGNATURE, and with an enrolled key SIGNATURE itself (R134, R524, R525). -/
def signatureFlaw (s : State) (b : Nat) : Option Flaw :=
  let signed := bitAt (imgFlags s b) 0
  if !signed then need (!s.hf.enrolled) 0 20
  else
    let code := secNum s b 10 0 4
    let klen := secNum s b 10 4 4
    let sets := (xmssSets code).filter fun x => !s.hf.enrolled || (x.n == 32 && x.shake)
    let keyed := sets.filter fun x => x.keyLen == klen
    let base := b + secOff s b 10
    let key := mread s.deep (base + 8) klen
    let sig := mread s.deep (base + 8 + klen) (secLen s b 10 - 8 - klen)
    firstFlaw [need (!sets.isEmpty) 10 0, need (!keyed.isEmpty) 10 4,
      need (keyed.any fun x => secLen s b 10 == 8 + klen + x.sigLen) 10 (8 + klen),
      need (!s.hf.enrolled || shake256 (toBytes 4 code ++ key) == sliceBytes s.hf.planKey 0 32) 10 8,
      need (!s.hf.enrolled || Config.xmssVerify code key (planMeas s b) sig) 10 (8 + klen)]

/-! ## Cells -/

/-- Physical numbers of the cells of a die that serve its logical indices by default (R58). -/
def defaultCells : List Nat := (rangeFrom 0 100).filter fun c => decide (c ∉ [0, 9, 90, 99])

/-- The mesh distance of two cells of a die (R59). -/
def meshDist (a b : Nat) : Nat :=
  let d := fun (x y : Nat) => if x ≤ y then y - x else x - y
  d (a / 10) (b / 10) + d (a % 10) (b % 10)

/-- A physical cell is retired at the next load: it has a lasting fault (R59). -/
def cellRetired (s : State) (k : Nat) : Bool := decide (k ∈ s.faults.retiredCells) || decide (k ∈ s.faults.pendingCells)

/-- The nearest of a list of spares, the lower number on a tie (R59). -/
def nearestSpare (c : Nat) (l : List Nat) : Option Nat :=
  l.foldl (fun best x => match best with
    | none => some x
    | some y => if meshDist c x < meshDist c y then some x else best) none

/-- Retired cells of a die take spares in ascending order (R59): the pairs found. -/
def takeSpares : List Nat → List Nat → List (Nat × Nat)
  | [], _ => []
  | c :: rest, spares =>
    match nearestSpare c spares with
    | none => []
    | some x => (c, x) :: takeSpares rest (spares.filter (· != x))

/-- The logical cells of a die and their physical cells (R58 to R60). -/
def mapDie (s : State) (d : Nat) : List (Nat × Nat) :=
  let gone := defaultCells.filter fun c => cellRetired s (128 * d + c)
  let spares := [0, 9, 90, 99].filter fun c => !cellRetired s (128 * d + c)
  let moved := takeSpares gone spares
  (defaultCells.mapIdx fun k c => (96 * d + k, c)).filterMap fun x =>
    if cellRetired s (128 * d + x.2) then (moved.find? fun m => m.1 == x.2).map fun m => (x.1, 128 * d + m.2)
    else some (x.1, 128 * d + x.2)

/-- The mapping of logical onto physical cells under present health. -/
def mapCells (s : State) : List (Nat × Nat) := (rangeFrom 0 8).flatMap (mapDie s)

/-- CELLMAP (R112) and the trial mapping. -/
def cellmapFlaw (s : State) (b : Nat) : Option Flaw :=
  let map := (mapCells s).map (·.1)
  andThen (need (secLen s b 1 == 6144) 1 0) fun _ =>
  eachOf (rangeFrom 0 768) fun l =>
    let f := fun o n => secNum s b 1 (8 * l + o) n
    let used := f 0 2 != 0xFFFF
    firstFlaw [need (f 2 1 == bit01 used) 1 (8 * l + 2),
      need (decide (f 3 1 ≤ 64) && (used || f 3 1 == 0)) 1 (8 * l + 3), need (f 4 4 == 0) 1 (8 * l + 4),
      need (!used || decide (l ∈ map)) 1 (8 * l)]

/-! ## Routes -/

/-- A site code of the module. -/
def siteOk (x : Nat) : Bool := decide (x < 8) || (decide (32 ≤ x) && decide (x < 40)) || (decide (64 ≤ x) && decide (x < 68))

/-- A package link runs at half width from the next load, and a plan that needs its full width is refused (R13, R14). -/
def linkHalf (s : State) (n : Nat) : Bool :=
  tget 0 s.faults.widths n != 0 || s.faults.lasting.any fun x => x.kind == 4 && x.b20 == n

/-- ROUTES (R113, R114). -/
def routesFlaw (s : State) (b : Nat) : Option Flaw :=
  let full := secNum s b 2 0 4
  let n := secNum s b 2 4 2
  andThen (firstFlaw [need (decide (full < 2 ^ 28) && (rangeFrom 0 28).all fun l => !(bitAt full l && linkHalf s l)) 2 0,
    need (decide (n ≤ 4096) && decide (8 + 16 * n ≤ secLen s b 2)) 2 4, need (secNum s b 2 6 2 == 0) 2 6]) fun _ =>
  eachOf (rangeFrom 0 n) fun i =>
    let e := 8 + 16 * i
    let f := fun o k => secNum s b 2 (e + o) k
    let hops := (rangeFrom 0 (f 4 1)).map fun j => f (8 + j) 1
    firstFlaw [need ((rangeFrom 0 i).all fun j => secNum s b 2 (8 + 16 * j) 2 != f 0 2) 2 e,
      need (siteOk (f 2 1)) 2 (e + 2), need (siteOk (f 3 1)) 2 (e + 3),
      need (decide (1 ≤ f 4 1) && decide (f 4 1 ≤ 8)) 2 (e + 4), need (f 5 3 == 0) 2 (e + 5),
      need (followHops (f 2 1) hops == some (f 3 1)) 2 (e + 8),
      need ((rangeFrom (f 4 1) (8 - f 4 1)).all fun j => f (8 + j) 1 == 0xFF) 2 (e + 8 + f 4 1)]

/-! ## Formations -/

/-- FORMATIONS; the two cells of a pair lie on one die (R63, R115, R116). -/
def formationsFlaw (s : State) (b : Nat) : Option Flaw :=
  let n := secNum s b 3 0 2
  let len := secLen s b 3
  let lists := (imgForms s b).map fun f => (f.id, f.cells)
  andThen (firstFlaw [need (decide (1 ≤ n) && decide (n ≤ 768) && decide (8 + 16 * n ≤ len)) 3 0,
    need (secNum s b 3 2 6 == 0) 3 2]) fun _ =>
  andThen (eachOf (rangeFrom 0 n) fun i =>
    let e := 8 + 16 * i
    let f := fun o k => secNum s b 3 (e + o) k
    let cells := (rangeFrom 0 (f 4 2)).map fun j => secNum s b 3 (f 8 4 + 2 * j) 2
    let pairs := (rangeFrom 0 (f 6 2)).map fun j => (secNum s b 3 (f 12 4 + 4 * j) 2, secNum s b 3 (f 12 4 + 4 * j + 2) 2)
    firstFlaw [need (f 0 2 != 0xFFFF && (rangeFrom 0 i).all fun j => secNum s b 3 (8 + 16 * j) 2 != f 0 2) 3 e,
      need (decide (f 2 1 ≤ 5)) 3 (e + 2), need (f 3 1 == 0) 3 (e + 3),
      need (decide (f 4 2 ≤ 768)) 3 (e + 4), need (f 6 2 == 0 || f 2 1 == 0) 3 (e + 6),
      need (decide (f 8 4 + 2 * f 4 2 ≤ len)) 3 (e + 8),
      need (if f 6 2 = 0 then f 12 4 == 0 else decide (f 12 4 + 4 * f 6 2 ≤ len)) 3 (e + 12),
      need (decide cells.Nodup && cells.all fun l => decide (l < 768) && imgFormation s b l == f 0 2) 3 (f 8 4),
      need (decide (pairs.flatMap fun p => [p.1, p.2]).Nodup &&
        pairs.all fun p => decide (p.1 ∈ cells) && decide (p.2 ∈ cells) && p.1 / 96 == p.2 / 96) 3 (f 12 4)]) fun _ =>
  eachOf (rangeFrom 0 768) fun l =>
    need (!imgUsed s b l || (lists.filter fun x => decide (l ∈ x.2)).length == 1) 1 (8 * l)

/-! ## Rings -/

/-- The range of ring numbers of a kind (*Ring numbers*): first and number. -/
def ringRange (kind : Nat) : Nat × Nat :=
  match kind with
  | 0 => (0, 196608)
  | 1 => (196608, 32768)
  | 2 => (229376, 16384)
  | _ => (245760, 16384)

/-- Bytes of a ring's storage. -/
def ringBytes (r : RingEnt) : Nat := 2 ^ r.depthLog * 2 ^ r.entryLog

/-- The storage of a ring: its place (cell or region) and byte range; Stope and Gallery rings lie in the
memory of their die, host rings in HBM at an absolute place. -/
def ringPlace (s : State) (b : Nat) (r : RingEnt) : Nat × Nat :=
  match r.kind with
  | 0 => (r.num / 256, r.base)
  | 1 => (1000 + (r.num - 196608) / 4096, 0)
  | 2 => (1100 + (r.num - 229376) / 4096, 0)
  | _ => (2000, r.off + match imgRegion s b r.base with | some g => g.base | none => 0)

/-- Two byte ranges meet. -/
def overlap (a n c m : Nat) : Bool := decide (a < c + m) && decide (c < a + n)

/-- RINGS (R119, R120). -/
def ringsFlaw (s : State) (b : Nat) : Option Flaw :=
  let n := secNum s b 5 0 4
  let l := imgRings s b
  andThen (firstFlaw [need (decide (8 + 16 * n ≤ secLen s b 5)) 5 0, need (secNum s b 5 4 4 == 0) 5 4]) fun _ =>
  eachOf (l.zip (rangeFrom 0 l.length)) fun x =>
    let r := x.1
    let e := 8 + 16 * x.2
    let before := l.take x.2
    let rg := ringRange r.kind
    let reg := imgRegion s b r.base
    let die := (before ++ [r]).filter fun q => q.kind == r.kind && (ringPlace s b q).1 == (ringPlace s b r).1
    firstFlaw [need (decide (r.kind ≤ 3)) 5 (e + 6),
      need (decide (rg.1 ≤ r.num) && decide (r.num < rg.1 + rg.2) && before.all fun q => q.num != r.num) 5 e,
      need (decide (1 ≤ r.depthLog) && decide (r.depthLog ≤ 16)) 5 (e + 4),
      need (decide (4 ≤ r.entryLog) && decide (r.entryLog ≤ 12)) 5 (e + 5),
      need (r.flags == bit01 (r.kind == 3)) 5 (e + 7),
      need (match r.kind with
        | 0 => r.base % 2 ^ r.entryLog == 0 && decide (r.base + ringBytes r ≤ 0x200000)
        | 3 => match reg with | some g => g.kind == 10 | none => false
        | _ => r.base == 0) 5 (e + 8),
      need (match r.kind with
        | 3 => r.off % 2 ^ r.entryLog == 0 && (match reg with | some g => decide (r.off + ringBytes r ≤ g.len) | none => false)
        | _ => r.off == 0) 5 (e + 12),
      need (if r.kind = 1 ∨ r.kind = 2 then decide (die.foldl (fun t q => t + ringBytes q) 0 ≤ 0x1000000)
        else before.all fun q => !(q.kind == r.kind && (ringPlace s b q).1 == (ringPlace s b r).1 &&
          overlap (ringPlace s b q).2 (ringBytes q) (ringPlace s b r).2 (ringBytes r))) 5 (e + 8)]

/-- The ring of a number in an image. -/
def imgRing (s : State) (b num : Nat) : Option RingEnt := (imgRings s b).find? fun r => r.num == num

/-! ## Memory map -/

/-- A region lies wholly in the populated range of its tier and below the plan store (R122). -/
def regionRange (r : Region) : Bool :=
  match r.tier with
  | 0 => hbmOk r.base r.len
  | 1 => deepOk r.base r.len && decide (r.base + r.len ≤ slotBase false)
  | _ => decide (r.base + r.len ≤ 768 * 2 ^ 21)

/-- A region of a tier and kind holds a byte range. -/
def heldBy (l : List Region) (kind off n : Nat) : Option Region :=
  l.find? fun r => r.kind == kind && decide (r.base ≤ off) && decide (off + n ≤ r.base + r.len)

/-- The constraint of a region's kind (*Region kinds*, R78, R98). -/
def kindOk (s : State) (b : Nat) (l : List Region) (ps : Nat) (r : Region) : Bool :=
  match r.kind with
  | 0 => true
  | 1 =>
    let scaled := r.scale != allOnes64
    let hist := match heldBy l 11 r.scale 32 with
      | some g =>
        let at_ := r.scale - g.base
        let n := secNum s b 6 (g.initOff + at_) 2
        decide (1 ≤ n) && decide (n ≤ 1024) && decide (at_ + 32 + 4 * n ≤ g.len) && decide (at_ + 32 + 4 * n ≤ g.initLen)
      | none => false
    (heldBy l 12 r.status 16).isSome && r.format != 0xF && decide (r.format < 16) &&
      (if r.format = 3 ∨ r.format = 4 then scaled else r.format == 2 || !scaled) && (!scaled || hist)
  | 2 => r.tier == 0 && r.len % 16 == 0 && decide (r.len ≤ 2 ^ 28) && (l.filter fun q => q.kind == 2).length == 1
  | 3 => r.tier == 0 && (l.filter fun q => q.kind == 3).length == 1 &&
      2 * ((l.filter fun q => q.kind == 4).foldl (fun n q => n + q.len / ps) 0) == r.len
  | 4 => decide (r.tier ≤ 1) && r.base % ps == 0 && r.len % ps == 0 && decide (r.base + r.len ≤ 2 ^ 24 * ps)
  | 5 => decide (r.tier ≤ 1)
  | 6 | 7 => r.tier == 1 &&
      (l.filter fun q => q.kind == 6).foldl (fun n q => n + q.len) 0 == (l.filter fun q => q.kind == 7).foldl (fun n q => n + q.len) 0
  | 8 => r.tier == 1
  | 9 => r.tier == 1 && decide (8 ≤ imgSetSize s b)
  | _ => r.tier == 0

/-- MEMMAP (R121, R122, R216). The HIST_LEN of a scale record is read as R98 asks. -/
def memmapFlaw (s : State) (b : Nat) : Option Flaw :=
  let n := secNum s b 6 0 4
  let log := secNum s b 6 4 1
  let l := imgRegions s b
  let len := secLen s b 6
  andThen (firstFlaw [need (decide (1 ≤ n) && decide (n ≤ 1048576) && decide (16 + 64 * n ≤ len)) 6 0,
    need (decide (15 ≤ log) && decide (log ≤ 19)) 6 4, need (decide (secNum s b 6 5 1 ≤ 16)) 6 5,
    need (secNum s b 6 6 10 == 0) 6 6,
    need ([2, 3].all fun k => (l.filter fun r => r.kind == k).length == 1) 6 0]) fun _ =>
  eachOf (l.zip (rangeFrom 0 l.length)) fun x =>
    let r := x.1
    let e := 16 + 64 * x.2
    let before := l.take x.2
    firstFlaw [need (before.all fun q => q.num != r.num) 6 e, need (decide (r.tier ≤ 2)) 6 (e + 4),
      need (decide (r.kind ≤ 12)) 6 (e + 5), need (r.kind == 1 || r.format == 0) 6 (e + 6),
      need (decide (r.flags < 8)) 6 (e + 7), need (r.len != 0) 6 (e + 16), need (regionRange r) 6 (e + 8),
      need (before.all fun q => bitAt q.flags 1 || bitAt r.flags 1 || q.tier != r.tier ||
        !overlap q.base q.len r.base r.len) 6 (e + 8),
      need (r.kind == 1 || r.tensor == 0xFFFFFFFF) 6 (e + 24), need (secNum s b 6 (e + 28) 4 == 0) 6 (e + 28),
      need (if r.initOff = allOnes64 then r.initLen == 0
        else decide (r.initLen ≤ r.len) && decide (r.initOff + r.initLen ≤ len)) 6 (e + 48),
      need (kindOk s b l (2 ^ log) r) 6 (if r.kind = 1 then e else e + 5)]

/-- Check 5: deep-tier regions against the lend range in force (R123). -/
def lendFlaw (s : State) (b : Nat) : Option Flaw :=
  let l := imgRegions s b
  eachOf (l.zip (rangeFrom 0 l.length)) fun x => need (!(x.1.tier == 1 && lendHits s x.1.base x.1.len)) 6 (16 + 64 * x.2 + 8)

/-! ## Programs -/

/-- The words of a cell's code. -/
def imgWords (s : State) (b l : Nat) : List Nat :=
  let c := imgCode s b l
  (rangeFrom 0 (c.length / 8)).map fun i => numAt c (8 * i) 8

/-- The instructions of a cell's code; none for a word that does not decode. -/
def imgInstrs (s : State) (b l : Nat) : List (Option Instr) := (imgWords s b l).map (decodeStreamWord ⟨l, 0⟩)

/-- The words that a routine runs through, with those of the routines that it calls. -/
def reachRun (call : Nat → List Nat) (code : List Ctl) : Nat → Nat → List Nat
  | 0, _ => []
  | n + 1, pos =>
    match code[pos]? with
    | none => []
    | some .stop => [pos]
    | some .ret => [pos]
    | some (.call t) => pos :: (call t ++ reachRun call code n (pos + 1))
    | some _ => pos :: reachRun call code n (pos + 1)

/-- The words that a subroutine runs through, with so many call levels left. -/
def reachSub (code : List Ctl) : Nat → Nat → List Nat
  | 0 => fun _ => []
  | n + 1 => fun t => reachRun (reachSub code n) code (code.length + 1) t

/-- The words that a stream runs through from its ENTRY. -/
def reachable (code : List Ctl) (entry : Nat) : List Nat := reachRun (reachSub code 8) code (code.length + 1) entry

/-- What an instruction names exists in the image and is assigned to its stream (R118, R126, R156, R160,
R170). -/
def useOk (s : State) (b l : Nat) (d : StreamDesc) (i : Instr) : Bool :=
  (vectorRegs i).all (bitAt d.vmask) && (maskRegs i).all (bitAt d.mmask) &&
  (match instrTag i with | some t => decide (t < d.quota) | none => true) &&
  match i with
  | .rpush _ _ r => match imgRing s b r.toNat with | some g => g.kind != 2 | none => false
  | .rpop _ _ r => match imgRing s b r.toNat with
    | some g => g.kind == 3 || (g.kind == 0 && g.num / 256 == l)
    | none => false
  | .tab _ _ w => imgPlace s b l w.slot.toNat != 0xFFFF
  | .bell _ _ _ _ g => match imgGroup s b g.toNat with
    | some m => decide (imgSetIndex s b ∈ m)
    | none => false
  | _ => true

/-- The groups that the BELL instructions of a stream name. -/
def bellGroups (l : List Instr) : List Nat :=
  (l.filterMap fun i => match i with | .bell _ _ _ _ g => some g.toNat | _ => none).eraseDups

/-- The instructions that a stream reaches. -/
def streamInstrs (s : State) (b l : Nat) (d : StreamDesc) : List Instr :=
  let code := imgInstrs s b l
  let ctl := code.map fun i => match i with | some x => ctlOf x | none => .plain
  (reachable ctl d.entry).filterMap fun p => (code[p]?).join

/-- Every instruction that some stream of the image reaches. -/
def allInstrs (s : State) (b : Nat) : List Instr :=
  ((rangeFrom 0 768).filter (imgUsed s b)).flatMap fun l => (imgDescs s b l).flatMap (streamInstrs s b l)

/-- The block of a used cell (R117, R118, R154). -/
def blockFlaw (s : State) (b l : Nat) : Option Flaw :=
  let e := imgBlock s b l
  let n := imgStreams s b l
  let addr := imgLoadAddr s b l
  let bytes := imgCodeBytes s b l
  let descs := imgDescs s b l
  let code := imgInstrs s b l
  let ctl := code.map fun i => match i with | some x => ctlOf x | none => .plain
  let words := e + 16 + 16 * n
  let rings := (imgRings s b).filter fun r => r.kind == 0 && r.num / 256 == l
  let regs := (imgRegions s b).filter fun r => r.tier == 2
  andThen (firstFlaw [
    need (decide (6144 ≤ e) && decide (e + secNum s b 4 (8 * l + 4) 4 ≤ secLen s b 4) &&
      secNum s b 4 (8 * l + 4) 4 == 16 + 16 * n + bytes) 4 (8 * l),
    need (addr % 2048 == 0 && decide (addr + bytes ≤ 0x200000)) 4 e, need (bytes != 0 && bytes % 8 == 0) 4 (e + 4),
    need (secNum s b 4 (e + 8) 8 == 0) 4 (e + 8),
    need (regs.all fun r => !overlap (l * 2 ^ 21 + addr) bytes r.base r.len) 4 e,
    need (rings.all fun r => !overlap addr bytes r.base (ringBytes r)) 4 e]) fun _ =>
  andThen (eachOf (code.zip (rangeFrom 0 code.length)) fun x => need x.1.isSome 4 (words + 8 * x.2)) fun _ =>
  eachOf (descs.zip (rangeFrom 0 n)) fun x =>
    let d := x.1
    let o := e + 16 + 16 * x.2
    let before := descs.take x.2
    andThen (firstFlaw [need (decide (d.stream ≤ 63) && before.all fun q => q.stream != d.stream) 4 o,
      need (decide (d.priority ≤ 3)) 4 (o + 1),
      need (decide ((before ++ [d]).foldl (fun t q => t + q.quota) 0 ≤ 512)) 4 (o + 2),
      need (decide (d.entry < ctl.length)) 4 (o + 4),
      need (before.all fun q => q.vmask &&& d.vmask == 0) 4 (o + 8),
      need (before.all fun q => q.mmask &&& d.mmask == 0) 4 (o + 12),
      need (secNum s b 4 (o + 13) 1 == 0) 4 (o + 13),
      need ((imgPhases s b).any fun p => p.id == d.phase) 4 (o + 14),
      need (pathOk ctl d.entry) 4 (o + 4)]) fun _ =>
    eachOf (reachable ctl d.entry) fun p =>
      match (code[p]?).join with
      | some i => need (useOk s b l d i) 4 (words + 8 * p)
      | none => none

/-- PROGRAMS (R117, R118, R357). A used cell of no stream may have no block (R112). -/
def programsFlaw (s : State) (b : Nat) : Option Flaw :=
  let used := (rangeFrom 0 768).filter (imgUsed s b)
  let groups := used.flatMap fun l => (imgDescs s b l).flatMap fun d => bellGroups (streamInstrs s b l d)
  andThen (need (decide (6144 ≤ secLen s b 4)) 4 0) fun _ =>
  andThen (eachOf (rangeFrom 0 768) fun l =>
    if imgUsed s b l && !(imgStreams s b l == 0 && secNum s b 4 (8 * l) 8 == 0) then blockFlaw s b l else need (secNum s b 4 (8 * l) 8 == 0) 4 (8 * l)) fun _ =>
  need (decide groups.Nodup) 4 0

/-! ## Tables, schedule, groups -/

/-- An FP32 pattern is finite. -/
def finite32 (n : Nat) : Bool := fieldOf n 30 23 != 255

/-- TABLES (R125, R126). -/
def tablesFlaw (s : State) (b : Nat) : Option Flaw :=
  let n := secNum s b 7 0 2
  let place := secNum s b 7 4 4
  let l := imgTables s b
  andThen (firstFlaw [need (decide (n ≤ 4096)) 7 0, need (secNum s b 7 2 2 == 0) 7 2,
    need (decide (8 + 4128 * n ≤ place) && decide (place + 49152 ≤ secLen s b 7)) 7 4]) fun _ =>
  andThen (eachOf (l.zip (rangeFrom 0 n)) fun x =>
    let t := x.1
    let e := 8 + 4128 * x.2
    firstFlaw [need (t.id != 0xFFFF && (l.take x.2).all fun q => q.id != t.id) 7 e,
      need (decide (t.mode ≤ 2)) 7 (e + 2), need (decide (t.kind ≤ 1)) 7 (e + 3),
      need (t.partner == 0xFFFF || l.any fun q => q.id == t.partner && q.kind != t.kind && q.partner == t.id) 7 (e + 4),
      need (secNum s b 7 (e + 6) 2 == 0) 7 (e + 6), need (finite32 t.lo) 7 (e + 8),
      need (finite32 t.hi && (fpDecode fp32 t.lo).lt (fpDecode fp32 t.hi)) 7 (e + 12),
      need (secNum s b 7 (e + 24) 8 == 0) 7 (e + 24)] |> fun a => andThen a fun _ =>
    eachOf (rangeFrom 0 1024) fun i => need (finite32 (secNum s b 7 (t.coeff + 4 * i) 4)) 7 (t.coeff + 4 * i)) fun _ =>
  eachOf (rangeFrom 0 24576) fun i =>
    let v := secNum s b 7 (place + 2 * i) 2
    need (v == 0xFFFF || l.any fun t => t.id == v) 7 (place + 2 * i)

/-- The chains of TRIGGER 2 form no cycle: from any phase the way back ends within the number of phases. -/
def chainEnds (l : List PhaseEnt) : Nat → PhaseEnt → Bool
  | 0, _ => false
  | n + 1, p =>
    if p.trigger ≠ 2 then true
    else match l.find? fun q => q.id == p.after with
    | some q => chainEnds l n q
    | none => true

/-- SCHEDULE (R127, R128). -/
def scheduleFlaw (s : State) (b : Nat) : Option Flaw :=
  let f := secNum s b 8
  let n := f 0 4
  let m := f 4 4
  let l := imgPhases s b
  let cs := imgConsts s b
  let base := 64 + 16 * n
  andThen (firstFlaw [need (decide (1 ≤ n) && decide (n ≤ 4096)) 8 0, need (decide (m ≤ 65536)) 8 4,
    need (decide (base + 16 * m + 32 * f 16 8 ≤ secLen s b 8)) 8 16, need (f 37 3 == 0) 8 37,
    need (decide (f 48 1 < 8)) 8 48, need (f 49 3 == 0) 8 49, need (f 56 8 == 0) 8 56]) fun _ =>
  andThen (eachOf (l.zip (rangeFrom 0 n)) fun x =>
    let p := x.1
    let e := 64 + 16 * x.2
    firstFlaw [need ((l.take x.2).all fun q => q.id != p.id) 8 e,
      need (decide (p.trigger ≤ 4) && !(f 48 1 == 4 && (p.trigger == 1 || p.trigger == 3 || p.trigger == 4))) 8 (e + 2),
      need (f (e + 3) 1 == 0) 8 (e + 3),
      need (if p.trigger = 2 then (l.any fun q => q.id == p.after) && chainEnds l (n + 1) p else p.after == 0) 8 (e + 4),
      need (f (e + 6) 10 == 0) 8 (e + 6)]) fun _ =>
  eachOf (cs.zip (rangeFrom 0 m)) fun x =>
    let c := x.1
    let e := base + 16 * x.2
    let cell := c.target == 0
    firstFlaw [need (decide (c.slot ≤ 7)) 8 e, need (decide (c.target ≤ 1)) 8 (e + 1),
      need (if cell then decide (c.cellOrParam < 768) && imgUsed s b c.cellOrParam else decide (c.cellOrParam ≤ 7)) 8 (e + 2),
      need (!cell || (imgDescs s b c.cellOrParam).any fun d => d.stream == c.stream) 8 (e + 4),
      need (!cell || decide (c.reg ≤ 15)) 8 (e + 5), need (f (e + 6) 10 == 0) 8 (e + 6)]

/-- Where the groups of an image end: the group entries, or the last member list (R131). -/
def groupsEnd (s : State) (b : Nat) : Nat :=
  let base := 32 + 80 * imgSetSize s b
  let n := secNum s b 9 12 2
  (rangeFrom 0 n).foldl (fun m i =>
    let e := base + 16 * i
    max m (secNum s b 9 (e + 8) 4 + 2 * secNum s b 9 (e + 6) 2)) (base + 16 * n)

/-- A permute entry (R131). -/
structure PermEnt where
  src : Nat
  dst : Nat
  len : Nat
  deriving DecidableEq, Repr

/-- The permute table of an image. -/
def imgPermute (s : State) (b : Nat) : List PermEnt :=
  (rangeFrom 0 (secNum s b 9 16 8)).map fun i =>
    let o := secNum s b 9 24 4 + 32 * i
    ⟨secNum s b 9 o 8, secNum s b 9 (o + 8) 8, secNum s b 9 (o + 16) 8⟩

/-- A byte range of a tier lies in one region, PRESERVE when asked. -/
def inRegion (l : List Region) (preserve : Bool) (tier off n : Nat) : Bool :=
  l.any fun r => r.tier == tier && (!preserve || bitAt r.flags 2) && decide (r.base ≤ off) && decide (off + n ≤ r.base + r.len)

/-- GROUPS (R131, R132, R144).
DEDUCED: notes/assumptions/83.md. -/
def groupsFlaw (s : State) (b : Nat) : Option Flaw :=
  let f := secNum s b 9
  let size := imgSetSize s b
  let n := f 12 2
  let len := secLen s b 9
  let base := 32 + 80 * size
  let resh := bitAt (imgFlags s b) 1
  let worker := fun i => decide (i < size) && imgRole s b i == 0 && !imgEmpty s b i
  let me := imgSetIndex s b
  let workers := imgWorkers s b
  let regs := imgRegions s b
  andThen (firstFlaw [need (decide (base ≤ len)) 9 0, need (worker (imgMaster s b)) 9 8,
    need (if size = 1 then imgBackup s b == 0xFFFF else worker (imgBackup s b) && imgBackup s b != imgMaster s b) 9 10,
    need (decide (1 ≤ n) && decide (base + 16 * n ≤ len)) 9 12,
    need (if resh then decide (f 24 4 + 32 * f 16 8 = len) else f 16 8 == 0) 9 16,
    need (if resh then f 24 4 % 32 == 0 && decide (groupsEnd s b ≤ f 24 4) else f 24 4 == 0) 9 24,
    need (f 28 4 == 0) 9 28]) fun _ =>
  andThen (eachOf (rangeFrom 0 size) fun i =>
    let e := 32 + 80 * i
    firstFlaw [need (f e 2 == i) 9 e, need (decide (f (e + 2) 1 ≤ 1)) 9 (e + 2), need (f (e + 3) 1 == 0) 9 (e + 3),
      need (f (e + 4) 2 == if 8 ≤ size then (i + 4) % size else 0xFFFF) 9 (e + 4), need (f (e + 6) 10 == 0) 9 (e + 6)]) fun _ =>
  andThen (need ((imgRole s b me == 1) == bitAt (imgFlags s b) 2) 9 (32 + 80 * me + 2)) fun _ =>
  andThen (eachOf (rangeFrom 0 n) fun i =>
    let e := base + 16 * i
    let k := f (e + 6) 2
    let lst := (rangeFrom 0 k).map fun j => f (f (e + 8) 4 + 2 * j) 2
    let quad := lst.headD 0 / 4
    firstFlaw [need ((rangeFrom 0 i).all fun j => f (base + 16 * j) 4 != f e 4) 9 e, need (decide (f (e + 4) 1 ≤ 4)) 9 (e + 4),
      need (f (e + 5) 1 == 0) 9 (e + 5), need (decide (1 ≤ k) && decide (k ≤ 16384)) 9 (e + 6),
      need (decide (f (e + 8) 4 + 2 * k ≤ len)) 9 (e + 8), need (f (e + 12) 4 == 0) 9 (e + 12),
      need (decide lst.Nodup && lst.all worker) 9 (f (e + 8) 4),
      need (f (e + 4) 1 != 1 || (k == 4 && lst.all fun m => m / 4 == quad)) 9 (f (e + 8) 4),
      need (f (e + 4) 1 != 3 || lst == workers) 9 (f (e + 8) 4)]) fun _ =>
  if !resh then none
  else
    let perm := imgPermute s b
    andThen (need (f (groupsEnd s b) (f 24 4 - groupsEnd s b) == 0) 9 (groupsEnd s b)) fun _ =>
    eachOf (perm.zip (rangeFrom 0 perm.length)) fun x =>
      let d := gaddr x.1.dst
      firstFlaw [need (d.mod != me || inRegion regs true d.tier d.off x.1.len) 9 (f 24 4 + 32 * x.2 + 8),
        need (f (f 24 4 + 32 * x.2 + 24) 8 == 0) 9 (f 24 4 + 32 * x.2 + 24)]

end Sys2Proof.Machine
end

