-- ==== Sys2Proof/Machine/PlanTables.lean ====
section
/-!
DEFINITION. The checks that the configuration tables of an image pass at staging: circulator (R192, R214),
map (R217), stash (R256), gathers (R267), update (R275), collectives (R341), arbiter weights (R385),
intake (R403), generation (R420), modes (R459) and the checkpoint slots (R303). A table is read as its
region's initial data give it; a fault lies at its offset within MEMMAP.
-/
namespace Sys2Proof.Machine

/-- What every table check reads: the image, its regions and rings, its page size, the rings that some
stream pops and those that some stream pushes to. -/
structure ImgCtx where
  b : Nat
  regs : List Region
  rings : List RingEnt
  ps : Nat
  popped : List Nat
  pushed : List Nat
  deriving DecidableEq, Repr

/-- The context of an image. -/
def imgCtx (s : State) (b : Nat) : ImgCtx :=
  let l := allInstrs s b
  { b := b, regs := imgRegions s b, rings := imgRings s b, ps := 2 ^ secNum s b 6 4 1
    popped := l.filterMap fun i => match i with | .rpop _ _ r => some r.toNat | _ => none
    pushed := l.filterMap fun i => match i with | .rpush _ _ r => some r.toNat | _ => none }

/-- A field of a table as its region's initial data give it; bytes beyond them are zero (R124). -/
def tabNum (s : State) (x : ImgCtx) (r : Region) (off n : Nat) : Nat :=
  ofBytes ((rangeFrom off n).map fun o =>
    if o < r.initLen then mget s.deep (x.b + secOff s x.b 6 + r.initOff + o) else 0#8)

/-- A table check: a fault at an offset of the table. -/
def needT (r : Region) (ok : Bool) (off : Nat) : Option Flaw := need ok 6 (r.initOff + off)

/-- The region entry of a configuration table: KIND DATA in HBM, with initial data where they are asked. -/
def tabRegion (x : ImgCtx) (num : Nat) (init : Bool) (f : Region → Option Flaw) : Option Flaw :=
  match (x.regs.zip (rangeFrom 0 x.regs.length)).find? fun e => e.1.num == 0xFFFFFF00 + num with
  | none => none
  | some e =>
    let o := 16 + 64 * e.2
    andThen (firstFlaw [need (e.1.tier == 0) 6 (o + 4), need (e.1.kind == 0) 6 (o + 5),
      need (!init || e.1.initOff != allOnes64) 6 (o + 48)]) fun _ => f e.1

/-- The region of a number lies in HBM and holds so many bytes. -/
def hbmHolds (x : ImgCtx) (num n : Nat) : Bool :=
  x.regs.any fun r => r.num == num && r.tier == 0 && decide (n ≤ r.len)

/-- The entries of the page map. -/
def mapEntries (x : ImgCtx) : Nat := match x.regs.find? fun r => r.kind == 2 with | some r => r.len / 16 | none => 0

/-- The ring of a number. -/
def ctxRing (x : ImgCtx) (num : Nat) : Option RingEnt := x.rings.find? fun r => r.num == num

/-- A ring of a kind with entries of so many bytes. -/
def ringIs (x : ImgCtx) (num kind bytes : Nat) : Bool :=
  match ctxRing x num with | some r => r.kind == kind && 2 ^ r.entryLog == bytes | none => false

/-- A cell ring that no stream pops. -/
def engineRing (x : ImgCtx) (num bytes : Nat) : Bool := ringIs x num 0 bytes && decide (num ∉ x.popped)

/-! ## Circulator -/

/-- A channel entry (R191, R192, R214). -/
def chanFlaw (s : State) (x : ImgCtx) (r : Region) (nf c : Nat) : Option Flaw :=
  let e := 32 + 64 * c
  let f := fun o n => tabNum s x r (e + o) n
  let back := f 1 1 == 1
  let k := f 44 2
  let v := f 46 2
  let shard := f 12 4
  let grad := shard / (k + v) * (k + v) * (if bitAt (f 2 1) 2 then 2 else 4) + if bitAt (f 2 1) 1 then 4 * f 20 4 else 0
  let land := shard + if back then grad else 0
  let mask := f 3 1
  let me := imgSetIndex s x.b
  let ring := (imgGroup s x.b (f 4 4)).getD []
  let succ := ring.getD ((ring.findIdx (· == me) + 1) % max 1 ring.length) 0
  let kind := imgGroupKind s x.b (f 4 4)
  let shift := match x.regs.find? fun q => q.num == 0xFFFFFF01 with | some q => tabNum s x q 0 1 | none => 0
  let quads := [1, 2, 3].filter fun g => bitAt mask (3 + g)
  firstFlaw [needT r (f 0 1 == c) e, needT r (decide (f 1 1 ≤ 1)) (e + 1), needT r (decide (f 2 1 < 8)) (e + 2),
    needT r (mask != 0 && decide (mask < 128) &&
      (quads.isEmpty || quads.all fun g => mask == 2 ^ (3 + g) && succ == me ^^^ g)) (e + 3),
    needT r (kind == some 2 && decide (me ∈ ring)) (e + 4),
    needT r (k != 0 && k % 128 == 0) (e + 44), needT r (v != 0 && v % 128 == 0) (e + 46),
    needT r (shard != 0 && shard % 65536 == 0) (e + 12),
    needT r (decide (f 16 4 < 2 ^ 24) && decide (f 16 4 + f 20 4 ≤ mapEntries x)) (e + 16),
    needT r (hbmHolds x (f 24 4) land) (e + 24), needT r (hbmHolds x (f 28 4) land) (e + 28),
    needT r (if back then hbmHolds x (f 32 4) grad else f 32 4 == 0xFFFFFFFF) (e + 32),
    needT r (if back then hbmHolds x (f 36 4) grad else f 36 4 == 0xFFFFFFFF) (e + 36),
    needT r (decide (1 ≤ f 42 2) && decide (f 42 2 ≤ 768) && decide (f 40 2 + f 42 2 ≤ nf)) (e + 42),
    needT r (decide (x.ps * 128 ≤ k * (256 * 2 ^ shift))) (e + 44),
    needT r (!back || decide (f 48 2 < 768)) (e + 48), needT r (!back || decide (f 50 1 < 64)) (e + 50),
    needT r (f 51 13 == 0) (e + 51)]

/-- A feed entry (R191, R192).
DEDUCED: notes/assumptions/82.md. -/
def feedFlaw (s : State) (x : ImgCtx) (r : Region) (nc f : Nat) : Option Flaw :=
  let e := 32 + 64 * nc + 48 * f
  let g := fun o n => tabNum s x r (e + o) n
  let chan := 32 + 64 * g 0 1
  let n := g 8 2
  let cells := (rangeFrom 0 n).map fun i => tabNum s x r (g 4 4 + 2 * i) 2
  let d := fun o => tabNum s x r (chan + o) 2 / 128
  let masked := bitAt (tabNum s x r (chan + 2) 1) 0
  let slots := [(16, 127 * g 40 2 + d 44), (20, 127 * g 40 2 + d 44), (24, 127 * g 42 2 + d 46),
    (28, 127 * g 42 2 + d 46)] ++ if masked then [(32, 2048), (36, 2048)] else []
  let meets := fun (p q : Nat × Nat) => overlap (g p.1 4) p.2 (g q.1 4) q.2
  let ring := g 12 4
  andThen (firstFlaw [needT r (decide (g 0 1 < nc)) e, needT r (decide (g 1 1 < 8)) (e + 1), needT r (g 2 2 == 0) (e + 2),
    needT r (decide (1 ≤ n) && decide (n ≤ 96)) (e + 8), needT r (decide (g 4 4 + 2 * n ≤ r.len)) (e + 4),
    needT r (decide (g 10 1 < 64)) (e + 10), needT r (decide (g 11 1 < 64) || g 11 1 == 0xFF) (e + 11),
    needT r (decide (1 ≤ g 44 2) && decide (g 44 2 ≤ 192)) (e + 44), needT r (g 46 2 == 0) (e + 46),
    needT r (masked || g 32 4 == 0xFFFFFFFF) (e + 32), needT r (masked || g 36 4 == 0xFFFFFFFF) (e + 36)]) fun _ =>
  firstFlaw [eachOf (cells.zip (rangeFrom 0 n)) fun l =>
      needT r (decide (l.1 < 768) && imgUsed s x.b l.1 && l.1 / 96 == g 1 1) (g 4 4 + 2 * l.2),
    eachOf (slots.zip (rangeFrom 0 slots.length)) fun p =>
      needT r (decide (g p.1.1 4 + p.1.2 ≤ 0x200000) && (slots.take p.2).all (fun q => !meets q p.1) &&
        cells.all fun l => !overlap (g p.1.1 4) p.1.2 (imgLoadAddr s x.b l) (imgCodeBytes s x.b l)) (e + p.1.1),
    needT r (engineRing x ring 16 && ring / 256 == cells.headD 0 &&
      (match ctxRing x ring with | some q => decide (2 * g 44 2 ≤ 2 ^ q.depthLog) | none => false) &&
      (rangeFrom 0 f).all fun h => tabNum s x r (32 + 64 * nc + 48 * h + 12) 4 != ring) (e + 12)]

/-- The circulator table (R192). -/
def circFlaw (s : State) (x : ImgCtx) (r : Region) : Option Flaw :=
  let nc := tabNum s x r 0 2
  let nf := tabNum s x r 2 2
  andThen (firstFlaw [needT r (decide (nc ≤ 64)) 0, needT r (decide (nf ≤ 1024)) 2, needT r (tabNum s x r 4 28 == 0) 4,
    needT r (decide (32 + 64 * nc + 48 * nf ≤ r.len)) 0]) fun _ =>
  andThen (eachOf (rangeFrom 0 nc) (chanFlaw s x r nf)) fun _ => eachOf (rangeFrom 0 nf) (feedFlaw s x r nc)

/-! ## Map and stash -/

/-- Frames of the regions of a kind and tier. -/
def ctxFrames (x : ImgCtx) (kind tier : Nat) : Nat :=
  (x.regs.filter fun r => r.kind == kind && r.tier == tier).foldl (fun n r => n + r.len / x.ps) 0

/-- A ring of the map unit: none, or a cell or Stope ring with 16-byte entries (R217). -/
def mapRingOk (x : ImgCtx) (num : Nat) : Bool := num == 0xFFFFFFFF || ringIs x num 0 16 || ringIs x num 1 16

/-- The map configuration (R217). -/
def mapFlaw (s : State) (x : ImgCtx) (r : Region) : Option Flaw :=
  let f := tabNum s x r
  firstFlaw [needT r (decide (f 0 1 ≤ 7)) 0, needT r (decide (1 ≤ f 1 1) && decide (f 1 1 ≤ 24)) 1, needT r (f 6 2 == 0) 6,
    needT r (mapRingOk x (f 8 4) && (f 8 4 == 0xFFFFFFFF || decide (f 8 4 ∉ x.pushed))) 8,
    needT r (mapRingOk x (f 12 4) && (f 12 4 == 0xFFFFFFFF || decide (f 12 4 ∉ x.popped))) 12,
    needT r (decide (f 16 4 ≤ 65535)) 16, needT r (decide (1 ≤ f 20 4) && decide (f 20 4 ≤ 1048576)) 20,
    needT r (decide (f 24 4 ≤ 1048576)) 24, needT r (f 28 36 == 0) 28,
    needT r (decide (64 + 4 * f 20 4 + 4 * (ctxFrames x 4 0 + ctxFrames x 4 1) + 8 * f 24 4 ≤ r.len)) 20]

/-- Pages of the SRC_FORMAT form of a stash entry (R71, R258). -/
def srcPages (ps code n : Nat) : Nat :=
  ceilDiv (ceilDiv (n * elemBits code) 8) ps + if blockLen code = 0 then 0 else ceilDiv (n / blockLen code) ps

/-- A stash entry (R255, R256). -/
def stashEntFlaw (s : State) (x : ImgCtx) (r : Region) (train : Bool) (layers i : Nat) : Option Flaw :=
  let e := 64 + 32 * i
  let f := fun o n => tabNum s x r (e + o) n
  firstFlaw [needT r (decide (f 0 2 < layers)) e, needT r (decide (f 2 1 ≤ 2)) (e + 2), needT r (decide (f 3 1 < 8)) (e + 3),
    needT r (decide (f 4 1 < 15)) (e + 4),
    needT r (if f 2 1 = 2 then f 5 1 == 0xC else f 5 1 == 0xD || f 5 1 == 0xE) (e + 5), needT r (f 6 2 == 0) (e + 6),
    needT r (f 8 4 != 0 && f 8 4 % 128 == 0) (e + 8), needT r (f 12 4 != 0 && (f 2 1 == 2 || f 12 4 % 128 == 0)) (e + 12),
    needT r (decide (f 16 4 < 2 ^ 24) && decide (f 16 4 + f 20 4 ≤ mapEntries x)) (e + 16),
    needT r (decide (srcPages x.ps (f 4 1) (f 8 4 * f 12 4) ≤ f 20 4)) (e + 20),
    needT r ((rangeFrom 0 i).all fun j =>
      !overlap (tabNum s x r (64 + 32 * j + 16) 4) (tabNum s x r (64 + 32 * j + 20) 4) (f 16 4) (f 20 4)) (e + 16),
    needT r (!(train && f 2 1 == 0 && f 0 2 == 0 && !bitAt (f 3 1) 1)) (e + 3)]

/-- The layers with RESERVED INPUT entries, layer 0 first: no two successive ones lie more than 64 apart. -/
def layersClose : List Nat → Bool
  | a :: b :: rest => decide (b ≤ a + 64) && layersClose (b :: rest)
  | _ => true

/-- The stash table (R256). -/
def stashFlaw (s : State) (x : ImgCtx) (r : Region) : Option Flaw :=
  let f := tabNum s x r
  let n := f 0 2
  let layers := f 2 2
  let train := bitAt (imgWorkloads s x.b) 0
  let kept := (rangeFrom 0 layers).filter fun l => (rangeFrom 0 n).any fun i =>
    f (64 + 32 * i) 2 == l && f (66 + 32 * i) 1 == 0 && bitAt (f (67 + 32 * i) 1) 1
  andThen (firstFlaw [needT r (decide (1 ≤ n) && decide (n ≤ 4096)) 0, needT r (decide (1 ≤ layers) && decide (layers ≤ 1024)) 2,
    needT r (decide (f 4 4 ≤ ctxFrames x 5 0)) 4, needT r (decide (f 8 4 ≤ ctxFrames x 5 1)) 8,
    needT r (f 12 4 % 8 == 0 && decide (64 + 32 * n ≤ f 12 4) && decide (f 12 4 + 8 * layers ≤ r.len)) 12,
    needT r (f 16 16 == 0) 16]) fun _ =>
  andThen (eachOf (rangeFrom 0 8) fun d =>
    let q := f (32 + 4 * d) 4
    needT r (ringIs x q 0 32 && q / 256 / 96 == d) (32 + 4 * d)) fun _ =>
  andThen (eachOf (rangeFrom 0 n) (stashEntFlaw s x r train layers)) fun _ =>
  needT r (kept.isEmpty || (kept.headD 0 == 0 && layersClose kept)) 2

/-! ## Gathers and the update -/

/-- Bytes of the body that the image's own update table publishes under a shard header (R275, R285). -/
def gathBody (s : State) (x : ImgCtx) (hdr : Nat) : Nat :=
  match x.regs.find? fun q => q.num == 0xFFFFFF04 with
  | none => 0
  | some u =>
    let g := tabNum s x u
    ((rangeFrom 0 (g 0 4)).map fun j =>
      let e := 64 + 128 * j
      if g (e + 6) 1 ≠ 0xFF ∧ g (e + 80) 8 = hdr then g (e + 8) 4 * g (e + 12) 4 * elemBits (g (e + 6) 1) / 8 else 0).sum

/-- The gather table (R267). The length of the member's own body follows from its update table; another
owner's stands in that owner's image, which staging cannot read, and there DST only has to exist.
DEDUCED: notes/assumptions/84.md. -/
def gatherFlaw (s : State) (x : ImgCtx) (r : Region) : Option Flaw :=
  let f := tabNum s x r
  let n := f 0 4
  let me := imgSetIndex s x.b
  andThen (firstFlaw [needT r (decide (n ≤ 65536)) 0, needT r (f 4 12 == 0) 4, needT r (decide (32 + 40 * n ≤ r.len)) 0]) fun _ =>
  andThen (eachOf (rangeFrom 0 4) fun g => needT r (engineRing x (f (16 + 4 * g) 4) 16) (16 + 4 * g)) fun _ =>
  eachOf (rangeFrom 0 n) fun i =>
    let e := 32 + 32 * i
    let port := f (e + 6) 1
    firstFlaw [needT r (decide (port ≤ 3)) (e + 6), needT r (f (e + 4) 2 == me ^^^ port) (e + 4),
      needT r (f (e + 7) 1 == 0) (e + 7), needT r (f (e + 20) 12 == 0) (e + 20),
      needT r (match x.regs.find? fun q => q.num == f (e + 16) 4 with 
        | some q => q.tier == 0 && (port != 0 || decide (gathBody s x (f (e + 8) 8) ≤ q.len))
        | none => false) (e + 16)]

/-- Bytes of a state block (R273). -/
def stateBytes (factored : Bool) (mom m n : Nat) : Nat :=
  let b := blockMap factored mom m n
  if factored then b.c + 4 * n else b.v + 4 * m * n

/-- A range of the deep tier lies on the stacks of a Stope die. -/
def onStope (die off n : Nat) : Bool := decide (2 * die * 2 ^ 36 ≤ off) && decide (off + n ≤ (2 * die + 2) * 2 ^ 36)

/-- An update descriptor (R274, R275). -/
def updFlaw (s : State) (x : ImgCtx) (r : Region) (j : Nat) : Option Flaw :=
  let e := 64 + 128 * j
  let f := fun o n => tabNum s x r (e + o) n
  let die := f 7 1
  let size := fun i => let g := fun o n => tabNum s x r (64 + 128 * i + o) n
    stateBytes (g 4 1 == 0) (g 5 1) (g 8 4) (g 12 4)
  let place := fun i copy => tabNum s x r (64 + 128 * i + 24) 8 +
    match x.regs.find? fun q => q.num == tabNum s x r (64 + 128 * i + 16 + 4 * copy) 4 with | some q => q.base | none => 0
  let apart := fun i a b => !overlap (place i a) (size i) (place j b) (size j)
  let block := fun copy => match x.regs.find? fun q => q.num == f (16 + 4 * copy) 4 with
    | some q => q.kind == 6 + copy && decide (f 24 8 + size j ≤ q.len) && onStope die (q.base + f 24 8) (size j)
    | none => false
  let deepIn := fun off n => onStope die off n && inRegion x.regs false 1 off n
  let area := 4 * f 8 4 * f 12 4
  let stats := if f 4 1 = 0 then 4 * f 8 4 + 4 * f 12 4 + 4 else 4
  let pub := f 6 1 != 0xFF
  let hdr := fun i => tabNum s x r (64 + 128 * i + 80) 8
  firstFlaw [needT r (decide (f 4 1 ≤ 1)) (e + 4), needT r (decide (f 5 1 ≤ 1)) (e + 5),
    needT r (decide (f 6 1 ≤ 4) || !pub) (e + 6), needT r (decide (die < 8)) (e + 7),
    needT r (f 8 4 != 0) (e + 8), needT r (f 12 4 != 0) (e + 12), needT r (block 0) (e + 16), needT r (block 1) (e + 20),
    needT r (deepIn (f 32 8) area) (e + 32), needT r (deepIn (f 40 8) stats) (e + 40),
    needT r (f 4 1 != 0 || (finite32 (f 48 4) && decide (f 48 4 < 2 ^ 31) && f 48 4 != 0)) (e + 48),
    needT r (decide (f 104 1 < 2)) (e + 104), needT r (f 105 3 == 0) (e + 105), needT r (f 112 16 == 0) (e + 112),
    needT r (apart j 0 1 && (rangeFrom 0 j).all fun i => apart i 0 0 && apart i 0 1 && apart i 1 0 && apart i 1 1) (e + 24),
    needT r (!pub || (rangeFrom 0 j).all fun i => tabNum s x r (64 + 128 * i + 6) 1 == 0xFF || hdr i != f 80 8 ||
      (rangeFrom i (j - i)).all fun k => hdr k == f 80 8) (e + 80)]

/-- The update table (R275). -/
def updateFlaw (s : State) (x : ImgCtx) (r : Region) : Option Flaw :=
  let f := tabNum s x r
  let n := f 0 4
  let params := (imgConsts s x.b).filterMap fun c => if c.target = 1 then some c.cellOrParam else none
  andThen (firstFlaw [needT r (decide (n ≤ 65536)) 0, needT r (n == 0 || imgGroupKind s x.b (f 12 4) == some 3) 12,
    needT r (f 48 16 == 0) 48, needT r (decide (64 + 128 * n ≤ r.len)) 0,
    needT r (n == 0 || (rangeFrom 0 8).all fun p => decide (p ∈ params)) 0]) fun _ =>
  andThen (eachOf (rangeFrom 0 8) fun d =>
    let q := f (16 + 4 * d) 4
    needT r (ringIs x q 1 16 && (q - 196608) / 4096 == d) (16 + 4 * d)) fun _ =>
  eachOf (rangeFrom 0 n) (updFlaw s x r)

/-! ## Collectives and arbiters -/

/-- How the members of a group lie on quads: the members in each quad and the quads, when every quad holds
the same number (R338).
DEDUCED: notes/assumptions/83.md. -/
def groupShape (l : List Nat) : Option (Nat × Nat) :=
  let quads := (l.map (· / 4)).eraseDups
  let k := (l.filter fun m => m / 4 == quads.headD 0).length
  if quads.all fun q => (l.filter fun m => m / 4 == q).length == k then some (k, quads.length) else none

/-- A collective descriptor (R338 to R341). -/
def collFlaw (s : State) (x : ImgCtx) (r : Region) (chunk c : Nat) : Option Flaw :=
  let e := 64 + 64 * c
  let f := fun o n => tabNum s x r (e + o) n
  let l := (imgGroup s x.b (f 8 4)).getD []
  let sh := (groupShape l).getD (0, 0)
  let n := l.length
  let op := f 4 1
  let bytes := f 32 8
  let count := bytes / chunk
  let slots := f 7 1
  let land := slots * ((sh.1 - 1) + (sh.2 - 1))
  let src := if op = 2 then bytes / max 1 n else bytes
  let dst := if op = 0 then bytes / max 1 n else bytes
  firstFlaw [needT r (f 0 4 == c) e, needT r (decide (op ≤ 3)) (e + 4), needT r (decide (f 5 1 < 4)) (e + 5),
    needT r (decide (f 6 1 ≤ 1)) (e + 6), needT r (decide (2 ≤ slots) && decide (slots ≤ 64)) (e + 7),
    needT r (decide (imgSetIndex s x.b ∈ l) && (groupShape l).isSome) (e + 8),
    needT r (if op = 3 then decide (f 12 2 < n) else f 12 2 == 0) (e + 12), needT r (f 14 2 == 0) (e + 14),
    needT r (inRegion x.regs false 0 (f 16 8) src) (e + 16), needT r (inRegion x.regs false (f 6 1) (f 24 8) dst) (e + 24),
    needT r (bytes != 0 && bytes % chunk == 0 && (op == 3 || count % max 1 n == 0)) (e + 32),
    needT r (2 ≤ op || hbmHolds x (f 40 4) (land * chunk)) (e + 40),
    needT r (ringIs x (f 44 4) 0 16 && (match ctxRing x (f 44 4) with | some q => decide (land + count ≤ 2 ^ q.depthLog) | none => false)) (e + 44),
    needT r (engineRing x (f 48 4) 16) (e + 48), needT r (f 52 12 == 0) (e + 52),
    needT r ((rangeFrom 0 c).all fun d => tabNum s x r (64 + 64 * d + 44) 4 != f 44 4) (e + 44),
    needT r ((rangeFrom 0 c).all fun d => tabNum s x r (64 + 64 * d + 48) 4 != f 48 4) (e + 48)]

/-- The collective table (R341). -/
def collsFlaw (s : State) (x : ImgCtx) (r : Region) : Option Flaw :=
  let f := tabNum s x r
  andThen (firstFlaw [needT r (decide (f 0 4 ≤ 4096)) 0, needT r (isPow2 (f 4 4) && decide (65536 ≤ f 4 4) && decide (f 4 4 ≤ 4194304)) 4,
    needT r (f 8 8 == 0) 8, needT r (f 32 32 == 0) 32, needT r (decide (64 + 64 * f 0 4 ≤ r.len)) 0]) fun _ =>
  andThen (eachOf (rangeFrom 0 4) fun g => needT r (engineRing x (f (16 + 4 * g) 4) 16) (16 + 4 * g)) fun _ =>
  eachOf (rangeFrom 0 (f 0 4)) (collFlaw s x r (f 4 4))

/-- The arbiter weights (R385). -/
def weightFlaw (s : State) (x : ImgCtx) (r : Region) : Option Flaw :=
  let f := tabNum s x r
  let n := f 0 4
  andThen (firstFlaw [needT r (decide (n ≤ 65536) && decide (16 + 8 * n ≤ r.len)) 0, needT r (f 4 12 == 0) 4]) fun _ =>
  eachOf (rangeFrom 0 n) fun i =>
    let e := 16 + 8 * i
    firstFlaw [needT r (siteOk (f e 1)) e, needT r (decide (f (e + 1) 2 < 0x200)) (e + 1),
      needT r (decide (f (e + 3) 1 < arbReqs (f e 1) (f (e + 1) 2))) (e + 3),
      needT r (decide (1 ≤ f (e + 4) 1) && decide (f (e + 4) 1 ≤ 15)) (e + 4), needT r (f (e + 5) 3 == 0) (e + 5)]

/-! ## Intake, generation, modes -/

/-- The staging window of a class (R404). -/
def windowBytes (budget : Nat) : Nat := min budget 4194304

/-- A class entry of the intake table (R402, R403); n: slots of the class. -/
def classFlaw (s : State) (x : ImgCtx) (r : Region) (c n : Nat) : Option Flaw :=
  let e := 32 + 64 * c
  let f := fun o k => tabNum s x r (e + o) k
  let unit := 16 * 2 ^ (f 1 1 - 1)
  firstFlaw [needT r (decide (f 0 1 < 32)) e, needT r (decide (1 ≤ f 1 1) && decide (f 1 1 ≤ 6)) (e + 1),
    needT r (f 2 1 == 1 || f 2 1 == 3) (e + 2), needT r (decide (f 3 1 < 2)) (e + 3),
    needT r (!bitAt (f 0 1) 2 || decide (96 * f 8 2 ≤ windowBytes (f 4 4))) (e + 4),
    needT r (f 8 2 % unit == 0) (e + 8), needT r (f 10 2 % unit == 0) (e + 10),
    needT r (hbmHolds x (f 16 4) (2 * f 24 8 * n)) (e + 16), needT r (f 56 8 == 0) (e + 56)]

/-- The intake table (R403). -/
def intakeFlaw (s : State) (x : ImgCtx) (r : Region) : Option Flaw :=
  let f := tabNum s x r
  let n := f 0 4
  let k := f 4 1
  let slots := (rangeFrom 0 n).map fun i => f (32 + 64 * k + i) 1
  andThen (firstFlaw [needT r (decide (1 ≤ n) && decide (n ≤ 65536)) 0, needT r (decide (1 ≤ k) && decide (k ≤ 16)) 4,
    needT r (f 5 3 == 0) 5, needT r (ringIs x (f 8 4) 0 16 && decide (f 8 4 ∉ x.pushed)) 8,
    needT r (ringIs x (f 12 4) 3 32 && decide (f 12 4 ∉ x.popped)) 12,
    needT r (f 16 4 == 0xFFFFFFFF || engineRing x (f 16 4) 16) 16, needT r (f 24 8 == 0) 24,
    needT r (decide (32 + 64 * k + n ≤ r.len)) 0]) fun _ =>
  andThen (eachOf (rangeFrom 0 k) fun c => classFlaw s x r c (slots.filter fun v => v % 16 == c).length) fun _ =>
  andThen (eachOf (slots.zip (rangeFrom 0 n)) fun p =>
    needT r (decide (p.1 % 16 < k) && decide (p.1 / 16 ≤ 1)) (32 + 64 * k + p.2)) fun _ =>
  needT r (hbmHolds x (f 20 4) (2 * slots.foldl (fun t v => t + windowBytes (f (32 + 64 * (v % 16) + 4) 4)) 0)) 20

/-- The generation table (R420). -/
def genFlaw (s : State) (x : ImgCtx) (r : Region) : Option Flaw :=
  let f := tabNum s x r
  firstFlaw [needT r (decide (1 ≤ f 0 1) && decide (f 0 1 ≤ 12)) 0, needT r (decide (1 ≤ f 1 1) && decide (f 1 1 ≤ 128)) 1,
    needT r (decide (1 ≤ f 2 2) && decide (f 2 2 ≤ 256)) 2, needT r (decide (f 4 4 ≤ 65536)) 4,
    needT r (ringIs x (f 12 4) 3 32) 12, needT r (decide (1 ≤ f 16 2) && decide (f 16 2 ≤ 4096)) 16,
    needT r (decide (1 ≤ f 18 2) && decide (f 18 2 ≤ 4096)) 18, needT r (decide (f 28 2 ≤ 256)) 28,
    needT r (f 28 2 == 0 || hbmHolds x (f 24 4) (f 28 2 * (32 + 4 * (256 * f 2 2 + 65535)))) 24, needT r (f 30 34 == 0) 30]

/-- The modes region (R459). -/
def modesFlaw (s : State) (x : ImgCtx) (r : Region) : Option Flaw :=
  let f := tabNum s x r
  firstFlaw [needT r (decide (128 ≤ r.len)) 0, needT r (f 0 1 != 0 && decide (f 0 1 < 4)) 0,
    needT r (f 1 1 != 0 && decide (f 1 1 < 16)) 1, needT r (f 2 1 != 0 && decide (f 2 1 < 4)) 2, needT r (f 3 61 == 0) 3]

/-! ## Checkpoint slots -/

/-- The bytes of a checkpoint body under an update table (R303). -/
def bodyLen (regs : List Region) (blocks : List Nat) : Nat :=
  blocks.foldl (fun n b => n + up64 b) 0 + match regs.find? fun r => r.kind == 11 with | some r => r.len | none => 0

/-- Where a body begins in its slot: after the header area and the padded CRC table (R303). -/
def bodyStart (body : Nat) : Nat := 4096 + ceilDiv (4 * ceilDiv body 65536) 4096 * 4096

/-- CHECKPOINT and BUDDY_MIRROR regions hold two slots of the body of the image's own update table; an
image without that table has no such body (R303).
DEDUCED: notes/assumptions/84.md. -/
def slotsFlaw (s : State) (x : ImgCtx) : Option Flaw :=
  match x.regs.find? fun r => r.num == 0xFFFFFF04 with
  | none => none
  | some r =>
    let n := bodyLen x.regs ((rangeFrom 0 (tabNum s x r 0 4)).map fun j =>
      let f := fun o n => tabNum s x r (64 + 128 * j + o) n
      stateBytes (f 4 1 == 0) (f 5 1) (f 8 4) (f 12 4))
    eachOf (x.regs.zip (rangeFrom 0 x.regs.length)) fun e =>
      need (!(e.1.kind == 8 || e.1.kind == 9) || decide (bodyStart n + n ≤ e.1.len / 2)) 6 (16 + 64 * e.2 + 16)

/-- Every configuration table of an image.
DEDUCED: notes/assumptions/84.md. -/
def configFlaw (s : State) (b : Nat) : Option Flaw :=
  let x := imgCtx s b
  let t := fun n init f => fun (_ : Unit) => tabRegion x n init (f s x)
  [t 0 true circFlaw, t 1 false mapFlaw, t 2 true stashFlaw, t 3 true gatherFlaw, t 4 true updateFlaw,
    t 5 true collsFlaw, t 6 true weightFlaw, t 7 true intakeFlaw, t 8 true genFlaw, t 9 true modesFlaw,
    fun _ => slotsFlaw s x].foldl andThen none

/-- The tier OFFSET of the 1 KiB of an unrepaired row (R366, R367). -/
def badRowOff (r : BadRow) : Nat :=
  r.stack * 2 ^ 36 +
    if r.kind = 0 then
      (r.row * 3 + r.bank / 16) * 2 ^ 20 + r.bank / 4 % 4 * 2 ^ 18 + r.bank % 4 * 2 ^ 16 + r.chan * 2 ^ 10
    else r.row * 2 ^ 20 + r.bank / 16 * 2 ^ 18 + r.bank % 16 * 2 ^ 14 + r.chan * 2 ^ 10

/-- No region but a FRAME_POOL or STASH lies over an unrepaired row (R498). -/
def badRowFlaw (s : State) (b : Nat) : Option Flaw :=
  let regs := imgRegions s b
  eachOf (regs.zip (rangeFrom 0 regs.length)) fun e =>
    need (e.1.kind == 4 || e.1.kind == 5 || !s.faults.badRows.any fun r =>
      r.kind == e.1.tier && overlap e.1.base e.1.len (badRowOff r) 1024) 6 (16 + 64 * e.2)

/-- Check 6 (R133): every section, then the tables; a section's check relies on those before it.
DEDUCED: notes/assumptions/84.md. -/
def contentsFlaw (s : State) (b : Nat) : Option Flaw :=
  [cellmapFlaw, routesFlaw, formationsFlaw, ringsFlaw, memmapFlaw, badRowFlaw, groupsFlaw, scheduleFlaw, tablesFlaw, programsFlaw,
    configFlaw].foldl
    (fun a f => andThen a fun _ => f s b) none

end Sys2Proof.Machine
end

