-- ==== Sys2Proof/Machine/Sched.lean ====
section
/-!
DEFINITION. Phases (R117, R127, R128): what a trigger starts, the end of a phase, and which streams
belong to an attempt.
-/
namespace Sys2Proof.Machine

/-- A trigger starts a stream at its ENTRY with the registers it holds; a stream that runs is a lost
start (R128). A cell stopped by an uncorrectable fault starts none (R499). -/
def startStream (phase k : Nat) (s : State) (d : StreamDesc) : State :=
  if k ∈ s.faults.stoppedCells then s
  else if (getStream (getCell s k) d.stream).running then
    modCell k (fun c => { c with lostStarts := c.lostStarts + 1 }) s
  else
    modStream k d.stream (fun t => { t with
      running := true, ip := d.entry, wait := none, loops := [], calls := [], startedBy := some phase }) s
      |> modCell k fun c => { c with st := .running }

/-- The logical cells that a plan uses and that are mapped, with their physical cells. -/
def usedCells (s : State) : List (Nat × Nat) :=
  (rangeFrom 0 768).filterMap fun l => if imgUsed s s.act l then (physOf s l).map fun k => (l, k) else none

/-- Start a phase: every stream whose descriptor names it (R117). -/
def startPhase (s : State) (phase : Nat) : State :=
  (usedCells s).foldl (fun s e =>
    ((imgDescs s s.act e.1).filter fun d => d.phase == phase).foldl (startStream phase e.2) s)
    { s with plan := { s.plan with phases := insertNew s.plan.phases phase } }

/-- Start the phases of a trigger (*Phase entry*): 0 plan start, 1 step start, 3 step commit, 4 step
abort. -/
def startTrigger (t : Nat) (s : State) : State :=
  (((imgPhases s s.act).filter fun p => p.trigger == t).map (·.id)).foldl startPhase s

/-- A stream that a phase started runs. -/
def phaseRuns (s : State) (phase : Nat) : Bool :=
  s.cells.any fun e => e.2.streams.any fun t => t.2.running && t.2.startedBy == some phase

/-- The trigger at the head of a phase's chain (R128); the number bounds the chain. -/
def chainRoot (l : List PhaseEnt) : Nat → Nat → Nat
  | 0, _ => 0
  | n + 1, phase =>
    match l.find? fun p => p.id == phase with
    | some p => if p.trigger = 2 then chainRoot l n p.after else p.trigger
    | none => 0

/-- The phases of an attempt: those started at its start, and their chains. -/
def attemptPhases (s : State) : List Nat :=
  let l := imgPhases s s.act
  (l.filter fun p => chainRoot l (l.length + 1) p.id == 1).map (·.id)

/-- A phase of the attempt has not ended. -/
def attemptRuns (s : State) : Bool := (attemptPhases s).any fun p => decide (p ∈ s.plan.phases)

/-- Stop every stream that a phase of a list started; those phases end and trigger nothing (R299).
DEDUCED: notes/assumptions/96.md. -/
def stopPhases (l : List Nat) (s : State) : State :=
  let runs := s.cells.flatMap fun e => (e.2.streams.filter fun t =>
    t.2.running && match t.2.startedBy with | some p => decide (p ∈ l) | none => false).map fun t => (e.1, t.1)
  runs.foldl (fun s x => stopStream false x.1 x.2 s)
    { s with plan := { s.plan with phases := s.plan.phases.filter fun p => decide (p ∉ l) } }

/-- Stop every stream (R137). -/
def stopAll (s : State) : State :=
  (s.cells.flatMap fun e => (runningStreams e.2).map fun i => (e.1, i)).foldl (fun s x => stopStream false x.1 x.2 s)
    { s with plan := { s.plan with phases := [] } }

/-- PHASE_END (R128): every stream that the phase started has stopped; the phases that follow it start. -/
def execPhaseEnd (phase : Nat) (s : State) : Host.Outcome State Fault Refusal :=
  .next (if phase ∈ s.plan.phases ∧ !phaseRuns s phase then
      (((imgPhases s s.act).filter fun p => p.trigger == 2 && p.after == phase).map (·.id)).foldl startPhase
        { s with plan := { s.plan with phases := s.plan.phases.filter (· != phase) } }
    else s)

end Sys2Proof.Machine
end

