-- ==== Sys2Proof/Machine/StashOps.lean ====
section
/-!
DEFINITION. The stash controllers and the stash allocator (R254 to R265): the stash table, stored forms,
allocation, the ledger and the release of a step's frames.
-/
namespace Sys2Proof.Machine

/-- What the allocator holds for an entry. -/
def getEnt (s : State) (i : Nat) : StashEnt := tget {} s.stash.ents i

/-- Change what the allocator holds for an entry. -/
def modEnt (i : Nat) (f : StashEnt → StashEnt) (s : State) : State :=
  { s with stash := { s.stash with ents := tmod {} s.stash.ents i f } }

/-! ## Pages -/

/-- Write a stash page's map entry (R257): no count, no step-log record. -/
def stashEntry (key new : Nat) (s : State) : State :=
  let n := putField new 127 96 (peGen (pentry s key) + 1)
  dropEntryLine key (writeTier 0 (s.pmap.base + 16 * key) (toBytes 16 n) s)

/-- A stash page becomes RESIDENT in a frame, with NOPF set and SHARED clear (R257). -/
def stashPage (key : Nat) (f : FrameId) (s : State) : State :=
  stashEntry key (putField (putField (putField (pePlace (pentry s key) 1 f.tier f.frame) 79 66 s.me) 26 26 1) 27 27 0) s

/-- Where byte x of an entry's pages lies: tier and offset; none on a page that is not RESIDENT (R257). -/
def stashByte (s : State) (first x : Nat) : Option (Nat × Nat) :=
  let e := pentry s (first + x / pageSize s)
  if peState e = 1 ∧ 1 ≤ peTier e ∧ peTier e ≤ 2 then
    some (peTier e - 1, peFrame e * pageSize s + x % pageSize s) else none

/-- One byte of an entry's pages; on an absent page no rule states it. -/
def stashGet (s : State) (first x : Nat) : Byte :=
  match stashByte s first x with
  | some p => (readTier s p.1 p.2 1).headD 0#8
  | none => BitVec.ofNat 8 (Config.freeNat (s.free + x))

/-- Read n bits at a bit place of an entry's pages. -/
def stashBits (s : State) (first bit n : Nat) : Nat :=
  (ofBytes ((rangeFrom (bit / 8) (ceilDiv (bit % 8 + n) 8)).map (stashGet s first)) >>> (bit % 8)) % 2 ^ n

/-- Write one byte of an entry's pages. -/
def stashPut (first x : Nat) (b : Byte) (s : State) : State :=
  match stashByte s first x with
  | some p => writeTier p.1 p.2 [b] s
  | none => s

/-- Write n bits at a bit place of an entry's pages. -/
def stashSet (first bit n v : Nat) (s : State) : State :=
  let k := ceilDiv (bit % 8 + n) 8
  let old := ofBytes ((rangeFrom (bit / 8) k).map (stashGet s first))
  let new := putField old (bit % 8 + n - 1) (bit % 8) v
  ((rangeFrom (bit / 8) k).zip (toBytes k new)).foldl (fun s e => stashPut first e.1 e.2 s) s

/-! ## Saving -/

/-- Bytes of the elements of a part in a format. -/
def partBytes (e : StashDesc) (p : StashPart) (code : Nat) : Nat := ceilDiv (p.n * e.cols * elemBits code) 8

/-- Bytes of a part with the scale bytes that follow its elements. -/
def partLen (e : StashDesc) (p : StashPart) (code : Nat) : Nat :=
  partBytes e p code + if blockLen code = 0 then 0 else p.n * e.cols / blockLen code

/-- Raw bits of element i of a packed list.
DESIGN CHOICE: notes/assumptions/65.md. -/
def rawAt (d : List Byte) (code i : Nat) : Nat :=
  let w := elemBits code
  (numAt d (i * w / 8) (ceilDiv (i * w % 8 + w) 8) >>> (i * w % 8)) % 2 ^ w

/-- The value of element i of a packed part. -/
def valAt (e : StashDesc) (p : StashPart) (d : List Byte) (code i : Nat) : Num :=
  if blockLen code = 0 then valueElem code 0 (rawAt d code i)
  else valueScaled code (numAt d (partBytes e p code + i / blockLen code) 1) (rawAt d code i)

/-- Write the elements of a part unconverted (R259). -/
def saveRaw (e : StashDesc) (p : StashPart) (d : List Byte) (s : State) : State × Sts :=
  let w := elemBits e.src
  let s := (rangeFrom 0 (p.n * e.cols)).foldl (fun s i =>
    let t := p.t0 + i / e.cols
    let c := i % e.cols
    let s := stashSet e.first (stashIdx e t c * w) w (rawAt d e.src i) s
    if blockLen e.src ≠ 0 ∧ i % blockLen e.src = 0 then
      stashPut e.first (scalePlace s e e.src t c) (BitVec.ofNat 8 (numAt d (partBytes e p e.src + i / blockLen e.src) 1)) s
    else s) s
  (s, if e.src = 0xC then {} else
    (rangeFrom 0 (p.n * e.cols)).foldl (fun a i => a.merge (Sts.seen (valAt e p d e.src i))) {})

/-- Write one block of a part in its stored form; i is the first element of the block, by place in the
stored order within the part. -/
def saveBlock (e : StashDesc) (p : StashPart) (d : List Byte) (code : Nat) (a : State × Sts) (b : Nat) : State × Sts :=
  match elemFmt code with
  | none => a
  | some f =>
    let n := blockLen code
    let at_ := fun k => if e.chanMajor then let x := b * n + k; (p.t0 + x % p.n, x / p.n)
      else let x := b * n + k; (p.t0 + x / e.cols, x % e.cols)
    let vals := (rangeFrom 0 n).map fun k =>
      let tc := at_ k
      (valAt e p d e.src ((tc.1 - p.t0) * e.cols + tc.2), true)
    let r := encodeBlock f vals
    let w := elemBits code
    let s := (r.2.1.zip (rangeFrom 0 n)).foldl (fun s x =>
      let tc := at_ x.2
      stashSet e.first (stashIdx e tc.1 tc.2 * w) w x.1 s) a.1
    let tc := at_ 0
    (stashPut e.first (scalePlace s e code tc.1 tc.2) (BitVec.ofNat 8 r.1) s, a.2.merge r.2.2)

/-- Write a part of another format as MASK1 (R259). -/
def saveMask (e : StashDesc) (p : StashPart) (d : List Byte) (a : State × Sts) (i : Nat) : State × Sts :=
  let r := convMask (valAt e p d e.src i)
  (stashSet e.first (stashIdx e (p.t0 + i / e.cols) (i % e.cols)) 1 r.1 a.1, a.2.merge r.2)

/-- Write a part in its stored form (R71, R72, R259). -/
def savePart (e : StashDesc) (p : StashPart) (d : List Byte) (code : Nat) (s : State) : State × Sts :=
  if code = 0xC ∧ e.src ≠ 0xC then (rangeFrom 0 (p.n * e.cols)).foldl (saveMask e p d) (s, {})
  else if blockLen code = 0 ∨ (code = e.src ∧ !e.chanMajor) then saveRaw e p d s
  else (rangeFrom 0 (p.n * e.cols / blockLen code)).foldl (saveBlock e p d code) (s, {})

/-! ## Allocation -/

/-- Stash frames of a tier in use, RESERVED included. -/
def stashUsed (s : State) (tier : Nat) : Nat :=
  s.stash.ents.foldl (fun n x => n + (x.2.frames.filter fun f => f.tier == tier).length) 0

/-- Take the frames of an entry: HBM up to LIMIT_HBM, then the deep tier up to LIMIT_DEEP (R261). -/
def stashAlloc (i : Nat) (e : StashDesc) (s : State) : Option State :=
  let n1 := min e.pages (min (stashNum s 4 4 - stashUsed s 1) s.stash.freeHbm.length)
  let n2 := e.pages - n1
  if min (stashNum s 8 4 - stashUsed s 2) s.stash.freeDeep.length < n2 then none
  else
    let fs := (s.stash.freeHbm.take n1).map (FrameId.mk 1) ++ (s.stash.freeDeep.take n2).map (FrameId.mk 2)
    let s := { s with stash := { s.stash with freeHbm := s.stash.freeHbm.drop n1, freeDeep := s.stash.freeDeep.drop n2 } }
    let s := modEnt i (fun x => { x with frames := fs }) s
    some ((fs.zip (rangeFrom e.first fs.length)).foldl (fun s x => stashPage x.2 x.1 s) s)

/-- A SAVE is refused; the first refusal of a step makes the stash full (R262). -/
def stashRefuse (i : Nat) (e : StashDesc) (s : State) : State :=
  let s := modEnt i (fun x => { x with refused := true }) s |> bump (pmapBase + 0x118) 1
  if s.stash.full then s
  else raise (mapSrc s) 0x0301 [(18, 2, i), (20, 4, e.layer), (24, 4, e.pages)]
    { s with stash := { s.stash with full := true, fullLayer := e.layer } }

/-! ## The ledger -/

/-- The entries of a layer. -/
def layerEnts (s : State) (layer : Nat) : List Nat :=
  (rangeFrom 0 (stashCount s)).filter fun i => (stashDesc s i).layer == layer

/-- Every group of an entry is stored in this step. -/
def entStored (s : State) (i : Nat) : Bool :=
  (rangeFrom 0 ((stashDesc s i).rows / 128)).all fun g => decide (g ∈ (getEnt s i).stored)

/-- INPUT_KEPT of a layer (*Ledger word*). -/
def inputKept (s : State) (layer : Nat) : Bool :=
  (layerEnts s layer).any fun i => (stashDesc s i).cls == 0 && entStored s i && !(getEnt s i).lost

/-- ALL_KEPT of a layer (*Ledger word*, R265).
DEDUCED: notes/assumptions/67.md. -/
def allKept (s : State) (layer : Nat) : Bool :=
  (layerEnts s layer).all fun i => entStored s i && ((stashDesc s i).cls == 0 || !(getEnt s i).lost)

/-- The ledger word of a layer (*Ledger word*). -/
def ledgerWord (s : State) (layer : Nat) : Nat :=
  let l := layerEnts s layer
  let deep := l.foldl (fun n i => n + ((getEnt s i).frames.filter fun f => f.tier == 2).length) 0
  let lost := l.any fun i => (getEnt s i).lost
  let input := l.find? fun i => (stashDesc s i).cls == 0
  let unsel := (match input with | some i => !(stashDesc s i).keep | none => true) ||
    (2 ≤ stashMode s && l.any fun i => (stashDesc s i).cls != 0)
  let refused := l.any fun i => (getEnt s i).refused
  deep <<< 32 + (bit01 lost <<< 5) + (bit01 unsel <<< 4) + (bit01 refused <<< 3) + (bit01 (allKept s layer) <<< 1) +
    bit01 (inputKept s layer)

/-- Write the ledger word of a layer.
DEDUCED: notes/assumptions/67.md. -/
def writeLedger (layer : Nat) (s : State) : State :=
  match stashTab s with
  | some r => writeTier 0 (r.base + cfgNum s r 12 4 + 8 * layer) (toBytes 8 (ledgerWord s layer)) s
  | none => s

/-- Clear the ledger. -/
def clearLedger (s : State) : State :=
  match stashTab s with
  | some r => writeTier 0 (r.base + cfgNum s r 12 4) (List.replicate (8 * cfgNum s r 2 2) 0#8) s
  | none => s

/-- Every stash frame but the RESERVED ones is released, and the ledger cleared (R264). -/
def stashEmpty (s : State) : State :=
  let s := (rangeFrom 0 (stashCount s)).foldl (fun s i =>
    let e := stashDesc s i
    let x := getEnt s i
    if e.reserved then modEnt i (fun x => { frames := x.frames }) s
    else
      let s := (rangeFrom e.first x.frames.length).foldl (fun s k => stashEntry k (pePlace (pentry s k) 0 0 0) s) s
      let back := x.frames.filter fun f => decide (f ∉ s.stash.gone)
      let s := { s with stash := { s.stash with
        freeHbm := s.stash.freeHbm ++ (back.filter fun f => f.tier == 1).map (·.frame)
        freeDeep := s.stash.freeDeep ++ (back.filter fun f => f.tier == 2).map (·.frame) } }
      modEnt i (fun _ => {}) s) s
  clearLedger { s with stash := { s.stash with full := false, fullLayer := 0xFFFF } }

/-- At the end of an attempt the stash empties, and LAST_FULL_LAYER takes the layer of its first refusal (R264,
R271). -/
def stashRelease (s : State) : State :=
  stashEmpty { s with stash := { s.stash with lastFull := s.stash.fullLayer } }

/-- The frames of the STASH regions of a tier (R257). -/
def stashFrames (s : State) (tier : Nat) : List Nat :=
  ((imgRegions s s.act).filter fun r => r.kind == 5 && r.tier + 1 == tier).flatMap fun r =>
    (rangeFrom (r.base / pageSize s) (r.len / pageSize s)).filter fun f => decide ((⟨tier, f⟩ : FrameId) ∉ s.stash.gone)

/-- At swap the pools hold every stash frame, and the RESERVED entries take theirs (R261). -/
def stashSwap (s : State) : State :=
  let s := { s with stash := { gone := s.stash.gone, lastFull := s.stash.lastFull } }
  let s := { s with stash := { s.stash with freeHbm := stashFrames s 1, freeDeep := stashFrames s 2 } }
  (rangeFrom 0 (stashCount s)).foldl (fun s i =>
    let e := stashDesc s i
    if e.reserved then (stashAlloc i e s).getD s else s) s

end Sys2Proof.Machine
end

