-- ==== Sys2Proof/Machine/Load.lean ====
section
/-!
DEFINITION. Step 6 of the swap exchange (R137, R140): the old streams stop, cells are mapped, code,
tables, rings and regions are loaded, and every unit that works for a plan starts afresh.
-/
namespace Sys2Proof.Machine

/-! ## Retirements that take effect at a load -/

/-- The cell that a site lies in. -/
def siteCell (x : Site) : Option Nat :=
  if x.kind = 3 ∨ (x.kind = 2 ∧ x.b21 ≠ 0xFF) then some (x.b20 % 32 * 128 + x.b21) else none

/-- Cells with a lasting fault are retired and package links fall to half width (R13, R59, R497, R499,
R501). -/
def loadRetire (s : State) : State :=
  let new := s.faults.lasting.filter fun x => decide (x ∉ s.faults.retired)
  let cells := new.filter fun x => match siteCell x with | some k => decide (k ∈ s.faults.pendingCells) | none => false
  let links := new.filter fun x => x.kind == 4 && decide (x.b20 < 28)
  let s := links.foldl (fun s x =>
    raiseRetired x 3 (modFaults (fun f => { f with packWidth := tset 0 f.packWidth x.b20 4 }) s)) s
  let s := cells.foldl (fun s x => raiseRetired x 2 s) s
  modFaults (fun f => { f with
    retiredCells := f.pendingCells.foldl insertNew f.retiredCells
    pendingCells := []
    stoppedCells := [] }) s

/-! ## Cells -/

/-- A table slot of a logical cell (R44, R125). -/
def loadSlot (s : State) (tabs : List TabEnt) (l k : Nat) : TabSlot :=
  match tabs.find? fun t => t.id == imgPlace s s.act l k with
  | some t => { valid := true, mode := t.mode, lo := t.lo, hi := t.hi, negInf := t.negInf, posInf := t.posInf
                coeff := tsetList 0#32 [] 0 ((rangeFrom 0 1024).map fun i =>
                  BitVec.ofNat 32 (secNum s s.act 7 (t.coeff + 4 * i) 4)) }
  | none => {}

/-- The streams of a cell as a load leaves them: registers zero, tags free (R45, R140). -/
def loadStreams (s : State) (l : Nat) : Table Stream :=
  (imgDescs s s.act l).foldl (fun t d => tset {} t d.stream
    { priority := d.priority, quota := d.quota, entry := d.entry, phase := d.phase, ip := d.entry }) []

/-- One physical cell under a new plan; l is its logical number.
DEDUCED: notes/assumptions/89.md. -/
def loadCell (s : State) (tabs : List TabEnt) (l : Option Nat) (k : Nat) (c : Cell) : Cell :=
  let kept : Cell := { scratch := c.scratch, tiles := c.tiles, tagsPeak := c.tagsPeak, lostStarts := c.lostStarts }
  let health : Health :=
    if k ∈ s.faults.retiredCells then .retired else if l.isNone then .spareIdle else
      match c.health with | .suspect => .suspect | _ => .healthy
  match l with
  | none => { kept with health := health }
  | some l =>
    if imgUsed s s.act l then
      let code := imgCode s s.act l
      let lo := imgLoadAddr s s.act l
      { kept with
        logical := l, health := health, st := if code.isEmpty then .idle else .loaded
        streams := loadStreams s l
        scratch := mwrite c.scratch lo code
        codeLo := lo, codeHi := lo + code.length
        slots := (rangeFrom 0 32).foldl (fun t k => tset {} t k (loadSlot s tabs l k)) [] }
    else { kept with logical := l, health := health, st := .idle }

/-- Map the cells and load each (R58 to R60, R117, R125).
DEDUCED: notes/assumptions/89.md. -/
def loadCells (s : State) : State :=
  let map := mapCells s
  let tabs := imgTables s s.act
  allCells.foldl (fun s k =>
    modCell k (loadCell s tabs ((map.find? fun m => m.2 == k).map (·.1)) k) s) s

/-! ## Regions -/

/-- The contents of a region that is not preserved: its initial data, then zeros (R124). Regions that overlap by
ALIAS are written in the order of the section.
DEDUCED: notes/assumptions/90.md.
DEDUCED: notes/assumptions/160.md. -/
def loadRegion (s : State) (r : Region) : State :=
  if bitAt r.flags 2 then s
  else
    let init := if r.initOff = allOnes64 then [] else mread s.deep (s.act + secOff s s.act 6 + r.initOff) r.initLen
    match r.tier with
    | 0 =>
      let bad := s.bad.filter fun b => !(b.1 == 0 && decide (r.base ≤ 64 * b.2) && decide (64 * b.2 + 64 ≤ r.base + r.len))
      { s with bad := bad, hbm := mwrite (tclear s.hbm r.base (r.base + r.len)) r.base init }
    | 1 =>
      let bad := s.bad.filter fun b => !(b.1 == 1 && decide (r.base ≤ 64 * b.2) && decide (64 * b.2 + 64 ≤ r.base + r.len))
      { s with bad := bad, deep := mwrite (tclear s.deep r.base (r.base + r.len)) r.base init }
    | _ =>
      (windowParts r.base r.len).foldl (fun s p => match physOf s p.1 with
        | some k => modCell k (fun c =>
            let bytes := (init.drop (p.1 * 2 ^ 21 + p.2.1 - r.base)).take p.2.2
            { c with scratch := mwrite (tclear c.scratch p.2.1 (p.2.1 + p.2.2)) p.2.1 bytes }) s
        | none => s) s

/-- Every preserved region of the cell-local window, with its bytes: they follow the logical cell to
another physical cell (R20, R124).
DEDUCED: notes/assumptions/90.md. -/
def keptScratch (s : State) (b : Nat) : List (GAddr × List Byte) :=
  ((imgRegions s b).filter fun r => r.tier == 2 && bitAt r.flags 2).map fun r =>
    (⟨0, 2, r.base⟩, readLocal s ⟨0, 2, r.base⟩ r.len)

/-! ## Rings -/

/-- The rings of the plan, each empty (R119, R140). -/
def loadRings (s : State) : State :=
  let s := dropReads (fun w => match w with | .ringEntry _ _ => true | _ => false) s
  { s with
    bells := []
    rings := (imgRings s s.act).foldl (fun t r => tset {} t r.num
      { alloc := true, kind := r.kind, depthLog := r.depthLog, entryLog := r.entryLog
        base := if r.kind = 3 then (match imgRegion s s.act r.base with | some g => g.base + r.off | none => 0) else r.base }) [] }

/-! ## The page map -/

/-- The frames that lie over an unrepaired row (R226, R498). -/
def goneFrames (s : State) : List FrameId :=
  (s.faults.badRows.map fun r => (⟨r.kind + 1, badRowOff r / pageSize s⟩ : FrameId)).eraseDups

/-- Frames of the pools of a tier that no entry names, in the order of the frame table. -/
def freeFrames (s : State) (tier : Nat) : List Nat :=
  ((pools s).filter fun r => r.tier + 1 == tier).flatMap fun r =>
    (rangeFrom (r.base / pageSize s) (r.len / pageSize s)).filter fun n =>
      frameCount s ⟨tier, n⟩ == 0 && decide ((⟨tier, n⟩ : FrameId) ∉ s.pmap.gone)

/-- The map unit starts afresh: epoch 0, counts from the initial entries, every other frame free (R122,
R215, R229). -/
def loadMap (s : State) : State :=
  match imgKind s s.act 2 with
  | none => s
  | some r =>
    let s := { s with pmap := { base := r.base, page := secNum s s.act 6 4 1 - 15, entries := r.len / 16 } }
    let s := { s with pmap := { s.pmap with gone := goneFrames s } }
    let s := match imgKind s s.act 3 with
      | some f => { s with hbm := tclear s.hbm f.base (f.base + f.len) }
      | none => s
    let s := (liveKeys s).foldl (fun s k => match peNames (pentry s k) with | some f => incCount f s | none => s) s
    setFifo 2 (freeFrames s 2) (setFifo 1 (freeFrames s 1) s)

/-! ## Engines -/

/-- What the Bell keeper holds for a swap stays, the results of the second barrier that no child has acknowledged
among it; operations and steps of the old plan go (R358, R362). -/
def loadBell (s : State) : State :=
  { s with bell := { s.bell with
      ops := []
      out := s.bell.out.filter fun o => o.msg.kind == 4 || (o.msg.kind == 1 && o.msg.chan == 4)
      selfQ := s.bell.selfQ.filter fun e => e.2.kind == 4
      seen := s.bell.seen.filter fun e => e.2.kind == 4 } }

/-- The engines of the fabric and of the plan tables. -/
def loadEngines (s : State) : State :=
  let ports := s.ports.map fun e =>
    (e.1, { e.2 with peer := 0xFFFF, peerOk := false, peerSeen := false, quadMac := none })
  loadBell { s with
    circ := { last := s.circ.last }
    colls := []
    collEngs := s.collEngs.map fun e => (e.1, ({ last := e.2.last } : CollEng))
    gather := {}, update := {}
    sends := [], recvs := [], xfers := []
    ports := ports
    sigs := [], pushes := []
    arbs := s.arbs.map fun e => (e.1, { e.2 with credits := [], holder := none, isolated := [] })
    arbWins := s.arbWins.map fun e => (e.1, { e.2 with isoValid := false, isoArb := 0, isoReq := 0 })
    mcs := s.mcs.map fun e => (e.1, { e.2 with chanReset := false }) }

/-- Every request of the generation formation ends with NOT_READY, and its buffers are free (R424). -/
def loadGen (s : State) : State :=
  let s := endAll cNotReady s
  { s with gen := { bufFree := [] } }

/-- The loop-back buffers of the new plan (R420, R429). -/
def loopBuffers (s : State) : State :=
  { s with gen := { s.gen with bufFree := rangeFrom 0 (genNum s 28 2) } }

/-- Step 6 of *Swap exchange*. -/
def loadPlan (s : State) : State :=
  let first := !s.plan.active
  let s := stopAll s
  let s := if first then s else intakeSwap (loadGen s)
  let kept := if first then [] else keptScratch s s.stg
  let cmd := s.plan.swapCmd
  let s := { s with plan := {
    active := true, slot := !s.plan.slot, faultSection := s.plan.faultSection, faultOffset := s.plan.faultOffset
    lastCode := cOk } }
  let s := loadRetire s
  let s := loadCells s
  let s := (imgRegions s s.act).foldl loadRegion s
  let s := kept.foldl (fun s e => writeLocal e.1 e.2 s) s
  let s := readTables s |> loadRings |> loadMap
  let s := { s with stash := { s.stash with gone := goneFrames s } }
  let s := stashSwap s |> loadEngines |> loopBuffers
  let st := s.steps
  let s := { s with steps := { st with
    epoch := if first then imgEpoch s s.act else st.epoch
    phase := .idle, acting := false, lostHalt := false, nonfin := false, failed := false, live := false, commitHeld := false
    scaleAsked := [], scaleDone := [], master := {} } }
  ncClear s |> setSys stPlanned |> startTrigger 0 |> completeOpt cmd cOk

end Sys2Proof.Machine
end

