-- ==== Sys2Proof/Machine/Plan.lean ====
section
/-!
DEFINITION. Staging a plan image, swapping it in with the whole set, and the permutation of a re-shard
(R133 to R144, R359, R362 to R364).
-/
namespace Sys2Proof.Machine

/-- A plan command ends; PLAN_STATUS.LAST_CODE keeps its code (R142). -/
def planEnd (c : CmdRef) (code : Nat) (s : State) : State :=
  complete c code { s with plan := { s.plan with lastCode := code } }

/-- The states in which a plan command is accepted (R133).
DEDUCED: notes/assumptions/97.md. -/
def planState (s : State) : Bool :=
  decide (s.pwr.state ∈ [stReady, stPlanned, stRunning, stHalted, stRecovery])

/-! ## Staging -/

/-- PLAN_STAGE of an image of len bytes at a host address: the copy into the staged slot begins. The command
locks the plan key (R524).
DEDUCED: notes/assumptions/95.md.
DEDUCED: notes/assumptions/124.md. -/
def cmdPlanStage (c : CmdRef) (addr len : Nat) (s : State) : State :=
  let s := lockKey s
  if addr % 4096 ≠ 0 ∨ 0x80000000 < len then planEnd c cPlanInvalid s
  else if !planState s ∨ s.plan.staged = .staging ∨ s.plan.swap ≠ .idle then planEnd c cNotReady s
  else
    let plan := { s.plan with
      staged := .staging, stageCmd := some c, stageLen := len, stageGot := 0, ready := [], digests := [], firstFail := none }
    hostReadRange .image addr len { s with deep := tclear s.deep s.stg (s.stg + 0x80000000), plan := plan }

/-- PLAN_STAGE (R133). -/
def execPlanStage (id : BitVec 16) (addr len : BitVec 64) (s : State) : Host.Outcome State Fault Refusal :=
  let t := take id.toNat 0x01 s
  .next (cmdPlanStage t.1 addr.toNat len.toNat t.2)

/-- A staging ends with a refusal: the slot is empty, PLAN_STATUS names the fault (R136).
DEDUCED: notes/assumptions/94.md. -/
def stageRefuse (code : Nat) (f : Flaw) (s : State) : State :=
  let cmd := s.plan.stageCmd
  let s := dropReads (fun w => match w with | .image _ => true | _ => false) { s with plan := { s.plan with
    staged := .refused, stageCmd := none, lastCode := code, faultSection := f.sec, faultOffset := f.off } }
  match cmd with
  | some c => completeR c code (f.sec % 65536 + f.off % 2 ^ 32 * 2 ^ 32) s
  | none => s

/-- A part of the image arrives; a failed transfer ends the staging (R449). -/
def imageArrived (off : Nat) (data : List Byte) (ok : Bool) (s : State) : State :=
  if s.plan.staged ≠ .staging then s
  else if ok then
    writeTier 1 (s.stg + off) data { s with plan := { s.plan with stageGot := s.plan.stageGot + data.length } }
  else stageRefuse cPlanInvalid ⟨0, off⟩ s

/-- A flaw with the code of its check. -/
def coded (code : Nat) (f : Option Flaw) : Option (Nat × Flaw) := f.map fun x => (code, x)

/-- Checks 4 to 6 of *Order of checks*. -/
def lateChecks (s : State) (b : Nat) : Option (Nat × Flaw) :=
  [coded cPlanClock (need (decide (imgNum s b 24 2 ≤ s.faults.current)) 0 24), coded cLendConflict (lendFlaw s b),
    coded cPlanInvalid (contentsFlaw s b)].findSome? id

/-- Checks 2 to 6 of *Order of checks*. -/
def stageChecks (s : State) : Option (Nat × Flaw) :=
  [coded cPlanInvalid (headerFlaw s s.stg s.plan.stageLen), coded cPlanInvalid (tableFlaw s s.stg),
    coded cSignatureInvalid (signatureFlaw s s.stg), lateChecks s s.stg].findSome? id

/-- STAGING_COMPLETE (R133): the whole image has been copied, and is checked. -/
def execStagingComplete (s : State) : Host.Outcome State Fault Refusal :=
  .next (if s.plan.staged ≠ .staging ∨ s.plan.stageGot ≠ s.plan.stageLen then s
    else match stageChecks s with
    | some f => stageRefuse f.1 f.2 s
    | none =>
      let cmd := s.plan.stageCmd
      completeOpt cmd cOk { s with plan := { s.plan with staged := .staged, stageCmd := none, lastCode := cOk } })

/-! ## Swapping -/

/-- PLAN_SWAP, or RESHARD: it waits for the next step boundary (R137, R141, R143).
DEDUCED: notes/assumptions/91.md. -/
def cmdSwap (c : CmdRef) (reshard : Bool) (s : State) : State :=
  if !(if reshard then decide (s.pwr.state = stPlanned ∨ s.pwr.state = stRunning) else planState s) ∨
      s.plan.staged ≠ .staged ∨ s.plan.swap ≠ .idle then planEnd c cNotReady s
  else if reshard ∧ !(bitAt (imgFlags s s.stg) 1 && imgEpoch s s.stg == s.steps.epoch + 1) then planEnd c cPlanInvalid s
  else
    { s with
      plan := { s.plan with swap := .boundary, reshard := reshard, swapCmd := some c }
      bell := { s.bell with seen := s.bell.seen.filter fun e => !(e.2.kind == 4 && e.2.code != 0) } }

/-- PLAN_SWAP (R137). -/
def execPlanSwap (id : BitVec 16) (s : State) : Host.Outcome State Fault Refusal :=
  let t := take id.toNat 0x02 s
  .next (cmdSwap t.1 false t.2)

/-- RESHARD (R143). -/
def execReshard (id : BitVec 16) (s : State) : Host.Outcome State Fault Refusal :=
  let t := take id.toNat 0x30 s
  .next (cmdSwap t.1 true t.2)

/-- The frames of every RESERVED stash entry of the staged image can be allocated (R261). -/
def reservedFit (s : State) : Bool :=
  let t : State := { s with plan := { s.plan with active := true, slot := !s.plan.slot }
                            pmap := { s.pmap with page := secNum s s.stg 6 4 1 - 15 } }
  match t.cfg 2 with
  | none => true
  | some r =>
    let t := loadRegion t r
    let t := { t with stash := { gone := goneFrames t } }
    let t := { t with stash := { t.stash with freeHbm := stashFrames t 1, freeDeep := stashFrames t 2 } }
    ((rangeFrom 0 (stashCount t)).foldl (fun (a : Option State) i => a.bind fun t =>
      let e := stashDesc t i
      if e.reserved then stashAlloc i e t else some t) (some t)).isSome

/-- A permute entry against both images (R363). -/
def permEntryOk (s : State) (p : PermEnt) : Bool :=
  let a := gaddr p.src
  let d := gaddr p.dst
  let worker := fun b i => decide (i < imgSetSize s b) && imgRole s b i == 0 && !imgEmpty s b i
  decide (a.tier ≤ 1) && decide (d.tier ≤ 1) && worker s.stg d.mod && worker s.act a.mod &&
    (a.mod != s.me || inRegion (imgRegions s s.act) false a.tier a.off p.len) &&
    (d.mod != imgSetIndex s s.stg || inRegion (imgRegions s s.stg) true d.tier d.off p.len)

/-- The ranges of one tier that a list of addresses and lengths covers on the member of index me. -/
def permMeet (meA meB : Nat) (x y : Nat × Nat) : Bool :=
  let a := gaddr x.1
  let b := gaddr y.1
  a.mod == meA && b.mod == meB && a.tier == b.tier && overlap a.off x.2 b.off y.2

/-- Destinations on this member meet neither one another nor a source on it (R363). -/
def permApart (s : State) (l : List PermEnt) : Bool :=
  let me := imgSetIndex s s.stg
  let l' := l.zip (rangeFrom 0 l.length)
  l'.all fun x => (l'.all fun y => x.2 == y.2 || !permMeet me me (x.1.dst, x.1.len) (y.1.dst, y.1.len)) &&
    l.all fun y => !permMeet me s.me (x.1.dst, x.1.len) (y.src, y.len)

/-- The permute table (R363). -/
def permuteFlaw (s : State) : Option Flaw :=
  let l := imgPermute s s.stg
  let o := fun i => secNum s s.stg 9 24 4 + 32 * i
  andThen (eachOf (l.zip (rangeFrom 0 l.length)) fun x => need (permEntryOk s x.1) 9 (o x.2)) fun _ =>
    need (permApart s l) 9 (o 0)

/-- What step 3 of *Swap exchange* finds on this member.
DEDUCED: notes/assumptions/91.md. -/
def swapChecks (s : State) : Option (Nat × Flaw) :=
  let b := s.stg
  let plain := !s.plan.reshard && s.plan.active
  [lateChecks s b,
    coded cPlanInvalid (need (!plain || imgEpoch s b == s.steps.epoch) 0 40),
    coded cPlanInvalid (need (!plain || !bitAt (imgFlags s b) 1) 0 20),
    coded cPlanInvalid (if s.plan.reshard then permuteFlaw s else none),
    coded cPlanInvalid (need (reservedFit s) 6 0)].findSome? id

/-- A step boundary at which a swap can go on: no attempt runs, the service is NORMAL, and no margin
survey stops the cells (R137, R504). -/
def atBoundary (s : State) : Bool :=
  s.steps.phase == .idle && !inRecovery s && !s.modes.running.any fun m => m.activity == 3

/-- SWAP_BOUNDARY (R137): the member checks the staged image and reports to its master. -/
def execSwapBoundary (s : State) : Host.Outcome State Fault Refusal :=
  .next (if s.plan.swap ≠ .boundary ∨ !atBoundary s then s
    else
      let r := swapChecks s
      let plan := { s.plan with swap := .waitGo }
      let s := match r with
        | some f => { s with plan := { plan with faultSection := f.2.sec, faultOffset := f.2.off } }
        | none => { s with plan := plan }
      bellSend (imgMaster s s.stg)
        { kind := 4, code := 0, value := match r with | some f => f.1 | none => 0, payload := imgDigest s s.stg } s)

/-- The members of an image: its positions that are not empty. -/
def imgMembers (s : State) (b : Nat) : List Nat := (rangeFrom 0 (imgSetSize s b)).filter fun i => !imgEmpty s b i

/-- This member is the master of the staged plan. -/
def stagedMaster (s : State) : Bool := imgMaster s s.stg == imgSetIndex s s.stg

/-- The master sends its decision to every member; what it had collected is gone.
DESIGN CHOICE: notes/assumptions/92.md. -/
def swapSend (code value : Nat) (s : State) : State :=
  let s := { s with
    plan := { s.plan with ready := [], digests := [], firstFail := none }
    bell := { s.bell with seen := s.bell.seen.filter fun e => !(e.2.kind == 4 && e.2.code == 0) } }
  (imgMembers s s.stg).foldl (fun s i => bellSend i { kind := 4, code := code, value := value } s) s

/-- The master decides once its own member waits: the first failing code, PLAN_INVALID for a digest that
differs, or all members OK (R137, R139).
DESIGN CHOICE: notes/assumptions/92.md. -/
def swapDecide (s : State) : State :=
  if s.plan.swap ≠ .waitGo then s
  else match s.plan.firstFail with
  | some c => swapSend 2 c s
  | none =>
    let all := imgMembers s s.stg
    if !all.all fun i => decide (tget 0 s.plan.ready i ≠ 0) then s
    else if all.all fun i => decide (i ∈ s.plan.digests) then swapSend 1 0 s
    else swapSend 2 cPlanInvalid s

/-- SWAP_READY (R137) reaches the master of the staged plan. -/
def execSwapReady (m : BellIn) (s : State) : Host.Outcome State Fault Refusal :=
  onBell m (fun b => b.kind == 4 && b.code == 0) neverStale (fun src b s =>
    if !swapHeld s ∨ !stagedMaster s then s
    else
      let code := b.value % 65536
      let same := b.payload.take 32 == imgDigest s s.stg
      let p := s.plan
      swapDecide { s with plan := { p with
        ready := tset 0 p.ready src (code + 1)
        digests := if same then insertNew p.digests src else p.digests
        firstFail := p.firstFail.or (if code ≠ 0 then some code else if same then none else some cPlanInvalid) } }) s

/-- SWAP_WAIT_EXPIRE (R137): the master has waited SWAP_WAIT_MS. -/
def execSwapWaitExpire (s : State) : Host.Outcome State Fault Refusal :=
  .next (if s.plan.swap = .waitGo ∧ stagedMaster s ∧ !s.plan.permuting then swapSend 2 cMemberLost s else s)

/-! ## The permutation -/

/-- The whole-set group of an image, if this member belongs to it. -/
def wholeGroup (s : State) (b : Nat) : Option Nat :=
  let base := 32 + 80 * imgSetSize s b
  ((rangeFrom 0 (secNum s b 9 12 2)).map fun i => secNum s b 9 (base + 16 * i) 4).find? fun id =>
    imgGroupKind s b id == some 3 && decide (imgSetIndex s b ∈ (imgGroup s b id).getD [])

/-- The whole-set group of the staged image.
DEDUCED: notes/assumptions/93.md. -/
def permGroup (s : State) : Option Nat := wholeGroup s s.stg

/-- Take a barrier of the permutation; a member outside the group passes it (R362).
DEDUCED: notes/assumptions/93.md. -/
def permBarrier (round : Nat) (s : State) : State :=
  match permGroup s with
  | some g => bellEnter g 4 7 0 (.permute round) s
  | none => { s with plan := { s.plan with barrier := s.plan.barrier + 1 } }

/-- After the second barrier the member goes on to step 6 of the swap (R362). -/
def permEnd (s : State) : State := if s.plan.permuting ∧ 2 ≤ s.plan.barrier then loadPlan s else s

/-- Carry out one permute entry: a local copy at once, anything else as remote reads (R334, R362).
DESIGN CHOICE: notes/assumptions/80.md. -/
def permIssue (s : State) (i : Nat) : State :=
  match (imgPermute s s.stg)[i]? with
  | none => s
  | some p =>
    let a := gaddr p.src
    let d := gaddr p.dst
    if a.mod = s.me then writeLocal ⟨0, d.tier, d.off⟩ (readLocal s a p.len) s
    else
      remoteRead (.permute i) a.mod (remotePort s 0 a.mod) [(p.src, mkGaddr s.me d.tier d.off, p.len)]
        { s with plan := { s.plan with permLeft := s.plan.permLeft ++ [i] } }

/-- Carry out waiting entries while fewer than 64 transfers are in flight; the list bounds their number. -/
def permPumpGo : List Nat → State → State
  | [], s => s
  | i :: rest, s =>
    if 64 ≤ s.plan.permLeft.length then s
    else permPumpGo rest (permIssue { s with plan := { s.plan with permWait := rest } } i)

/-- Carry out the permute entries that can start. -/
def permPump (s : State) : State := permPumpGo s.plan.permWait s

/-- PERMUTE (R362): the first barrier is passed. -/
def execPermute (s : State) : Host.Outcome State Fault Refusal :=
  .next (if s.plan.permuting ∧ s.plan.barrier = 1 then permPump s else s)

/-- Bytes of a permute entry have landed; at its last one the next entries start. -/
def permLanded (i : Nat) (s : State) : State :=
  if xfersLeft s (.permute i) ≠ 0 then s
  else permPump { s with plan := { s.plan with permLeft := s.plan.permLeft.filter (· != i) } }

/-- PERMUTE_COMPLETE (R362): every entry has landed; the second barrier. -/
def execPermuteComplete (s : State) : Host.Outcome State Fault Refusal :=
  .next (if s.plan.permuting ∧ s.plan.barrier = 1 ∧ s.plan.permWait = [] ∧ s.plan.permLeft = [] ∧
      !(permGroup s).any fun g => (getOp s g 4).active then permEnd (permBarrier 2 s)
    else s)

/-- The entries whose destination lies on this member, in table order (R362). -/
def permMine (s : State) : List Nat :=
  let l := imgPermute s s.stg
  (rangeFrom 0 l.length).filter fun i => match l[i]? with
    | some p => (gaddr p.dst).mod == imgSetIndex s s.stg
    | none => false

/-- SWAP_GO (R137, R143): pending Bell operations are discarded; the plan loads, after the permutation
for RESHARD. -/
def swapGoEffect (s : State) : State :=
  if s.plan.swap ≠ .waitGo then s
  else
    let s := { s with plan := { s.plan with swap := .loading }, bell := { s.bell with ops := [] } }
    if !s.plan.reshard then loadPlan s
    else
      permBarrier 1 { s with
        steps := { s.steps with epoch := s.steps.epoch + 1 }
        plan := { s.plan with permuting := true, barrier := 0, permWait := permMine s, permLeft := [] } }

/-- SWAP_GO. -/
def execSwapGo (m : BellIn) (s : State) : Host.Outcome State Fault Refusal :=
  onBell m (fun b => b.kind == 4 && b.code == 1) neverStale (fun _ _ s => swapGoEffect s) s

/-- The permutation is given up: the old epoch and plan stay, the member halts (R364). -/
def permAbort (s : State) : State :=
  if !s.plan.permuting then s
  else
    let s := s.plan.permLeft.foldl (fun s i => dropXfers (.permute i) s) s
    setSys stHalted { s with
      steps := { s.steps with epoch := s.steps.epoch - 1 }
      plan := { s.plan with permuting := false, permWait := [], permLeft := [], barrier := 0 }
      bell := { s.bell with ops := s.bell.ops.filter fun e => e.1 % 8 != 4 } }

/-- SWAP_ABORT (R139, R364): the member keeps its plan and its staged image. -/
def swapAbortEffect (code : Nat) (s : State) : State :=
  if s.plan.swap = .idle then s
  else
    let s := permAbort s
    let cmd := s.plan.swapCmd
    completeOpt cmd code { s with plan := { s.plan with
      swap := .idle, reshard := false, swapCmd := none, lastCode := code % 256 } }

/-- SWAP_ABORT. -/
def execSwapAbort (m : BellIn) (s : State) : Host.Outcome State Fault Refusal :=
  onBell m (fun b => b.kind == 4 && b.code == 2) neverStale (fun _ b s => swapAbortEffect (b.value % 65536) s) s

end Sys2Proof.Machine
end

