-- ==== Sys2Proof/Machine/PowerOps.lean ====
section
/-!
DEFINITION. The cap fraction and what an attempt's end leaves for it (R205, R534).
-/
namespace Sys2Proof.Machine

/-- Change the power state. -/
def modPwr (f : Power → Power) (s : State) : State := { s with pwr := f s.pwr }

/-- The cap fraction from the present one, the cap and a mean input power in W (R534). -/
def capFraction (f cap p : Nat) : Nat := if p ≤ 420 then 64 else max 4 (min 64 (f * (cap - 420) / (p - 420)))

/-- The power mode follows the cap at a step boundary (R205). -/
def capBoundary (s : State) : State := modPwr (fun p => { p with capped := decide (p.cap < 4800) }) s

/-- At STEP_GO the cap fraction is recomputed from the last attempt that ended, or from the last 10 ms,
whose power no input states (R534).
DESIGN CHOICE: notes/assumptions/103.md. -/
def capAtGo (s : State) : State :=
  let f := takeFree s
  let p := match s.pwr.meanAtt with | some p => p | none => f.1
  let s := if s.pwr.meanAtt.isSome then s else f.2
  modPwr (fun q => { q with
    fCap := capFraction q.fCap q.cap p
    energyAtt := tget 0 s.ctr 0x820
    tickAtt := s.lamp.tick
    throttled := [] }) s |> capBoundary

/-- An attempt ends: its mean input power, from PWR_ENERGY in mJ and the time in ns (R534).
DESIGN CHOICE: notes/assumptions/103.md. -/
def powerEnd (s : State) : State :=
  let p := s.pwr
  let dt := s.lamp.tick - p.tickAtt
  let w := (tget 0 s.ctr 0x820 - p.energyAtt) * 1000000 / dt
  capBoundary (if dt = 0 then s else modPwr (fun p => { p with meanAtt := some w }) s)

end Sys2Proof.Machine
end

