-- ==== Sys2Proof/Machine/Master.lean ====
section
/-!
DEFINITION. What a set master, or an acting master, does for an attempt: the decision, its broadcast,
probes, and the end of STEP_RUN (R289, R290, R295 to R297, R300, R301, R360).
-/
namespace Sys2Proof.Machine

/-- Change the master's side. -/
def modMaster (f : Master → Master) (s : State) : State :=
  { s with steps := { s.steps with master := f s.steps.master } }

/-- This member decides: it is the set master, or acting master (R301). -/
def isMaster (s : State) : Bool := s.plan.active && masterOf s == s.me

/-- The backup of the active plan; none in a set of one member (R296). -/
def backupOf (s : State) : Option Nat := let b := imgBackup s s.act; if b = 0xFFFF then none else some b

/-- The workers that the master has not declared lost. -/
def liveWorkers (s : State) : List Nat := (imgWorkers s s.act).filter fun i => decide (i ∉ s.steps.master.lost)

/-- A member is declared lost (R295, R297, R301); the event names its set index.
DEDUCED: notes/assumptions/101.md. -/
def memberLost (i : Nat) (s : State) : State :=
  raise (source 0 0) 0x0602 [(18, 2, i)] (modMaster (fun m => { m with lost := insertNew m.lost i }) s)

/-- Send a step message to every worker. -/
def toWorkers (code value : Nat) (s : State) : State :=
  (imgWorkers s s.act).foldl (fun s i => sendStep i code value [] s) s

/-- Abort, whatever was decided: the backup did not take COMMIT (R296). -/
def forceAbort (code : Nat) (s : State) : State :=
  toWorkers 4 code (modMaster (fun m => { m with decision := some (.abort code) }) s)

/-- The master decides to abort, unless it has decided (R295). -/
def decideAbort (code : Nat) (s : State) : State :=
  if s.steps.master.active ∧ s.steps.master.decision = none then forceAbort code s else s

/-- The STEP_RUN of the attempt ends; its result is the attempt number (R290, R447).
DEDUCED: notes/assumptions/97.md. -/
def runOver (code : Nat) (s : State) : State :=
  let m := s.steps.master
  let s := modMaster (fun m => { m with active := false, cmd := none }) s
  match m.cmd with
  | some c => completeR c code m.attempt s
  | none => s

/-- A loss is known: STEP_RUN answers MEMBER_LOST until a swap, and outside an attempt the member halts
(R300). -/
def haltLost (s : State) : State :=
  let s := { s with steps := { s.steps with lostHalt := true } }
  if !inAttempt s ∧ (s.pwr.state = stPlanned ∨ s.pwr.state = stRunning) then setSys stHalted s else s

/-- A worker acknowledged COMMIT; when all live workers have, the attempt ends with OK (R290). -/
def commitAcked (i : Nat) (s : State) : State :=
  let s := modMaster (fun m => { m with acked := insertNew m.acked i }) s
  let m := s.steps.master
  if m.active ∧ m.commitSent ∧ (liveWorkers s).all (fun i => decide (i ∈ m.acked)) then
    runOver (if m.lost = [] then cOk else cMemberLost) s
  else s

/-- The least and the largest wait figure, the least with its member (R360). -/
def slowest (l : List (Nat × Nat)) : Option (Nat × Nat × Nat) :=
  match l with
  | [] => none
  | e :: rest =>
    let least := rest.foldl (fun a x => if x.2 < a.2 ∨ (x.2 = a.2 ∧ x.1 < a.1) then x else a) e
    some (least.1, least.2, rest.foldl (fun a x => max a x.2) e.2)

/-- The master names the member that waited least (R360). -/
def raiseSlowest (s : State) : State :=
  let m := s.steps.master
  match slowest (m.ready.map fun i => (i, tget 0 m.waits i)) with
  | some x => raise (source 0 0) 0x0601 [(18, 2, x.1), (20, 4, x.2.1), (24, 4, x.2.2), (28, 4, m.step)] s
  | none => s

/-- COMMIT goes to every worker that does not have it (R296).
DEDUCED: notes/assumptions/101.md. -/
def commitAll (s : State) : State :=
  let skip := s.steps.master.acked
  let s := modMaster (fun m => { m with commitSent := true }) s
  ((imgWorkers s s.act).filter fun i => decide (i ∉ skip)).foldl (fun s i => sendStep i 3 0 [] s) s |> raiseSlowest

/-- The master decides to commit: first the backup (R296). -/
def decideCommit (s : State) : State :=
  let s := modMaster (fun m => { m with decision := some .commit }) s
  match backupOf s with
  | some b => sendStep b 3 0 [] s
  | none => commitAll s

/-- READY of a worker (R295): once a Canary has expired first, the answers to the probes decide.
DEDUCED: notes/assumptions/101.md. -/
def masterReady (src wait : Nat) (s : State) : State :=
  if !s.steps.master.active then s
  else
    let s := modMaster (fun m => { m with
      ready := insertNew m.ready src, waits := tset 0 m.waits src wait, waitArmed := true }) s
    let m := s.steps.master
    if m.decision = none ∧ !m.probing ∧ (imgWorkers s s.act).all (fun i => decide (i ∈ m.ready)) then decideCommit s
    else s

/-- FAIL of a worker (R295): once a Canary has expired first, the answers to the probes decide.
DEDUCED: notes/assumptions/101.md. -/
def masterFail (code : Nat) (s : State) : State := if s.steps.master.probing then s else decideAbort code s

/-! ## Probes -/

/-- This member is the backup, and probes its master (R301). -/
def probesMaster (s : State) : Bool := !isMaster s && backupOf s == some s.me

/-- The backup takes the place of a lost master (R301). -/
def takeOver (s : State) : State :=
  let st := s.steps
  let s := { s with steps := { st with acting := true, master := {
    active := st.commitHeld || st.live, step := st.step, attempt := st.attempt, lost := st.master.lost
    decision := none, acked := if st.commitHeld then [s.me] else [] } } }
  let gone := imgMaster s s.act
  let others := (imgWorkers s s.act).filter (· != gone)
  if st.commitHeld then
    let s := modMaster (fun m => { m with decision := some .commit, commitSent := true }) s
    (others.filter (· != s.me)).foldl (fun s i => sendStep i 3 0 [] s) s |> haltLost
  else
    others.foldl (fun s i => sendStep i 4 cMemberLost [] s)
      (modMaster (fun m => { m with decision := some (.abort cMemberLost) }) s) |> haltLost

/-- Every probe has its answer (R295, R301, R364). -/
def probesOver (s : State) : State :=
  let m := s.steps.master
  let s := modMaster (fun m => { m with probing := false }) s
  if s.plan.permuting then
    if m.lost ≠ [] ∧ stagedMaster s then swapSend 2 cMemberLost s else s
  else if probesMaster s then if imgMaster s s.act ∈ m.lost then takeOver s else s
  else decideAbort (if m.lost = [] then cCanaryTimeout else cMemberLost) s

/-- A probed member answered or stayed silent. -/
def probeAnswer (i : Nat) (s : State) : State :=
  let m := s.steps.master
  if i ∉ m.probed then s
  else
    let s := modMaster (fun m => { m with probed := m.probed.filter (· != i) }) s
    if s.steps.master.probed = [] then probesOver s else s

/-- Send PROBE to a member that is not being probed. -/
def probe (s : State) (i : Nat) : State :=
  if i ∈ s.steps.master.probed ∨ i = s.me then s
  else sendStep i 5 0 [] (modMaster (fun m => { m with probed := m.probed ++ [i], probing := true }) s)

/-- A Canary of the master expires: every worker whose READY is missing is probed (R295). -/
def probeMissing (s : State) : State :=
  let m := s.steps.master
  let l := (imgWorkers s s.act).filter fun i => decide (i ∉ m.ready) && i != s.me
  if !m.active ∨ m.decision ≠ none ∨ m.probing then s
  else if l = [] then decideAbort cCanaryTimeout s
  else l.foldl probe s

/-- A silent peer is reported (R206, R301, R361, R364). -/
def lostReport (peer : Nat) (s : State) : State :=
  let m := s.steps.master
  if isMaster s then
    if (m.active ∧ m.decision = none) ∨ s.plan.permuting then probe s peer else s
  else if probesMaster s ∧ peer = masterOf s then probe s peer
  else s

end Sys2Proof.Machine
end

