-- ==== Sys2Proof/Machine/Ports.lean ====
section
/-!
DEFINITION. The fabric ports: their states (R312 to R316, R580), Neighbor Discovery (R321, R335), PFC
(R332), LLDP (R336), their other frames (R323) and PORT_CTL (R337).
-/
namespace Sys2Proof.Machine

/-- The number of a port's link in the fault ledger (*Site locator*): 32 + 2 g + p. -/
def portLink (p : Nat) : Nat := 32 + p

/-- The number of a port state in PORT_STATUS (R337). -/
def PortSt.code : PortSt → Nat
  | .disabled => 0
  | .down => 1
  | .training => 2
  | .up => 3
  | .held => 4

/-- A port changes its state and says so (R315). -/
def portTo (p : Nat) (st : PortSt) (s : State) : State :=
  if (getPort s p).st = st then s
  else
    let s := modPort p (fun q => { q with
      st := st
      linkUp := if st = .up then q.linkUp else false
      lanes := if st = .up then q.lanes else 0
      paused := if st = .up then q.paused else []
      xoff := if st = .up then q.xoff else [] }) s
    raise (source 3 (p / 2)) 0x0101 [(18, 1, p % 2), (19, 1, st.code), (20, 1, bit01 (getPort s p).half)] s

/-- A port leaves UP, and its frames move to other ports (R316). -/
def portLeave (p : Nat) (st : PortSt) (s : State) : State := portTo p st s |> pumpPorts

/-- A port enters TRAINING: a lasting lane fault halves its width, and faults in both halves keep it DOWN (R313,
R501). -/
def portTrain (p : Nat) (s : State) : State :=
  let s := lanesRetire (portLink p) 8 s
  if badHalves s (portLink p) 8 = 3 then portTo p .down s
  else modPort p (fun q => { q with half := badHalves s (portLink p) 8 != 0 }) s |> portTo p .training

/-- A physical event of a port that the module has.
DESIGN CHOICE: notes/assumptions/56.md. -/
def onPort (die port : Nat) (f : Nat → State → State) (s : State) : Host.Outcome State Fault Refusal :=
  onUnit (portOk die port) (f (2 * die + port) s)

/-- The port loses what it needs: UP ends in DOWN; a training link is not up any more (*Port state
machine*).
DEDUCED: notes/assumptions/55.md. -/
def portLoss (p : Nat) (s : State) : State :=
  match (getPort s p).st with
  | .up => portLeave p .down s
  | .training => modPort p (fun q => { q with linkUp := false, lanes := 0 }) s
  | _ => s

/-- PCS_LOCK_LOSS (R580): loss of PCS block lock on a used lane. -/
def execPcsLockLoss (die port : Nat) (s : State) : Host.Outcome State Fault Refusal := onPort die port portLoss s

/-- FEC_UNCORRECTABLE_BURST (R580): 16 uncorrectable codewords within 1 ms, which PORT_FEC_UNCORR counts. -/
def execFecUncorrectableBurst (die port : Nat) (s : State) : Host.Outcome State Fault Refusal :=
  onPort die port (fun p s => if portUp s p then bump (portBase p + 0x160) 16 s |> portLoss p else s) s

/-- PORT_DOWN_EXPIRE (R580): 1 s in DOWN has passed. With lasting faults in both halves the port stays
DOWN (R313). -/
def execPortDownExpire (die port : Nat) (s : State) : Host.Outcome State Fault Refusal :=
  onPort die port (fun p s =>
    if (getPort s p).st = .down ∧ badHalves s (portLink p) 8 ≠ 3 then portTrain p s else s) s

/-- A port with lasting faults in both halves leaves TRAINING for DOWN (R313). -/
def portSpent (p : Nat) (s : State) : State := if badHalves s (portLink p) 8 = 3 then portTo p .down s else s

/-- PORT_LINK_UP (R580): the link of a training port is up, on 8 lanes or on 4 at half width; bad lists
the lanes that failed the training. -/
def execPortLinkUp (die port : Nat) (bad : List Nat) (s : State) : Host.Outcome State Fault Refusal :=
  onPort die port (fun p s =>
    if (getPort s p).st = .training ∧ !(getPort s p).linkUp then
      lanesTrained (portLink p) 8 bad
        (modPort p (fun q => { q with linkUp := true, lanes := if q.half then 4 else 8 }) s) |> portSpent p
    else s) s

/-- PORT_STABLE_EXPIRE (R580): the link has been stable for 100 ms, and waiting frames leave. -/
def execPortStableExpire (die port : Nat) (s : State) : Host.Outcome State Fault Refusal :=
  onPort die port (fun p s =>
    if (getPort s p).st = .training ∧ (getPort s p).linkUp then portTo p .up s |> pumpPorts else s) s

/-- PORT_TRAINING_TIMEOUT (R580): not up within 2 s. -/
def execPortTrainingTimeout (die port : Nat) (bad : List Nat) (s : State) : Host.Outcome State Fault Refusal :=
  onPort die port (fun p s =>
    if (getPort s p).st = .training then lanesTrained (portLink p) 8 bad s |> portTo p .down else s) s

/-! ## Frames that are not of the transport -/

/-- A frame that fails check 3 (R323).
DEDUCED: notes/assumptions/37.md. -/
def otherDrop (p : Nat) (s : State) : State := bump (portBase p + 0x130) 1 s

/-- The IPv6 addresses that a spine port answers for: its own, and in a swap its staged one (R335, R359). -/
def ownAddrs (s : State) (p : Nat) : List Nat :=
  (if s.plan.active then [imgSpineAddr s s.act s.me (p / 2)] else []) ++
    (if s.plan.swap != .idle then [imgSpineAddr s s.stg (imgSetIndex s s.stg) (p / 2)] else [])

/-- NEIGHBOR_SOLICITATION (R335): one for the port's address is answered with the Solicited and Override
flags. -/
def execNeighborSolicitation (die port target src : Nat) (s : State) : Host.Outcome State Fault Refusal :=
  onPort die port (fun p s =>
    if !portUp s p then s
    else if port = 0 ∧ target ∈ ownAddrs s p then emit p (.advertise target src) s else otherDrop p s) s

/-- NEIGHBOR_ADVERTISEMENT (R321): the answer to a solicitation makes the address known, and waiting frames
leave; another one is ignored and counts (R335).
DESIGN CHOICE: notes/assumptions/56.md. -/
def execNeighborAdvertisement (die port : Nat) (addr mac : Nat) (solicited : Bool) (s : State) :
    Host.Outcome State Fault Refusal :=
  onPort die port (fun p s =>
    if !portUp s p then s
    else if port = 0 ∧ solicited ∧ 0 < (tget {} (getPort s p).nbrs addr).tries then
      modPort p (fun q => { q with nbrs := tset {} q.nbrs addr ⟨some mac, 0⟩ }) s |> pumpPorts
    else otherDrop p s) s

/-- NS_RETRY_EXPIRE (R321): 1 s without an answer. After the third solicitation resolution ends. -/
def execNsRetryExpire (die port addr : Nat) (s : State) : Host.Outcome State Fault Refusal :=
  onPort die port (fun p s =>
    let n := tget {} (getPort s p).nbrs addr
    if n.mac.isSome ∨ n.tries = 0 then s
    else if n.tries < 3 ∧ portUp s p then
      emit p (.solicit addr) (modPort p (fun q => { q with nbrs := tset {} q.nbrs addr ⟨none, n.tries + 1⟩ }) s)
    else modPort p (fun q => { q with nbrs := tset {} q.nbrs addr {} }) s) s

/-- NEIGHBOR_CACHE_EXPIRE (R321): an answer is kept for 30 s. -/
def execNeighborCacheExpire (die port addr : Nat) (s : State) : Host.Outcome State Fault Refusal :=
  onPort die port (fun p s =>
    if (tget {} (getPort s p).nbrs addr).mac.isSome then
      modPort p (fun q => { q with nbrs := tset {} q.nbrs addr {} }) s else s) s

/-- PFC_FRAME (R332): an enabled priority stops for the pause time given, or goes on. -/
def execPfcFrame (die port : Nat) (prio quanta : Nat) (s : State) : Host.Outcome State Fault Refusal :=
  onPort die port (fun p s =>
    if !portUp s p then s
    else if !pfcOn s p prio then otherDrop p s
    else if quanta = 0 then
      modPort p (fun q => { q with paused := q.paused.filter (· != prio) }) s |> pumpPorts
    else
      modPort p (fun q => { q with paused := insertNew q.paused prio }) s |> bump (portBase p + 0x168) 1) s

/-- PFC_PAUSE_EXPIRE (R332): the pause time has passed. -/
def execPfcPauseExpire (die port prio : Nat) (s : State) : Host.Outcome State Fault Refusal :=
  onPort die port (fun p s =>
    modPort p (fun q => { q with paused := q.paused.filter (· != prio) }) s |> pumpPorts) s

/-- LLDP_TIMER (R336): every 30 s in UP. -/
def execLldpTimer (die port : Nat) (s : State) : Host.Outcome State Fault Refusal :=
  onPort die port (fun p s => if portUp s p ∧ (getPort s p).ctl.lldpEn then emit p (.lldp (lldpFrame p)) s else s) s

/-- NON_TRANSPORT_FRAME (R323, R335, R336): LLDP, Router Advertisements, Redirects and every other frame
that check 3 drops, of whatever kind. -/
def execNonTransportFrame (die port : Nat) (fcs : Bool) (_kind : Nat) (s : State) : Host.Outcome State Fault Refusal :=
  onPort die port (fun p s =>
    if !portUp s p then s else if fcs then otherDrop p s else bump (portBase p + 0x120) 1 s) s

/-! ## PORT_CTL -/

/-- The fields of a value written to PORT_CTL (R332, R337). -/
def portCtlOf (p v : Nat) (enable : Bool) : PortCtl :=
  let vlan := bitAt v 3
  { vid := fieldOf v 59 48
    pfcEn := if vlan ∧ p % 2 = 0 then fieldOf v 47 40 else 0
    npaths := fieldOf v 39 32
    reorder := fieldOf v 23 16
    nhMode := bitAt v 4
    vlanEn := vlan
    ecnEn := bitAt v 2
    lldpEn := bitAt v 1
    enable := enable }

/-- ENABLE takes effect at once (R316, R337). -/
def portEnable (p : Nat) (on : Bool) (s : State) : State :=
  let was := (getPort s p).ctl.enable
  let s := modPort p (fun q => { q with ctl := { q.ctl with enable := on } }) s
  if was = on then s else if on then portTo p .down s else portLeave p .disabled s

/-- The fields that wait for a step boundary take effect (R337). -/
def portCtlApply (p : Nat) (s : State) : State :=
  match (getPort s p).ctlNext with
  | none => s
  | some c => modPort p (fun q => { q with ctl := { c with enable := q.ctl.enable }, ctlNext := none }) s |> pumpPorts

/-- A write of PORT_CTL: ENABLE at once; the rest at the next step boundary, which an attempt that runs ends in,
or at once without an active plan (R137, R337). -/
def portCtlSet (p v : Nat) (s : State) : State :=
  let s := modPort p (fun q => { q with ctlNext := some (portCtlOf p v (bitAt v 0)) }) s |> portEnable p (bitAt v 0)
  if s.plan.active && inAttempt s then s else portCtlApply p s

/-- PORT_CTL_WRITE (R337, R552, R556). -/
def execPortCtlWrite (die port : Nat) (v : BitVec 64) (s : State) : Host.Outcome State Fault Refusal :=
  .next (hostAccess (portBase (2 * die + port) + 8)
    (fun s => if portOk die port then portCtlSet (2 * die + port) v.toNat s else s) s)

end Sys2Proof.Machine
end

