-- ==== Sys2Proof/Machine/Scale.lean ====
section
/-!
DEFINITION. Tensor status words and scale records over a step (R78, R98 to R103).
-/
namespace Sys2Proof.Machine

/-- The regions that have a pair of status words. -/
def stsRegions (s : State) : List Region := (imgRegions s s.act).filter fun r => r.status != allOnes64

/-- The status word of a region in a step (R78). -/
def stsWord (r : Region) (step : Nat) : Nat := r.status + 8 * (step % 2)

/-- Zero every status word of a step (R291). -/
def zeroStatus (step : Nat) (s : State) : State :=
  (stsRegions s).foldl (fun s r => writeTier 0 (stsWord r step) (List.replicate 8 0#8) s) s

/-- A status word of a CHECKED region has NONFINITE set (R292). -/
def anyNonfinite (s : State) (step : Nat) : Bool :=
  (stsRegions s).any fun r => bitAt r.flags 0 && (Sts.ofWord (ofBytes (readTier s 0 (stsWord r step) 8))).nonfinite

/-- AMAX of a region in a step, as an FP32 pattern. -/
def amaxOf (s : State) (r : Region) (step : Nat) : Nat := numAt (readTier s 0 (stsWord r step) 8) 4 4

/-- The regions with a scale record in ascending region number, one for each record (R357): the first of those that
name one record gives it its maximum.
DEDUCED: notes/assumptions/159.md. -/
def scaleRegions (s : State) : List Region :=
  let l := ((imgRegions s s.act).filter fun r => r.scale != allOnes64).insertionSort fun a b => a.num ≤ b.num
  l.foldl (fun acc r => if acc.any fun q => q.scale == r.scale then acc else acc ++ [r]) []

/-- A field of a scale record (R98). -/
def recNum (s : State) (r : Region) (off n : Nat) : Nat := mreadNum s.hbm (r.scale + off) n

/-- The scale record has GLOBAL set. -/
def isGlobal (s : State) (r : Region) : Bool := bitAt (recNum s r 6 1) 1

/-- The regions whose maximum the group forms (R103).
DEDUCED: notes/assumptions/100.md. -/
def globalRegions (s : State) : List Region := (scaleRegions s).filter (isGlobal s)

/-- A record takes a step's maximum and its next exponent; an initial history that holds a value that is
not finite gives a free one (R100, R101).
DEDUCED: notes/assumptions/100.md. -/
def scaleCommit (step : Nat) (s : State) (r : Region) : State :=
  let h := max 1 (recNum s r 0 2)
  let head := recNum s r 8 2 % h
  let a := if isGlobal s r then tget 0 s.steps.scaleDone r.num - 1 else amaxOf s r step
  let s := writeTier 0 (r.scale + 32 + 4 * head) (toBytes 4 a) s
    |> writeTier 0 (r.scale + 8) (toBytes 2 ((head + 1) % h))
    |> writeTier 0 (r.scale + 16) (toBytes 8 step)
  let hist := (rangeFrom 0 h).map fun i => recNum s r (32 + 4 * i) 4
  if (fpDecode fp32 (hist.foldl Nat.max 0)).finite then
    let e := scaleExp (recNum s r 3 1) (recNum s r 2 1) (signedOf 8 (recNum s r 5 1)) hist
    writeTier 0 (r.scale + 4) (toBytes 1 (unsignedOf 8 e)) s
  else
    let f := takeFree s
    writeTier 0 (r.scale + 4) (toBytes 1 f.1) f.2

/-- Write every scale record of the member (R298). -/
def commitScales (s : State) : State := (scaleRegions s).foldl (scaleCommit s.steps.step) s

end Sys2Proof.Machine
end

