-- ==== Sys2Proof/Machine/Stash.lean ====
section
/-!
DEFINITION. Stash requests (R259 to R265) and weight gathers (R268 to R270).
-/
namespace Sys2Proof.Machine

/-! ## Stash requests -/

/-- An engine's access to local memory. -/
def engineOk (s : State) (a len : Nat) : Bool :=
  let g := gaddr a
  isLocal s g.mod && decide (g.tier ≤ 2) && localOk s g len

/-- SAVE (R259, R262, R462).
DESIGN CHOICE: notes/assumptions/65.md. -/
def stashSave (die : Nat) (d : List Byte) (s : State) : State :=
  let i := numAt d 4 2
  let e := stashDesc s i
  let addr := numAt d 8 8
  if workload s ≠ 0 ∨ stashCount s ≤ i then s
  else match storedForm s e, stashPart e (numAt d 16 4) (numAt d 20 4) with
  | some code, some p =>
    if !engineOk s addr (partLen e p e.src) then s
    else
      let got := if (getEnt s i).frames ≠ [] then some s else if s.stash.full then none else stashAlloc i e s
      match got with
      | none => stashRefuse i e s |> writeLedger e.layer
      | some s =>
        let src := readLocal s (gaddr addr) (partLen e p e.src)
        let r := savePart e p src code s
        r.1 |> updateStsAt (source 7 (0x100 + die)) (e.sts + 8 * (updStep s % 2)) r.2
          |> modEnt i (fun x => { x with stored := (rangeFrom (p.t0 / 128) (p.n / 128)).foldl insertNew x.stored })
          |> writeLedger e.layer
  | _, _ => s

/-- The bytes of a part in its stored form and its own orientation: elements, then scale bytes. -/
def loadRaw (s : State) (e : StashDesc) (p : StashPart) (code : Nat) : List Byte :=
  let w := elemBits code
  let order := (rangeFrom 0 (p.n * e.cols)).map fun x =>
    if e.chanMajor then (p.t0 + x % p.n, x / p.n) else (p.t0 + x / e.cols, x % e.cols)
  let bits := order.foldr (fun tc n => n <<< w + stashBits s e.first (stashIdx e tc.1 tc.2 * w) w) 0
  let scales := if blockLen code = 0 then [] else
    (order.mapIdx fun i tc => (i, tc)).filterMap fun x =>
      if x.1 % blockLen code = 0 then some (stashGet s e.first (scalePlace s e code x.2.1 x.2.2)) else none
  toBytes (partBytes e p code) bits ++ scales

/-- The value of a stored element. -/
def loadVal (s : State) (e : StashDesc) (code t c : Nat) : Num :=
  let raw := stashBits s e.first (stashIdx e t c * elemBits code) (elemBits code)
  if blockLen code = 0 then valueElem code 0 raw
  else valueScaled code (stashGet s e.first (scalePlace s e code t c)).toNat raw

/-- The bytes of a part in BF16 or FP32, token-major or channel-major (R259). -/
def loadConv (s : State) (e : StashDesc) (p : StashPart) (code dst : Nat) (chan : Bool) : List Byte :=
  let order := (rangeFrom 0 (p.n * e.cols)).map fun x =>
    if chan then (p.t0 + x % p.n, x / p.n) else (p.t0 + x / e.cols, x % e.cols)
  order.flatMap fun tc => toBytes (elemBits dst / 8) (convElem dst false 0 (loadVal s e code tc.1 tc.2)).1

/-- LOAD (R259). The model's counter of free values passes over the bytes that an absent page leaves
open.
DESIGN CHOICE: notes/assumptions/66.md. -/
def stashLoad (d : List Byte) (s : State) : State :=
  let i := numAt d 4 2
  let e := stashDesc s i
  let addr := numAt d 8 8
  let form := numAt d 1 1
  if stashCount s ≤ i then s
  else match stashPart e (numAt d 16 4) (numAt d 20 4) with
  | none => s
  | some p =>
    let code := (storedForm s e).getD e.src
    let data := if form = 0 then loadRaw s e p code
      else loadConv s e p code (if form = 1 then 0x1 else 0x0) (numAt d 2 1 == 1)
    if !engineOk s addr data.length then s
    else writeLocal (gaddr addr) data { s with free := s.free + e.pages * pageSize s }

/-- The highest layer below one whose INPUT_KEPT is set, as its number + 1 (R265). -/
def keptBelow (s : State) : Nat → Nat
  | 0 => 0
  | l + 1 => if inputKept s l then l + 1 else keptBelow s l

/-- The chain word of a layer (R265). -/
def chainWord (s : State) (layer : Nat) : Nat :=
  if inputKept s layer then 0
  else (rangeFrom 0 64).foldl (fun n i => if i < layer ∧ keptBelow s layer ≤ layer - i then n + 2 ^ i else n) 0

/-- A page of a stored entry is not RESIDENT. -/
def entLost (s : State) (i : Nat) : Bool :=
  let e := stashDesc s i
  entStored s i && (rangeFrom e.first (getEnt s i).frames.length).any fun k => peState (pentry s k) != 1

/-- CHECK (R265, R462). -/
def stashCheck (d : List Byte) (s : State) : State :=
  let layer := (stashDesc s (numAt d 4 2)).layer
  let addr := numAt d 8 8
  if !engineOk s addr 16 then s
  else if workload s ≠ 0 then writeLocal (gaddr addr) (List.replicate 16 0#8) s
  else
    let s := (layerEnts s layer).foldl (fun s i => if entLost s i then modEnt i (fun x => { x with lost := true }) s else s) s
    let s := writeLedger layer s
    let w := chainWord s layer
    let own := if allKept s layer then 0 else allOnes64
    writeLocal (gaddr addr) (toBytes 8 w ++ toBytes 8 own) s
      |> bump (pmapBase + 0x120) ((rangeFrom 0 64).filter fun i => bitAt w i).length

/-- A stash request in a plan without stash table is an address fault (R173, R255). No ring names a stream that
asked, so the event names the stash of the die.
DEDUCED: notes/assumptions/167.md. -/
def noStash (die : Nat) (s : State) : State :=
  let src := source 7 (0x100 + die)
  let s := raise src 0x0103 [(19, 1, 1)] s
  if workload s ≤ 1 then sendFail cStepAborted src s else s

/-- The next request of a die's stash ring, if it has the operation of the row: it is popped, served and
signalled (R259).
DESIGN CHOICE: notes/assumptions/66.md. -/
def stashServe (die op : Nat) (f : List Byte → State → State) (s : State) : Host.Outcome State Fault Refusal :=
  onUnit (decide (die < 8))
    (if s.plan.active && (stashTab s).isNone then noStash die s
    else match ringHead s (stashRing s die) with
    | none => s
    | some (r, d) =>
      if numAt d 0 1 ≠ op then s
      else f d (enginePop r s).2 |> signalLogical (numAt d 6 2) (numAt d 3 1 % 64) 1)

/-- STASH_SAVE. -/
def execStashSave (die : Nat) (s : State) : Host.Outcome State Fault Refusal := stashServe die 0 (stashSave die) s

/-- STASH_LOAD. -/
def execStashLoad (die : Nat) (s : State) : Host.Outcome State Fault Refusal := stashServe die 1 stashLoad s

/-- STASH_CHECK. -/
def execStashCheck (die : Nat) (s : State) : Host.Outcome State Fault Refusal := stashServe die 2 stashCheck s

/-! ## Weight gathers -/

/-- Change a gather engine. -/
def modGath (die : Nat) (f : GatherEng → GatherEng) (s : State) : State :=
  { s with gather := { s.gather with engs := tmod {} s.gather.engs die f } }

/-- A version fault ends the request without a signal (R270). -/
def versionFault (die e tag found : Nat) (s : State) : State :=
  modGath die (fun g => { g with job := none, fault := true }) s
    |> raise (source 3 die) 0x0502
      [(18, 2, gathNum s e 4 2), (20, 4, gathNum s e 0 4), (24, 4, tag % 2 ^ 32), (28, 4, found % 2 ^ 32)]
    |> sendFail cParamVersion (source 3 die)

/-- The port of a gather's remote reads (R317): the quad port that PORT names. -/
def gathPort (s : State) (e : Nat) : Nat := 2 * gathNum s e 6 1 + 1

/-- The region that receives the body. -/
def gathDst (s : State) (e : Nat) : Nat :=
  match imgRegion s s.act (gathNum s e 16 4) with
  | some r => mkGaddr s.me r.tier r.base
  | none => 0

/-- Record the tag of a FORWARD gather, in the engine and in the record area. -/
def gathRecord (e tag : Nat) (s : State) : State :=
  let s := { s with gather := { s.gather with records := tset 0 s.gather.records e (tag + 1) } }
  match gathTab s with
  | some r => writeTier 0 (r.base + 32 + 32 * gathCount s + 8 * e) (toBytes 8 tag) s
  | none => s

/-- The request is done: its signal leaves. -/
def gathDone (die : Nat) (j : GatherJob) (s : State) : State :=
  signalLogical j.cell j.sem 1 (modGath die (fun g => { g with job := none }) s)

/-- What an engine does next: nothing more, read a header, or copy the body of a length. -/
inductive GathNext where
  | stop
  | header
  | body (len : Nat)
  deriving DecidableEq, Repr

/-- The tag that a gather expects: t of step t + 1 for FORWARD, the record otherwise; none without a
record (R268, R269).
DEDUCED: notes/assumptions/69.md. -/
def gathWant (s : State) (j : GatherJob) : Option Nat :=
  if j.pass = 0 then some (updStep s - 1)
  else let r := tget 0 s.gather.records j.entry; if r = 0 then none else some (r - 1)

/-- A header has been read: its tag and body length decide (R268 to R270).
DESIGN CHOICE: notes/assumptions/68.md. -/
def gathHeader (die tag len : Nat) (s : State) : State × GathNext :=
  match (getGath s die).job with
  | none => (s, .stop)
  | some j =>
    let want := gathWant s j
    let rec_ := tget 0 s.gather.records j.entry - 1
    let copy := fun s => (modGath die (fun g => { g with job := some { j with phase := 1, tag := tag } }) s, GathNext.body len)
    if want = some tag then
      if j.phase = 2 then
        let s := if j.pass = 0 then gathRecord j.entry tag s else s
        (gathDone die j s, .stop)
      else copy s
    else if j.pass ≠ 0 then (versionFault die j.entry rec_ tag s, .stop)
    else if tag ≠ allOnes64 ∧ want.getD 0 < tag then (versionFault die j.entry rec_ tag s, .stop)
    else
      let s := if j.phase = 2 then bump (galBase die + 0x30018) 1 s else s
      (modGath die (fun g => { g with job := some { j with phase := 0 } }) s, .stop)

/-- The body has landed: the header is read again.
DEDUCED: notes/assumptions/69.md. -/
def gathLanded (die len : Nat) (s : State) : State :=
  bump (galBase die + 0x30008) len s
    |> modGath die (fun g => { g with job := g.job.map fun j => { j with phase := 2 } })

/-- Read the header of the shard: 16 bytes, from a peer. An owner at an empty position gets no frame (R309).
DESIGN CHOICE: notes/assumptions/68.md. -/
def gathReadHdr (die e : Nat) (s : State) : State :=
  let owner := gathNum s e 4 2
  if imgEmpty s s.act owner then s
  else remoteRead (.gatherHdr die) owner (gathPort s e) [(mkGaddr owner 0 (gathNum s e 8 8), gathDst s e, 16)] s

/-- Carry on after a header of a remote shard: the body is read remotely (R334). -/
def gathRemote (die : Nat) (r : State × GathNext) (e : Nat) : State :=
  match r.2 with
  | .stop => r.1
  | .header => gathReadHdr die e r.1
  | .body len =>
    let owner := gathNum r.1 e 4 2
    if len = 0 then gathLanded die 0 r.1 |> gathReadHdr die e
    else remoteRead (.gather die) owner (gathPort r.1 e)
      [(mkGaddr owner 0 (gathNum r.1 e 8 8 + 64), gathDst r.1 e, len)] r.1

/-- The member's own shard: header, body and header again, in one go. -/
def gathLocal (die e : Nat) (s : State) : State :=
  let src := gathNum s e 8 8
  let h := readTier s 0 src 16
  let r := gathHeader die (numAt h 0 8) (numAt h 8 8) s
  match r.2 with
  | .body len =>
    let s := writeLocal (gaddr (gathDst r.1 e)) (readTier r.1 0 (src + 64) len) r.1 |> gathLanded die len
    (gathHeader die (numAt h 0 8) (numAt h 8 8) s).1
  | _ => r.1

/-- Begin or repeat the reading of the header. -/
def gathStart (die e : Nat) (s : State) : State :=
  if gathNum s e 6 1 = 0 then gathLocal die e s else gathReadHdr die e s

/-- A header of a peer's shard has landed, or its body has (R334); data is the payload. -/
def gathArrive (die : Nat) (hdr : Bool) (data : List Byte) (s : State) : State :=
  match (getGath s die).job with
  | none => s
  | some j =>
    if hdr then gathRemote die (gathHeader die (numAt data 0 8) (numAt data 8 8) s) j.entry
    else if xfersLeft s (.gather die) = 0 ∧ j.phase = 1 then gathLanded die data.length s |> gathReadHdr die j.entry
    else bump (galBase die + 0x30008) data.length s

/-- GATHER_REQUEST (R268, R269): the engine of a Gallery die pops its next request. -/
def execGatherRequest (die : Nat) (s : State) : Host.Outcome State Fault Refusal :=
  onUnit (decide (die < 4))
    (match ringHead s (gathRing s die) with
    | none => s
    | some (r, d) =>
      if (getGath s die).job.isSome then s
      else
        let s := (enginePop r s).2
        let e := numAt d 4 4
        if gathCount s ≤ e then s
        else
          let j : GatherJob := { pass := numAt d 0 1, sem := numAt d 1 1 % 64, cell := numAt d 2 2, entry := e }
          modGath die (fun g => { g with job := some j, lastLayer := gathNum s e 0 4 % 65536 }) s |> gathStart die e)

/-- GATHER_TAG_RETRY (R268): 1 µs, 1,250 cycles of GAL, after a tag of an earlier step the header is read
again. -/
def execGatherTagRetry (die : Nat) (s : State) : Host.Outcome State Fault Refusal :=
  onUnit (decide (die < 4))
    (match (getGath s die).job with
    | none => s
    | some j =>
      if j.phase ≠ 0 ∨ 0 < xfersLeft s (.gatherHdr die) then s
      else bump (galBase die + 0x30010) 1250 s |> gathStart die j.entry)

end Sys2Proof.Machine
end

