-- ==== Sys2Proof/Machine/Attempt.lean ====
section
/-!
DEFINITION. An attempt on one member: its start, its readiness, its commit and its abort (R130, R291 to
R294, R298 to R302, R463).
-/
namespace Sys2Proof.Machine

/-- Change the step controller. -/
def modSteps (f : Step → Step) (s : State) : State := { s with steps := f s.steps }

/-- EVAL is in force (R463). -/
def inEval (s : State) : Bool := workload s == 1

/-- Write one constant to a target (R130). -/
def putConst (block : Nat) (s : State) (e : ConstEnt) : State :=
  let v := fieldOf block (32 * e.slot + 31) (32 * e.slot)
  if e.target = 1 then
    { s with update := { s.update with params := tset 0#32 s.update.params e.cellOrParam (BitVec.ofNat 32 v) } }
  else match physOf s e.cellOrParam with
    | some k => setS k e.stream e.reg v s
    | none => s

/-- Why a member does not start an attempt, after its modes have latched (R15, R461, R464, R499, R502).
DESIGN CHOICE: notes/assumptions/98.md. -/
def goRefusal (s : State) : Option Nat :=
  if inRecovery s ∨ s.pwr.state = stHalted ∨ s.steps.phase = .restoring then some cNotReady
  else if s.plan.peerBad ∨ s.modes.unsupported then some cPlanInvalid
  else if s.faults.damaged ∨ (usedCells s).any fun e => decide (e.2 ∈ s.faults.stoppedCells) then some cStepAborted
  else none

/-- The record area of the gather table is cleared (R270).
DEDUCED: notes/assumptions/69.md. -/
def clearRecords (s : State) : State :=
  match gathTab s with
  | some r => writeTier 0 (r.base + 32 + 32 * gathCount s) (List.replicate (8 * gathCount s) 0#8) s
  | none => s

/-- VERSION_FAULT names the running step only (R271). -/
def noFaults (engs : Table GatherEng) : Table GatherEng :=
  (engs.map fun e => (e.1, { e.2 with fault := false })).filter fun e => e.2 != {}

/-- The engines of an attempt start afresh (R269, R280, R284, R350, R379). -/
def goEngines (s : State) : State :=
  let s := collReset s
  let layers := stashNum s 2 2
  let s := (rangeFrom 0 layers).foldl (fun s l => writeLedger l s) s
  let s := clearRecords s
  { s with
    gather := { records := [], engs := noFaults s.gather.engs }
    update := { s.update with
      written := [], sum := none, sumAsked := false
      engs := s.update.engs.map fun e => (e.1, { e.2 with terms := [], refused := false }) }
    mcs := s.mcs.map fun e => (e.1, { e.2 with quotaRaised := false }) }

/-- The actions of R291, after which the phase is RUNNING. -/
def goActions (block : Nat) (s : State) : State :=
  let s := modSteps (fun t => { t with phase := .running, waited := 0 }) s
  let s := (imgConsts s s.act).foldl (putConst block) s
  zeroStatus s.steps.step s |> goEngines |> addPubAmax |> sumUpdates |> intakeGo |> startTrigger 1

/-- STEP_GO on a member (R291, R458, R461, R464, R534).
DESIGN CHOICE: notes/assumptions/98.md. -/
def goEffect (step attempt block : Nat) (s : State) : State :=
  let s := modSteps (fun t => { t with
    step := step, attempt := attempt, live := true, nonfin := false, failed := false, commitHeld := false
    scaleAsked := [], scaleDone := [] }) s
  let s := capAtGo s
  let s := if inRecovery s then s else latchTo (goModes s) s
  match goRefusal s with
  | some c => sendStep (masterOf s) 2 c [] (modSteps (fun t => { t with failed := true }) s)
  | none => moveSys stRunning s |> goActions block

/-! ## Readiness -/

/-- What R292 asks but the scale maxima. -/
def readyBut (s : State) : Bool :=
  let st := s.steps
  st.phase == .running && !st.failed && !attemptRuns s && collsComplete s && !anyNonfinite s st.step &&
    s.update.engs.all (fun e => e.2.publishing.isEmpty) &&
    (inEval s || (updTab s).isNone || (allWritten s && s.update.sum.isSome))

/-- The next region whose GLOBAL maximum is still to be asked for (R103, R357). -/
def nextGlobal (s : State) : Option Region :=
  (globalRegions s).find? fun r => decide (r.num ∉ s.steps.scaleAsked)

/-- READY leaves with the wait figure (R292, R360). -/
def sendReady (s : State) : State :=
  let w := min (s.steps.waited / 1250) 0xFFFFFFFF
  sendStep (masterOf s) 1 w [] (modSteps (fun t => { t with phase := .readySent }) s)

/-- READY_SEND (R292): the next scale maximum is asked for over the whole set, or READY leaves once every
condition holds. -/
def execReadySend (s : State) : Host.Outcome State Fault Refusal :=
  .next (if !readyBut s then s
    else match nextGlobal s, wholeGroup s s.act with
    | some r, some g =>
      if (getOp s g 1).active then s
      else bellEnter g 1 2 (amaxOf s r s.steps.step) (.scale r.num)
        (modSteps (fun t => { t with scaleAsked := t.scaleAsked ++ [r.num] }) s)
    | some _, none => s
    | none, _ => if s.steps.scaleAsked.all fun n => decide (tget 0 s.steps.scaleDone n ≠ 0) then sendReady s else s)

/-! ## The end of an attempt -/

/-- What both ends share: the power figure, the port settings of the step boundary, the state and the
modes that wait (R205, R337, R458, R464, R534). -/
def attemptOver (code : Nat) (s : State) : State :=
  let s := modSteps (fun t => { t with
    phase := if t.phase = .restoring then .restoring else .idle, lastCode := code, live := false, failed := false }) s
  let s := powerEnd { s with gather := { s.gather with engs := noFaults s.gather.engs } }
  let s := (s.ports.map (·.1)).foldl (fun s p => portCtlApply p s) s
  let s := if s.steps.lostHalt ∧ s.pwr.state = stRunning then setSys stHalted s else s
  let s := latchModes s
  if s.pwr.state = stRunning then setSys stPlanned s else s

/-- The STEP_ABORT_REQ that waited complete (R298). -/
def abortReqsOver (code : Nat) (s : State) : State :=
  s.steps.aborts.foldl (fun s c => complete c code s) (modSteps (fun t => { t with aborts := [] }) s)

/-- The update engines hold nothing of an attempt any more. -/
def updateOver (s : State) : State :=
  { s with update := { s.update with
    written := [], sum := none, sumAsked := false
    engs := (s.update.engs.map fun e => (e.1, { e.2 with headers := [], signal := none, terms := [], refused := false })).filter
      fun e => e.2 != {} } }

/-- Q_PREV takes the set-wide sum of squares (R280). -/
def writeQPrev (s : State) : State :=
  match updTab s, s.update.sum with
  | some r, some v => writeTier 0 (r.base + 8) (toBytes 4 v) s
  | _, _ => s

/-- COMMIT on a member (R298, R463).
DEDUCED: notes/assumptions/102.md. -/
def commitEffect (s : State) : State :=
  let ev := inEval s
  let s := modSteps (fun t => { t with phase := .committing }) s |> finishPasses
  let s := if ev then undoLog s else commitScales s |> writeQPrev
  let s := { s with pmap := { s.pmap with log := [] } } |> stashRelease |> ncClear
  let s := modSteps (fun t => { t with committed := if ev then t.committed else t.step, commitHeld := true }) s
  let s := attemptOver cOk s |> raiseF (source 0 0) 0x0102 (bit01 ev) []
  let s := if ev then s else publishAll s |> circScores
  let s := circStepEnd s |> collReset |> updateOver |> intakeEnd 0 cOk
  startTrigger 3 s |> abortReqsOver cNotReady

/-- Discard the requests of a ring without their signals, and zero the semaphores that they name; f gives
the logical cell and the semaphore of an entry (R203, R264). -/
def dropRequests (f : List Byte → Nat × Nat) (s : State) (r : Nat) : State :=
  let g := getRing s r
  let named := ((rangeFrom 0 g.len).map fun i => ringRead s r (g.head + i)) ++
    (s.pushes.filter fun p => p.ring == r).map (·.data)
  let sems := (named.map f).filterMap fun x => (physOf s x.1).map fun k => (k, x.2)
  let s := modRing r (fun g => { g with head := g.tail, flying := 0 }) { s with
    pushes := s.pushes.filter fun p => p.ring != r
    sigs := s.sigs.filter fun q => decide ((q.cell, q.sem) ∉ sems) }
  sems.foldl (fun s x => modCell x.1 (fun c => { c with sems := tset 0 c.sems x.2 0 }) s) s

/-- The request rings of the stash, the gathers, the updates and the collectives.
DESIGN CHOICE: notes/assumptions/99.md. -/
def dropAllRequests (s : State) : State :=
  let s := ((rangeFrom 0 8).filterMap (stashRing s)).foldl (dropRequests fun d => (numAt d 6 2, numAt d 3 1 % 64)) s
  let s := ((rangeFrom 0 4).filterMap (gathRing s)).foldl (dropRequests fun d => (numAt d 2 2, numAt d 1 1 % 64)) s
  let s := ((rangeFrom 0 8).filterMap (updRing s)).foldl (dropRequests fun d => (numAt d 10 2, numAt d 9 1 % 64)) s
  ((rangeFrom 0 4).filterMap (reqRing s)).foldl (dropRequests fun _ => (768, 0)) s

/-- The gather engines stop, and so do the Bell operations of the attempt; each keeps its number.
DESIGN CHOICE: notes/assumptions/99.md. -/
def stopEngines (s : State) : State :=
  let s := (rangeFrom 0 4).foldl (fun s g => dropXfers (.gather g) (dropXfers (.gatherHdr g) s)) s
  { s with
    gather := { s.gather with
      engs := (s.gather.engs.map fun e => (e.1, { e.2 with job := none, fault := false })).filter fun e => e.2 != {} }
    bell := { s.bell with ops := (s.bell.ops.map fun e =>
      (e.1, ({ seq := if e.2.active then (e.2.seq + 1) % 2 ^ 32 else e.2.seq } : BellOp))).filter fun e => e.2 != {} } }

/-- ABORT on a member (R299, R300).
DEDUCED: notes/assumptions/81.md.
DEDUCED: notes/assumptions/96.md. -/
def abortEffect (code : Nat) (s : State) : State :=
  let s := modSteps (fun t => { t with phase := if t.phase = .restoring then .restoring else .aborting }) s |> stopPhases (attemptPhases s)
  let s := stopEngines s |> dropAllRequests |> circAbort |> collAbort |> dropAttemptFrames
  let s := stashRelease s |> undoLog |> updateOver |> collReset |> ncClear
  let s := intakeEnd 1 code s
  let s := if code = cMemberLost then modSteps (fun t => { t with lostHalt := true }) s else s
  let s := attemptOver code s
  let s := if code = cMemberLost then haltLost s else s
  raise (source 0 0) 0x0103 [(18, 2, code)] s |> startTrigger 4 |> abortReqsOver cOk

end Sys2Proof.Machine
end

