-- ==== Sys2Proof/Machine/BellRows.lean ====
section
/-!
DEFINITION. The messages of a Bell operation (R355); the second barrier of a permutation ends in the
load of the plan (R362).
-/
namespace Sys2Proof.Machine

/-- The operation that this member enters next on a group and channel: an early UP waits for it (R357). -/
def nextOp (o : BellOp) : Nat := if o.active then (o.seq + 1) % 2 ^ 32 else o.seq

/-- BELL_UP (R355): a child's value is combined, or kept until this member enters its operation. -/
def execBellUp (m : BellIn) (s : State) : Host.Outcome State Fault Refusal :=
  onBell m (fun b => b.kind == 0) opStale (fun src b s =>
    let o := getOp s b.group b.chan
    let l := bellGroup s b.group b.chan
    let rank := rankIn l (if b.chan = 4 then imgSetIndex s s.stg else s.me)
    if src ∉ bellChildren l rank then s
    else if b.seq = nextOp o then setOp b.group b.chan { o with early := o.early ++ [(src, b.value)] } s
    else if b.seq ≠ o.seq ∨ src ∈ o.heard then s
    else permEnd (bellTry b.group b.chan (setOp b.group b.chan (bellHear o (src, b.value)) s))) s

/-- BELL_DOWN (R355): the result that the root formed. -/
def execBellDown (m : BellIn) (s : State) : Host.Outcome State Fault Refusal :=
  onBell m (fun b => b.kind == 1) opStale (fun src b s =>
    let l := bellGroup s b.group b.chan
    let rank := rankIn l (if b.chan = 4 then imgSetIndex s s.stg else s.me)
    let o := getOp s b.group b.chan
    if o.active ∧ o.upSent ∧ b.seq = o.seq ∧ src = bellParent l rank then
      permEnd (bellDeliver b.group b.chan b.value s)
    else s) s

end Sys2Proof.Machine
end

