-- ==== Sys2Proof/Machine/Canary.lean ====
section
/-!
DEFINITION. The ring-step Canary of every engine that arms it (R206, R235, R268, R358, R361, R412).
-/
namespace Sys2Proof.Machine

/-- A wait for a peer has lasted CANARY_RING_MS: EV_CANARY, and the peer is reported (R206). -/
def peerCanary (src peer : Nat) (payload : List (Nat × Nat × Nat)) (s : State) : State :=
  raise src 0x0401 (payload ++ [(24, 2, peer)]) s |> reportPeer peer

/-- The Canary of a channel (R206).
DEDUCED: notes/assumptions/49.md. -/
def channelCanary (c : Nat) (s : State) : State :=
  match chanPeer s c with
  | some x => peerCanary (source 3 (chanDie s c)) x.2 [(18, 1, c), (20, 4, x.1)]
      (modChan c (fun ch => { ch with expired := ch.expired ++ [x] }) s)
  | none => s

/-- The children of a Bell operation whose UP has not come are reported (R358).
DESIGN CHOICE: notes/assumptions/64.md. -/
def bellCanary (grp chan : Nat) (s : State) : State :=
  let o := getOp s grp chan
  let l := bellGroup s grp chan
  let me := if chan = 4 then imgSetIndex s s.stg else s.me
  let late := (bellChildren l (rankIn l me)).filter fun c => decide (c ∉ o.heard)
  if o.active ∧ !o.upSent then late.foldl (fun s c => reportPeer c s) s else s

/-- The Canary of a collective that waits for a member, given by its final rank (R361).
DESIGN CHOICE: notes/assumptions/64.md. -/
def collCanary (c r : Nat) (s : State) : State :=
  if waitsOn s c r then peerCanary (source 3 (collDie s c)) (collMember s c r) [(20, 4, c)] s else s

/-- The Canary of the walks of streams and channels that wait for a page (R235); the event's payload is zero.
DEDUCED: notes/assumptions/109.md. -/
def walkCanary (s : State) : State :=
  if s.pmap.walks.isEmpty && !(s.circ.chans.any fun e => chanAwaits s e.1) then s
  else raise (mapSrc s) 0x0401 [] s |> sendFail cCanaryTimeout (mapSrc s)

/-- The Canary of a slot that waits for the main queue (R412). -/
def intakeCanary (s : State) : State :=
  if s.intake.starved ∧ inAttempt s then
    raise intakeSrc 0x0401 [] s |> sendFail cCanaryTimeout intakeSrc
  else s

/-- The Canary of a gather that waits for its tag (R268); the entry stands where R206 has the hop.
DEDUCED: notes/assumptions/109.md. -/
def gatherCanary (die : Nat) (s : State) : State :=
  match (getGath s die).job with
  | some j =>
    if j.phase = 0 ∧ gathNum s j.entry 6 1 ≠ 0 then
      peerCanary (source 3 die) (gathNum s j.entry 4 2) [(20, 4, j.entry)] s
    else s
  | none => s

/-- RING_STEP_CANARY_EXPIRE: the wait named has lasted CANARY_RING_MS. -/
def execRingStepCanaryExpire (w : RingWait) (s : State) : Host.Outcome State Fault Refusal :=
  match w with
  | .channel c => onUnit (decide (c < 64)) (channelCanary c s)
  | .bellUp grp chan => .next (bellCanary grp chan s)
  | .coll c peer => .next (collCanary c peer s)
  | .walk => .next (walkCanary s)
  | .intake => .next (intakeCanary s)
  | .gather die => onUnit (decide (die < 4)) (gatherCanary die s)

end Sys2Proof.Machine
end

