-- ==== Sys2Proof/Machine/Checkpoint.lean ====
section
/-!
DEFINITION. Checkpoints: writing a slot, its mirror and its export, and restoring one (R303 to R308).
-/
namespace Sys2Proof.Machine

/-- Change the checkpoint engine. -/
def modCkpt (f : Ckpt → Ckpt) (s : State) : State := { s with ckpt := f s.ckpt }

/-- How bytes of a slot are read: offset and length. -/
abbrev SlotRead := Nat → Nat → List Byte

/-- Bytes of a slot in the deep tier. -/
def deepSlot (s : State) (base : Nat) : SlotRead := fun o n => readTier s 1 (base + o) n

/-- The base of slot 0 or 1 of a region (R303). -/
def slotAt (r : Region) (slot : Bool) : Nat := r.base + if slot then r.len / 2 else 0

/-- A field of a checkpoint header (R303). -/
def hdrNum (rd : SlotRead) (off n : Nat) : Nat := ofBytes (rd off n)

/-- A slot is valid: MAGIC, VERSION, and BODY_DIGEST over the CRC table (R303). -/
def slotValid (rd : SlotRead) : Bool :=
  hdrNum rd 0 4 == 0x4B43474E && hdrNum rd 4 2 == 1 && rd 64 32 == shake256 (rd 4096 (4 * hdrNum rd 52 4))

/-- The newest valid slot of a region; last names the slot written last, which is the newer of two of one
step. -/
def newestSlot (s : State) (r : Region) (last : Bool) : Option Bool :=
  let a := deepSlot s (slotAt r false)
  let b := deepSlot s (slotAt r true)
  match slotValid a, slotValid b with
  | true, true =>
    let x := hdrNum a 8 8
    let y := hdrNum b 8 8
    some (if x = y then last else decide (x < y))
  | true, false => some false
  | false, true => some true
  | false, false => none

/-- The slot that a write takes (R304). -/
def targetSlot (s : State) (r : Region) (last : Bool) : Bool :=
  match newestSlot s r last with
  | some b => !b
  | none => false

/-- This member has a buddy (R308). -/
def hasBuddy (s : State) : Bool :=
  let n := imgSetSize s s.act
  decide (8 ≤ n) && !imgEmpty s s.act ((s.me + 4) % n)

/-- The length of the state block of a descriptor (R273).
DESIGN CHOICE: notes/assumptions/105.md. -/
def ckptBlock (s : State) (j : Nat) : Nat :=
  stateBytes (updNum s j 4 1 == 0) (updNum s j 5 1) (updNum s j 8 4) (updNum s j 12 4)

/-- The length of this member's body (R303). -/
def ownBody (s : State) : Nat := bodyLen (imgRegions s s.act) ((rangeFrom 0 (updCount s)).map (ckptBlock s))

/-- Bytes in a slot: the header area, the CRC table and the body (R303). -/
def slotBytes (body : Nat) : Nat := bodyStart body + body

/-- The body of a checkpoint of step c (R303). -/
def bodyBytes (s : State) (c : Nat) : List Byte :=
  let blocks := (rangeFrom 0 (updCount s)).flatMap fun j =>
    sliceBytes (readTier s 1 (updBlock s j (c % 2)) (ckptBlock s j)) 0 (up64 (ckptBlock s j))
  blocks ++ match imgKind s s.act 11 with
    | some r => readTier s 0 r.base r.len
    | none => []

/-- The CRC table of a body (R303).
DEDUCED: notes/assumptions/104.md. -/
def crcTable (body : List Byte) : List Byte :=
  (rangeFrom 0 (ceilDiv body.length 65536)).flatMap fun u =>
    toBytes 4 (crc32c (sliceBytes body (65536 * u) 65536)).toNat

/-- The header of a checkpoint of step c (R303). -/
def ckptHeader (s : State) (c : Nat) (body table : List Byte) : List Byte :=
  let q := match updTab s with | some r => mreadNum s.hbm (r.base + 8) 4 | none => 0
  toBytes 4 0x4B43474E ++ toBytes 2 1 ++ toBytes 2 0 ++ toBytes 8 c ++ toBytes 8 s.steps.epoch ++ toBytes 2 s.me ++ toBytes 6 0 ++
    toBytes 8 (imgSetId s s.act) ++ toBytes 8 body.length ++ toBytes 4 q ++ toBytes 4 (table.length / 4) ++ toBytes 8 0 ++
    shake256 table ++ List.replicate 160 0#8

/-! ## Writing -/

/-- A checkpoint command ends at once with a code.
DESIGN CHOICE: notes/assumptions/105.md. -/
def ckptRefuse (c : CmdRef) (code : Nat) (s : State) : State :=
  complete c code (modCkpt (fun k => { k with lastCode := code }) s)

/-- CKPT_WRITE (R304): the target loses its MAGIC, and the body and its CRC table are written.
DEDUCED: notes/assumptions/104.md. -/
def cmdCkptWrite (c : CmdRef) (step flags addr len : Nat) (s : State) : State :=
  if 4 ≤ flags then ckptRefuse c cPlanInvalid s
  else match imgKind s s.act 8 with
  | none => ckptRefuse c cNotReady s
  | some r =>
    let size := slotBytes (ownBody s)
    if s.pwr.state ∉ [stPlanned, stRunning, stHalted] ∨ !s.plan.active then ckptRefuse c cNotReady s
    else if s.steps.committed ≠ step then ckptRefuse c cStepMismatch s
    else if s.ckpt.cmd.isSome then ckptRefuse c cNotReady s
    else if bitAt flags 0 ∧ !hasBuddy s then ckptRefuse c cPlanInvalid s
    else if bitAt flags 1 ∧ len < size then ckptRefuse c cNotReady s
    else
      let t := targetSlot s r s.ckpt.target
      let body := bodyBytes s step
      let table := crcTable body
      let base := slotAt r t
      let s := modCkpt (fun k => { k with
        st := .writing, cmd := some c, target := t, step := step, mirror := bitAt flags 0, export_ := bitAt flags 1
        hostAddr := addr, hostLen := len, header := ckptHeader s step body table }) s
      writeTier 1 base (toBytes 4 0) s |> writeTier 1 (base + 4096) table |> writeTier 1 (base + bodyStart body.length) body

/-- CKPT_WRITE. -/
def execCkptWrite (id : BitVec 16) (step : BitVec 64) (flags : BitVec 8) (addr len : BitVec 64) (s : State) :
    Host.Outcome State Fault Refusal :=
  let t := take id.toNat 0x20 s
  .next (cmdCkptWrite t.1 step.toNat flags.toNat addr.toNat len.toNat t.2)

/-- The mirror leaves for the buddy, each unit by a spine port in turn; where it goes on the buddy no frame
of this chapter states (R304).
DESIGN CHOICE: notes/assumptions/106.md. -/
def sendMirror (base body : Nat) (s : State) : State :=
  let peer := (s.me + 4) % imgSetSize s s.act
  let f := takeFree s
  (rangeFrom 0 (ceilDiv (slotBytes body) 65536)).foldl (fun s u =>
    let n := min 65536 (slotBytes body - 65536 * u)
    remoteWrite (.mirror u) peer (2 * (u % 4)) [((f.1 + 65536 * u) % 2 ^ 64, readTier s 1 (base + 65536 * u) n)] (0, 0, 0) s) f.2

/-- A unit of the mirror is still to be acknowledged. -/
def mirrorLeft (s : State) : Bool :=
  s.xfers.any fun e => match e.2 with
    | some x => x.write && match x.what with | .mirror _ => true | _ => false
    | none => false

/-- The end of the command, after the header of an export (R304). -/
def ckptOver (base size : Nat) (s : State) : State :=
  let k := s.ckpt
  let s := if k.export_ then hostWrite k.hostAddr (readTier s 1 base 4096) s else s
  let s := modCkpt (fun k => { k with st := .idle, cmd := none, lastCode := cOk, header := [], mirror := false, export_ := false }) s
  match k.cmd with
  | some c => completeR c cOk size s
  | none => s

/-- What follows the slot and its mirror (R304): an export begins with the CRC table and the body, or the command
ends. -/
def ckptFinish (base size : Nat) (s : State) : State :=
  if s.ckpt.export_ then
    hostWrite (s.ckpt.hostAddr + 4096) (readTier s 1 (base + 4096) (size - 4096)) (modCkpt (fun k => { k with st := .exporting }) s)
  else ckptOver base size s

/-- CKPT_WRITE_COMPLETE (R304): the header is written last; the mirror is sent, and once it has ended the
export follows, its header last, and the command completes. -/
def execCkptWriteComplete (s : State) : Host.Outcome State Fault Refusal :=
  .next (match imgKind s s.act 8, s.ckpt.st with
    | some r, .writing =>
      let base := slotAt r s.ckpt.target
      let body := numAt s.ckpt.header 40 8
      let s := writeTier 1 base s.ckpt.header s
      if s.ckpt.mirror then sendMirror base body (modCkpt (fun k => { k with st := .mirroring }) s)
      else ckptFinish base (slotBytes body) s
    | some r, .mirroring =>
      if mirrorLeft s then s
      else ckptFinish (slotAt r s.ckpt.target) (slotBytes (numAt s.ckpt.header 40 8)) s
    | some r, .exporting => ckptOver (slotAt r s.ckpt.target) (slotBytes (numAt s.ckpt.header 40 8)) s
    | _, _ => s)

/-! ## Restoring -/

/-- A restore ends without a change (R306, R449). -/
def restoreFail (code : Nat) (s : State) : State :=
  let cmd := s.ckpt.cmd
  let s := dropReads (fun w => match w with | .checkpoint _ => true | _ => false) s
  let s := modCkpt (fun k => { k with
    st := .idle, cmd := none, lastCode := code, buf := [], got := 0, want := 0, again := [], units := [] }) s
  completeOpt cmd code (modSteps (fun t => { t with phase := .idle }) s)

/-- The header of a slot that a restore of step c may take (R306).
DEDUCED: notes/assumptions/107.md. -/
def headerFits (s : State) (c : Nat) (rd : SlotRead) : Bool :=
  hdrNum rd 0 4 == 0x4B43474E && hdrNum rd 4 2 == 1 && hdrNum rd 8 8 == c && hdrNum rd 16 8 == s.steps.epoch &&
    hdrNum rd 24 2 == s.me && hdrNum rd 32 8 == imgSetId s s.act && hdrNum rd 40 8 == ownBody s &&
    hdrNum rd 52 4 == ceilDiv (ownBody s) 65536

/-- A unit of a slot's body, padded with zeros. -/
def slotUnit (rd : SlotRead) (body u : Nat) : List Byte :=
  sliceBytes (rd (bodyStart body + 65536 * u) (min 65536 (body - 65536 * u))) 0 65536

/-- The units of a slot that fail their CRC. -/
def badUnits (rd : SlotRead) : List Nat :=
  let body := hdrNum rd 40 8
  (rangeFrom 0 (hdrNum rd 52 4)).filter fun u => (crc32c (slotUnit rd body u)).toNat != hdrNum rd (4096 + 4 * u) 4

/-- Write the body back: state blocks into copy c mod 2, scale records, Q_PREV (R306). -/
def restoreBody (c : Nat) (rd : SlotRead) (s : State) : State :=
  let start := bodyStart (hdrNum rd 40 8)
  let r := (rangeFrom 0 (updCount s)).foldl (fun (a : State × Nat) j =>
    let n := ckptBlock a.1 j
    (writeTier 1 (updBlock a.1 j (c % 2)) (rd a.2 n) a.1, a.2 + up64 n)) (s, start)
  let s := match imgKind s s.act 11 with
    | some g => writeTier 0 g.base (rd r.2 g.len) r.1
    | none => r.1
  match updTab s with
  | some t => writeTier 0 (t.base + 8) (rd 48 4) s
  | none => s

/-- Write a slot that came from elsewhere into the member's own region, header last (R306). -/
def keepSlot (rd : SlotRead) (s : State) : State :=
  match imgKind s s.act 8 with
  | none => s
  | some r =>
    let t := targetSlot s r s.ckpt.target
    let base := slotAt r t
    writeTier 1 base (toBytes 4 0) s
      |> writeTier 1 (base + 4096) (rd 4096 (slotBytes (hdrNum rd 40 8) - 4096))
      |> writeTier 1 base (rd 0 256) |> modCkpt (fun k => { k with target := t })

/-- A slot that fits has passed its checks: the actions of R306. -/
def restoreFrom (rd : SlotRead) (s : State) : State :=
  let c := s.ckpt.step
  let s := restoreBody c rd s
  let s := if s.ckpt.source = 0 then s else keepSlot rd s
  let s := modSteps (fun t => { t with committed := c }) { s with pmap := { s.pmap with log := [] } } |> stashEmpty
  modCkpt (fun k => { k with publishing := true, buf := [] }) s |> setSys stPlanned |> publishAll |> restoreOver

/-- The local slots that a restore of step c may take, the newer first (R306).
DEDUCED: notes/assumptions/107.md. -/
def localSlots (s : State) (c : Nat) : List SlotRead :=
  match imgKind s s.act 8 with
  | none => []
  | some r =>
    let t := s.ckpt.target
    [deepSlot s (slotAt r t), deepSlot s (slotAt r !t)].filter fun rd => slotValid rd && headerFits s c rd

/-- Ask a member for a unit of a slot over a spine port (R304, R306): no rule states where the slot lies there.
DESIGN CHOICE: notes/assumptions/106.md. -/
def askUnit (peer unit len : Nat) (s : State) : State :=
  let f := takeFree s
  remoteRead (.mirror unit) peer (2 * (unit % 4)) [(f.1 % 2 ^ 64, mkGaddr s.me 1 0, len)] f.2

/-- The number that stands for the header among the units of a mirror. -/
def headerUnit : Nat := 0xFFFFFFFF

/-- The buddy of this member (R308). -/
def buddyOf (s : State) : Nat := (s.me + 4) % imgSetSize s s.act

/-- Bytes of unit u of a body. -/
def unitBytes (body u : Nat) : Nat := min 65536 (body - 65536 * u)

/-- CKPT_RESTORE (R306). -/
def cmdCkptRestore (c : CmdRef) (step src addr : Nat) (s : State) : State :=
  if 2 < src then ckptRefuse c cPlanInvalid s
  else if (s.pwr.state ≠ stPlanned ∧ s.pwr.state ≠ stHalted) ∨ !s.plan.active ∨ s.steps.phase ≠ .idle ∨ s.steps.live then
    ckptRefuse c cNotReady s
  else if s.ckpt.cmd.isSome then ckptRefuse c cNotReady s
  else if src = 1 ∧ !hasBuddy s then ckptRefuse c cPlanInvalid s
  else
    let s := modSteps (fun t => { t with phase := .restoring }) s
    let s := modCkpt (fun k => { k with
      st := .restoring, cmd := some c, step := step, source := src, hostAddr := addr, buf := [], got := 0, want := 256
      again := [], units := [] }) s
    match src with
    | 0 => match localSlots s step with
      | rd :: _ => if badUnits rd = [] then restoreFrom rd s else restoreFail cStepMismatch s
      | [] => restoreFail cStepMismatch s
    | 1 => askUnit (buddyOf s) headerUnit 256 s |> askUnit (buddyOf s) headerUnit 256
    | _ => hostReadRange .checkpoint addr 256 s

/-- CKPT_RESTORE. -/
def execCkptRestore (id : BitVec 16) (step : BitVec 64) (source : BitVec 8) (addr : BitVec 64) (s : State) :
    Host.Outcome State Fault Refusal :=
  let t := take id.toNat 0x21 s
  .next (cmdCkptRestore t.1 step.toNat source.toNat addr.toNat t.2)

/-- Bytes of the slot that has been gathered so far. -/
def bufSlot (s : State) : SlotRead := fun o n => mread s.ckpt.buf o n

/-- Ask the host for a part of the slot. -/
def askSlot (off len : Nat) (s : State) : State :=
  hostReadRange (fun o => .checkpoint (off + o)) (s.ckpt.hostAddr + off) len
    (modCkpt (fun k => { k with want := k.want + len }) s)

/-- Everything asked of the host has landed: first the header, then the rest, then each failed unit a
second time (R306). -/
def hostSlotLanded (s : State) : State :=
  let rd := bufSlot s
  let body := hdrNum rd 40 8
  if s.ckpt.want = 256 then
    if headerFits s s.ckpt.step rd then askSlot 256 (slotBytes body - 256) s else restoreFail cStepMismatch s
  else if !slotValid rd then restoreFail cStepMismatch s
  else match badUnits rd with
    | [] => restoreFrom rd s
    | l => if l.any fun u => decide (u ∈ s.ckpt.again) then restoreFail cStepMismatch s
      else l.foldl (fun s u => askSlot (bodyStart body + 65536 * u) (min 65536 (body - 65536 * u)) s)
        (modCkpt (fun k => { k with again := k.again ++ l }) s)

/-- A part of a slot arrives from the host; a failed transfer ends the command (R449). -/
def slotArrived (off : Nat) (data : List Byte) (ok : Bool) (s : State) : State :=
  if s.ckpt.st ≠ .restoring ∨ s.ckpt.publishing then s
  else if !ok then restoreFail cNotReady s
  else
    let s := modCkpt (fun k => { k with buf := mwrite k.buf off data, got := k.got + data.length }) s
    if s.ckpt.got = s.ckpt.want then hostSlotLanded s else s

/-! ## Units from a peer -/

/-- The unit passes its CRC (R303, R304). -/
def unitOk (data : List Byte) (crc : Nat) : Bool := (crc32c (sliceBytes data 0 65536)).toNat == crc

/-- The read of a mirror unit that came again is over. -/
def dropReadOf (unit : Nat) (s : State) : State :=
  { s with xfers := s.xfers.filter fun e => match e.2 with
      | some x => x.write || x.what != .mirror unit
      | none => true }

/-- The header of one of the buddy's two slots (R306): the first that fits is taken, and its units are asked for;
when neither fits the restore ends. -/
def restoreHeader (data : List Byte) (s : State) : State :=
  if headerFits s s.ckpt.step (bufSlot s) then s
  else
    let t := modCkpt (fun k => { k with buf := mwrite k.buf 0 (sliceBytes data 0 256), got := k.got + 1 }) s
    if headerFits t t.ckpt.step (bufSlot t) then
      let body := hdrNum (bufSlot t) 40 8
      (rangeFrom 0 (hdrNum (bufSlot t) 52 4)).foldl (fun s u => askUnit (buddyOf s) u (unitBytes body u) s) t
    else if 2 ≤ t.ckpt.got then dropReadOf headerUnit t |> restoreFail cStepMismatch
    else t

/-- A unit of a BUDDY restore (R306): one that fails its CRC is read a second time. -/
def restoreUnit (unit : Nat) (data : List Byte) (crc : Nat) (s : State) : State :=
  let rd := bufSlot s
  if unit = headerUnit then restoreHeader data s
  else if !headerFits s s.ckpt.step rd ∨ hdrNum rd 52 4 ≤ unit ∨ unit ∈ s.ckpt.units then s
  else if !unitOk data crc then
    if unit ∈ s.ckpt.again then restoreFail cStepMismatch s
    else modCkpt (fun k => { k with again := k.again ++ [unit] }) (dropReadOf unit s)
      |> askUnit (buddyOf s) unit (unitBytes (hdrNum rd 40 8) unit)
  else
    let s := dropReadOf unit s
    let body := hdrNum rd 40 8
    let s := modCkpt (fun k => { k with
      units := k.units ++ [unit]
      buf := mwrite (mwrite k.buf (4096 + 4 * unit) (toBytes 4 crc)) (bodyStart body + 65536 * unit)
        (sliceBytes data 0 (min 65536 (body - 65536 * unit))) }) s
    if s.ckpt.units.length = hdrNum rd 52 4 then
      if slotValid (bufSlot s) then restoreFrom (bufSlot s) s else restoreFail cStepMismatch s
    else s

/-- A unit of a mirror that this member keeps for its peer (R304): the target is chosen and loses its
MAGIC with the header's arrival, a unit that fails its CRC is asked for again, and the header is written when
every unit has passed.
DESIGN CHOICE: notes/assumptions/106.md. -/
def mirrorUnit (r : Region) (unit : Nat) (data : List Byte) (crc : Nat) (s : State) : State :=
  if unit = headerUnit then
    let t := targetSlot s r s.ckpt.mirrorTarget
    writeTier 1 (slotAt r t) (toBytes 4 0)
      (modCkpt (fun k => { k with mirrorHeader := sliceBytes data 0 256, mirrorUnits := [], mirrorTarget := t }) s)
  else
    let h := s.ckpt.mirrorHeader
    let body := numAt h 40 8
    let base := slotAt r s.ckpt.mirrorTarget
    if h = [] ∨ numAt h 52 4 ≤ unit ∨ r.len / 2 < slotBytes body then s
    else if !unitOk data crc then
      askUnit ((s.me + imgSetSize s s.act - 4) % imgSetSize s s.act) unit (unitBytes body unit) (dropReadOf unit s)
    else
      let s := dropReadOf unit s
      let s := writeTier 1 (base + 4096 + 4 * unit) (toBytes 4 crc) s
        |> writeTier 1 (base + bodyStart body + 65536 * unit) (sliceBytes data 0 (min 65536 (body - 65536 * unit)))
        |> modCkpt (fun k => { k with mirrorUnits := insertNew k.mirrorUnits unit })
      if s.ckpt.mirrorUnits.length = numAt h 52 4 then
        writeTier 1 base h s |> modCkpt (fun k => { k with mirrorHeader := [], mirrorUnits := [] })
      else s

/-- MIRROR_UNIT_RECEIVE (R304, R306): a unit from a peer belongs to the BUDDY restore that runs, or to the
mirror that this member keeps. A unit that fails its CRC is sent again by the peer. -/
def execMirrorUnitReceive (unit : Nat) (data : List Byte) (crc : BitVec 32) (s : State) : Host.Outcome State Fault Refusal :=
  .next (if s.ckpt.st = .restoring ∧ s.ckpt.source = 1 ∧ !s.ckpt.publishing then restoreUnit unit data crc.toNat s
    else if !s.plan.active then s
    else match imgKind s s.act 9 with
      | some r => mirrorUnit r unit data crc.toNat s
      | none => s)

end Sys2Proof.Machine
end

