-- ==== Sys2Proof/Machine/Flits.lean ====
section
/-!
DEFINITION. The link layer of the host link: the code and the check of a flit (R434), sequence numbers
and replay (R435, R436), credit (R437), and the link states (R439, R440).
-/
namespace Sys2Proof.Machine

/-! ## The code of a flit -/

/-- The codeword of FEC interleave j, in order of transmission: its bytes of 0–249 and its two check bytes
(R434). -/
def interleave (j : Nat) (l : List Byte) : List Byte :=
  ((rangeFrom 0 250).filter fun i => i % 3 == j).map (fun i => l.getD i 0#8) ++
    [l.getD (250 + 2 * j) 0#8, l.getD (251 + 2 * j) 0#8]

/-- The two syndromes of a codeword, at the roots α^0 and α^1; the first byte has the highest power (R434).
PRESUMED: notes/assumptions/116.md. -/
def syndromes (c : List Byte) : Byte × Byte :=
  c.foldl (fun a b => (a.1 ^^^ b, gfDouble a.2 ^^^ b)) (0#8, 0#8)

/-- A codeword with its one wrong byte corrected, and whether a byte was (R434). -/
def correctWord (c : List Byte) : List Byte × Bool :=
  let y := syndromes c
  if y = (0#8, 0#8) then (c, false)
  else match (rangeFrom 0 c.length).find? fun p => gfShift p y.1 == y.2 with
    | none => (c, false)
    | some p =>
      let i := c.length - 1 - p
      (c.set i (c.getD i 0#8 ^^^ y.1), true)

/-- The 256 bytes of a flit after correction, and whether any byte was corrected.
PRESUMED: notes/assumptions/116.md. -/
def correctFlit (l : List Byte) : List Byte × Bool :=
  let w := (rangeFrom 0 3).map fun j => correctWord (interleave j l)
  let word := fun j => (w.getD j ([], false)).1
  let body := (rangeFrom 0 250).map fun i => (word (i % 3)).getD (i / 3) 0#8
  let tail := (rangeFrom 0 3).flatMap fun j => (word j).drop ((word j).length - 2)
  (body ++ tail, w.any (·.2))

/-- The fields of flit control (*Flit control*). -/
structure FlitCtl where
  ftype : Nat
  ack : Nat
  fseq : Nat
  vc : Nat
  count : Nat
  deriving DecidableEq, Repr

/-- Flit control of a corrected flit. -/
def flitCtl (l : List Byte) : FlitCtl :=
  let w := numAt l 240 6
  ⟨fieldOf w 27 24, fieldOf w 23 12, fieldOf w 11 0, fieldOf w 29 28, fieldOf w 39 30⟩

/-- The CRC-32C of a corrected flit agrees (R433). -/
def flitGood (l : List Byte) : Bool := numAt l 246 4 == (crc32c (l.take 246)).toNat

/-! ## Sending -/

/-- The ACK of this side: the FSEQ of the last DATA flit received good and in order (R435).
DEDUCED: notes/assumptions/117.md. -/
def ownAck (b : Bxl) : Nat := (b.expect + 4095) % 4096

/-- Send a NAK (R435). -/
def sendNak (s : State) : State := { s with hostOut := s.hostOut ++ [.nak (ownAck s.bxl)] }

/-- Send IDLE flits that carry the ACK and return the credit owed, one channel per flit (R435, R437).
DESIGN CHOICE: notes/assumptions/8.md. -/
def sendIdle (s : State) : State :=
  let b := s.bxl
  let owed := b.owed.filter fun e => e.2 != 0
  let flits := if owed.isEmpty then [HostOut.idle (ownAck b) 0 0]
    else owed.map fun e => .idle (ownAck b) e.1 (min e.2 1023)
  if b.st ≠ .active then s
  else { s with
           hostOut := s.hostOut ++ flits
           bxl := { b with owed := owed.foldl (fun t e => tset 0 t e.1 (e.2 - 1023)) [] } }

/-- The slots of a message received on a channel are free again (R437). -/
def freeSlots (vc n : Nat) (s : State) : State := modBxl (fun b => { b with owed := tmod 0 b.owed vc (· + n) }) s

/-! ## Link states -/

/-- The link number of the host link (*Site locator*). -/
def hostLinkNo : Nat := 40

/-- The number of a link state (*BXL_STATUS*). -/
def LinkSt.code : LinkSt → Nat
  | .down => 0
  | .detect => 1
  | .train => 2
  | .align => 3
  | .active => 4
  | .retrain => 5

/-- The link changes its state and says so (R439, R451). -/
def linkTo (st : LinkSt) (s : State) : State :=
  modBxl (fun b => { b with st := st }) s
    |> raise (source 9 0) 0x0101 [(18, 1, st.code), (19, 1, s.bxl.lanes)] |> irq 2

/-- The link enters RETRAIN, and at once TRAIN; a lasting lane fault takes effect (R436, R439, R501). -/
def retrain (cause : Nat) (s : State) : State :=
  raise (source 9 0) 0x0801 [(18, 1, cause)] s |> bump (bxlBase + 0x128) 1 |> linkTo .retrain
    |> lanesRetire hostLinkNo 8
    |> modBxl (fun b => { b with fromRetrain := true }) |> linkTo .train

/-- Resend every held flit; the 64th resend in a row without an advance of ACK retrains the link (R435,
R436). -/
def resendFlits (s : State) : State :=
  if s.bxl.held.isEmpty then s
  else
    let s := bump (bxlBase + 0x110) 1 { s with
      hostOut := s.hostOut ++ s.bxl.held.map fun h => .resend h.fseq
      bxl := { s.bxl with streak := s.bxl.streak + 1 } }
    if 64 ≤ s.bxl.streak then retrain 0 s else s

/-- The peer's ACK and credit of a good flit (R435, R437). -/
def takeAck (c : FlitCtl) (s : State) : State :=
  let b := s.bxl
  let kept := b.held.filter fun h => serialLt 12 c.ack h.fseq
  pumpLink { s with bxl := { b with
    held := kept
    streak := if kept.length < b.held.length then 0 else b.streak
    credits := if c.count = 0 then b.credits else tmod 0 b.credits c.vc (· + c.count) } }

/-- The link-layer state is discarded (R440). Event records on their way are lost (R482).
DEDUCED: notes/assumptions/118.md. -/
def linkReset (s : State) : State :=
  let lost := s.obs.landing
  let s := { s with
    obs := { s.obs with landing := 0, lostMark := s.obs.lostMark || decide (0 < lost) }
    bxl := { s.bxl with
      lanes := 0, fromRetrain := false, txq := [], held := [], nextSeq := 0, expect := 0, discarding := false
      streak := 0, credits := [], owed := [], rxPart := [], dbHold := true } }
  (rangeFrom 0 lost).foldl (fun s _ => countLost s) s

/-- The link may train: the rails are up and memory training has begun, or the boot has failed (R514,
*Cold start*). -/
def linkPowered (s : State) : Bool :=
  s.pwr.reset == .hot || (decide (stMemtrain ≤ s.pwr.state) && decide (s.pwr.state ≤ stRecovery)) ||
    (s.pwr.state == stFault && s.hf.bootFail)

/-- BXL_DOWN_EXPIRE (R439, R440): 1 ms in DOWN. With a lasting fault in both halves the link stays DOWN. -/
def execBxlDownExpire (s : State) : Host.Outcome State Fault Refusal :=
  .next (if s.bxl.st = .down ∧ linkPowered s ∧ badHalves s hostLinkNo 8 ≠ 3 then linkTo .detect s else s)

/-- The lanes of a half that are not retired and belong to a list. -/
def halfSeen (s : State) (lanes : List Nat) (h : Nat) : Bool :=
  !bitAt (badHalves s hostLinkNo 8) h && (rangeFrom (4 * h) 4).all fun l => decide (l ∈ lanes)

/-- TRAINING_PATTERN_SEEN (R439, R440): the peer's pattern on the lanes of at least one half. -/
def execTrainingPatternSeen (lanes : List Nat) (s : State) : Host.Outcome State Fault Refusal :=
  .next (
    let a := halfSeen s lanes 0
    let b := halfSeen s lanes 1
    if s.bxl.st = .detect ∧ (a || b) then
      lanesRetire hostLinkNo 8 s
        |> modBxl (fun x => { x with lanes := if a && b then 8 else 4, fromRetrain := false }) |> linkTo .train
    else s)

/-- ALIGN_DONE (R439): the lanes are deskewed and 16 flits have passed. From a cold start the credits begin
anew (R437); after a retrain every held flit goes out again (R436). -/
def execAlignDone (s : State) : Host.Outcome State Fault Refusal :=
  .next (if s.bxl.st ≠ .align then s
    else
      let again := s.bxl.fromRetrain
      let fresh := [(0, vcBuffer 0), (1, vcBuffer 1), (2, vcBuffer 2), (3, vcBuffer 3)]
      let s := modBxl (fun b => { b with
        credits := if again then b.credits else fresh
        retrainReq := false, fromRetrain := false, streak := 0, cxl := Config.adapterCxl }) s
      linkTo .active s |> resendFlits |> pumpLink |> pumpEvents)

/-- BXL_RETRAIN_REQUEST (R439): the host writes 1 to BXL_CTL.RETRAIN. -/
def retrainPut (s : State) : State :=
  if s.bxl.st = .active then retrain 2 (modBxl (fun b => { b with retrainReq := true }) s) else s

/-- BXL_RETRAIN_REQUEST. -/
def execBxlRetrainRequest (s : State) : Host.Outcome State Fault Refusal :=
  .next (hostAccess (bxlBase + 0x08) retrainPut s)

/-- FLIT_REPLAY_TIMEOUT (R435): held flits exist and ACK has not advanced for 10 µs. -/
def execFlitReplayTimeout (s : State) : Host.Outcome State Fault Refusal :=
  .next (if s.bxl.st = .active then resendFlits s else s)

/-! ## Receiving -/

/-- A flit arrives: it is corrected and checked, its ACK and credit are taken, and f acts on one of the
wanted type (R434, R435).
DEDUCED: notes/assumptions/117.md. -/
def onFlit (ftype : Nat) (bytes : List Byte) (f : FlitCtl → List Byte → State → State) (s : State) : State :=
  if s.bxl.st ≠ .active then s
  else
    let r := correctFlit (sliceBytes bytes 0 256)
    if !flitGood r.1 then bump (bxlBase + 0x118) 1 s |> modBxl (fun b => { b with discarding := true }) |> sendNak
    else
      let c := flitCtl r.1
      if c.ftype ≠ ftype then s
      else bump (bxlBase + 0x120) (bit01 r.2) s |> takeAck c |> f c r.1

/-- IDLE_FLIT (R435): it only carries ACK and credit. -/
def execIdleFlit (bytes : List Byte) (s : State) : Host.Outcome State Fault Refusal :=
  .next (onFlit 1 bytes (fun _ _ s => s) s)

/-- NAK_FLIT (R435): every held flit from ACK + 1 is sent again. -/
def execNakFlit (bytes : List Byte) (s : State) : Host.Outcome State Fault Refusal :=
  .next (onFlit 2 bytes (fun _ _ s => resendFlits s) s)

/-- A good DATA flit: the slots of the one expected are taken; any other is discarded, and the first so
discarded is answered by a NAK (R435).
DESIGN CHOICE: notes/assumptions/8.md. -/
def takeData (c : FlitCtl) (body : List Byte) (deliver : List Byte → State → State) (s : State) : State :=
  let b := s.bxl
  if c.fseq = b.expect then
    bump (bxlBase + 0x108) 1 { s with bxl := { b with expect := (b.expect + 1) % 4096, discarding := false } }
      |> deliver (body.take 240) |> sendIdle
  else if b.discarding then s
  else sendNak { s with bxl := { b with discarding := true } }

end Sys2Proof.Machine
end

