-- ==== Sys2Proof/Machine/Generate.lean ====
section
/-!
DEFINITION. Generation requests and tokens (R421 to R431): GEN_SUBMIT and its CANCEL form, the arrival
of a prompt, sampling, the writing of ids and scores, and the ends of a request.
-/
namespace Sys2Proof.Machine

/-! ## Requests -/

/-- The fields of a GEN_SUBMIT as the formation takes them: INV_TEMP that is not positive and finite
means GREEDY, TOP_P outside (0, 1] means 1.0 (R421). -/
def genReq (c : CmdRef) (w : GenWord) : GenReq :=
  let t := fpDecode fp32 w.invTemp.toNat
  let p := fpDecode fp32 w.topP.toNat
  let tOk := t.finite && (Num.fin false 0 0).lt t
  let pOk := (Num.fin false 0 0).lt p && !(f32 0x3F800000).lt p
  { cmd := c
    request := w.request.toNat
    greedy := bitAt w.flags.toNat 1 || !tOk
    loopback := bitAt w.flags.toNat 2
    k := w.k1.toNat + 1
    promptLen := w.promptLen.toNat
    maxNew := w.maxNew.toNat
    invTemp := w.invTemp.toNat
    topP := if pOk then w.topP.toNat else 0x3F800000
    seed := w.seed.toNat
    stream := w.stream.toNat
    stopId := w.stopId.toNat
    promptAddr := w.promptAddr.toNat
    outAddr := w.outAddr.toNat }

/-- The formation takes requests: the active plan has a generation table and no cell of the formation is
isolated or stopped (R420, R424). -/
def genTakes (s : State) : Bool := (genTab s).isSome && !s.gen.isolated

/-- GEN_SUBMIT without CANCEL (R421): a free slot, else a place in the queue of 256, else NOT_READY. A plan whose
quad ports failed the peer check does not run (R15).
DESIGN CHOICE: notes/assumptions/111.md. -/
def submit (c : CmdRef) (w : GenWord) (s : State) : State :=
  if s.plan.peerBad then complete c cPlanInvalid s
  else if !genTakes s then complete c cNotReady s
  else if genContext s ≤ w.promptLen.toNat ∨ w.maxNew = 0 then complete c cPlanInvalid s
  else if 256 ≤ s.gen.queue.length then complete c cNotReady s
  else startWaiting { s with gen := { s.gen with queue := s.gen.queue ++ [genReq c w] } }

/-- The user slot of a running request by its identifier; a request that waits for a loop-back buffer
has ended. -/
def runningUser (s : State) (request : Nat) : Option Nat :=
  (rangeFrom 0 12).find? fun u => match getUser s u with
    | some q => q.request == request && !q.finished
    | none => false

/-- CANCEL (R424): a running request ends after its current token, at once where no token runs, a queued
one at once.
DESIGN CHOICE: notes/assumptions/112.md. -/
def cancelRequest (c : CmdRef) (request : Nat) (s : State) : State :=
  match runningUser s request with
  | some u =>
    let s := if genOpen s then
        setUser u ((getUser s u).map fun q => { q with cancel := true }) s
      else endUser u cStepAborted s
    complete c cOk s
  | none =>
    match s.gen.queue.find? fun q => q.request == request with
    | some q =>
      { s with gen := { s.gen with queue := s.gen.queue.erase q } } |> endReport q cStepAborted |> complete c cOk
    | none => complete c cNotReady s

/-- GEN_SUBMIT, as a command: its FLAGS choose between submission and CANCEL (R421, R424, R448). -/
def cmdGenSubmit (c : CmdRef) (w : GenWord) (s : State) : State :=
  if 8 ≤ w.flags.toNat then complete c cPlanInvalid s
  else if bitAt w.flags.toNat 0 then cancelRequest c w.request.toNat s
  else submit c w s

/-- GEN_SUBMIT. -/
def execGenSubmit (id : BitVec 16) (w : GenWord) (s : State) : Host.Outcome State Fault Refusal :=
  let t := take id.toNat 0x80 s
  .next (cmdGenSubmit t.1 w t.2)

/-- GEN_SUBMIT with CANCEL. -/
def execGenCancel (id : BitVec 16) (request : BitVec 32) (s : State) : Host.Outcome State Fault Refusal :=
  let t := take id.toNat 0x80 s
  .next (cancelRequest t.1 request.toNat t.2)

/-- Bytes of a prompt have landed (R422), or their transfer failed (R449). -/
def promptArrived (u off : Nat) (data : List Byte) (ok : Bool) (s : State) : State :=
  match getUser s u with
  | none => s
  | some q =>
    if !ok then endUser u cNotReady s
    else
      let p := sliceBytes q.prompt 0 off ++ data ++ q.prompt.drop (off + data.length)
      setUser u (some { q with prompt := p, promptGot := q.promptGot + data.length }) s

/-! ## Sampling -/

/-- One round of Philox4x32 (R428): the counter words and the two keys. -/
def philoxRound (x : Nat × Nat × Nat × Nat) (k0 k1 : Nat) : Nat × Nat × Nat × Nat :=
  let a := 0xD2511F53 * x.1
  let b := 0xCD9E8D57 * x.2.2.1
  ((b / 2 ^ 32) ^^^ x.2.1 ^^^ k0, b % 2 ^ 32, (a / 2 ^ 32) ^^^ x.2.2.2 ^^^ k1, a % 2 ^ 32)

/-- n rounds of Philox4x32, the key incremented after each. -/
def philoxGo : Nat → Nat × Nat × Nat × Nat → Nat → Nat → Nat × Nat × Nat × Nat
  | 0, x, _, _ => x
  | n + 1, x, k0, k1 =>
    philoxGo n (philoxRound x k0 k1) ((k0 + 0x9E3779B9) % 2 ^ 32) ((k1 + 0xBB67AE85) % 2 ^ 32)

/-- The word x0 of Philox4x32-10 for a request and a position (R428). -/
def philox (seed stream pos : Nat) : Nat :=
  (philoxGo 10 (pos, 0, stream, 0) (seed % 2 ^ 32) (seed / 2 ^ 32)).1

/-- An FP32 operation: the exact result rounded once. -/
def rnd (x : Num) : Num := fpRoundNum fp32 x

/-- Running FP32 sums of a list, each addition rounded: the inclusive sums (R95). -/
def runSums : Option Num → List Num → List Num
  | _, [] => []
  | none, x :: rest => x :: runSums (some x) rest
  | some a, x :: rest => let v := rnd (a.add x); v :: runSums (some v) rest

/-- The exponential of a shifted logit; −∞ gives +0.0 (*Sampling*).
DESIGN CHOICE: notes/assumptions/113.md. -/
def sampleExp (x : Num) : Num :=
  match x with
  | .inf true => .fin false 0 0
  | y => fpDecode fp32 (Config.genExp (fpRound fp32 y))

/-- The last element of a list that satisfies a predicate. -/
def lastThat {α : Type} (p : α → Bool) (l : List α) : Option α := (l.filter p).getLast?

/-- The token drawn from the k first candidates in rank by top-p (*Sampling*); none where the largest
scaled logit is not finite. The first candidate is always kept. -/
def drawTop (q : GenReq) (pos : Nat) (top : List (Nat × Num)) : Option Nat :=
  let scaled := top.map fun e => (e.1, rnd (e.2.mul (f32 q.invTemp)))
  match scaled with
  | [] => none
  | (i0, s0) :: _ =>
    if !s0.finite then none
    else
      let e := scaled.map fun x => sampleExp (rnd (x.2.sub s0))
      let c := runSums none e
      let limit := rnd ((f32 q.topP).mul (c.getLast?.getD (f32 0)))
      let before := Num.fin false 0 0 :: c
      let rows := (scaled.map (·.1)).zip (c.zip before)
      let kept := (rows.take 1) ++ (rows.drop 1).filter fun r => r.2.2.lt limit || r.2.2.eqv limit
      let t := (kept.getLast?.map fun r => r.2.1).getD (f32 0)
      let u := Num.fin false (philox q.seed q.stream pos / 256) (-24)
      let r := rnd (u.mul t)
      match kept.find? fun x => r.lt x.2.1 with
      | some x => some x.1
      | none => some ((kept.getLast?.map fun x => x.1).getD i0)

/-- The token drawn from the candidates of the head cells; none for an end with NONFINITE (*Sampling*). -/
def drawToken (q : GenReq) (pos : Nat) (pairs : List (BitVec 32 × Nat)) : Option Nat :=
  let top := topK q.k (pairs.map fun p => (p.2, f32 p.1.toNat))
  match top with
  | [] => none
  | (i, v) :: _ =>
    if !v.finite then none else if q.greedy then some i else drawTop q pos top

/-! ## Tokens -/

/-- The position of the next token of a request: an empty prompt starts from BOS_ID (R421, R428). -/
def nextPos (q : GenReq) : Nat := max 1 q.promptLen + q.ids.length

/-- The position at which a request has used its budget (*Ends of a request*). -/
def posLimit (s : State) : Nat := if evicting s then 2 * 2 ^ slotShift s else genContext s

/-- The new SCORE of one K entry, by an edit of the map unit (R426); the mass is free.
PRESUMED: notes/assumptions/114.md. -/
def scoreEntry (key : Nat) (s : State) : State :=
  let f := takeFree s
  let e := pentry s key
  let decay := f32 (genNum s 20 4)
  let mass := f32 (f.1 % 2 ^ 32)
  let new := (convElem 1 false 0 ((decay.mul (valueElem 1 0 (fieldOf e 95 80))).add mass)).1
  arriveEdit ⟨key, .set (putField e 95 80 new), .unit, 0⟩ f.2

/-- Every SCORE_EVERY tokens of a user each K entry of its pages gets a new SCORE (R426).
DESIGN CHOICE: notes/assumptions/113.md. -/
def writeScores (u : Nat) (s : State) : State :=
  ((liveKeys s).filter fun k => k / 2 ^ slotShift s == u && Config.keyEntry (k % 128)).foldl
    (fun s k => scoreEntry k s) s

/-- A drawn token is written to the host, with the progress entry and the scores that fall due (R422,
R426). -/
def putToken (u id : Nat) (q : GenReq) (s : State) : State :=
  let n := q.ids.length
  let q := { q with ids := q.ids ++ [id] }
  let s := setUser u (some q) s |> hostWrite ((q.outAddr + 4 * n) % 2 ^ 64) (toBytes 4 id) |> bump 0x608 1
  if genNum s 18 2 ≠ 0 ∧ (n + 1) % genNum s 18 2 = 0 then writeScores u s else s

/-- What follows a written token: the request ends, or reports its progress and goes on (R422 to R424).
DESIGN CHOICE: notes/assumptions/111.md. -/
def afterToken (u id : Nat) (s : State) : State :=
  match getUser s u with
  | none => s
  | some q =>
    if (q.stopId ≠ 0xFFFFFFFF ∧ id = q.stopId) ∨ q.maxNew ≤ q.ids.length then endOk u s
    else if q.cancel then endUser u cStepAborted s
    else match q.ending with
      | some code => endUser u code s
      | none =>
        if posLimit s ≤ nextPos q then endUser u cBudget s
        else if genNum s 16 2 ≠ 0 ∧ q.ids.length % genNum s 16 2 = 0 then pushProgress (progressEntry q 0) s
        else s

/-- A user's next token can be drawn: its prompt has landed, GENERATE is in force and no progress entry
waits (R423, R430). -/
def tokenRuns (s : State) (q : GenReq) : Bool :=
  workload s == 2 && !inRecovery s && !q.finished && q.promptGot == 4 * q.promptLen && s.gen.ringWait.isEmpty

/-- GEN_TOKEN: the candidates of the head cells reach the sampling cell (R422, *Sampling*). -/
def execGenToken (user : Nat) (pairs : List (BitVec 32 × Nat)) (s : State) : Host.Outcome State Fault Refusal :=
  onUnit (decide (user < 12))
    (match getUser s user with
    | none => s
    | some q =>
      if !tokenRuns s q then s
      else match drawToken q (nextPos q) pairs with
        | none => endUser user cNonfinite s
        | some id => putToken user id q s |> afterToken user id)

end Sys2Proof.Machine
end

