-- ==== Sys2Proof/Machine/Health.lean ====
section
/-!
DEFINITION. What the module reports of itself: the health report (R508), LEND_STATUS, FLT_STATUS, and the
lane intervals of R490.
-/
namespace Sys2Proof.Machine

/-- A number whose bit c is set for each c of a list. -/
def bitsOf (l : List Nat) : Nat := l.foldl (fun n c => n ||| 1 <<< c) 0

/-- The retired cells of Spire die d as the report shows them. -/
def retiredMap (s : State) (d : Nat) : Nat :=
  bitsOf ((rangeFrom 0 100).filter fun c => decide (128 * d + c ∈ s.faults.retiredCells))

/-- The width byte of a port or of the host link, by link number; link 33 does not exist (R508). -/
def widthByte (s : State) (link : Nat) : Nat :=
  if link = 33 then 0
  else match tget 0 s.faults.widths link with
    | 0 => 8
    | 3 => 0
    | _ => 4

/-- The rows that no spare repairs, as many as the report lists. -/
def listedRows (s : State) : List BadRow := s.faults.badRows.take 8159

/-- The bytes of the health report, up to the end of its list; the rest reads zero.
DEDUCED: notes/assumptions/125.md. -/
def healthBytes (s : State) : List Byte :=
  let f := s.faults
  toBytes 8 f.rated ++
  (rangeFrom 0 8).flatMap (fun d => toBytes 13 (retiredMap s d)) ++
  (rangeFrom 0 28).flatMap (fun n => toBytes 1 (8 - tget 0 f.packWidth n)) ++
  (rangeFrom 32 9).flatMap (fun n => toBytes 1 (widthByte s n)) ++ toBytes 3 0 ++
  (rangeFrom 0 20).flatMap (fun d =>
    toBytes 2 (unsignedOf 16 (tget 0 f.offsets d)) ++ toBytes 2 (unsignedOf 16 (tget 0 f.required d))) ++
  toBytes 24 0 ++ toBytes 2 (listedRows s).length ++ toBytes 6 (bit01 (decide (8159 < f.badRows.length))) ++
  (listedRows s).flatMap fun r =>
    toBytes 1 r.stack ++ toBytes 1 r.chan ++ toBytes 1 r.bank ++ toBytes 1 r.kind ++ toBytes 4 r.row

/-- LEND_STATUS (R395). -/
def lendStatus (s : State) : Nat :=
  place s.lend.size 10 0 + place s.lend.base 10 16 + place (bit01 s.lend.zeroing) 1 30 +
    place (bit01 s.lend.on) 1 31 + place (bit01 (bitAt (tget 0 s.ovf 0x500) 32)) 1 32

/-- FLT_STATUS (R509). -/
def faultStatus (s : State) : Nat :=
  let f := s.faults
  bit01 f.marginShort + place (bit01 f.damaged) 1 1 + place f.ledger.length 15 2 + place f.reportSeq 32 32

/-- A link number names a link: 0 to 27 inside the package, 32 to 39 the ports but for port 1 of Gallery 0,
40 the host link (*Site locator*). -/
def linkExists (n : Nat) : Bool := decide (n < 28) || n == 32 || (decide (34 ≤ n) && decide (n ≤ 40))

/-- FEC_INTERVAL_END (R490): an interval of 1 ms in which a lane needed more than 1,000 corrections, or more
than 16 replays on a package link, is one correctable error of its site. The corrections of a port's lane count in
its PORT_FEC_CORR (R337).
DEDUCED: notes/assumptions/173.md. -/
def execFecIntervalEnd (link lane corrections replays : Nat) (s : State) : Host.Outcome State Fault Refusal :=
  onUnit (linkExists link && decide (lane < if link < 28 then 256 else 8))
    (let s := if 32 ≤ link ∧ link < 40 then bump (portBase (link - 32) + 0x158) corrections s else s
     if 1000 < corrections ∨ (link < 28 ∧ 16 < replays) then countCE ⟨4, link, lane, 0, 0⟩ 0 s else s)

end Sys2Proof.Machine
end

