-- ==== Sys2Proof/Machine/Headframe.lean ====
section
/-!
DEFINITION. The Headframe: the device identity key and its leaves (R517 to R519), alias keys (R520, R521),
certificates (R522) and attestation reports (R523).
-/
namespace Sys2Proof.Machine

/-- The leaves of the DIK (R517). -/
def dikLeaves : Nat := 2 ^ 20
/-- HF_DIK_LEAF from which the key counts as low (R519). -/
def dikLow : Nat := 996148

/-- Report a DIK that runs low, once since the last COLD start, and one that has run out, once per boot
(R519). -/
def checkDik (s : State) : State :=
  let s := if dikLow ≤ s.hf.leaf ∧ !s.hf.keyLowSeen then
      raise (source 5 0) 0x0901 [] (modHf (fun h => { h with keyLowSeen := true }) s) else s
  if dikLeaves ≤ s.hf.leaf ∧ !s.hf.exhaustedSeen then
    raise (source 5 0) 0x0902 [] (modHf (fun h => { h with dikExhausted := true, exhaustedSeen := true }) s)
  else s

/-- Bytes 0 to 255 of the certificate of the present alias, signed with a DIK leaf (R522). -/
def aliasTbs (h : Headframe) (leaf : Nat) : List Byte :=
  toBytes 4 0x5443474E ++ toBytes 2 1 ++ toBytes 2 1 ++ toBytes 8 leaf ++ serialBytes ++
    sliceBytes (Config.aliasPublic h.aliasNo) 0 68 ++ shake256 Config.dikPublic ++ toBytes 8 h.aliasSvn ++
    toBytes 8 h.bootCount ++ sliceBytes h.fwMeas 0 32 ++ toBytes 76 0

/-- The certificate of the present alias, 3,084 bytes (R522). -/
def aliasCertificate (h : Headframe) : List Byte :=
  let tbs := aliasTbs h h.aliasSerial
  tbs ++ sliceBytes ((Config.dikSign h.aliasSerial tbs).getD []) 0 2828

/-- No alias can be certified any more (R521). -/
def aliasOver (s : State) : State := modHf (fun h => { h with wait := none, aliasExhausted := true }) s

/-- Certify the alias with the next DIK leaf (R520). A leaf at or above the limit waits for a reservation
(R518); a signature that fails its check loses its leaf (R517). The number bounds the leaves tried. -/
def certifyGo : Nat → State → State
  | 0, s => modHf (fun h => { h with wait := some .reserve }) s
  | n + 1, s =>
    let h := s.hf
    if dikLeaves ≤ h.leaf then aliasOver (checkDik s)
    else if h.limit ≤ h.leaf then modHf (fun h => { h with wait := some .reserve }) s
    else
      let s := modHf (fun h => { h with aliasSvn := h.svnFused }) s
      let signed := (Config.dikSign h.leaf (aliasTbs s.hf h.leaf)).isSome
      let s := checkDik (modHf (fun x => { x with leaf := h.leaf + 1 }) s)
      if signed then
        modHf (fun x => { x with wait := none, aliasSerial := h.leaf, aliasLeaf := 0 }) s
      else certifyGo n s

/-- Certify the alias: a reservation holds 64 leaves at most.
DEDUCED: notes/assumptions/123.md. -/
def certify (s : State) : State := certifyGo 65 s

/-- A fresh alias is needed (R520); with the DIK exhausted there is none (R521).
DEDUCED: notes/assumptions/123.md. -/
def renewAlias (s : State) : State :=
  if dikLeaves ≤ s.hf.leaf then aliasOver (checkDik s)
  else modHf (fun h => { h with wait := some .alias_, aliasNo := h.aliasNo + 1 }) s

/-- The type code of XMSS-SHAKE_10_256 (R523).
PRESUMED: notes/assumptions/162.md. -/
def aliasType : Nat := 7

/-- Bytes of a report and both certificates (R523). -/
def reportLength : Nat := 16389

/-- Bytes 0 to 639 of a report (R523). -/
def reportBytes (s : State) (nonce : List Byte) : List Byte :=
  let h := s.hf
  let keys := toBytes 8 h.bootCount ++ toBytes 8 h.svnFused ++ toBytes 8 h.leaf ++ toBytes 8 h.limit ++
    toBytes 8 h.aliasLeaf
  let none32 := List.replicate 32 0#8
  let health := healthBytes s
  toBytes 4 0x5241474E ++ toBytes 2 1 ++ toBytes 2 0 ++ toBytes 4 reportLength ++ toBytes 4 0 ++
    sliceBytes nonce 0 32 ++ serialBytes ++ keys ++ toBytes 24 0 ++ sliceBytes h.fwMeas 0 32 ++
    (rangeFrom 0 8).flatMap (fun i => sliceBytes h.header (144 + 48 * i) 32) ++
    (if s.plan.active then planMeas s s.act else none32) ++
    (if s.plan.staged = .staged then planMeas s s.stg else none32) ++
    shake256 (sliceBytes health 0 2 ++ sliceBytes health 152 80) ++
    shake256 (toBytes 8 (modeStatus s) ++ toBytes 8 (lendStatus s)) ++
    shake256 keys ++
    (if h.enrolled then sliceBytes h.planKey 0 32 else none32) ++ none32

/-- Serve the commands that wait, in order: one whose buffer is short, or that no alias can sign, ends at
once; the first other one has its report signed with the next alias leaf (R521, R523). -/
def serveAttestGo : List AttestJob → State → State
  | [], s => modHf (fun h => { h with jobs := [] }) s
  | j :: rest, s =>
    if j.len < reportLength then serveAttestGo rest (completeR j.cmd cNotReady reportLength s)
    else if s.hf.aliasExhausted then serveAttestGo rest (complete j.cmd cKeyExhausted s)
    else
      let report := reportBytes s j.nonce
      modHf (fun h => { h with jobs := j :: rest, signing := true, report := report, aliasLeaf := h.aliasLeaf + 1 }) s

/-- Serve ATTEST unless a report is being signed or an alias generated or certified. -/
def serveAttest (s : State) : State :=
  if s.hf.signing ∨ s.hf.wait.isSome then s else serveAttestGo s.hf.jobs s

/-- ATTEST, as a command; after a boot failure there is no alias (R523). -/
def cmdAttest (c : CmdRef) (nonce : List Byte) (addr len : Nat) (s : State) : State :=
  if s.pwr.state = stFault then complete c cNotReady s
  else serveAttest (modHf (fun h => { h with jobs := h.jobs ++ [⟨c, nonce, addr, len⟩] }) s)

/-- ATTEST. -/
def execAttest (id : BitVec 16) (nonce : BitVec 256) (addr : BitVec 64) (len : BitVec 32) (s : State) :
    Host.Outcome State Fault Refusal :=
  let t := take id.toNat 0x60 s
  .next (cmdAttest t.1 (toBytes 32 nonce.toNat) addr.toNat len.toNat t.2)

/-- ATTEST_SIGNED (R523): report, alias certificate and DIK certificate go to the host. A key whose leaves
are used up is followed by a fresh one (R520). -/
def execAttestSigned (s : State) : Host.Outcome State Fault Refusal :=
  .next (match s.hf.signing, s.hf.jobs with
    | true, j :: rest =>
      let h := s.hf
      let sig := Config.aliasSign h.aliasNo (h.aliasLeaf - 1) h.report
      let data := h.report ++ toBytes 4 aliasType ++ toBytes 4 2500 ++ sliceBytes sig 0 2500 ++
        aliasCertificate h ++ sliceBytes Config.dikCertificate 0 10157
      let s := hostWrite j.addr data (modHf (fun h => { h with signing := false, report := [], jobs := rest }) s)
        |> completeR j.cmd cOk reportLength
      serveAttest (if s.hf.aliasLeaf < 1024 then s else renewAlias s)
    | _, _ => s)

/-- ALIAS_GENERATED (R520): the alias is certified with one DIK leaf. -/
def execAliasGenerated (s : State) : Host.Outcome State Fault Refusal :=
  .next (if s.hf.wait = some .alias_ then serveAttest (certify s) else s)

/-- The Headframe's firmware runs: not in OFF or STANDBY. -/
def hfRuns (s : State) : Bool := decide (stStandby < s.pwr.state)

/-- DIK_RESERVATION_WRITE (R518): the record of limit + 64 is complete in flash. It completes on standby
power too (R547), where nothing is certified. -/
def execDikReservationWrite (s : State) : Host.Outcome State Fault Refusal :=
  .next (if s.hf.wait ≠ some .reserve then s
    else
      let s := modHf (fun h => { h with recorded := h.limit + 64, limit := h.limit + 64 }) s
      if hfRuns s then serveAttest (certify s) else modHf (fun h => { h with wait := none }) s)

/-- HF_STATUS (R528). -/
def hfStatus (s : State) : Nat :=
  let h := s.hf
  bit01 h.bootOk + place (bit01 h.bootFail) 1 1 + place (bit01 h.fwSlot) 1 4 + place (bit01 h.fallback) 1 5 +
    place h.rootSlot 2 6 + place (bit01 h.fwPending) 1 8 + place (bit01 h.wait.isSome) 1 11 +
    place (bit01 (decide (dikLow ≤ h.leaf))) 1 12 + place (bit01 h.dikExhausted) 1 13 +
    place (bit01 h.aliasExhausted) 1 14 + place h.revoked 3 16 + place h.bootCount 32 32

end Sys2Proof.Machine
end

