-- ==== Sys2Proof/Machine/Maint.lean ====
section
/-!
DEFINITION. Maintenance: the lock and its queue (R465 to R469), and the work of each activity (R239, R371,
R468, R504 to R507, R516).
-/
namespace Sys2Proof.Machine

/-- The Lamp room itself as an event source: the lock and the margin plan lie there (R466, R478). -/
def roomSrc : Nat := source 6 8

/-! ## The lock -/

/-- The resource classes of a request, and whether each is held exclusively (R465). -/
def classesOf (r : MaintReq) : List (Nat × Bool) :=
  match r.activity with
  | 0 => [(0, true), (3, false)]
  | 1 => [(1, true), (3, false)]
  | 2 => [(2, true), (3, false)]
  | 3 => [(3, true), (5, true)]
  | 4 => [(4, true), (3, false)]
  | 5 => [(7 + r.port, true), (3, false)]
  | 6 => [(5, true)]
  | _ => [(6, true), (3, false)]

/-- Two holds are incompatible: they share a class that one of them needs exclusively (R465). -/
def holdsClash (a b : MaintReq) : Bool :=
  (classesOf a).any fun x => (classesOf b).any fun y => x.1 == y.1 && (x.2 || y.2)

/-- Two requests need one class in common (R466). -/
def shareClass (a b : MaintReq) : Bool :=
  (classesOf a).any fun x => (classesOf b).any fun y => x.1 == y.1

/-- The condition that a request waits for beside its classes (R468). -/
def maintReady (s : State) (r : MaintReq) : Bool :=
  r.activity != 3 || s.pwr.state == stReady || s.pwr.state == stRecovery

/-- The requests that block a request, running ones first (R466). -/
def blockers (s : State) (earlier : List MaintReq) (r : MaintReq) : List MaintReq :=
  (s.modes.running.filter fun x => holdsClash x r) ++ earlier.filter fun x => shareClass x r

/-- Change the modes and maintenance. -/
def modModes (f : Modes → Modes) (s : State) : State := { s with modes := f s.modes }

/-- A slot of the mirror that holds a checkpoint: its MAGIC is there and its header checks (R304, R308). -/
def mirrorValid (s : State) (x : Bool) : Bool :=
  match (if s.plan.active then imgKind s s.act 9 else none) with
  | none => false
  | some r => slotValid (deepSlot s (slotAt r x))

/-- A set of the two mirror slots as a number. -/
def slotSet (p : Bool → Bool) : Nat := bit01 (p false) + 2 * bit01 (p true)

/-- A request starts: FW_STAGE begins to read its image (R466, R516), and CKPT_MIRROR_VERIFY, which has no arguments,
keeps the slots that are valid in argument 0 (R468).
DESIGN CHOICE: notes/assumptions/26.md. -/
def maintBegin (r : MaintReq) (s : State) : State :=
  let r := if r.activity = 7 then { r with arg0 := slotSet (mirrorValid s) } else r
  let s := modModes (fun m => { m with running := m.running ++ [r] }) s
  if r.activity = 6 then
    hostReadRange .firmware r.arg0 r.arg1 (modModes (fun m => { m with fwGot := 0 }) s)
  else s

/-- Start the waiting requests that can start, in order; earlier holds those that stay (R466). -/
def startQueuedGo : List MaintReq → List MaintReq → State → State
  | [], earlier, s => modModes (fun m => { m with waiting := earlier }) s
  | r :: rest, earlier, s =>
    if maintReady s r && (blockers s earlier r).isEmpty then startQueuedGo rest earlier (maintBegin r s)
    else startQueuedGo rest (earlier ++ [r]) s

/-- Start what waits for the lock and can start. -/
def startQueued (s : State) : State := startQueuedGo s.modes.waiting [] s

/-- The range of MAP_COMPACT: argument 0 is the global address of its first byte, argument 1 its length; it
lies in one FRAME_POOL region (R239, R467).
DESIGN CHOICE: notes/assumptions/119.md. -/
def compactRange (s : State) (a n : Nat) : Option (Nat × Nat × Nat) :=
  let g := gaddr a
  if n ≠ 0 ∧ g.mod = s.me ∧ (pools s).any (fun r => r.tier == g.tier && decide (r.base ≤ g.off) &&
      decide (g.off + n ≤ r.base + r.len)) then some (g.tier, g.off, g.off + n) else none

/-- A request that cannot start at once waits, or is turned away by a full queue (R466, R467).
DESIGN CHOICE: notes/assumptions/119.md. -/
def maintWait (r : MaintReq) (s : State) : State :=
  if 16 ≤ s.modes.waiting.length then complete r.cmd cNotReady s
  else
    let by_ := (blockers s s.modes.waiting r).head?
    let f := takeFree s
    let code := match by_ with
      | some b => b.activity
      | none => f.1 % 256
    let s := if by_.isSome then s else f.2
    modModes (fun m => { m with waiting := m.waiting ++ [r] }) s
      |> post ⟨r.cmd, cBusyQueued, true, r.activity⟩
      |> raise roomSrc 0x0105 [(18, 1, r.activity), (19, 1, r.port), (20, 1, code)]

/-- MAINT_START, as a command (R447, R466, R467); after a boot failure only FW_STAGE is accepted (R514). -/
def cmdMaintStart (c : CmdRef) (activity port arg0 arg1 : Nat) (s : State) : State :=
  let r : MaintReq := ⟨c, activity, if activity = 5 then port else 0, arg0, arg1, none⟩
  if s.pwr.state = stFault ∧ activity ≠ 6 then complete c cNotReady s
  else if 7 < activity ∨ (activity = 5 ∧ 6 < port) then complete c cPlanInvalid s
  else if activity = 4 ∧ !s.plan.active then complete c cNotReady s
  else if activity = 4 ∧ (compactRange s arg0 arg1).isNone then complete c cPlanInvalid s
  else if activity = 6 ∧ 23 * 2 ^ 20 < arg1 then complete c cPlanInvalid s
  else if maintReady s r && (blockers s s.modes.waiting r).isEmpty then maintBegin r s
  else maintWait r s

/-- MAINT_START. -/
def execMaintStart (id : BitVec 16) (w : MaintWord) (s : State) : Host.Outcome State Fault Refusal :=
  let t := take id.toNat 0x40 s
  .next (cmdMaintStart t.1 w.activity.toNat w.port.toNat w.arg0.toNat w.arg1.toNat t.2)

/-- A write of MAINT_CTL: each bit of CANCEL removes the waiting requests of its activity (R467, R470). -/
def maintCtlPut (v m : Nat) (s : State) : State :=
  let bits := fieldOf (v &&& m) 15 8
  let out := s.modes.waiting.filter fun r => bitAt bits r.activity
  let s := modModes (fun x => { x with waiting := x.waiting.filter fun r => !bitAt bits r.activity }) s
  startQueued (out.foldl (fun s r => completeR r.cmd cNotReady r.activity s) s)

/-- MAINT_CANCEL: the host writes MAINT_CTL. -/
def execMaintCancel (v : BitVec 64) (s : State) : Host.Outcome State Fault Refusal :=
  .next (hostAccess 0x300 (maintCtlPut v.toNat allOnes64) s)

/-! ## The work of each activity -/

/-- The running request of an activity whose work is still to be done. -/
def maintJob (s : State) (activity : Nat) : Option MaintReq :=
  s.modes.running.find? fun r => r.activity == activity && r.done.isNone

/-- The work of a request is done, and it will complete with a code. -/
def workDone (r : MaintReq) (code : Nat) (s : State) : State :=
  modModes (fun m => { m with running := m.running.map fun x => if x = r then { x with done := some code } else x }) s

/-- Carry out the work of a running activity.
DESIGN CHOICE: notes/assumptions/26.md. -/
def maintWork (activity : Nat) (f : MaintReq → State → State) (s : State) : State :=
  match maintJob s activity with
  | some r => f r s
  | none => s

/-- Set the scrub-pass mark of a tier's trained stacks.
DEDUCED: notes/assumptions/121.md. -/
def scrubPasses (lo : Nat) (on : Bool) (s : State) : State :=
  (rangeFrom lo 16).foldl (fun s c =>
    if (getMc s c).trained then modMc c (fun m => { m with scrubPass := on }) s else s) s

/-- SCRUB_HBM (R371): a full pass over every HBM stack. -/
def execScrubHbm (s : State) : Host.Outcome State Fault Refusal :=
  .next (maintWork 0 (fun r s => scrubPasses 0 true s |> workDone r cOk) s)

/-- SCRUB_DEEP (R371): a full pass over every deep stack. -/
def execScrubDeep (s : State) : Host.Outcome State Fault Refusal :=
  .next (maintWork 1 (fun r s => scrubPasses 16 true s |> workDone r cOk) s)

/-- The cells that SCRUB_SRAM may test: outside READY and RECOVERY only those that the plan does not use
(R468).
DEDUCED: notes/assumptions/121.md. -/
def sramCells (s : State) : List Nat :=
  allCells.filter fun k =>
    s.pwr.state == stReady || s.pwr.state == stRecovery ||
      !(s.plan.active && (getCell s k).logical != 0x3FF && imgUsed s s.act (getCell s k).logical)

/-- Test one cell: first its scratchpad is held, then its operand cache (R57). A change of what the near
cache acts as loses its contents (R56). -/
def testCell (k : Nat) (s : State) : State :=
  let was := opMode s (getCell s k)
  let s := modCell k (fun c => { c with
    scratchHeld := !c.scratchHeld
    opHeld := c.scratchHeld
    st := if (runningStreams c).isEmpty then .test else c.st }) s
  if opMode s (getCell s k) = was then s else modCell k (fun c => { c with near := [], opcache := [] }) s

/-- SCRUB_SRAM (R57, R468): the first half of the test holds the scratchpads, the second half the operand
caches. -/
def execScrubSram (s : State) : Host.Outcome State Fault Refusal :=
  .next (maintWork 2 (fun r s =>
    let half := s.cells.any fun e => e.2.scratchHeld
    let l := if half then (s.cells.filter fun e => e.2.scratchHeld).map (·.1) else sramCells s
    let s := l.foldl (fun s k => testCell k s) s
    if half then workDone r cOk s else s) s)

/-- The test of every cell ends. -/
def sramEnd (s : State) : State :=
  ((s.cells.filter fun e => e.2.scratchHeld || e.2.opHeld || e.2.st == .test).map (·.1)).foldl (fun s k =>
    let was := opMode s (getCell s k)
    let s := modCell k (fun c => { c with
      scratchHeld := false, opHeld := false
      st := if c.st = .test then (if c.logical = 0x3FF then .idle else .loaded) else c.st }) s
    if opMode s (getCell s k) = was then s else modCell k (fun c => { c with near := [], opcache := [] }) s) s

/-- Free offsets for the 20 dies: no rule states what a die needs at a clock other than 1.6 GHz. -/
def freeOffsets : Nat → State → List Int × State
  | 0, s => ([], s)
  | n + 1, s =>
    let f := takeFree s
    let r := freeOffsets n f.2
    (signedOf 16 f.1 :: r.1, r.2)

/-- The largest change of an offset, with its sign. -/
def largestChange (old new : Nat → Int) : List Nat → Int
  | [] => 0
  | d :: rest =>
    let r := largestChange old new rest
    let x := new d - old d
    if r.natAbs < x.natAbs then x else r

/-- Store the offsets that the dies need, up to +80 mV each (R505, R507).
DEDUCED: notes/assumptions/120.md. -/
def storeOffsets (required need : List Int) (s : State) : State :=
  let at_ := fun (l : List Int) d => l.getD d 0
  let old := fun d => tget 0 s.faults.offsets d
  let new := fun d => min 80 (at_ need d)
  let dies := rangeFrom 0 20
  let moved := dies.any fun d => old d != new d
  let change := largestChange old new dies
  let s := modFaults (fun f => { f with
    required := dies.foldl (fun t d => tset 0 t d (at_ required d)) f.required
    offsets := dies.foldl (fun t d => tset 0 t d (new d)) f.offsets
    marginShort := dies.any fun d => decide (80 < at_ need d)
    shortDies := dies.filter fun d => decide (80 < at_ need d) }) s
  if moved then rewriteReport s |> raise roomSrc 0x0A05 [(20, 2, unsignedOf 16 change)] else s

/-- The required offset of each die: its lowest passing voltage over that of manufacture, and the guard band
of 20 mV (R504). -/
def requiredOf (lowest : List Int) : List Int := (rangeFrom 0 20).map fun d => lowest.getD d 0 + 20

/-- A survey after start-up changes offsets only (R507).
DEDUCED: notes/assumptions/120.md. -/
def surveyRun (lowest : List Int) (s : State) : State :=
  let req := requiredOf lowest
  if s.faults.rated = 1600 then storeOffsets req req s
  else let f := freeOffsets 20 s; storeOffsets req f.1 f.2

/-- Every die needs at most +45 mV (R506). -/
def within45 (l : List Int) : Bool := l.all fun x => decide (x ≤ 45)

/-- The survey of a COLD start also chooses the rated clock, never above the stored one (R506, R507). -/
def surveyStart (lowest : List Int) (s : State) : State :=
  let req := requiredOf lowest
  let old := s.faults.rated
  let a := freeOffsets 20 s
  let b := freeOffsets 20 a.2
  let pick : Nat × List Int :=
    if old = 1600 ∧ within45 req then (1600, req)
    else if 1500 ≤ old ∧ within45 a.1 then (1500, a.1) else (1400, b.1)
  let s := storeOffsets req pick.2 b.2
  let s := modFaults (fun f => { f with rated := pick.1, current := pick.1
                                        marginShort := f.marginShort || !within45 pick.2 })
    { s with pwr := { s.pwr with surveyed := true } }
  if pick.1 < old then rewriteReport s |> raise roomSrc 0x0A06 [(20, 2, old), (22, 2, pick.1)] else s

/-- MARGIN_SURVEY (R504): as an activity, or at a COLD start between memory training and READY. -/
def execMarginSurvey (lowest : List Int) (s : State) : Host.Outcome State Fault Refusal :=
  .next (if s.pwr.reset = .cold ∧ s.pwr.state = stMemtrain ∧ !s.pwr.surveyed then surveyStart lowest s
    else maintWork 3 (fun r s => surveyRun lowest s |> workDone r cOk) s)

/-- The entries that MAP_COMPACT has still to move: RESIDENT, naming a frame in the range (R239). -/
def compactLeft (s : State) : List Nat :=
  (liveKeys s).filter fun k => peState (pentry s k) == 1 &&
    match peNames (pentry s k) with
    | some f => inCompact s f
    | none => false

/-- MAP_COMPACT (R239): once the entries taken before have moved, the next 64 at most begin to. -/
def execMapCompact (s : State) : Host.Outcome State Fault Refusal :=
  .next (maintWork 4 (fun r s =>
    let s := { s with pmap := { s.pmap with compact := compactRange s r.arg0 r.arg1 } }
    if !s.pmap.relocs.isEmpty then s
    else match (compactLeft s).take 64 with
      | [] => workDone r cOk s
      | l => l.foldl (fun s k => startReloc k s) s) s)

/-- The port of a LINK_RETRAIN: 0 to 3 spine, 4 to 6 quad A to C (R447).
DEDUCED: notes/assumptions/122.md. -/
def maintPort (n : Nat) : Nat := if n < 4 then 2 * n else 2 * (n - 3) + 1

/-- LINK_RETRAIN (R468): a port that is UP is held, and trains again. -/
def execLinkRetrain (port : Nat) (s : State) : Host.Outcome State Fault Refusal :=
  onUnit (decide (port < 7))
    (match s.modes.running.find? fun r => r.activity == 5 && r.port == port && r.done.isNone with
    | none => s
    | some r =>
      let p := maintPort port
      let s := if portUp s p then portLeave p .held s |> portTrain p else s
      workDone r cOk s)

/-- The code of FW_STAGE (R516). -/
def fwCode (s : State) (img : FwImage) : Nat :=
  if 23 * 2 ^ 20 < img.length then cPlanInvalid
  else match bootFlaw s.hf (sliceBytes img.header 0 512) img.length img.failed with
    | none => cOk
    | some 1 => cPlanInvalid
    | some _ => cSignatureInvalid

/-- The slot that FW_STAGE writes: the one that did not boot, and when neither did the one that the boot
record does not name. -/
def fwTarget (s : State) : Bool := if s.hf.bootOk then !s.hf.fwSlot else !s.hf.bootRecord

/-- FW_STAGE (R516): the image has been read and checked; it goes to the other slot, and the boot record
follows. -/
def execFwStage (img : FwImage) (s : State) : Host.Outcome State Fault Refusal :=
  .next (maintWork 6 (fun r s =>
    if s.modes.fwGot < r.arg1 then s
    else if fwCode s img = cOk then
      let t := fwTarget s
      let slot : FwSlot := { header := img.header }
      let h := if t then { s.hf with slotB := slot } else { s.hf with slotA := slot }
      workDone r cOk { s with hf := { h with bootRecord := t, fwPending := true } }
    else workDone r (fwCode s img) s) s)

/-- The mirror slots that were valid when the request started, are valid still and hold a unit that fails its CRC.
DEDUCED: notes/assumptions/122.md. -/
def badMirrors (s : State) (r : MaintReq) : List Bool :=
  match (if s.plan.active then imgKind s s.act 9 else none) with
  | none => []
  | some m => [false, true].filter fun x =>
      bitAt r.arg0 (bit01 x) && mirrorValid s x && !(badUnits (deepSlot s (slotAt m x))).isEmpty

/-- The mirror check is over: the slots that disagree are kept in argument 1 until the request ends. -/
def mirrorsChecked (r : MaintReq) (bad : List Bool) (code : Nat) (s : State) : State :=
  let r' := { r with arg1 := slotSet fun x => decide (x ∈ bad) }
  workDone r' code (modModes (fun m => { m with running := m.running.map fun x => if x = r then r' else x }) s)

/-- CKPT_MIRROR_VERIFY (R468): the CRC table of each valid mirror slot is computed again. No rule gives the
code of a mirror that disagrees: it is free. -/
def execCkptMirrorVerify (s : State) : Host.Outcome State Fault Refusal :=
  .next (maintWork 7 (fun r s =>
    if (badMirrors s r).isEmpty then mirrorsChecked r [] cOk s
    else let f := takeFree s; mirrorsChecked r (badMirrors s r) (f.1 % 17) f.2) s)

/-! ## Ends -/

/-- What an activity held goes back. -/
def maintRelease (r : MaintReq) (s : State) : State :=
  match r.activity with
  | 0 => scrubPasses 0 false s
  | 1 => scrubPasses 16 false s
  | 2 => sramEnd s
  | 4 => { s with pmap := { s.pmap with compact := none, moved := [] } }
  | _ => s

/-- A running request ends with a code, and the lock starts what waited for it. -/
def maintFinish (r : MaintReq) (code : Nat) (s : State) : State :=
  modModes (fun m => { m with running := m.running.filter (· != r) }) s |> maintRelease r
    |> completeR r.cmd code r.activity |> startQueued

/-- A request may end: its work is done, and a retrained port is UP or DOWN again (R468). -/
def mayEnd (s : State) (r : MaintReq) : Bool :=
  r.done.isSome && (r.activity != 5 ||
    ((getPort s (maintPort r.port)).st != .training && (getPort s (maintPort r.port)).st != .held))

/-- The code with which a request ends: CKPT_MIRROR_VERIFY passes over a slot that a checkpoint write has
invalidated since (R468). -/
def endCode (s : State) (r : MaintReq) : Nat :=
  if r.activity = 7 ∧ !([false, true].any fun x => bitAt r.arg1 (bit01 x) && mirrorValid s x) then cOk else r.done.getD cOk

/-- MAINT_END (R466): an activity ends. -/
def execMaintEnd (activity port : Nat) (s : State) : Host.Outcome State Fault Refusal :=
  .next (match s.modes.running.find? fun r =>
      r.activity == activity && (activity != 5 || r.port == port) && mayEnd s r with
    | some r => maintFinish r (endCode s r) s
    | none => s)

/-- A part of a firmware image has been read (R516), or its transfer failed (R449). -/
def firmwareArrived (data : List Byte) (ok : Bool) (s : State) : State :=
  match maintJob s 6 with
  | none => s
  | some r =>
    if ok then modModes (fun m => { m with fwGot := m.fwGot + data.length }) s
    else maintFinish r cNotReady (dropReads (fun w => match w with | .firmware _ => true | _ => false) s)

/-- A reset ends every activity and empties the queue; HOT completes each request with NOT_READY, COLD and
WARM complete none (R469). -/
def maintReset (tell : Bool) (s : State) : State :=
  let l := s.modes.running ++ s.modes.waiting
  let s := s.modes.running.foldl (fun s r => maintRelease r s) s
  let s := modModes (fun m => { m with running := [], waiting := [], fwGot := 0 }) s
  let s := dropReads (fun w => match w with | .firmware _ => true | _ => false) s
  if tell then l.foldl (fun s r => completeR r.cmd cNotReady r.activity s) s else s

end Sys2Proof.Machine
end

