-- ==== Sys2Proof/Machine/Observe.lean ====
section
/-!
DEFINITION. The event ring and the counters (R474, R481, R489), the Lamp room (R485 to R489), the requested
modes (R456, R458) and the power cap (R534), as the host writes them.
-/
namespace Sys2Proof.Machine

/-- Change the event ring. -/
def modObs (f : Obs → Obs) (s : State) : State := { s with obs := f s.obs }

/-! ## The event ring -/

/-- A write of EVT_RING_BASE. -/
def ringBasePut (v m : Nat) (s : State) : State :=
  modObs (fun o => { o with ringBase := mixModes m v o.ringBase / 4096 * 4096 }) s

/-- A start that followed a thermal trip reports it once the ring is enabled (R538).
DEDUCED: notes/assumptions/133.md. -/
def raiseTrip (s : State) : State :=
  match s.pwr.tripArmed, s.pwr.tripRec with
  | true, some (die, temp, rtc) =>
    raise (source 6 8) 0x0A07 [(18, 1, die), (20, 2, temp), (24, 6, rtc)]
      (modPwr (fun p => { p with tripRec := none, tripArmed := false }) s)
  | _, _ => s

/-- A write of EVT_RING_SIZE: LOG2 in range enables the ring anew, 0 disables it (R481).
DEDUCED: notes/assumptions/127.md. -/
def ringSizePut (v m : Nat) (s : State) : State :=
  let n := v % 32
  if m % 32 = 0 then s
  else if n = 0 then modObs (fun o => { o with ringLog := 0 }) s
  else if 6 ≤ n ∧ n ≤ 20 then
    modObs (fun o => { o with ringLog := n, head := 0, tail := 0, landing := 0 }) s |> pumpEvents |> raiseTrip
  else s

/-- A write of EVT_TAIL: one that passes the head or falls too far behind it is ignored and counts (R481). -/
def evtTailPut (v m : Nat) (s : State) : State :=
  let o := s.obs
  let v := v % 2 ^ 32
  if m % 2 ^ 32 = 0 then s
  else if (if o.ringLog = 0 then 0 else 2 ^ o.ringLog) < (o.head + 2 ^ 32 - v) % 2 ^ 32 then badAccess s
  else pumpEvents (modObs (fun o => { o with tail := v }) s)

/-- EVT_RING_SIZE_WRITE (R481): the host writes EVT_RING_SIZE. -/
def execEvtRingSizeWrite (v : BitVec 64) (s : State) : Host.Outcome State Fault Refusal :=
  .next (hostAccess (obsBase + 0x08) (ringSizePut v.toNat allBits) s)

/-- EVT_TAIL_WRITE (R481): the host writes EVT_TAIL. -/
def execEvtTailWrite (v : BitVec 64) (s : State) : Host.Outcome State Fault Refusal :=
  .next (hostAccess (obsBase + 0x18) (evtTailPut v.toNat allBits) s)

/-- EVENT_RECORD_LANDED (R481): the oldest record on its way has landed. -/
def execEventRecordLanded (s : State) : Host.Outcome State Fault Refusal :=
  .next (if s.obs.landing = 0 then s
    else irq 1 (modObs (fun o => { o with head := (o.head + 1) % 2 ^ 32, landing := o.landing - 1 }) s))

/-! ## Clearing counters -/

/-- The counter group of a register of BAR0 (*Counter groups*); the counter summary is in none. -/
def groupOf (off : Nat) : Nat :=
  if 0x3000000 ≤ off then (off - 0x3000000) / 0x200000
  else if 0x2000000 ≤ off then 8 + (off - 0x2000000) / 0x200000
  else if 0x1000000 ≤ off then 16 + (off - 0x1000000) / 0x400000
  else if 0xC00000 ≤ off then 21
  else if 0x800000 ≤ off then 20
  else if off = obsBase + 0x100 then 64
  else if 0x400000 ≤ off then 24
  else if 0x300000 ≤ off then 23
  else 22

/-- The counter group of the tallies of a die, by its site code (*Counter groups*, R113). -/
def groupOfSite (site : Nat) : Nat := site / 32 * 8 + site % 32

/-- Zero every counter whose group a number names, with its overflow bits (R474).
DEDUCED: notes/assumptions/127.md. -/
def clearGroups (bits : Nat) (s : State) : State :=
  { s with
    ctr := s.ctr.filter fun e => !bitAt bits (groupOf e.1)
    ovf := s.ovf.filter fun e => !bitAt bits (groupOf e.1)
    arbs := s.arbs.foldl (fun t e =>
      if bitAt bits (groupOfSite (e.1 / 8192)) then tmod {} t e.1 (fun a => { a with tallies := [] }) else t) s.arbs }

/-- CTR_CLEAR (R474): the host writes CTR_CLEAR. -/
def execCtrClear (v : BitVec 64) (s : State) : Host.Outcome State Fault Refusal :=
  .next (hostAccess (obsBase + 0x108) (clearGroups (v.toNat % 2 ^ 25)) s)

/-! ## The Lamp room -/

/-- Change the Lamp room. -/
def modLamp (f : Lamp → Lamp) (s : State) : State := { s with lamp := f s.lamp }

/-- A write of LAMP_RTC, which waits for the next crystal edge (R486). -/
def rtcPut (v m : Nat) (s : State) : State :=
  modLamp (fun l => { l with rtcWrite := some (mixModes m v (l.rtcWrite.getD l.rtc) % 2 ^ 48) }) s

/-- LAMP_RTC_WRITE (R486): the host writes LAMP_RTC. -/
def execLampRtcWrite (v : BitVec 64) (s : State) : Host.Outcome State Fault Refusal :=
  .next (hostAccess lampBase (rtcPut v.toNat allBits) s)

/-- LAMP_CMP_n as a number (R489). -/
def cmpWord (c : Comparator) : Nat :=
  bit01 c.enable + place (bit01 c.alert) 1 2 + place (bit01 c.wake) 1 3 + place (bit01 c.dir) 1 4 +
    place c.qty 4 8 + place c.die 8 16 + place (bit01 c.fired) 1 63

/-- A write of LAMP_CMP_n: 1 clears FIRED, a reserved QTY leaves the field (R489). -/
def cmpPut (n v m : Nat) (s : State) : State :=
  modLamp (fun l => { l with cmps := tmod {} l.cmps n fun c =>
    let w := mixModes m v (cmpWord c)
    { c with
      fired := c.fired && !(bitAt v 63 && bitAt m 63)
      die := fieldOf w 23 16
      qty := if fieldOf w 11 8 < 5 then fieldOf w 11 8 else c.qty
      dir := bitAt w 4, wake := bitAt w 3, alert := bitAt w 2, enable := bitAt w 0 } }) s

/-- A write of LAMP_CMP_THR_n. -/
def cmpThrPut (n v m : Nat) (s : State) : State :=
  modLamp (fun l => { l with cmps := tmod {} l.cmps n fun c => { c with thr := BitVec.ofNat 64 (mixModes m v c.thr.toNat) } }) s

/-- A write of LAMP_WAKE: 1 clears a bit of SOURCE. -/
def lampWakePut (v m : Nat) (s : State) : State :=
  modLamp (fun l => { l with wakeSrc := mixModes (v &&& m &&& 0xFF) 0 l.wakeSrc }) s

/-- A comparator drives WAKE_N (R488).
DEDUCED: notes/assumptions/126.md. -/
def wakeNow (s : State) : Bool := s.lamp.cmps.any fun e => e.2.fired && e.2.wake

/-- The value that a comparator compares: the clocks of the Lamp room, or the sample of its quantity (R488).
DEDUCED: notes/assumptions/126.md. -/
def cmpValue (s : State) (c : Comparator) (v : BitVec 64) : BitVec 64 :=
  if c.qty = 3 then BitVec.ofNat 64 s.lamp.rtc else if c.qty = 4 then BitVec.ofNat 64 s.lamp.tick else v

/-- Comparator n compares its quantity with its threshold (R488). In OFF the Lamp room does not run, and a die
without power is not sampled. -/
def sampleCmp (n : Nat) (v : BitVec 64) (s : State) : State :=
  let c := tget {} s.lamp.cmps n
  let x := cmpValue s c v
  let holds := if c.dir then x.sle c.thr else c.thr.sle x
  if !c.enable || s.pwr.state == stOff || (c.qty == 2 && !s.pwr.pwrGood) || !holds || c.fired then s
  else
    modLamp (fun l => { l with
      cmps := tmod {} l.cmps n fun c => { c with fired := true }
      wakeSrc := if c.wake then l.wakeSrc ||| 1 <<< n else l.wakeSrc }) s
      |> raise (source 6 n) 0x0101 [(18, 1, n), (24, 8, x.toNat)]

/-- COMPARATOR_SAMPLE (R488): the sample of a comparator's quantity. -/
def execComparatorSample (n : Nat) (v : BitVec 64) (s : State) : Host.Outcome State Fault Refusal :=
  onUnit (decide (n < 8)) (sampleCmp n v s)

/-- The comparators on a clock of the Lamp room sample at each of its increments (R488): QTY 3 LAMP_RTC, 4
LAMP_TICK. -/
def sampleClock (qty : Nat) (s : State) : State :=
  (rangeFrom 0 8).foldl (fun s n => if (tget {} s.lamp.cmps n).qty = qty then sampleCmp n 0 s else s) s

/-! ## Modes and the power cap -/

/-- A write of MODE_CTL: the reserved workload leaves its field, and what can latch latches (R456, R458). -/
def modeCtlPut (v m : Nat) (s : State) : State :=
  let w := mixModes (m &&& 0x11313) v s.modes.ctl
  let w := if w % 4 = 3 then mixModes mWorkload s.modes.ctl w else w
  latchModes { s with modes := { s.modes with ctl := w } }

/-- MODE_CTL_WRITE (R458): the host writes MODE_CTL. -/
def execModeCtlWrite (v : BitVec 64) (s : State) : Host.Outcome State Fault Refusal :=
  .next (hostAccess 0x200 (modeCtlPut v.toNat allBits) s)

/-- A write of PWR_CAP from the host or the sideband (R534, R550); the power mode follows at a step
boundary, outside an attempt at once (R205). -/
def pwrCapPut (v m : Nat) (s : State) : State :=
  let w := mixModes (m &&& 0x1FFF) v s.pwr.cap
  let s := if 2000 ≤ w ∧ w ≤ 4800 then modPwr (fun p => { p with cap := w }) s else s
  if inAttempt s then s else capBoundary s

/-- PWR_CAP_WRITE (R534): the host writes PWR_CAP. -/
def execPwrCapWrite (v : BitVec 64) (s : State) : Host.Outcome State Fault Refusal :=
  .next (hostAccess 0x800 (pwrCapPut v.toNat allBits) s)

end Sys2Proof.Machine
end

