-- ==== Sys2Proof/Machine/PowerCtl.lean ====
section
/-!
DEFINITION. What each reset keeps (R542 to R546, R578, R474, R479, R481), removing the rails (R547), and the
issue fractions (R534 to R537).
-/
namespace Sys2Proof.Machine

/-! ## What a reset leaves -/

/-- The cells after a reset: every register and memory zero, their health as the fault history has it. -/
def bareCells (f : Faults) : Table Cell :=
  f.pendingCells.foldl (fun t k => tset {} t k { health := .retirePending })
    (f.retiredCells.foldl (fun t k => tset {} t k { health := .retired }) [])

/-- Of a memory controller the flash keeps the spare rows used and the repairs still to be made. -/
def bareMcs (t : Table Mc) : Table Mc :=
  t.foldl (fun u e => tset {} u e.1 { used := e.2.used, repairQ := e.2.repairing.toList ++ e.2.repairQ }) []

/-- A table without some of its keys. -/
def tkeep {α : Type} (t : Table α) (keep : Nat → Bool) : Table α := t.filter fun e => keep e.1

/-- A module that holds nothing but what lives on standby power, in flash or outside it.
DEDUCED: notes/assumptions/129.md. -/
def bare (s : State) : State :=
  { pending := s.pending, lamp := s.lamp, hf := s.hf, pwr := s.pwr, side := s.side
    faults := { s.faults with stoppedCells := [] }
    cells := bareCells s.faults
    mcs := bareMcs s.mcs
    obs := { seqs := tkeep s.obs.seqs fun k => k / 4096 == 5 || k / 4096 == 6 }
    wire := s.wire, hostOut := s.hostOut, free := s.free }

/-- The fault counters that WARM and HOT keep (R474, R509). -/
def fltCtr (off : Nat) : Bool := off == 0x710 || off == 0x718 || off == 0x720

/-- The power state after a COLD or WARM reset begins (R544). -/
def barePower (kind : ResetSt) (p : Power) : Power :=
  { p with
    reset := kind, cap := 4800, fCap := 64, fDie := [], fCur := [], curLimit := false, capped := false
    meanAtt := none, energyAtt := 0, tickAtt := 0, throttled := [], throttleAt := none, railFault := false }

/-- The Headframe leaves what it was doing; reservation writes run on (R547).
DEDUCED: notes/assumptions/129.md. -/
def hfStop (h : Headframe) : Headframe :=
  { h with
    jobs := [], signing := false, report := [], bootOk := false, bootFail := false, fallback := false
    wait := if h.wait = some .reserve then h.wait else none }

/-- A boot begins (R514): what the last boot left in HF_STATUS, HF_ALIAS_LEAF and HF_FW_MEAS_n is at its reset value
(R9, R528). -/
def hfBoot (h : Headframe) : Headframe :=
  { hfStop h with
    wait := none, exhaustedSeen := false, aliasLeaf := 0, aliasExhausted := false
    fwMeas := [], header := [], rootSlot := 0, fwSlot := false }

/-- A COLD start (R544, R548). -/
def coldStart (s : State) : State :=
  let b := bare s
  let trip := s.pwr.tripRec.isSome && !s.pwr.tripArmed
  setSys stBoot { b with
    pwr := { barePower .cold s.pwr with
      surveyed := false, input := 0, temp := 0
      tripRec := if trip then s.pwr.tripRec else none
      tripArmed := trip, tripSeen := s.pwr.tripSeen || trip }
    hf := { hfBoot s.hf with
      leaf := s.hf.recorded, limit := s.hf.recorded, dikExhausted := false, keyLowSeen := false
      planKey := [], planKeyLock := false, enrolled := false }
    obs := { b.obs with seqs := tkeep b.obs.seqs fun k => k / 4096 == 6 }
    side := { s.side with dynamic := none }
    faults := { b.faults with
      ledger := [], elapsed := 0, laneFails := [], damaged := false, marginShort := false, shortDies := [], reportSeq := 0
      current := 1400 } }

/-- The start of a WARM reset (R543, R544, R546): the deep tier stays, the rest goes. -/
def warmBegin (kind : ResetSt) (s : State) : State :=
  let b := bare s
  setSys stBoot { b with
    pwr := barePower kind s.pwr
    hf := hfBoot s.hf
    deep := s.deep
    bad := s.bad.filter fun x => x.1 == 1
    lend := { s.lend with zeroing := false, newBase := 0, newSize := 0, cmd := none }
    ctr := tkeep s.ctr fltCtr
    ovf := tkeep s.ovf fltCtr }

/-- The states in which a WARM request acts: the rails are up, or the ROM waits after a failed boot; a
wider reset is not under way (R542). -/
def warmable (s : State) : Bool :=
  decide (stBoot ≤ s.pwr.state) && !s.pwr.railFault && s.pwr.reset != .cold

/-- A WARM reset, merged into one that is as wide or wider (R542). -/
def warmReset (s : State) : State :=
  if warmable s && s.pwr.reset != .warm && s.pwr.reset != .warmHeld then warmBegin .warm s else s

/-- The commands in progress with the RESULT of their end, but for those of the maintenance lock and
LEND_SET. -/
def openCmds (s : State) : List (CmdRef × Nat) :=
  let one := fun (c : Option CmdRef) => (c.toList.map fun c => (c, 0) : List (CmdRef × Nat))
  one s.plan.stageCmd ++ one s.plan.swapCmd ++ one s.steps.master.cmd ++ s.steps.aborts.map (fun c => (c, 0)) ++
    one s.ckpt.cmd ++ s.hf.jobs.map (fun j => (j.cmd, 0)) ++
    (s.intake.main ++ s.intake.reserve).map (fun f => (f.cmd, 0)) ++
    s.gen.users.flatMap (fun e => e.2.toList.map fun q => (q.cmd, q.ids.length)) ++
    s.gen.queue.map (fun q => (q.cmd, q.ids.length))

/-- What a HOT reset keeps and clears (R544, R545): memory, the lend range, the host link with its queues,
the event ring, the modes and the ports stay. -/
def hotClear (s : State) : State :=
  let b := bare s
  { b with
    hbm := s.hbm, deep := s.deep, bad := s.bad, bxl := s.bxl, modes := s.modes, pwr := s.pwr
    lend := { s.lend with zeroing := false, newBase := 0, newSize := 0, cmd := none }
    ports := s.ports
    mcs := s.mcs.foldl (fun t e => tset {} t e.1 { e.2 with
      pool := [], waiting := [], issued := []
      repairQ := e.2.repairing.toList ++ e.2.repairQ, repairing := none, scrubPass := false, quotaRaised := false }) []
    obs := { s.obs with seqs := b.obs.seqs }
    ctr := tkeep s.ctr fltCtr
    ovf := tkeep s.ovf fltCtr }

/-- A HOT reset begins (R545): BOOT at once, everything stops, and the commands in progress complete with
NOT_READY; LEND_SET alone has no completion (R389).
DEDUCED: notes/assumptions/128.md. -/
def hotBegin (s : State) : State :=
  let cmds := openCmds s
  let lent := bit01 s.lend.cmd.isSome
  let s := maintReset true s
  let s := dropReads (fun w => w != .command) s
  let s := hotClear (modHf (fun h => { h with jobs := [], signing := false, report := [] }) s)
  let s := modBxl (fun b => { b with inflight := b.inflight - lent }) s
  let s := setSys stBoot (modPwr (fun p => { p with reset := .hot, meanAtt := none, throttled := [] }) s)
  cmds.foldl (fun s c => completeR c.1 cNotReady c.2 s) s

/-- A HOT reset, unless a reset is under way or the module has not started (R542).
DEDUCED: notes/assumptions/128.md. -/
def hotReset (s : State) : State :=
  if stBoot ≤ s.pwr.state ∧ s.pwr.state ≠ stFault ∧ s.pwr.reset = .none then hotBegin s else s

/-! ## Removing the rails -/

/-- Every rail but standby is removed, and the module enters a state (R547).
DEDUCED: notes/assumptions/131.md. -/
def railsOff (st : Nat) (standby : Standby) (s : State) : State :=
  let b := bare s
  setSys st { b with
    pwr := { barePower .none s.pwr with
      cap := s.pwr.cap, pwrGood := false
      standby := if s.pwr.standby = .needEn then .needEn else standby }
    hf := hfStop s.hf }

/-- The module has started: it is neither OFF nor in STANDBY. -/
def started (s : State) : Bool := decide (stStandby < s.pwr.state)

/-- A start from STANDBY begins as soon as PWR_EN and the input allow it (R532, R547).
DEDUCED: notes/assumptions/131.md. -/
def tryStart (s : State) : State :=
  if s.pwr.state = stStandby ∧ s.pwr.pwrEn ∧ s.pwr.stable ∧ s.pwr.standby = .normal then coldStart s else s

/-! ## Issue fractions -/

/-- The site code of die number 0 to 19: Spire, Stope, Gallery (R113). -/
def dieSite (n : Nat) : Nat := if n < 8 then n else if n < 16 then 32 + (n - 8) else 64 + (n - 16)

/-- The limit of a die's thermal fraction: the cap fraction or that of R535; Stope and Gallery dies are not
capped. -/
def fLimit (p : Power) (n : Nat) : Nat := if n < 8 then min p.fCap (64 - tget 0 p.fCur n) else 64

/-- The thermal fraction of a die (R536). -/
def fThermal (p : Power) (n : Nat) : Nat := 64 - tget 0 p.fDie n

/-- The fraction in force on a die (R536).
DEDUCED: notes/assumptions/130.md. -/
def fInForce (p : Power) (n : Nat) : Nat := min (fThermal p n) (fLimit p n)

/-- A die's fraction fell below its limit (R537): once in an attempt for each die, outside attempts at most
once per second. -/
def reportThrottle (cause n temp f : Nat) (s : State) : State :=
  let fields := [(18, 1, cause), (19, 1, dieSite n), (20, 2, temp), (22, 1, f)]
  let late := match s.pwr.throttleAt with
    | some t => decide (1000000000 ≤ s.lamp.tick - t)
    | none => true
  if inAttempt s then
    if n ∈ s.pwr.throttled then s
    else raise (source 0 0) 0x0A04 fields (modPwr (fun p => { p with throttled := p.throttled ++ [n] }) s)
  else if late then raise (source 0 0) 0x0A04 fields (modPwr (fun p => { p with throttleAt := some s.lamp.tick }) s)
  else s

/-- PWR_STATUS.THERMAL: a die is slowed by R536.
DEDUCED: notes/assumptions/130.md. -/
def thermalSlow (p : Power) : Bool := (rangeFrom 0 20).any fun n => decide (fThermal p n < fLimit p n)

/-- The lowest fraction in force on any die. -/
def fLowest (p : Power) : Nat := (rangeFrom 0 20).foldl (fun m n => min m (fInForce p n)) 64

/-- PWR_STATUS (R550). -/
def powerStatus (p : Power) : Nat :=
  bit01 p.pwrGood + place (bit01 (decide (p.cap < 4800))) 1 1 + place (bit01 p.uvWarn) 1 2 +
    place (bit01 p.ovWarn) 1 3 + place (bit01 (thermalSlow p)) 1 4 + place (bit01 p.curLimit) 1 5 +
    place (bit01 p.brownSeen) 1 6 + place (bit01 p.tripSeen) 1 7 + place (fLowest p) 8 24 + place p.fCap 8 32

/-- The causes that hold ALERT_N low, by bit (R567). -/
def alertCauses (s : State) : Nat :=
  bit01 (s.lamp.cmps.any fun e => e.2.fired && e.2.alert) + place (bit01 (s.pwr.uvWarn || s.pwr.ovWarn)) 1 1 +
    place (bit01 (thermalSlow s.pwr || s.pwr.curLimit)) 1 2 + place (bit01 (decide (s.pwr.state = stFault))) 1 3 +
    place (bit01 (s.faults.damaged || s.faults.marginShort)) 1 4

/-- A write of SYS_CTL acts on the widest bit set (R550). -/
def sysCtlPut (v m : Nat) (s : State) : State :=
  let v := v &&& m
  if bitAt v 2 then (if started s then railsOff stStandby .needEn s else s)
  else if bitAt v 1 then warmReset s
  else if bitAt v 0 then hotReset s
  else s

end Sys2Proof.Machine
end

