-- ==== Sys2Proof/Machine/RegRead.lean ====
section
/-!
DEFINITION. What a read of each register returns (R551 to R562 and the register tables of every chapter). A
counter or an overflow register reads from its table by its offset; a reserved offset reads zero.
-/
namespace Sys2Proof.Machine

/-! ## SYS -/

/-- MAINT_STATUS (R470). -/
def maintStatus (s : State) : Nat :=
  let run := s.modes.running
  bitsOf (run.map (·.activity)) + place (bitsOf (s.modes.waiting.map (·.activity))) 8 8 +
    place (bitsOf ((run.filter fun r => r.activity == 5).map (·.port))) 7 16 +
    place s.modes.waiting.length 5 24 + place (bitsOf ((run.flatMap classesOf).map (·.1))) 14 32

/-- STEP_STATUS.ROLE (R311). -/
def roleCode (s : State) : Nat :=
  if !s.plan.active then 0
  else if s.steps.acting then 3
  else if imgMaster s s.act = s.me then 1
  else if backupOf s = some s.me then 2
  else if imgRole s s.act s.me = 0 then 0 else 4

/-- The number of a step phase (*STEP_STATUS*). -/
def StepPhase.code : StepPhase → Nat
  | .idle => 0
  | .running => 1
  | .readySent => 2
  | .committing => 3
  | .aborting => 4
  | .restoring => 5

/-- STEP_STATUS (R311). -/
def stepStatus (s : State) : Nat :=
  s.steps.phase.code + place (roleCode s) 4 8 + place s.steps.lastCode 16 16 + place s.steps.attempt 32 32

/-- The number of a checkpoint state (*CKPT_STATUS*). -/
def CkptSt.code : CkptSt → Nat
  | .idle => 0
  | .writing => 1
  | .mirroring => 2
  | .exporting => 3
  | .restoring => 4
  | .receiving => 5

/-- The step of the newest valid slot of a region kind, if any (R311). -/
def newestStep (s : State) (kind : Nat) (last : Bool) : Option Nat :=
  match (if s.plan.active then imgKind s s.act kind else none) with
  | none => none
  | some r => (newestSlot s r last).map fun b => hdrNum (deepSlot s (slotAt r b)) 8 8

/-- The step of the newest CHECKPOINT slot. -/
def localStep (s : State) : Option Nat := newestStep s 8 s.ckpt.target
/-- The step of the newest BUDDY_MIRROR slot. -/
def mirrorStep (s : State) : Option Nat := newestStep s 9 s.ckpt.mirrorTarget

/-- CKPT_STATUS (R311). -/
def ckptStatus (s : State) : Nat :=
  let st := if s.ckpt.st = .idle ∧ s.ckpt.mirrorHeader ≠ [] then CkptSt.receiving else s.ckpt.st
  st.code + place (bit01 s.ckpt.target) 1 4 + place (bit01 (localStep s).isSome) 1 5 +
    place (bit01 (mirrorStep s).isSome) 1 6 + place s.ckpt.lastCode 16 16

/-- The number of a staged slot's state (*PLAN_STATUS*). -/
def StageSt.code : StageSt → Nat
  | .empty => 0
  | .staging => 1
  | .staged => 2
  | .refused => 3

/-- The number of a swap's state (*PLAN_STATUS*). -/
def SwapSt.code : SwapSt → Nat
  | .idle => 0
  | .boundary => 1
  | .waitGo => 2
  | .loading => 3

/-- PLAN_STATUS (R142).
DEDUCED: notes/assumptions/94.md. -/
def planStatus (s : State) : Nat :=
  let p := s.plan
  bit01 p.active + place (bit01 (p.reshard && p.swap != .idle)) 1 1 + place p.staged.code 2 2 +
    place p.swap.code 2 4 + place p.lastCode 8 8 + place p.faultOffset 32 16 + place p.faultSection 16 48

/-- GEN_STATUS (R431). -/
def genStatus (s : State) : Nat :=
  let users := s.gen.users.filterMap (·.2)
  bit01 (s.plan.active && (genTab s).isSome) + place (bit01 s.gen.isolated) 1 1 +
    place (bit01 (users.any (·.finished))) 1 2 + place users.length 4 8 + place s.gen.queue.length 16 32

/-- A register of the SYS block. -/
def sysValue (s : State) (o : Nat) : Option Nat :=
  if 0x10000 ≤ o ∧ o < 0x20000 then some (numAt (healthBytes s) (o - 0x10000) 8)
  else if 0x420 ≤ o ∧ o < 0x440 then some (if s.plan.active then numAt (planMeas s s.act) (o - 0x420) 8 else 0)
  else if 0x440 ≤ o ∧ o < 0x460 then
    some (if s.plan.staged = .staged then numAt (planMeas s s.stg) (o - 0x440) 8 else 0)
  else match o with
  | 0x000 => some 0x4E47435800080100
  | 0x010 => some (s.pwr.state + place s.pwr.previous 4 8)
  | 0x020 => some (s.faults.rated + place s.faults.current 16 16)
  | 0x030 => some (numAt serialBytes 0 8)
  | 0x038 => some (numAt serialBytes 8 8)
  | 0x100 => some (stepStatus s)
  | 0x108 => some s.steps.committed
  | 0x110 => some s.steps.epoch
  | 0x140 => some (ckptStatus s)
  | 0x148 => some ((localStep s).getD allOnes64)
  | 0x150 => some ((mirrorStep s).getD allOnes64)
  | 0x200 => some s.modes.ctl
  | 0x208 => some (modeStatus s)
  | 0x308 => some (maintStatus s)
  | 0x400 => some (planStatus s)
  | 0x500 => some (lendStatus s)
  | 0x600 => some (genStatus s)
  | 0x700 => some (faultStatus s)
  | 0x708 => some s.faults.elapsed
  | 0x800 => some s.pwr.cap
  | 0x808 => some (powerStatus s.pwr)
  | 0x810 => some s.pwr.input
  | 0x818 => some s.pwr.temp
  | _ => none

/-! ## HF, LAMP, BXL, OBS -/

/-- A register of the HF block (R528). -/
def hfValue (s : State) (o : Nat) : Option Nat :=
  if 0x48 ≤ o ∧ o < 0x68 then some (numAt s.hf.planKey (o - 0x48) 8)
  else if 0x80 ≤ o ∧ o < 0xA0 then some (numAt s.hf.fwMeas (o - 0x80) 8)
  else match o with
  | 0x00 => some (hfStatus s)
  | 0x10 => some s.hf.leaf
  | 0x18 => some s.hf.limit
  | 0x20 => some s.hf.aliasLeaf
  | 0x30 => some s.hf.svnFused
  | 0x40 => some (bit01 s.hf.planKeyLock + place (bit01 s.hf.enrolled) 1 1)
  | _ => none

/-- A register of the LAMP block (R489). -/
def lampValue (s : State) (o : Nat) : Option Nat :=
  if 0x100 ≤ o ∧ o < 0x180 then
    let c := tget {} s.lamp.cmps ((o - 0x100) / 16)
    some (if o % 16 = 0 then cmpWord c else c.thr.toNat)
  else match o with
  | 0x00 => some s.lamp.rtc
  | 0x08 => some s.lamp.tick
  | 0x200 => some (s.lamp.wakeSrc + place (bit01 (wakeNow s)) 1 8)
  | _ => none

/-- A register of the BXL block (R455). -/
def bxlValue (s : State) (o : Nat) : Option Nat :=
  let b := s.bxl
  match o with
  | 0x00 => some (b.st.code + place b.lanes 8 8 + place (bit01 b.cxl) 1 32 + place (bit01 b.hdm) 1 33)
  | 0x08 => some (place (bit01 b.retrainReq) 1 1 + place b.holdoff 8 8)
  | 0x10 => some b.cmdqBase
  | 0x18 => some (b.cmdqLog + place b.cplqLog 4 8 + place (bit01 b.enable) 1 16)
  | 0x20 => some b.cmdTail
  | 0x28 => some b.cmdHead
  | 0x30 => some b.cplqBase
  | 0x38 => some b.cplHead
  | 0x40 => some b.cplTail
  | 0x48 => some b.inflight
  | _ => none

/-- A register of the OBS block (R489). -/
def obsValue (s : State) (o : Nat) : Option Nat :=
  match o with
  | 0x00 => some s.obs.ringBase
  | 0x08 => some s.obs.ringLog
  | 0x10 => some s.obs.head
  | 0x18 => some s.obs.tail
  | 0x28 => some (bit01 (decide (s.obs.ringLog ≠ 0)) + place (bit01 (bitAt (tget 0 s.ovf (obsBase + 0x28)) 1)) 1 1 +
      place s.obs.queue.length 13 32)
  | _ => none

/-! ## PMAP and INTAKE -/

/-- PMAP_STATUS (R240). -/
def pmapStatus (s : State) : Nat :=
  let p := s.pmap
  bit01 p.fenceHost.isSome + place (bit01 !(p.edits.isEmpty && p.cows.isEmpty && p.relocs.isEmpty)) 1 1 +
    place (bit01 p.compact.isSome) 1 2 +
    place (bit01 (s.plan.active && decide (p.freeHbm.length + p.freeDeep.length < lowWater s))) 1 3 +
    place (bit01 p.victimEmpty) 1 4 + place (p.pend.length + p.pendWait.length) 9 8

/-- STASH_STATUS (R271). -/
def stashStatus (s : State) : Nat :=
  bit01 (s.plan.active && (stashTab s).isSome) + place (bit01 (decide (0 < stashUsed s 2))) 1 1 +
    place (bit01 s.stash.full) 1 2 + place s.stash.lastFull 16 32 + place s.stash.fullLayer 16 48

/-- A register of the PMAP block (R240, R271, R559).
DESIGN CHOICE: notes/assumptions/45.md. -/
def pmapValue (s : State) (o : Nat) : Option Nat :=
  match o with
  | 0x000 => some (s.pmap.base / 16 * 16 % 2 ^ 40 + s.pmap.page)
  | 0x008 => some s.pmap.entries
  | 0x010 => some s.pmap.epoch
  | 0x020 => some (s.pmap.freeHbm.length + s.pmap.freeDeep.length)
  | 0x028 => some (pmapStatus s)
  | 0x030 => some s.pmap.limbo.length
  | 0x100 => some (stashStatus s)
  | 0x108 => some (stashUsed s 1)
  | 0x110 => some (stashUsed s 2)
  | _ => none

/-- INTAKE_STATUS (R417). -/
def intakeStatus (s : State) : Nat :=
  let i := s.intake
  bit01 (s.plan.active && (intakeTab s).isSome) + place (bit01 (building s)) 1 1 + place (bit01 i.starved) 1 2 +
    place (bit01 i.resEmpty) 1 3 + place i.reserve.length 16 16 + place i.main.length 16 32

/-- A register of the INTAKE block (R417). -/
def intakeValue (s : State) (o : Nat) : Option Nat :=
  match o with
  | 0x00 => some (intakeStatus s)
  | 0x08 => some s.intake.curMain
  | 0x10 => some s.intake.curRes
  | 0x18 => some (s.intake.share + place s.intake.busy 16 32)
  | _ => none

/-! ## Die windows -/

/-- PORT_STATUS (R337).
DEDUCED: notes/assumptions/134.md. -/
def portStatus (q : Port) : Nat :=
  q.st.code + place (bit01 q.half) 1 4 + place (bit01 q.peerOk) 1 5 + place q.lanes 8 8 + place q.peer 16 16

/-- PORT_CTL as it was last written (R7, R337). -/
def portCtlWord (q : Port) : Nat :=
  let c := q.ctlNext.getD q.ctl
  bit01 q.ctl.enable + place (bit01 c.lldpEn) 1 1 + place (bit01 c.ecnEn) 1 2 + place (bit01 c.vlanEn) 1 3 +
    place (bit01 c.nhMode) 1 4 + place c.reorder 8 16 + place c.npaths 8 32 + place c.pfcEn 8 40 +
    place c.vid 12 48

/-- A register of a port window (R337). -/
def portValue (s : State) (p o : Nat) : Option Nat :=
  let q := getPort s p
  match o with
  | 0x00 => some (portStatus q)
  | 0x08 => some (portCtlWord q)
  | 0x10 => some (portMac p)
  | 0x18 => some q.nhMac
  | 0x20 => some q.dscp
  | _ => none

/-- The tally that a die's window selects (R394). -/
def selected (s : State) (site : Nat) : Tally :=
  let w := tget {} s.arbWins site
  tget {} (tget {} s.arbs (arbKey site (fieldOf w.sel 28 16))).tallies (w.sel % 256)

/-- A register of a tally window (R394). -/
def tallyValue (s : State) (site o : Nat) : Option Nat :=
  let w := tget {} s.arbWins site
  let t := selected s site
  match o with
  | 0x00 => some w.sel
  | 0x08 => some t.grants
  | 0x10 => some t.wait
  | 0x18 => some (place t.longest 32 0 + place (bit01 t.longestOvf) 1 32 + place (bit01 t.waitOvf) 1 33 +
      place (bit01 t.grantsOvf) 1 34)
  | 0x28 => some (place w.isoReq 8 0 + place w.isoArb 13 16 + place (bit01 w.isoValid) 1 63)
  | _ => none

/-- Requests that wait in a ring, if there is one. -/
def ringWaits (s : State) (r : Option Nat) : Nat := match r with | some r => (getRing s r).len | none => 0

/-- CIRC_STATUS, the same on every Gallery die (R210). -/
def circStatus (s : State) : Nat :=
  let l := s.circ.last
  place (s.circ.chans.filter (·.2.isOpen)).length 7 0 + place (bit01 (chanBack s l)) 1 8 + place l 8 24 +
    place (tget {} s.circ.chans l).hop 16 32

/-- GATH_STATUS (R271). -/
def gathStatus (s : State) (g : Nat) : Nat :=
  let e := tget {} s.gather.engs g
  bit01 (s.plan.active && (gathTab s).isSome) + place (bit01 e.fault) 1 1 +
    place (ringWaits s (gathRing s g)) 16 16 + place e.lastLayer 16 32

/-- COLL_STATUS (R365). -/
def collStatus (s : State) (g : Nat) : Nat :=
  let e := tget {} s.collEngs g
  bit01 (s.plan.active && (s.cfg 5).isSome) + place (bit01 e.diverged) 1 1 + place (bit01 e.epochFault) 1 2 +
    place ((s.colls.filter fun c => c.2.active && !collComplete s c.1 && collDie s c.1 == g).length) 16 16 +
    place e.last 12 32

/-- BELL_STATUS (R365).
DESIGN CHOICE: notes/assumptions/63.md. -/
def bellStatus (s : State) : Nat :=
  bit01 (s.plan.active || s.plan.swap != .idle) + place ((s.bell.ops.filter (·.2.active)).length) 16 16 +
    place s.bell.lastLatency 32 32

/-- A register of the window of Gallery die g. -/
def galValue (s : State) (g o : Nat) : Option Nat :=
  if 0x10000 ≤ o ∧ o < 0x12000 then
    if portOk g ((o - 0x10000) / 0x1000) then portValue s (2 * g + (o - 0x10000) / 0x1000) (o % 0x1000) else none
  else if 0x60000 ≤ o ∧ o < 0x60030 then tallyValue s (64 + g) (o - 0x60000)
  else match o with
  | 0x20000 => some (circStatus s)
  | 0x30000 => some (gathStatus s g)
  | 0x40000 => some (collStatus s g)
  | 0x50000 => if g = 0 then some (bellStatus s) else none
  | _ => none

/-- Spare rows left in a stack (R393); 0 until it is trained. -/
def sparesLeft (s : State) (ctl : Nat) : Nat :=
  let m := getMc s ctl
  if !m.trained then 0
  else (rangeFrom 0 (ctlChans ctl)).foldl (fun n c => (rangeFrom 0 (ctlBanks ctl)).foldl (fun n b =>
    n + (bankSpares ctl (c * 64 + b) - tget 0 m.used (c * 64 + b))) n) 0

/-- A register of a memory controller window (R393). -/
def mcValue (s : State) (ctl o : Nat) : Option Nat :=
  let m := getMc s ctl
  match o with
  | 0x00 => some (bit01 m.trained + place (bit01 m.chanReset) 1 1 + place (bit01 m.scrubPass) 1 4 +
      place (bit01 m.repairing.isSome) 1 5 + place (bit01 !m.repairQ.isEmpty) 1 6 + place (slotsInUse s ctl) 13 16 +
      place (sparesLeft s ctl) 16 32)
  | 0x20 => some (place m.errOff 40 0 + place m.errKind 2 62)
  | 0x38 => some (place m.scrubPos 36 0)
  | _ => none

/-- STP_STATUS (R287). -/
def stopeStatus (s : State) (d : Nat) : Nat :=
  let e := tget {} s.update.engs d
  bit01 (s.plan.active && (updTab s).isSome) + place (bit01 e.refused) 1 1 + place (bit01 !e.headers.isEmpty) 1 2 +
    place (bit01 !e.publishing.isEmpty) 1 3 + place (ringWaits s (updRing s d)) 16 16 + place e.last 32 32

/-- A register of the window of Stope die d. -/
def stopeValue (s : State) (d o : Nat) : Option Nat :=
  if 0x8000 ≤ o ∧ o < 0x8800 then mcValue s (16 + 2 * d + (o - 0x8000) / 0x400) (o % 0x400)
  else if 0x9000 ≤ o ∧ o < 0x9030 then tallyValue s (32 + d) (o - 0x9000)
  else if o = 0x10000 then some (stopeStatus s d)
  else none

/-- The number of a cell state (*CELL_STATUS*). -/
def CellSt.code : CellSt → Nat
  | .off => 0
  | .idle => 1
  | .loaded => 2
  | .running => 3
  | .halted => 4
  | .test => 5

/-- The number of a cell's health (*CELL_STATUS*). -/
def Health.code : Health → Nat
  | .healthy => 0
  | .spareIdle => 1
  | .suspect => 2
  | .retirePending => 3
  | .retired => 4

/-- A fault window of the cell or of one of its memories is open (R65, R490). -/
def suspectCell (s : State) (k : Nat) : Bool :=
  s.faults.ledger.any fun w => (w.site.kind == 2 || w.site.kind == 3) && w.site.b20 == k / 128 && w.site.b21 == k % 128 &&
    decide (s.faults.elapsed - w.opened ≤ 117964800)

/-- CELL_STATUS.HEALTH (R65): a corner cell that no logical index uses is a spare (R58, R62).
DEDUCED: notes/assumptions/148.md. -/
def healthOf (s : State) (k : Nat) : Health :=
  let c := getCell s k
  if c.health ≠ .healthy then c.health
  else if suspectCell s k then .suspect
  else if k % 128 ∈ [0, 9, 90, 99] ∧ c.logical = 0x3FF then .spareIdle else .healthy

/-- CELL_STATUS (R65): NC_MODE is 1 wherever the cache acts as an operand cache, in BOOT too (R55).
DEDUCED: notes/assumptions/151.md. -/
def cellStatus (s : State) (k : Nat) : Nat :=
  let c := getCell s k
  let h := healthOf s k
  c.st.code + place h.code 4 4 + place (if c.opHeld then 2 else bit01 (opMode s c)) 2 8 +
    place (runningStreams c).length 8 24 + place (tagsInUse c) 10 32

/-- A register of a cell window (R65, R66). -/
def cellValue (s : State) (k o : Nat) : Option Nat :=
  let c := getCell s k
  let n := k % 128
  match o with
  | 0x00 => some (cellStatus s k)
  | 0x08 => some (n + place (bit01 (decide (n ∈ [0, 9, 90, 99]))) 1 7 + place c.logical 10 16)
  | 0x10 => some (place (tagsInUse c) 10 0 + place c.tagsPeak 10 16)
  | _ => none

/-- A register of the window of Spire die d. -/
def spireValue (s : State) (d o : Nat) : Option Nat :=
  if 0x8000 ≤ o ∧ o < 0x8800 then mcValue s (2 * d + (o - 0x8000) / 0x400) (o % 0x400)
  else if 0x9000 ≤ o ∧ o < 0x9030 then tallyValue s d (o - 0x9000)
  else if 0x10000 ≤ o ∧ (o - 0x10000) / 0x1000 < 100 then cellValue s (128 * d + (o - 0x10000) / 0x1000) (o % 0x1000)
  else none

/-! ## The window -/

/-- A register by its offset in its block, where it is neither a counter nor an overflow register. -/
def blockValue (s : State) (off : Nat) : Option Nat :=
  if 0x3000000 ≤ off then spireValue s ((off - 0x3000000) / 0x200000) ((off - 0x3000000) % 0x200000)
  else if 0x2000000 ≤ off then stopeValue s ((off - 0x2000000) / 0x200000) ((off - 0x2000000) % 0x200000)
  else if 0x1000000 ≤ off then galValue s ((off - 0x1000000) / 0x400000) ((off - 0x1000000) % 0x400000)
  else if intakeBase ≤ off then intakeValue s (off - intakeBase)
  else if pmapBase ≤ off then pmapValue s (off - pmapBase)
  else if obsBase ≤ off then obsValue s (off - obsBase)
  else if bxlBase ≤ off then bxlValue s (off - bxlBase)
  else if lampBase ≤ off then lampValue s (off - lampBase)
  else if hfBase ≤ off then hfValue s (off - hfBase)
  else sysValue s off

/-- The register at an aligned offset of BAR0 (R5, R552). -/
def regGet (s : State) (off : Nat) : Nat :=
  match blockValue s off with
  | some v => v
  | none => tget 0 s.ctr off + tget 0 s.ovf off

/-- The cell whose CELL_TAGS lies at an offset.
DEDUCED: notes/assumptions/47.md. -/
def tagsAt (off : Nat) : Option Nat :=
  let o := (off - 0x3000000) % 0x200000
  let c := (o - 0x10000) / 0x1000
  if 0x3000000 ≤ off ∧ 0x10000 ≤ o ∧ c < 100 ∧ o % 0x1000 = 0x10 then
    some (128 * ((off - 0x3000000) / 0x200000) + c) else none

/-- A read that covers the whole of CELL_TAGS.PEAK restarts it from IN_USE (R66, R553). m is the mask of the
bits read. -/
def regRead (off m : Nat) (s : State) : State :=
  match tagsAt off with
  | some k => if bitAt m 25 then modCell k (fun c => { c with tagsPeak := tagsInUse c }) s else s
  | none => s

/-- CELL_TAGS_READ (R66): the host reads CELL_TAGS of a cell. -/
def execCellTagsRead (die cell : Nat) (s : State) : Host.Outcome State Fault Refusal :=
  onUnit (decide (die < 8) && decide (cell < 100))
    (let off := cellBase (128 * die + cell) + 0x10
    hostAccess off (regRead off allBits) s)

end Sys2Proof.Machine
end

