-- ==== Sys2Proof/Machine/RegWrite.lean ====
section
/-!
DEFINITION. What a write of each register does (R7, R8, R552, R553). A write gives a value and the mask of
the bits that it covers (R442).
-/
namespace Sys2Proof.Machine

/-- A write of PMAP_BASE: only while no plan is active; PAGE values 5 to 7 leave the field (R559). -/
def pmapBasePut (v m : Nat) (s : State) : State :=
  if s.plan.active then s
  else
    let w := mixModes m v (s.pmap.base + s.pmap.page)
    let p := if w % 8 < 5 then w % 8 else s.pmap.page
    { s with pmap := { s.pmap with base := w % 2 ^ 40 / 16 * 16, page := p } }

/-- PMAP_BASE_WRITE (R559): the host writes PMAP_BASE. -/
def execPmapBaseWrite (v : BitVec 64) (s : State) : Host.Outcome State Fault Refusal :=
  .next (hostAccess pmapBase (pmapBasePut v.toNat allBits) s)

/-- A write of PMAP_FENCE: a fence starts, or the one in force is extended (R230, R560). -/
def fencePut (v m : Nat) (s : State) : State :=
  if bitAt v 0 && bitAt m 0 then fenceCheck { s with pmap := { s.pmap with fenceHost := some (fenceSnap s) } } else s

/-- PMAP_FENCE_REG (R560): the host writes 1 to PMAP_FENCE. -/
def execPmapFenceReg (s : State) : Host.Outcome State Fault Refusal :=
  .next (hostAccess (pmapBase + 0x18) (fencePut 1 allBits) s)

/-- A write of BXL_CTL (R439, R451). -/
def bxlCtlPut (v m : Nat) (s : State) : State :=
  let s := modBxl (fun b => { b with holdoff := fieldOf (mixModes m v (place b.holdoff 8 8)) 15 8 }) s
  if bitAt v 1 && bitAt m 1 then retrainPut s else s

/-- A write to a port window (R337). -/
def portPut (p o v m : Nat) (s : State) : State :=
  let q := getPort s p
  match o with
  | 0x08 => portCtlSet p (mixModes m v (portCtlWord q)) s
  | 0x18 => modPort p (fun q => { q with nhMac := mixModes m v q.nhMac % 2 ^ 48 }) s
  | 0x20 => modPort p (fun q => { q with dscp := mixModes (m &&& 0x3F3F3F3F) v q.dscp }) s
  | _ => s

/-- A write to a tally window (R386, R394). -/
def tallyPut (site o v m : Nat) (s : State) : State :=
  match o with
  | 0x00 => { s with arbWins := tmod {} s.arbWins site fun w => { w with sel := mixModes (m &&& 0x1FFF00FF) v w.sel } }
  | 0x20 => if bitAt v 0 && bitAt m 0 then arbClearAt site s else s
  | _ => s

/-- The offset of ARB_CLEAR of a die, by site code (R394). -/
def arbClearOff (site : Nat) : Nat :=
  match site / 32 with
  | 0 => spireBase (site % 32) + 0x9020
  | 1 => stopeBase (site % 32) + 0x9020
  | _ => galBase (site % 32) + 0x60020

/-- ARB_CLEAR (R386): the host writes 1 to ARB_CLEAR of a die. -/
def execArbClear (site : Nat) (s : State) : Host.Outcome State Fault Refusal :=
  onUnit (siteOk site) (hostAccess (arbClearOff site) (tallyPut site 0x20 1 allBits) s)

/-- Writing 1 to an overflow bit clears it; other registers ignore the write (R7, R472, R475). -/
def ovfPut (off v m : Nat) (s : State) : State :=
  { s with ovf := tmod 0 s.ovf off fun old => mixModes (v &&& m) 0 old }

/-- A write of PWR_STATUS: a 1 clears THERMTRIP_SEEN or BROWNOUT_SEEN (R7, R550). -/
def pwrStatusPut (v m : Nat) (s : State) : State :=
  modPwr (fun p => { p with
    tripSeen := p.tripSeen && !bitAt (v &&& m) 7, brownSeen := p.brownSeen && !bitAt (v &&& m) 6 }) s

/-- A register of the SYS block that a write changes. -/
def sysPut (o : Nat) : Option (Nat → Nat → State → State) :=
  match o with
  | 0x018 => some sysCtlPut
  | 0x200 => some modeCtlPut
  | 0x300 => some maintCtlPut
  | 0x800 => some pwrCapPut
  | 0x808 => some pwrStatusPut
  | _ => none

/-- A register of the HF block that a write changes. -/
def hfPut (o : Nat) : Option (Nat → Nat → State → State) :=
  if o = 0x40 then some planKeyCtlPut
  else if 0x48 ≤ o ∧ o < 0x68 then some (planKeyPut ((o - 0x48) / 8))
  else none

/-- A register of the LAMP block that a write changes. -/
def lampPut (o : Nat) : Option (Nat → Nat → State → State) :=
  if 0x100 ≤ o ∧ o < 0x180 then
    some (if o % 16 = 0 then cmpPut ((o - 0x100) / 16) else cmpThrPut ((o - 0x100) / 16))
  else if o = 0 then some rtcPut
  else if o = 0x200 then some lampWakePut
  else none

/-- A register of the BXL block that a write changes. -/
def bxlPut (o : Nat) : Option (Nat → Nat → State → State) :=
  match o with
  | 0x08 => some bxlCtlPut
  | 0x10 => some cmdqBasePut
  | 0x18 => some cmdqCfgPut
  | 0x20 => some cmdqTailPut
  | 0x30 => some cplqBasePut
  | 0x38 => some cplqHeadPut
  | _ => none

/-- A register of the OBS block that a write changes. -/
def obsPut (o : Nat) : Option (Nat → Nat → State → State) :=
  match o with
  | 0x00 => some ringBasePut
  | 0x08 => some ringSizePut
  | 0x18 => some evtTailPut
  | 0x108 => some fun v m s => clearGroups ((v &&& m) % 2 ^ 25) s
  | _ => none

/-- A register of the window of Gallery die g that a write changes. -/
def galPut (g o : Nat) : Option (Nat → Nat → State → State) :=
  let p := (o - 0x10000) / 0x1000
  if 0x10000 ≤ o ∧ o < 0x12000 ∧ portOk g p ∧ o % 0x1000 ∈ [0x08, 0x18, 0x20] then some (portPut (2 * g + p) (o % 0x1000))
  else if o = 0x60000 ∨ o = 0x60020 then some (tallyPut (64 + g) (o - 0x60000))
  else none

/-- A register of the window of a Spire or Stope die, by site code, that a write changes. -/
def diePut (site o : Nat) : Option (Nat → Nat → State → State) :=
  if o = 0x9000 ∨ o = 0x9020 then some (tallyPut site (o - 0x9000)) else none

/-- What a write of the register at an offset does, where it is no overflow register. -/
def blockPut (off : Nat) : Option (Nat → Nat → State → State) :=
  if 0x3000000 ≤ off then diePut ((off - 0x3000000) / 0x200000) ((off - 0x3000000) % 0x200000)
  else if 0x2000000 ≤ off then diePut (32 + (off - 0x2000000) / 0x200000) ((off - 0x2000000) % 0x200000)
  else if 0x1000000 ≤ off then galPut ((off - 0x1000000) / 0x400000) ((off - 0x1000000) % 0x400000)
  else if intakeBase ≤ off then none
  else if pmapBase ≤ off then
    if off = pmapBase then some pmapBasePut else if off = pmapBase + 0x18 then some fencePut else none
  else if obsBase ≤ off then obsPut (off - obsBase)
  else if bxlBase ≤ off then bxlPut (off - bxlBase)
  else if lampBase ≤ off then lampPut (off - lampBase)
  else if hfBase ≤ off then hfPut (off - hfBase)
  else sysPut off

/-- A write of the register at an aligned offset of BAR0. -/
def regPut (off v m : Nat) (s : State) : State :=
  match blockPut off with
  | some f => f v m s
  | none => ovfPut off v m s

end Sys2Proof.Machine
end

