-- ==== Sys2Proof/Machine/Steps.lean ====
section
/-!
DEFINITION. The step commands and messages of a member and of its master, and their Canaries (R130, R288
to R302, R358).
-/
namespace Sys2Proof.Machine

/-- A step message of another step or attempt than this member's present pair (R288). -/
def stepStale (s : State) (_ : Nat) (m : BellMsg) : Bool :=
  m.group != s.steps.attempt || m.seq != s.steps.step % 2 ^ 32

/-- STEP_GO begins a new pair between attempts; the one of the present pair counts once. -/
def goStale (s : State) (src : Nat) (m : BellMsg) : Bool :=
  (s.steps.phase != .idle && s.steps.phase != .restoring) || (!stepStale s src m && (!s.steps.live || s.steps.failed))

/-- A step message of a code reaches its receiver.
DEDUCED: notes/assumptions/62.md. -/
def onStep (m : BellIn) (code : Nat) (f : Nat → BellMsg → State → State) (s : State) : Host.Outcome State Fault Refusal :=
  onBell m (fun b => b.kind == 3 && b.code == code) stepStale f s

/-! ## The host's commands -/

/-- The constant row that a step must carry agrees with the command's block (R130). -/
def rowOk (s : State) (step block : Nat) : Bool :=
  let n := imgRowCount s s.act
  let first := imgFirstStep s s.act
  n == 0 || (decide (first ≤ step) && decide (step < first + n) && imgRow s s.act (step - first) == block)

/-- STEP_RUN (R130, R289, R290, R300, R461, R468).
DEDUCED: notes/assumptions/36.md. -/
def cmdStepRun (c : CmdRef) (step block : Nat) (s : State) : State :=
  let survey := s.modes.running.any fun m => m.activity == 3
  if !s.plan.active ∨ imgMaster s s.act ≠ s.me ∨ s.steps.acting then complete c cNotReady s
  else if s.steps.lostHalt then complete c cMemberLost s
  else if inRecovery s ∨ s.steps.master.active ∨ s.plan.swap ≠ .idle ∨ survey ∨ s.pwr.state = stHalted ∨ s.steps.live ∨
      s.steps.phase ≠ .idle then
    complete c cNotReady s
  else if step ≠ s.steps.committed + 1 then complete c cStepMismatch s
  else if !rowOk s step block ∨ s.plan.peerBad then complete c cPlanInvalid s
  else if !planSupports s (goModes s) then complete c cPlanInvalid (latchTo (goModes s) s)
  else
    let a := tget 0 s.steps.attempts step % 2 ^ 32
    let s := modSteps (fun t => { t with
      step := step, attempt := a, live := true, failed := false, commitHeld := false
      attempts := tset 0 t.attempts step (tget 0 t.attempts step + 1)
      master := { active := true, cmd := some c, step := step, attempt := a } }) s
    let msg := toBytes 8 step ++ toBytes 32 block ++ List.replicate 24 0#8
    (imgWorkers s s.act).foldl (fun s i => sendStep i 0 0 msg s) s

/-- STEP_RUN. -/
def execStepRun (id : BitVec 16) (step : BitVec 64) (consts : BitVec 256) (s : State) : Host.Outcome State Fault Refusal :=
  let t := take id.toNat 0x10 s
  .next (cmdStepRun t.1 step.toNat consts.toNat t.2)

/-- STEP_ABORT_REQ (R298, R447). -/
def cmdAbortReq (c : CmdRef) (step : Nat) (s : State) : State :=
  if step ≠ s.steps.committed + 1 ∨ !s.steps.live ∨ s.steps.master.decision = some .commit then complete c cNotReady s
  else sendStep (masterOf s) 2 cStepAborted [] (modSteps (fun t => { t with aborts := t.aborts ++ [c] }) s)

/-- STEP_ABORT_REQ. -/
def execStepAbortReq (id : BitVec 16) (step : BitVec 64) (s : State) : Host.Outcome State Fault Refusal :=
  let t := take id.toNat 0x11 s
  .next (cmdAbortReq t.1 step.toNat t.2)

/-! ## Messages to a worker -/

/-- STEP_GO (R291). -/
def execStepGo (m : BellIn) (s : State) : Host.Outcome State Fault Refusal :=
  onBell m (fun b => b.kind == 3 && b.code == 0) goStale
    (fun _ b s => goEffect (numAt b.payload 0 8) b.group (numAt b.payload 8 32) s) s

/-- COMMIT (R298); from an acting master it also tells of the loss (R301). -/
def execCommit (m : BellIn) (s : State) : Host.Outcome State Fault Refusal :=
  onStep m 3 (fun src _ s =>
    let own := src == s.me
    let lost := src != imgMaster s s.act
    let s := if s.steps.live then commitEffect s else s
    let s := if own then commitAcked src s else s
    if lost then haltLost s else s) s

/-- ABORT (R299); the master's own ends its STEP_RUN (R290). -/
def execAbort (m : BellIn) (s : State) : Host.Outcome State Fault Refusal :=
  onStep m 4 (fun _ b s =>
    let code := b.value % 65536
    if !s.steps.live then s
    else
      let s := abortEffect code s
      if s.steps.master.active then runOver code s else s) s

/-! ## Messages to a master -/

/-- READY (R295). -/
def execReady (m : BellIn) (s : State) : Host.Outcome State Fault Refusal :=
  onStep m 1 (fun src b s => masterReady src (b.value % 2 ^ 32) s) s

/-- FAIL (R295). -/
def execFail (m : BellIn) (s : State) : Host.Outcome State Fault Refusal :=
  onStep m 2 (fun _ b s => masterFail (b.value % 65536) s) s

/-- PROBE (R295): its acknowledgement is its whole effect. -/
def execProbe (m : BellIn) (s : State) : Host.Outcome State Fault Refusal :=
  onStep m 5 (fun _ _ s => s) s

/-- LOST_REPORT (R206, R301). -/
def execLostReport (m : BellIn) (s : State) : Host.Outcome State Fault Refusal :=
  onStep m 6 (fun _ b s => lostReport (b.value % 65536) s) s

/-! ## Acknowledgements -/

/-- The message that an ACK acknowledges (R354). -/
def acks (src : Nat) (a : BellMsg) (o : BellOut) : Bool :=
  o.dst == src && o.msg.kind == a.code && o.msg.code == a.chan && o.msg.chan == a.ackChan && o.msg.group == a.group &&
    o.msg.seq == a.seq && o.msg.value == a.value

/-- What an acknowledged step message leads to. -/
def ackedStep (src code : Nat) (s : State) : State :=
  if code = 5 then probeAnswer src s
  else if code = 3 then
    let first := !s.steps.master.commitSent && backupOf s == some src && s.steps.master.decision == some .commit
    let s := modMaster (fun m => { m with acked := insertNew m.acked src, backupAcked := m.backupAcked || first }) s
    let s := if first then commitAll s else s
    commitAcked src s
  else s

/-- The ACK of a step message of another step or attempt (R288). -/
def ackStale (s : State) (src : Nat) (m : BellMsg) : Bool := m.code == 3 && stepStale s src m

/-- ACK (R288, R358). -/
def execAck (m : BellIn) (s : State) : Host.Outcome State Fault Refusal :=
  onBell m (fun b => b.kind == 2) ackStale (fun src b s =>
    match s.bell.out.find? (acks src b) with
    | none => s
    | some o =>
      let s := { s with bell := { s.bell with out := s.bell.out.erase o } }
      if o.msg.kind = 3 ∧ !stepStale s src o.msg then ackedStep src o.msg.code s else s) s

/-- Master and backup are both silent (R302): this member ends the attempt on its own, unless it has acted on
COMMIT, and halts. -/
def loneAbort (s : State) : State := if s.steps.live then abortEffect cMemberLost s else haltLost s

/-- A message stays unacknowledged after every retry (R295, R296, R301, R302, R358). -/
def unanswered (o : BellOut) (s : State) : State :=
  let s := { s with bell := { s.bell with out := s.bell.out.erase o } }
  if o.msg.kind ≠ 3 then (if s.plan.active then reportPeer o.dst s else s)
  else if stepStale s o.dst o.msg then s
  else match o.msg.code with
  | 5 => probeAnswer o.dst (if o.dst ∈ s.steps.master.probed then memberLost o.dst s else s)
  | 3 => if s.steps.master.commitSent then s else forceAbort cMemberLost (memberLost o.dst s)
  | 6 => if some o.dst = backupOf s ∧ o.msg.value = imgMaster s s.act then loneAbort s else reportPeer o.dst s
  | _ => reportPeer o.dst s

/-- BELL_ACK_CANARY_EXPIRE (R288, R297, R358): the message goes again, up to BELL_RETRIES times; COMMIT goes
until its own wait ends. -/
def execBellAckCanaryExpire (dst kind code chan : Nat) (s : State) : Host.Outcome State Fault Refusal :=
  .next (match s.bell.out.find? fun o => o.dst == dst && o.msg.kind == kind && o.msg.code == code && o.msg.chan == chan with
    | none => s
    | some o =>
      let always := kind == 3 && code == 3 && s.steps.master.commitSent
      let limit := if s.plan.active then bellRetries s else 8
      if always ∨ o.resends < limit then
        bellFrame o.dst o.msg { s with bell := { s.bell with out := s.bell.out.map fun q =>
          if q = o then { q with resends := q.resends + 1 } else q } }
          |> bump (galBase 0 + 0x50010) 1
      else unanswered o s)

/-! ## The master's Canaries -/

/-- COMMIT_WAIT_EXPIRE (R295). -/
def execCommitWaitExpire (s : State) : Host.Outcome State Fault Refusal :=
  .next (if s.steps.master.waitArmed then probeMissing s else s)

/-- ATTEMPT_CANARY_EXPIRE (R295). -/
def execAttemptCanaryExpire (s : State) : Host.Outcome State Fault Refusal := .next (probeMissing s)

/-- COMMIT_RETRY_EXPIRE (R297): every silent worker is lost; the step stays committed elsewhere. -/
def execCommitRetryExpire (s : State) : Host.Outcome State Fault Refusal :=
  let m := s.steps.master
  let silent := (liveWorkers s).filter fun i => decide (i ∉ m.acked) && i != s.me
  .next (if !m.active ∨ !m.commitSent ∨ silent = [] then s
    else
      let s := silent.foldl (fun s i => memberLost i s) { s with bell := { s.bell with
        out := s.bell.out.filter fun o => !(o.msg.kind == 3 && o.msg.code == 3) } }
      let s := haltLost s
      if s.me ∈ m.acked ∨ s.steps.acting then runOver cMemberLost s else s)

end Sys2Proof.Machine
end

