-- ==== Sys2Proof/Machine/HostLink.lean ====
section
/-!
DEFINITION. The host link above its flits: the link state machine (R439, R440), register accesses (R442),
commands read from the queue (R444, R447 to R449), CXL.mem requests (R390, R392, R452, R453), the in-band reset
(R454) and the messages that DATA flits carry (R433, R438).
-/
namespace Sys2Proof.Machine

/-! ## Register accesses -/

/-- An access that R442 admits: 4 or 8 aligned bytes inside BAR0 or BAR2. -/
def barOk (space addr n : Nat) : Bool :=
  (n == 4 || n == 8) && decide (addr % n = 0) &&
    ((space == 0 && decide (addr < 2 ^ 26)) || (space == 1 && decide (addr < 2 ^ 20)))

/-- The block of an access answers (R556). -/
def barServed (s : State) (space addr : Nat) : Bool := if space = 0 then served s addr else bar2Served s

/-- The bits of the aligned register that an access covers. -/
def barMask (addr n : Nat) : Nat := (2 ^ (8 * n) - 1) <<< (8 * (addr % 8))

/-- A host write (R442). -/
def hostPut (space addr : Nat) (data : List Byte) (s : State) : State :=
  let n := data.length
  let a := addr / 8 * 8
  let v := ofBytes data <<< (8 * (addr % 8))
  if s.bxl.st ≠ .active then s
  else if !barOk space addr n || !barServed s space addr then badAccess s
  else if space = 0 then regPut a v (barMask addr n) s
  else doorbellPut a v (barMask addr n) s

/-- The bytes that a host read returns (R442). -/
def hostBytes (s : State) (space addr n : Nat) : List Byte :=
  if !barOk space addr n || !barServed s space addr then List.replicate n 0xFF#8
  else
    let a := addr / 8 * 8
    toBytes n ((if space = 0 then regGet s a else doorbellGet s a) >>> (8 * (addr % 8)))

/-- A host read: MRSP with the bytes read, and what reading the register does (R442, R553). -/
def hostGet (space addr n tag : Nat) (s : State) : State :=
  if s.bxl.st ≠ .active then s
  else
    let r : HostMsg := { typ := 0x03, len := n, tag := tag, space := space, addr := addr
                         data := hostBytes s space addr n }
    let s := if !barOk space addr n || !barServed s space addr then badAccess s
      else if space = 0 then regRead (addr / 8 * 8) (barMask addr n) s else s
    sendMsg r s

/-- MWR. -/
def execMwr (space : BitVec 8) (addr : BitVec 64) (data : List Byte) (s : State) : Host.Outcome State Fault Refusal :=
  .next (hostPut space.toNat addr.toNat data s)

/-- MRD. -/
def execMrd (space : BitVec 8) (addr : BitVec 64) (len tag : Nat) (s : State) : Host.Outcome State Fault Refusal :=
  .next (hostGet space.toNat addr.toNat len tag s)

/-! ## Commands of the queue -/

/-- The bytes that the operands of an opcode fill, as pairs of offset and length (R447). -/
def cmdUses (op : Nat) : Option (List (Nat × Nat)) :=
  match op with
  | 0x01 => some [(8, 16)]
  | 0x02 => some []
  | 0x10 => some [(8, 40)]
  | 0x11 => some [(8, 8)]
  | 0x20 => some [(8, 9), (24, 16)]
  | 0x21 => some [(8, 9), (24, 8)]
  | 0x30 => some []
  | 0x40 => some [(8, 2), (16, 16)]
  | 0x50 => some [(8, 4)]
  | 0x60 => some [(8, 44)]
  | 0x70 => some [(8, 1), (12, 12)]
  | 0x80 => some [(8, 10), (20, 24), (48, 16)]
  | _ => none

/-- Every byte of a command that no operand fills is zero (R447, R448).
DESIGN CHOICE: notes/assumptions/140.md. -/
def cmdReserved (d : List Byte) (uses : List (Nat × Nat)) : Bool :=
  (rangeFrom 4 60).all fun i =>
    d.getD i 0#8 == 0#8 || uses.any fun u => decide (u.1 ≤ i) && decide (i < u.1 + u.2)

/-- The operands of GEN_SUBMIT (R447). -/
def genWordOf (d : List Byte) : GenWord :=
  let f := numAt d
  { request := .ofNat 32 (f 8 4), flags := .ofNat 8 (f 12 1), k1 := .ofNat 4 (f 13 1), promptLen := .ofNat 16 (f 14 2)
    maxNew := .ofNat 16 (f 16 2), invTemp := .ofNat 32 (f 20 4), topP := .ofNat 32 (f 24 4), seed := .ofNat 64 (f 28 8)
    stream := .ofNat 32 (f 36 4), stopId := .ofNat 32 (f 40 4), promptAddr := .ofNat 64 (f 48 8)
    outAddr := .ofNat 64 (f 56 8) }

/-- Carry out a well-formed command (R447). INTAKE_FEED counts itself as taken. -/
def runCommand (c : CmdRef) (d : List Byte) (s : State) : State :=
  let f := numAt d
  match c.op with
  | 0x01 => cmdPlanStage c (f 8 8) (f 16 8) s
  | 0x02 => cmdSwap c false s
  | 0x10 => cmdStepRun c (f 8 8) (f 16 32) s
  | 0x11 => cmdAbortReq c (f 8 8) s
  | 0x20 => cmdCkptWrite c (f 8 8) (f 16 1) (f 24 8) (f 32 8) s
  | 0x21 => cmdCkptRestore c (f 8 8) (f 16 1) (f 24 8) s
  | 0x30 => cmdSwap c true s
  | 0x40 => cmdMaintStart c (f 8 1) (f 9 1) (f 16 8) (f 24 8) s
  | 0x50 => cmdLendSet c (f 8 2) (f 10 2) s
  | 0x60 => cmdAttest c (sliceBytes d 8 32) (f 40 8) (f 48 4) s
  | 0x80 => if 16 ≤ f 13 1 then complete c cPlanInvalid s else cmdGenSubmit c (genWordOf d) s
  | _ => s

/-- A command is malformed: its opcode is unknown or a reserved byte is not zero (R448).
DEDUCED: notes/assumptions/95.md.
DESIGN CHOICE: notes/assumptions/140.md. -/
def cmdFlawed (op : Nat) (d : List Byte) : Bool :=
  match cmdUses op with
  | some uses => !cmdReserved d uses
  | none => true

/-- The 64 bytes of a command have been read: the head advances and the command takes effect (R444).
DESIGN CHOICE: notes/assumptions/115.md. -/
def cmdArrived (d : List Byte) (s : State) : State :=
  let op := numAt d 0 2
  let id := numAt d 2 2
  let s := modBxl (fun b => { b with cmdHead := (b.cmdHead + 1) % 2 ^ 32 }) s
  (if cmdFlawed op d then
      let t := take id op s
      complete t.1 cPlanInvalid t.2
    else if op = 0x70 then cmdIntakeFeed id (numAt d 8 1) (numAt d 12 4) (numAt d 16 8) s
    else
      let t := take id op s
      runCommand t.1 d t.2) |> pumpCmds

/-- The read of a command failed (R449): it completes with NOT_READY under a CMD_ID and an OPCODE that the
module never learnt. -/
def cmdLost (s : State) : State :=
  let s := modBxl (fun b => { b with cmdHead := (b.cmdHead + 1) % 2 ^ 32 }) s
  let f := takeFree s
  let t := take (f.1 % 65536) (f.1 / 65536 % 65536) f.2
  complete t.1 cNotReady t.2 |> pumpCmds

/-- A read of host memory is answered, with its bytes or with a failure (R449). -/
def readAnswered (r : HostRead) (data : List Byte) (ok : Bool) (s : State) : State :=
  let d := sliceBytes data 0 r.len
  match r.what with
  | .command => if ok then cmdArrived d s else cmdLost s
  | .image off => imageArrived off d ok s
  | .firmware _ => firmwareArrived d ok s
  | .ringEntry bell idx => ringArrived bell idx d ok s
  | .sample off => intakeArrived off r.len d ok s
  | .checkpoint off => slotArrived off d ok s
  | .prompt u off => promptArrived u off d ok s
  | .dropped => s

/-- A DRSP frees its TAG and answers the read that held it. -/
def drspTake (tag flags : Nat) (data : List Byte) (s : State) : State :=
  match s.bxl.st == .active, tget none s.bxl.reads tag with
  | true, some r =>
    modBxl (fun b => { b with reads := tset none b.reads tag none }) s
      |> readAnswered r data (flags % 4 == 0) |> issueRead
  | _, _ => s

/-- DRSP. -/
def execDrsp (tag : Nat) (flags : BitVec 8) (data : List Byte) (s : State) : Host.Outcome State Fault Refusal :=
  .next (drspTake tag flags.toNat data s)

/-! ## CXL.mem -/

/-- A response on VC 3 (R437, R438).
DESIGN CHOICE: notes/assumptions/139.md. -/
def cxlAnswer (tag addr : Nat) (poison : Bool) (data : List Byte) (s : State) : State :=
  sendMsg { typ := 0x32, flags := bit01 poison, len := data.length, tag := tag, space := 3, addr := addr, data := data } s

/-- The line of a device physical address lies in the lend range in force (R390, R453). -/
def lendLine (s : State) (addr : Nat) : Option Nat :=
  let a := addr / 64 * 64
  if s.lend.on ∧ a < s.lend.size * 2 ^ 30 then some (s.lend.base * 2 ^ 30 + a) else none

/-- A CXL.mem read (R390, R392): the line, with POISON beyond the range, where the data are free, or on an
uncorrectable error.
PRESUMED: notes/assumptions/138.md. -/
def cxlRead (tag addr : Nat) (s : State) : State :=
  if s.bxl.st ≠ .active then s
  else match lendLine s addr with
    | some off => cxlAnswer tag addr (decide ((1, off / 64) ∈ s.bad)) (readTier s 1 off 64) s
    | none =>
      let f := takeFree (bump 0x508 1 s)
      cxlAnswer tag addr true (toBytes 64 f.1) f.2

/-- A CXL.mem write of the enabled bytes of a line; beyond the range it is dropped (R390). -/
def cxlWrite (tag addr : Nat) (data : List Byte) (enables : BitVec 64) (s : State) : State :=
  if s.bxl.st ≠ .active then s
  else
    let d := sliceBytes data 0 64
    match lendLine s addr with
    | some off =>
      (if enables = BitVec.allOnes 64 then writeTier 1 off d s
       else (rangeFrom 0 64).foldl (fun s i =>
         if enables.getLsbD i then writeTier 1 (off + i) [d.getD i 0#8] s else s) s)
        |> cxlAnswer tag addr false []
    | none => bump 0x508 1 s |> cxlAnswer tag addr false []

/-- CXL_MEMRD. -/
def execCxlMemrd (tag : Nat) (addr : BitVec 64) (s : State) : Host.Outcome State Fault Refusal :=
  .next (cxlRead tag addr.toNat s)

/-- CXL_MEMRDDATA: read like MemRd (R452). -/
def execCxlMemrddata (tag : Nat) (addr : BitVec 64) (s : State) : Host.Outcome State Fault Refusal :=
  .next (cxlRead tag addr.toNat s)

/-- CXL_MEMWR. -/
def execCxlMemwr (tag : Nat) (addr : BitVec 64) (data : List Byte) (s : State) : Host.Outcome State Fault Refusal :=
  .next (cxlWrite tag addr.toNat data (BitVec.allOnes 64) s)

/-- CXL_MEMWRPTL. -/
def execCxlMemwrptl (tag : Nat) (addr : BitVec 64) (data : List Byte) (enables : BitVec 64) (s : State) :
    Host.Outcome State Fault Refusal := .next (cxlWrite tag addr.toNat data enables s)

/-- CXL_MEMSPECRD: dropped without a response (R452). -/
def execCxlMemspecrd (_addr : BitVec 64) (s : State) : Host.Outcome State Fault Refusal := .next s

/-- A CXLREQ of a flit, by its opcode and whether it carries data.
PRESUMED: notes/assumptions/138.md. -/
def cxlRequest (opx tag addr : Nat) (data : List Byte) (s : State) : State :=
  match opx, data.isEmpty with
  | 1, true => cxlRead tag addr s
  | 2, true => cxlRead tag addr s
  | 1, false => cxlWrite tag addr data (BitVec.allOnes 64) s
  | 2, false => cxlWrite tag addr data (Config.byteEnables addr data) s
  | _, _ => s

/-! ## Link messages and the in-band reset -/

/-- An LMSG of the adapter: its decoder is committed or not (R453).
DESIGN CHOICE: notes/assumptions/139.md. -/
def lmsgTake (data : List Byte) (s : State) : State :=
  if s.bxl.st ≠ .active then s else modBxl (fun b => { b with hdm := data.headD 0#8 != 0#8 }) s

/-- LMSG. -/
def execLmsg (data : List Byte) (s : State) : Host.Outcome State Fault Refusal := .next (lmsgTake data s)

/-- A RESET message: OPX 1 is a WARM reset, other values are ignored (R454). -/
def resetTake (opx : Nat) (s : State) : State :=
  if s.bxl.st = .active ∧ opx = 1 then warmReset s else s

/-- INBAND_RESET. -/
def execInbandReset (opx : BitVec 8) (s : State) : Host.Outcome State Fault Refusal := .next (resetTake opx.toNat s)

/-! ## Messages in DATA flits -/

/-- The header of a message (R438). -/
def msgHeader (l : List Byte) : HostMsg :=
  let f := numAt l
  { typ := f 0 1, flags := f 1 1, len := f 2 2, tag := f 4 2, space := f 6 1, opx := f 7 1, addr := f 8 8 }

/-- The data bytes that follow a header in its message (*Message types*). -/
def msgData (m : HostMsg) : Nat :=
  if m.typ = 0x02 ∨ m.typ = 0x40 then 0 else if m.typ = 0x13 ∧ bitAt m.flags 1 then 0 else m.len

/-- A message of the host takes effect (*Message types*); the adapter sends no other type. -/
def msgTake (m : HostMsg) (data : List Byte) (s : State) : State :=
  match m.typ with
  | 0x01 => hostPut m.space m.addr data s
  | 0x02 => hostGet m.space m.addr m.len m.tag s
  | 0x13 => drspTake m.tag m.flags data s
  | 0x31 => cxlRequest m.opx m.tag m.addr data s
  | 0x40 => resetTake m.opx s
  | 0x41 => lmsgTake data s
  | _ => s

/-- Take the whole messages of a run of slots in order; slots of a message whose rest has not come are kept,
and empty slots between messages are passed (R433). The number bounds the slots. -/
def msgsTake : Nat → List Byte → State → State
  | 0, _, s => s
  | n + 1, l, s =>
    if l.isEmpty then s
    else if l.take 16 = List.replicate 16 0#8 then msgsTake n (l.drop 16) s
    else
      let m := msgHeader l
      let k := 16 + 16 * ceilDiv (msgData m) 16
      if l.length < k then modBxl (fun b => { b with rxPart := l }) s
      else freeSlots (vcOf m.typ) (k / 16) s |> msgTake m ((l.drop 16).take (msgData m)) |> msgsTake n (l.drop k)

/-- The slots of an accepted DATA flit follow those that wait for their rest. -/
def slotsTake (body : List Byte) (s : State) : State :=
  let l := s.bxl.rxPart ++ body
  msgsTake (l.length / 16) l (modBxl (fun b => { b with rxPart := [] }) s)

/-- DATA_FLIT (R435). -/
def execDataFlit (bytes : List Byte) (s : State) : Host.Outcome State Fault Refusal :=
  .next (onFlit 0 bytes (fun c body s => takeData c body slotsTake s) s)

/-! ## Link states -/

/-- The link enters DOWN (R439, R440): its state is discarded, ENABLE clears, and every host transfer under
way is lost (R449).
DEDUCED: notes/assumptions/118.md. -/
def linkDown (s : State) : State :=
  let lost := s.bxl.reads.filterMap (·.2)
  let s := linkReset s |> queueOff |> modBxl (fun b => { b with reads := [] }) |> linkTo .down
  let s := lost.foldl (fun s r => if r.what = .command then s else readAnswered r [] false s) s
  s.bxl.readQ.foldl (fun s _ => issueRead s) s

/-- BXL_DETECT_EXPIRE (R439): no pattern within 12 ms. -/
def execBxlDetectExpire (s : State) : Host.Outcome State Fault Refusal :=
  .next (if s.bxl.st = .detect then linkDown s else s)

/-- LANES_EQUALISED (R439, R440): bad lists the lanes that failed; a half that holds one, or a lasting fault,
is not used. -/
def execLanesEqualised (bad : List Nat) (s : State) : Host.Outcome State Fault Refusal :=
  .next (if s.bxl.st ≠ .train then s
    else
      let s := lanesTrained hostLinkNo 8 bad s
      let out := fun h => bitAt (badHalves s hostLinkNo 8) h || (rangeFrom (4 * h) 4).any fun l => decide (l ∈ bad)
      if out 0 && out 1 then linkDown s
      else modBxl (fun b => { b with lanes := if out 0 || out 1 then 4 else b.lanes }) s |> linkTo .align)

/-- BXL_TRAIN_TIMEOUT (R439). -/
def execBxlTrainTimeout (s : State) : Host.Outcome State Fault Refusal :=
  .next (if s.bxl.st = .train then linkDown s else s)

/-- BXL_ALIGN_TIMEOUT (R439). -/
def execBxlAlignTimeout (s : State) : Host.Outcome State Fault Refusal :=
  .next (if s.bxl.st = .align then linkDown s else s)

/-- BXL_LOCK_LOSS (R439): RETRAIN from ACTIVE, DOWN from ALIGN. -/
def execBxlLockLoss (s : State) : Host.Outcome State Fault Refusal :=
  .next (match s.bxl.st with
    | .active => retrain 1 s
    | .align => linkDown s
    | _ => s)

end Sys2Proof.Machine
end

