-- ==== Sys2Proof/Machine/RemoteData.lean ====
section
/-!
DEFINITION. MOVE_DATA: a DATA frame of class MOVE, of a peer's remote store or of the answer to a READ
(R334).
-/
namespace Sys2Proof.Machine

/-- What follows when bytes that a READ asked for have landed.
DESIGN CHOICE: notes/assumptions/39.md. -/
def readLanded (what : XferFor) (data : List Byte) (s : State) : State :=
  match what with
  | .gather die => gathArrive die false data s
  | .permute i => permLanded i s
  | _ => s

/-- Bytes that a MOVE of a cell brought from another module drop the lines of that cell's near cache (R38). -/
def nearAfter (what : XferFor) (g : GAddr) (n : Nat) (s : State) : State :=
  match what with
  | .stream k _ _ => if g.tier ≤ 1 then ncDrop k (g.off + g.tier * 2 ^ 48) n s else s
  | _ => s

/-- A frame that answers a READ of this member; the header of a gathered shard goes to its engine, a
unit of a mirror to the checkpoint engine (MIRROR_UNIT_RECEIVE), every other payload to the address that the
READ gave. -/
def responseData (r : RxFrame) (id : Nat) (x : RemoteXfer) (s : State) : State :=
  let a := fld r.f 44 8
  let d := r.f.payload
  match x.what with
  | .gatherHdr die => ackFrame r s |> xferProgress id d.length |> gathArrive die true d
  | .mirror _ => ackFrame r s |> xferProgress id d.length
  | what =>
    if rxAddrOk s a d.length then
      writeLocal (gaddr a) d s |> nearAfter what (gaddr a) d.length |> ackFrame r |> xferProgress id d.length |> readLanded what d
    else refuseFrame r s

/-- A DATA frame of class MOVE that was accepted; one that answers no READ in progress is discarded.
DEDUCED: notes/assumptions/110.md. -/
def moveData (r : RxFrame) (s : State) : State :=
  let a := fld r.f 44 8
  if r.f.resp then
    match getXfer s (fld r.f 60 4) with
    | some x => if x.write then ackFrame r s else responseData r (fld r.f 60 4) x s
    | none => ackFrame r s
  else if rxAddrOk s a r.f.payload.length then writeLocal (gaddr a) r.f.payload s |> ackFrame r
  else refuseFrame r s

/-- MOVE_DATA. -/
def execMoveData (r : RxFrame) (s : State) : Host.Outcome State Fault Refusal := onMove r 0 (moveData r) s

end Sys2Proof.Machine
end

