-- ==== Sys2Proof/Machine/Resets.lean ====
section
/-!
DEFINITION. The commands of power, clocks, resets and start-up (21_power_clocks_reset).
-/
namespace Sys2Proof.Machine

/-! ## The input -/

/-- INPUT_RISE (R530, R531): the input rises through 40 V. -/
def execInputRise (s : State) : Host.Outcome State Fault Refusal :=
  .next (if s.pwr.state = stOff then modPwr (fun p => { p with inputOk := true, stable := false }) s else s)

/-- STANDBY_ENTRY (R530, R485, R486, R566): 50 ms later the standby rail is up, the clocks of the Lamp room
start at 0 and the address strap is read. -/
def execStandbyEntry (strap : BitVec 3) (s : State) : Host.Outcome State Fault Refusal :=
  .next (if s.pwr.state = stOff ∧ s.pwr.inputOk then
      setSys stStandby { s with lamp := {}, side := { strap := strap.toNat }
                                pwr := { s.pwr with standby := .normal, lowAt := none } }
    else s)

/-- INPUT_STABLE_START (R532): the input has stayed between 50 V and 60 V for 100 ms. -/
def execInputStableStart (s : State) : Host.Outcome State Fault Refusal :=
  .next (if s.pwr.state = stOff then s else tryStart (modPwr (fun p => { p with stable := true }) s))

/-- BROWNOUT (R531): the rails are removed; the module starts again by itself. -/
def execBrownout (s : State) : Host.Outcome State Fault Refusal :=
  .next (if s.pwr.state = stOff then s
    else
      let s := modPwr (fun p => { p with stable := false, brownSeen := true }) s
      if started s then railsOff stStandby .normal s else s)

/-- INPUT_LOSS (R531): the module goes OFF, and what the Lamp room holds is lost (R479, R489, R495, R550); the record
of a thermal trip stays in flash (R538). -/
def execInputLoss (s : State) : Host.Outcome State Fault Refusal :=
  .next (if s.pwr.state = stOff then s
    else
      let s := railsOff stOff .normal s
      { s with
        lamp := {}, side := {}, obs := {}
        faults := { s.faults with ledger := [] }
        hf := { s.hf with wait := none }
        pwr := { s.pwr with
          standby := .normal, inputOk := false, stable := false, lowAt := none, thermtrip := false
          tripSeen := false, brownSeen := false, uvWarn := false, ovWarn := false } })

/-- OVERVOLTAGE (R531): the rails are removed. -/
def execOvervoltage (s : State) : Host.Outcome State Fault Refusal :=
  .next (if s.pwr.state = stOff then s
    else
      let s := modPwr (fun p => { p with stable := false }) s
      if started s then railsOff stStandby .normal s else s)

/-! ## Pins -/

/-- 100 ms in ns: PWR_EN stays deasserted at least as long (R547, *Discrete signal timing*). -/
def enableLow : Nat := 100000000

/-- PWR_EN_ASSERT (R532, R547, R548). After a shorter low time the start waits for INPUT_STABLE_START, and
after RAILS_OFF or a thermal trip it does not come. -/
def execPwrEnAssert (s : State) : Host.Outcome State Fault Refusal :=
  .next (if s.pwr.pwrEn then s
    else
      let long := match s.pwr.lowAt with
        | some t => decide (enableLow ≤ s.lamp.tick - t)
        | none => true
      let s := modPwr (fun p => { p with pwrEn := true, standby := if long then .normal else p.standby }) s
      if long then tryStart s else s)

/-- PWR_EN_DEASSERT (R538, R547, R549): THERMTRIP_N is released and the rails are removed. -/
def execPwrEnDeassert (s : State) : Host.Outcome State Fault Refusal :=
  .next (if !s.pwr.pwrEn then s
    else
      let s := modPwr (fun p => { p with pwrEn := false, thermtrip := false, lowAt := some s.lamp.tick }) s
      if started s then railsOff stStandby .normal s else s)

/-- RESET_N_LOW (R542, R543): a WARM reset that lasts as long as the pin is low. -/
def execResetNLow (s : State) : Host.Outcome State Fault Refusal :=
  .next (
    let s := modPwr (fun p => { p with resetN := false }) s
    if warmable s && s.pwr.reset != .warmHeld then warmBegin .warmHeld s else s)

/-- RESET_N_RELEASE (R543): the sequence of the reset begins. -/
def execResetNRelease (s : State) : Host.Outcome State Fault Refusal :=
  .next (
    let s := modPwr (fun p => { p with resetN := true }) s
    if s.pwr.reset = .warmHeld then modPwr (fun p => { p with reset := .warm }) s else s)

/-! ## SYS_CTL -/

/-- RAILS_OFF (R547): the host writes SYS_CTL.RAILS_OFF. -/
def execRailsOff (s : State) : Host.Outcome State Fault Refusal := .next (hostAccess 0x18 (sysCtlPut 4 allBits) s)

/-- WARM (R546): the host writes SYS_CTL.WARM. -/
def execWarm (s : State) : Host.Outcome State Fault Refusal := .next (hostAccess 0x18 (sysCtlPut 2 allBits) s)

/-- HOT (R545): the host writes SYS_CTL.HOT. -/
def execHot (s : State) : Host.Outcome State Fault Refusal := .next (hostAccess 0x18 (sysCtlPut 1 allBits) s)

/-- HOT_RESET_COMPLETE (R545): READY, and at once RECOVERY when that service is in force. -/
def execHotResetComplete (s : State) : Host.Outcome State Fault Refusal :=
  .next (if s.pwr.reset ≠ .hot then s
    else
      let s := setSys stReady (modPwr (fun p => { p with reset := .none }) s)
      let s := if inRecovery s then setSys stRecovery { s with modes := { s.modes with saved := stReady } } else s
      latchModes s |> startQueued)

/-! ## Start-up -/

/-- Header bytes 0 to 511 of a firmware slot: false A, true B.
DEDUCED: notes/assumptions/132.md. -/
def slotHeader (s : State) (b : Bool) : List Byte :=
  let h := (if b then s.hf.slotB else s.hf.slotA).header
  sliceBytes (if h.isEmpty then Config.shippedHeader b else h) 0 512

/-- A COLD or WARM start runs its sequence in BOOT. -/
def booting (s : State) : Bool :=
  s.pwr.state == stBoot && (s.pwr.reset == .cold || s.pwr.reset == .warm)

/-- The image of a slot boots (R514, R528): its measurement is taken, an alias is generated (R520).
DEDUCED: notes/assumptions/132.md. -/
def bootImage (b fell : Bool) (s : State) : State :=
  let h := slotHeader s b
  modHf (fun f => { f with
    bootOk := true, fwSlot := b, fallback := fell, rootSlot := numAt h 6 1 % 4, fwPending := false
    header := h, fwMeas := shake256 h, bootCount := f.bootCount + 1
    aliasLeaf := 0, aliasExhausted := false }) s |> checkDik |> renewAlias

/-- BOOT_VERIFIED (R514): the check beyond its header that each slot fails, if any. The ROM takes the slot of the
boot record, then the other one. -/
def execBootVerified (failedA failedB : Option Nat) (s : State) : Host.Outcome State Fault Refusal :=
  .next (if !booting s ∨ s.hf.bootOk then s
    else
      let ok := fun b => (bootFlaw s.hf (slotHeader s b) (23 * 2 ^ 20) (if b then failedB else failedA)).isNone
      let first := s.hf.bootRecord
      if ok first then bootImage first false s
      else if ok !first then bootImage (!first) true s
      else
        setSys stFault (modPwr (fun p => { p with reset := .none }) (modHf (fun h => { h with bootFail := true }) s)))

/-- RAILS_IN_REGULATION (R548): PWR_GOOD rises. -/
def execRailsInRegulation (s : State) : Host.Outcome State Fault Refusal :=
  .next (if booting s && s.hf.bootOk then modPwr (fun p => { p with pwrGood := true }) s else s)

/-- RAIL_TIMEOUT (R549): a rail is not in regulation; the Lamp room records it. -/
def execRailTimeout (rail : Nat) (s : State) : Host.Outcome State Fault Refusal :=
  .next (if booting s && s.hf.bootOk && !s.pwr.pwrGood then
      let s := railsOff stFault .normal s
      modPwr (fun p => { p with railFault := true }) { s with faults := { s.faults with
        history := s.faults.history ++ [.rail rail] } }
    else s)

/-- The fault site of a cell (*Site locator*): the Spire die's site code and the cell. -/
def cellSite (k : Nat) : Site := ⟨3, k / 128, k % 128, 0, 0⟩

/-- SELF_TEST_COMPLETE (R548): the cells that failed their test have a fault that no replay clears (R490);
memory training begins. -/
def execSelfTestComplete (badCells : List Nat) (s : State) : Host.Outcome State Fault Refusal :=
  onUnit (badCells.all cellOk)
    (if booting s && s.pwr.pwrGood && s.hf.bootOk then
      setSys stMemtrain (badCells.foldl (fun s k => countUE (cellSite k) 0 s) s)
    else s)

/-- Zero the stacks of one tier that training has reached (R578). -/
def zeroTier (tier : Nat) (failed : List Nat) (m : Memory) : Memory :=
  m.filter fun e => decide (16 * tier + e.1 / 2 ^ 36 ∈ failed)

/-- The granules of trained stacks are good again. -/
def goodTier (tier : Nat) (failed : List Nat) (l : List (Nat × Nat)) : List (Nat × Nat) :=
  l.filter fun b => b.1 != tier || decide (16 * tier + b.2 / 2 ^ 30 ∈ failed)

/-- The ports whose ENABLE is set leave DISABLED (R315, *Cold start*).
DEDUCED: notes/assumptions/134.md. -/
def enablePorts (s : State) : State :=
  ([0, 2, 3, 4, 5, 6, 7] : List Nat).foldl (fun s p =>
    if (getPort s p).st = .disabled ∧ (getPort s p).ctl.enable then portTo p .down s else s) s

/-- MEMORY_TRAINING_COMPLETE (R546, R549, R578): the stacks that trained are in service. Those trained in full
are zero: every stack at a COLD start, the HBM stacks at a WARM start. The fabric ports are enabled. -/
def execMemoryTrainingComplete (failed : List Nat) (s : State) : Host.Outcome State Fault Refusal :=
  onUnit (failed.all fun c => decide (c < 32))
    (if s.pwr.state ≠ stMemtrain ∨ s.mcs.any (fun e => e.2.trained) then s
    else
      let s := { s with hbm := zeroTier 0 failed s.hbm, bad := goodTier 0 failed s.bad }
      let s := if s.pwr.reset = .cold then
          { s with deep := zeroTier 1 failed s.deep, bad := goodTier 1 failed s.bad } else s
      enablePorts (((rangeFrom 0 32).filter fun c => decide (c ∉ failed)).foldl (fun s c =>
        modMc c (fun m => { m with trained := true }) s) s))

/-- The Headframe blows the fuses that the booted image asks for (R512, R515). -/
def blowFuses (s : State) : State :=
  let h := s.hf.header
  let svn := if bitAt (numAt h 7 1) 0 then max s.hf.svnFused (numAt h 8 8) else s.hf.svnFused
  modHf (fun f => { f with svnFused := svn, revoked := f.revoked ||| numAt h 16 1 % 8 }) s

/-- READY_REACHED (R515, R540, R548): after memory training, and at a COLD start the survey, the fuses are blown
and the module is READY. -/
def execReadyReached (s : State) : Host.Outcome State Fault Refusal :=
  .next (if s.pwr.state ≠ stMemtrain ∨ (s.pwr.reset = .cold ∧ !s.pwr.surveyed) then s
    else
      modPwr (fun p => { p with reset := .none }) (blowFuses s)
        |> modFaults (fun f => { f with current := f.rated })
        |> setSys stReady |> latchModes |> startQueued)

/-! ## Heat and current -/

/-- THERMTRIP (R538): the die with the sensor, by die number, and its temperature in 1/16 °C. -/
def execThermtrip (die temp : Nat) (s : State) : Host.Outcome State Fault Refusal :=
  onUnit (decide (die < 20))
    (if !started s || s.pwr.railFault then s
    else
      let rtc := s.lamp.rtc
      let s := railsOff stStandby .needEn s
      let s := { s with faults := { s.faults with history := s.faults.history ++ [.trip (dieSite die) temp rtc] } }
      modPwr (fun p => { p with
        standby := .needEn, thermtrip := true, tripRec := some (dieSite die, temp, rtc), tripArmed := false }) s)

/-- THERMAL_SLOW_CHECK (R536): at 105 °C or above the die's fraction falls by 4. -/
def execThermalSlowCheck (die temp : Nat) (s : State) : Host.Outcome State Fault Refusal :=
  onUnit (decide (die < 20))
    (if !s.pwr.pwrGood || decide (temp < 105 * 16) then s
    else
      let f := max 4 (fThermal s.pwr die - 4)
      let s := modPwr (fun p => { p with fDie := tset 0 p.fDie die (64 - f) }) s
      if f < fLimit s.pwr die then reportThrottle 0 die temp f s else s)

/-- THERMAL_RECOVER_CHECK (R536): at 103 °C or below it rises by 1, up to its limit. -/
def execThermalRecoverCheck (die temp : Nat) (s : State) : Host.Outcome State Fault Refusal :=
  onUnit (decide (die < 20))
    (if !s.pwr.pwrGood || decide (103 * 16 < temp) then s
    else
      let f := min (fThermal s.pwr die + 1) (fLimit s.pwr die)
      modPwr (fun p => { p with fDie := tset 0 p.fDie die (64 - f) }) s)

/-- CURRENT_LIMIT (R535): the issue fraction of every Spire die is halved, to no less than 4. -/
def execCurrentLimit (s : State) : Host.Outcome State Fault Refusal :=
  .next (if !s.pwr.pwrGood then s
    else
      let old := s.pwr
      let new := fun d => max 4 (fInForce old d / 2)
      let s := modPwr (fun p => { p with
        curLimit := true, fCur := (rangeFrom 0 8).foldl (fun t d => tset 0 t d (64 - new d)) p.fCur }) s
      (rangeFrom 0 8).foldl (fun s d =>
        if new d < fLimit old d then reportThrottle 1 d (tget 0 s.pwr.junction d) (new d) s else s) s)

/-- CURRENT_RECOVER_STEP (R535): with the current below 92 A, in units of 10 mA, each fraction rises by 1
until it is the cap fraction again. -/
def execCurrentRecoverStep (ma10 : Nat) (s : State) : Host.Outcome State Fault Refusal :=
  .next (if !s.pwr.curLimit || decide (9200 ≤ ma10) then s
    else
      let new := fun d => 64 - tget 0 s.pwr.fCur d + 1
      let done := (rangeFrom 0 8).all fun d => decide (s.pwr.fCap ≤ new d)
      if done then modPwr (fun p => { p with fCur := [], curLimit := false }) s
      else modPwr (fun p => { p with fCur := (rangeFrom 0 8).foldl (fun t d => tset 0 t d (64 - new d)) p.fCur }) s)

/-- CAP_RECOMPUTE (R534): outside attempts, from the mean input power of the last 10 ms in W. -/
def execCapRecompute (mean : Nat) (s : State) : Host.Outcome State Fault Refusal :=
  .next (if !s.pwr.pwrGood ∨ inAttempt s then s
    else modPwr (fun p => { p with fCap := capFraction p.fCap p.cap mean }) s)

/-! ## Telemetry -/

/-- The hottest die of a sample, the first of several (R550).
DEDUCED: notes/assumptions/133.md. -/
def hottest : List (Nat × BitVec 16) → Option (Nat × BitVec 16)
  | [] => none
  | d :: rest => match hottest rest with
    | some e => some (if d.2.slt e.2 then e else d)
    | none => some d

/-- TELEMETRY_SAMPLE (R550, R531). -/
def execTelemetrySample (t : Telemetry) (s : State) : Host.Outcome State Fault Refusal :=
  onUnit (t.dies.all fun d => decide (d.1 < 20))
    (if s.pwr.state = stOff then s
    else
      let hot := match (if s.pwr.pwrGood then hottest t.dies else none) with
        | some d => d.2.toNat + place (dieSite d.1) 8 16
        | none => if s.pwr.pwrGood then s.pwr.temp % 2 ^ 24 else 0x8000
      modPwr (fun p => { p with
        input := place t.mv 16 0 + place t.ma10 16 32 + place t.watts 16 48
        temp := hot + place t.inlet.toNat 16 48
        junction := t.dies.foldl (fun j d => tset 0 j d.1 d.2.toNat) p.junction
        uvWarn := decide (47000 ≤ t.mv) && decide (t.mv < 50000)
        ovWarn := decide (60000 < t.mv) && decide (t.mv ≤ 62000) }) s |> bump 0x820 t.energy)

end Sys2Proof.Machine
end

