-- ==== Sys2Proof/Machine/Sideband.lean ====
section
/-!
DEFINITION. The sideband bus and its commands (R567 to R571), and the JTAG port (R527).
-/
namespace Sys2Proof.Machine

/-- Change the sideband. -/
def modSide (f : Sideband → Sideband) (s : State) : State := { s with side := f s.side }

/-- A read on the bus answers with a value; in OFF it is not answered (R570).
DESIGN CHOICE: notes/assumptions/141.md. -/
def sideAnswer (v : Nat) (s : State) : State :=
  modSide (fun b => { b with answer := if s.pwr.state = stOff then none else some v }) s

/-- WAKE_N is low: a comparator with WAKE set has FIRED (R488, R567). -/
def wakeLow (s : State) : Bool := s.lamp.cmps.any fun e => e.2.fired && e.2.wake

/-- STATUS_WORD (*Sideband commands*).
DESIGN CHOICE: notes/assumptions/141.md. -/
def statusWord (s : State) : Nat :=
  s.pwr.state % 16 + place (bit01 s.pwr.pwrGood) 1 4 + place (bit01 (alertCauses s != 0)) 1 5 +
    place (bit01 (wakeLow s)) 1 6 + place (bit01 s.pwr.thermtrip) 1 7 + place (bit01 s.side.refused) 1 8

/-- STATUS_WORD. -/
def execStatusWord (s : State) : Host.Outcome State Fault Refusal := .next (sideAnswer (statusWord s) s)

/-- READ_VIN. -/
def execReadVin (s : State) : Host.Outcome State Fault Refusal := .next (sideAnswer (fieldOf s.pwr.input 15 0) s)

/-- READ_IIN. -/
def execReadIin (s : State) : Host.Outcome State Fault Refusal := .next (sideAnswer (fieldOf s.pwr.input 47 32) s)

/-- READ_PIN. -/
def execReadPin (s : State) : Host.Outcome State Fault Refusal := .next (sideAnswer (fieldOf s.pwr.input 63 48) s)

/-- READ_TEMPERATURE_1: the inlet. -/
def execReadTemperature1 (s : State) : Host.Outcome State Fault Refusal :=
  .next (sideAnswer (fieldOf s.pwr.temp 63 48) s)

/-- READ_TEMPERATURE_2: the hottest junction, 0x8000 while no die is powered. -/
def execReadTemperature2 (s : State) : Host.Outcome State Fault Refusal :=
  .next (sideAnswer (if s.pwr.pwrGood then fieldOf s.pwr.temp 15 0 else 0x8000) s)

/-- MFR_REG_ADDR: a read returns it, a write sets it to a multiple of 8. -/
def execMfrRegAddr (w : Option (BitVec 32)) (s : State) : Host.Outcome State Fault Refusal :=
  .next (match w with
    | none => sideAnswer s.side.regAddr s
    | some v => if s.pwr.state = stOff then s else modSide (fun b => { b with regAddr := v.toNat / 8 * 8 }) s)

/-! ## Indirect access -/

/-- The sideband reaches what the host reaches, not just the standby registers (*Sideband reach*). -/
def sideWide (s : State) : Bool :=
  s.pwr.reset == .hot || (decide (stMemtrain ≤ s.pwr.state) && decide (s.pwr.state ≤ stRecovery)) ||
    (s.pwr.state == stFault && s.hf.bootFail)

/-- The registers that a read reaches in every state but OFF. -/
def sideBase (off : Nat) : Bool :=
  decide (off ∈ [0x000, 0x010, 0x030, 0x038, 0x800, 0x808, 0x810, 0x818]) || (decide (hfBase ≤ off) && decide (off < bxlBase))

/-- A read is served (R571). -/
def sideReads (s : State) (off : Nat) : Bool :=
  decide (off < 2 ^ 26) && (if sideWide s then served s off else sideBase off)

/-- A write is in the writable set (R571). -/
def sideWrites (s : State) (off : Nat) : Bool :=
  off == 0x800 || (off == 0x018 && sideWide s) ||
    (decide (lampBase ≤ off) && decide (off < bxlBase) && (lampPut (off - lampBase)).isSome)

/-- Note whether an indirect access was refused (R571). -/
def sideRefused (r : Bool) (s : State) : State := modSide (fun b => { b with refused := r }) s

/-- MFR_REG_DATA, read (R553, R571): all ones where the block is not served. -/
def execMfrRegDataRead (s : State) : Host.Outcome State Fault Refusal :=
  let off := s.side.regAddr
  .next (if s.pwr.state = stOff then sideAnswer 0 s
    else if sideReads s off then sideAnswer (regGet s off) s |> regRead off allBits |> sideRefused false
    else sideAnswer allBits s |> sideRefused true)

/-- MFR_REG_DATA, write (R571): made only in the writable set. -/
def execMfrRegDataWrite (v : BitVec 64) (s : State) : Host.Outcome State Fault Refusal :=
  let off := s.side.regAddr
  .next (if s.pwr.state = stOff then s
    else if sideWrites s off then regPut off v.toNat allBits (sideRefused false s)
    else sideRefused true s)

/-- MFR_ALERT_CAUSE (R567). -/
def execMfrAlertCause (s : State) : Host.Outcome State Fault Refusal := .next (sideAnswer (alertCauses s) s)

/-- MFR_PWR_CAP: PWR_CAP in W, read or written (R534). -/
def execMfrPwrCap (w : Option (BitVec 16)) (s : State) : Host.Outcome State Fault Refusal :=
  .next (match w with
    | none => sideAnswer s.pwr.cap s
    | some v => if s.pwr.state = stOff ∨ 4800 < v.toNat then s else pwrCapPut v.toNat allBits s)

/-! ## The bus address -/

/-- DYNAMIC_ADDRESS_ASSIGN (R568): SETDASA or ENTDAA gives a 7-bit address. -/
def execDynamicAddressAssign (addr : Nat) (s : State) : Host.Outcome State Fault Refusal :=
  .next (if s.pwr.state = stOff ∨ 128 ≤ addr then s else modSide (fun b => { b with dynamic := some addr }) s)

/-- RSTDAA (R568): the module is an SMBus target again. -/
def execRstdaa (s : State) : Host.Outcome State Fault Refusal := .next (modSide (fun b => { b with dynamic := none }) s)

/-! ## JTAG -/

/-- JTAG_ACCESS (R527): IDCODE shifts out 32 bits, boundary scan captures the pins and updates them, and any
other instruction selects the bypass register of IEEE 1149.1.
PRESUMED: notes/assumptions/142.md. -/
def execJtagAccess (op : JtagOp) (s : State) : Host.Outcome State Fault Refusal :=
  .next (if s.pwr.state = stOff then s
    else match op with
    | .idcode => modSide (fun b => { b with jtagOut := (rangeFrom 0 32).map fun i => Config.idcode.getLsbD i }) s
    | .boundary l => modSide (fun b => { b with
        jtagOut := (rangeFrom 0 l.length).map Config.boundaryCell, boundary := l }) s
    | .other l => modSide (fun b => { b with jtagOut := (false :: l).take l.length }) s)

end Sys2Proof.Machine
end

