-- ==== Sys2Proof/Machine/Transfer.lean ====
section
/-!
DEFINITION. The transfer class: MOVE, MOVE2 and MOVEL (R21, R23, R52, R53, R64, R159 to R161, R334, R555,
R579) and the completion of a transfer.
-/
namespace Sys2Proof.Machine

/-! ## The two ends of a row -/

/-- One end of a row of a transfer: the faults of R21, R23, R173 and R555. -/
def endCheck (s : State) (a len : Nat) (write : Bool) : Except RtFault Unit :=
  let g := gaddr a
  if isRemote s g.mod then (if g.tier = 3 then .error ⟨2, a⟩ else .ok ())
  else if !isLocal s g.mod || !localOk s g len then .error ⟨1, a⟩
  else if g.tier = 3 then
    (if g.off % 8 ≠ 0 ∨ len % 8 ≠ 0 ∨ (write ∧ g.off < obsBase) then .error ⟨1, a⟩ else .ok ())
  else if g.tier = 2 then
    let cells := (windowParts g.off len).filterMap fun p => (physOf s p.1).map fun k => (getCell s k, p.2)
    if cells.any fun x => x.1.scratchHeld then .error ⟨3, a⟩
    else if write ∧ cells.any fun x => hitsCode x.1 x.2.1 x.2.2 then .error ⟨4, a⟩
    else .ok ()
  else .ok ()

/-- The site code of the die at a local end (R161). -/
def endSite (s : State) (g : GAddr) : Nat :=
  match g.tier with
  | 0 => g.off / 2 ^ 37
  | 1 => 32 + g.off / 2 ^ 37
  | 2 => (physOf s (g.off / 2 ^ 21)).getD 0 / 128
  | _ => 64

/-- The routes of the active plan with an identifier. -/
def namedRoute (s : State) (id : Nat) : Option RouteEnt :=
  if s.plan.active then (imgRoutes s s.act).find? fun r => r.id == id else none

/-- A route joins the dies at the two ends; the end on another module lies at a Gallery die, and one end is
on this module (R161). -/
def routeJoins (s : State) (id src dst : Nat) : Bool :=
  let a := gaddr src
  let b := gaddr dst
  let named := fun (f : RouteEnt → Bool) => id == 0xFFFF || (namedRoute s id).any f
  match isLocal s a.mod, isLocal s b.mod with
  | true, true =>
    endSite s a == endSite s b || named fun r => r.src == endSite s a && r.dst == endSite s b
  | true, false => named fun r => r.src == endSite s a && decide (64 ≤ r.dst)
  | false, true => named fun r => decide (64 ≤ r.src) && r.dst == endSite s b
  | false, false => false

/-- The port that the remote part of a transfer uses (R161, R317).
DEDUCED: notes/assumptions/136.md. -/
def movePort (s : State) (u : StreamAt) (id : Nat) (out : Bool) (peer : Nat) : Nat :=
  let die := match namedRoute s id with
    | some r => if id = 0xFFFF then u.cell / 128 / 2 else (if out then r.dst else r.src) - 64
    | none => u.cell / 128 / 2
  remotePort s die peer

/-- The blocks answer the module's streams (R556). -/
def streamServed (s : State) : Bool :=
  let st := s.pwr.state
  (st == stMemtrain && s.bxl.st == .active) || (decide (stReady ≤ st) && decide (st ≤ stRecovery))

/-- The registers of a range of the management space, one aligned 8 B after the other, and what reading
them does (R555). -/
def regsRead : Nat → Nat → State → List Byte × State
  | 0, _, s => ([], s)
  | n + 1, off, s =>
    let v := if streamServed s then (regGet s off, regRead off allBits s) else (allBits, badAccess s)
    let r := regsRead n (off + 8) v.2
    (toBytes 8 v.1 ++ r.1, r.2)

/-- Write the registers of a range of the management space, in ascending order (R555). -/
def regsWrite : List Byte → Nat → State → State
  | b0 :: b1 :: b2 :: b3 :: b4 :: b5 :: b6 :: b7 :: rest, off, s =>
    regsWrite rest (off + 8)
      (if streamServed s then regPut off (ofBytes [b0, b1, b2, b3, b4, b5, b6, b7]) allBits s else badAccess s)
  | _, _, s => s

/-- Read the bytes of a local end. -/
def endRead (g : GAddr) (len : Nat) (s : State) : List Byte × State :=
  if g.tier = 3 then regsRead (len / 8) g.off s else (readLocal s g len, s)

/-- Write the bytes of a local end; lines of the issuing cell's near cache that they change are dropped
(R38). -/
def endWrite (k : Nat) (p : Nat × List Byte) (s : State) : State :=
  let g := gaddr p.1
  if g.tier = 3 then regsWrite p.2 g.off s
  else
    let s := writeLocal g p.2 s
    if g.tier ≤ 1 then ncDrop k (g.off + g.tier * 2 ^ 48) p.2.length s else s

/-! ## Issue -/

/-- What a MOVE names, with its registers read (R148, R159). -/
structure MoveArgs where
  dsts : List Nat
  src : Nat
  route : Nat
  rows : Nat
  len : Nat
  srcPitch : Nat
  dstPitch : Nat
  deriving DecidableEq, Repr

/-- Read the registers of a MOVE. -/
def moveArgs (s : State) (u : StreamAt) (w : MoveWord) (two : Bool) : MoveArgs :=
  let a := sReg s u w.shape
  let b := getS (streamOf s u) (w.shape.toNat + 1)
  { dsts := aReg s u w.dst :: (if two then [aReg s u w.dst2] else []), src := aReg s u w.src
    route := fieldOf a 63 48, rows := fieldOf a 47 32, len := a % 2 ^ 32
    srcPitch := fieldOf b 63 32, dstPitch := b % 2 ^ 32 }

/-- Row r of a destination. -/
def MoveArgs.dstRow (m : MoveArgs) (d r : Nat) : Nat := (d + r * m.dstPitch) % 2 ^ 64

/-- The source of each row: an address, or nothing where MOVEL skips the row (R159). -/
def moveSources (s : State) (u : StreamAt) (m : MoveArgs) (list : Bool) : Except RtFault (List (Option Nat)) :=
  if !list then .ok ((rangeFrom 0 m.rows).map fun r => some ((m.src + r * m.srcPitch) % 2 ^ 64))
  else do
    let c := getCell s u.cell
    let ref ← decodeRef 0 m.src
    checkSpace (opMode s c) c ref.space ref.a (8 * m.rows) false
    return (rangeFrom 0 m.rows).map fun r =>
      let a := ofBytes (spaceRead c ref.space (ref.a + 8 * r) 8)
      if a = allOnes64 then none else some a

/-- One row to all of its destinations passes its checks (R161, R173). -/
def rowCheck (s : State) (m : MoveArgs) (x : Nat × List Nat) : Except RtFault Unit := do
  endCheck s x.1 m.len false
  for d in x.2 do
    endCheck s d m.len true
    if !routeJoins s m.route x.1 d then throw ⟨1, d⟩

/-- The rows that move: source and destinations, after their checks (R64, R159).
DEDUCED: notes/assumptions/135.md. -/
def moveRows (s : State) (u : StreamAt) (m : MoveArgs) (list : Bool) : Except RtFault (List (Nat × List Nat)) := do
  let srcs ← moveSources s u m list
  let rows := (srcs.zip (rangeFrom 0 m.rows)).filterMap fun x =>
    x.1.map fun a => (a, m.dsts.map fun d => m.dstRow d x.2)
  for x in rows do rowCheck s m x
  return rows

/-- The physical cells of the module that a transfer signals: each one whose scratchpad is a destination,
and the issuing cell for any other destination but a scratchpad of another module (R160).
DEDUCED: notes/assumptions/137.md. -/
def moveCells (s : State) (k : Nat) (m : MoveArgs) : List Nat :=
  m.dsts.foldl (fun l d =>
    if (gaddr d).tier ≠ 2 then insertNew l k
    else if isRemote s (gaddr d).mod then l
    else (rangeFrom 0 (max m.rows 1)).foldl (fun l r =>
      (windowParts (gaddr (m.dstRow d r)).off (max m.len 1)).foldl (fun l p => match physOf s p.1 with
        | some c => insertNew l c
        | none => l) l) l) []

/-- The signal of a transfer to a scratchpad of another module: cell, semaphore, amount (R160, R334). -/
def moveSig (w : MoveWord) (d : Nat) : Nat × Nat × Nat :=
  if (gaddr d).tier = 2 then ((gaddr d).off / 2 ^ 21, w.sem.toNat, w.amt.toNat) else (0, 0, 0)

/-- A transfer that moves nothing still signals the cells of another module (R151, R159). -/
def bareSignals (u : StreamAt) (w : MoveWord) (m : MoveArgs) (s : State) : State :=
  m.dsts.foldl (fun s d =>
    let g := gaddr d
    let x := moveSig w d
    if isRemote s g.mod ∧ x.2.2 ≠ 0 then
      let area := toBytes 8 0 ++ toBytes 2 x.1 ++ toBytes 1 x.2.1 ++ toBytes 1 x.2.2 ++ toBytes 8 0
      handOff (movePort s u m.route true g.mod) { frame := mkFrame s false g.mod 4 3 area [] } s
    else s) s

/-- The counter of a wait on the transfer (R47): another module, the deep tier, or this module.
DEDUCED: notes/assumptions/136.md. -/
def moveCause (s : State) (u : StreamAt) (m : MoveArgs) (list : Bool) : StallCause :=
  let srcs := match moveSources s u m list with | .ok l => l.filterMap id | .error _ => []
  let ends := (if list then srcs else [m.src]) ++ m.dsts
  if ends.any fun a => !isLocal s (gaddr a).mod then .remote
  else if ends.any fun a => (gaddr a).tier == 1 then .deep
  else .bank

/-- The parts of a piece by the cell whose scratchpad they land in; a piece for another tier is whole. -/
def byCell (p : Nat × List Byte) : List (Nat × List Byte) :=
  if (gaddr p.1).tier ≠ 2 then [p]
  else (windowParts (gaddr p.1).off p.2.length).map fun q =>
    let skip := q.1 * 2 ^ 21 + q.2.1 - (gaddr p.1).off
    (p.1 + skip, (p.2.drop skip).take q.2.2)

/-- Send the rows that go to other modules: one remote transfer for each module and each cell that is signalled
there (R160, R334).
DESIGN CHOICE: notes/assumptions/39.md. -/
def moveOut (u : StreamAt) (w : MoveWord) (m : MoveArgs) (pieces : List (Nat × List Byte)) (s : State) : State :=
  let far := (pieces.filter fun p => isRemote s (gaddr p.1).mod).flatMap byCell
  let key := fun (p : Nat × List Byte) => ((gaddr p.1).mod, moveSig w p.1)
  (far.foldl (fun l p => insertNew l (key p)) []).foldl (fun s x =>
    remoteWrite (.stream u.cell u.stream.toNat w.tag.toNat) x.1 (movePort s u m.route true x.1)
      (far.filter fun p => key p == x) x.2 s) s

/-- Read the rows whose source lies on other modules (R334). -/
def moveIn (u : StreamAt) (w : MoveWord) (m : MoveArgs) (rows : List (Nat × List Nat)) (s : State) : State :=
  rows.foldl (fun s x =>
    let peer := (gaddr x.1).mod
    if isRemote s peer then
      remoteRead (.stream u.cell u.stream.toNat w.tag.toNat) peer (movePort s u m.route false peer)
        (x.2.map fun d => (x.1, d, m.len)) s
    else s) s

/-- The bytes of the rows whose source is local, read in order. -/
def moveRead (len : Nat) : List (Nat × List Nat) → State → List (Nat × List Byte) × State
  | [], s => ([], s)
  | x :: rest, s =>
    if isLocal s (gaddr x.1).mod then
      let d := endRead (gaddr x.1) len s
      let r := moveRead len rest d.2
      (x.2.map (fun a => (a, d.1)) ++ r.1, r.2)
    else moveRead len rest s

/-- A transfer starts: local bytes are read, remote parts leave (R52, R334).
DEDUCED: notes/assumptions/135.md. -/
def moveStart (u : StreamAt) (w : MoveWord) (m : MoveArgs) (list : Bool) (rows : List (Nat × List Nat)) (s : State) : State :=
  let r := moveRead m.len rows s
  let x : Transfer := { stream := u.stream.toNat, tag := w.tag.toNat, auto := w.auto, sem := w.sem.toNat
                        amt := w.amt.toNat, pieces := r.1.filter fun p => isLocal s (gaddr p.1).mod
                        cells := moveCells s u.cell m, ip := (streamOf s u).ip, cause := moveCause s u m list }
  startTransfer u.cell x r.2 |> stepOn u |> moveOut u w m r.1 |> moveIn u w m rows

/-- A request of the cell waits for its quota at a controller of its die that an end of the transfer lies at
(R53, R378). -/
def quotaHeld (s : State) (u : StreamAt) (m : MoveArgs) : Bool :=
  (m.src :: m.dsts).any fun a =>
    let g := gaddr a
    let ctl := 16 * g.tier + g.off / 2 ^ 36
    isLocal s g.mod && decide (g.tier ≤ 1) && g.off / 2 ^ 37 == u.cell / 128 &&
      (tget {} s.mcs ctl).waiting.any fun q => q.requester == u.cell % 128

/-- MOVE, MOVE2 and MOVEL. -/
def moveEffect (two list : Bool) (u : StreamAt) (p : Pred) (w : MoveWord) (s : State) : State :=
  let c := getCell s u.cell
  let m := moveArgs s u w two
  if !canTake c u.stream.toNat w.tag.toNat || quotaHeld s u m then blockUnit u (moveCause s u m list) s
  else if !takesEffect c p || m.rows == 0 || m.len == 0 then
    bareSignals u w m s |> suppressTag u w.tag.toNat w.auto w.sem.toNat w.amt.toNat (moveCells s u.cell m)
  else match moveRows s u m list with
    | .error f => streamFault u.cell u.stream.toNat f s
    | .ok rows => moveStart u w m list rows s

/-- The word of a MOVE decodes: an even SHAPE, and DST2 zero without a second destination (R149, R160). -/
def moveOk (two : Bool) (p : Pred) (w : MoveWord) : Bool := predOk p && w.shape.toNat % 2 == 0 && (two || w.dst2 == 0)

/-- MOVE (R159). -/
def execMove (u : StreamAt) (p : Pred) (w : MoveWord) (s : State) : Host.Outcome State Fault Refusal :=
  issue u (moveOk false p w) (moveEffect false false u p w) s

/-- MOVE2: the same bytes to both destinations (R64). -/
def execMove2 (u : StreamAt) (p : Pred) (w : MoveWord) (s : State) : Host.Outcome State Fault Refusal :=
  issue u (moveOk true p w) (moveEffect true false u p w) s

/-- MOVEL: one row from each address of a list (R159). -/
def execMovel (u : StreamAt) (p : Pred) (w : MoveWord) (s : State) : Host.Outcome State Fault Refusal :=
  issue u (moveOk false p w) (moveEffect false true u p w) s

/-! ## Completion -/

/-- The last byte of a transfer can land now: its remote parts have ended, and a walk has served every
entry (R52, R169, R334).
DEDUCED: notes/assumptions/137.md. -/
def transferDue (s : State) (k : Nat) (x : Transfer) : Bool :=
  if x.walk then !(s.pmap.walks.any fun w => w.cell == k && w.stream == x.stream && w.tag == x.tag)
  else xfersLeft s (.stream k x.stream x.tag) == 0

/-- TRANSFER_COMPLETE (R52). -/
def execTransferComplete (cell stream tag : Nat) (s : State) : Host.Outcome State Fault Refusal :=
  onUnit (cellOk cell && decide (stream < 64) && decide (tag < 512))
    (match (getCell s cell).xfers.find? fun x => x.stream == stream && x.tag == tag with
    | none => s
    | some x =>
      if transferDue s cell x then
        x.pieces.foldl (fun s p => endWrite cell p s) s |> endTransfer cell x
      else s)

end Sys2Proof.Machine
end

