-- ==== Sys2Proof/Machine/Dispatch.lean ====
section
/-!
DEFINITION. The dispatch: one arm for each command of the module.
-/
namespace Sys2Proof.Machine

/-- The effect of a command on everything but the queue of waiting commands. -/
def exec (i : Instr) (s : State) : Host.Outcome State Fault Refusal :=
  match i with
  | .nop u => Sys2Proof.Machine.execNop u s
  | .stop u => Sys2Proof.Machine.execStop u s
  | .loop u count idx idxEn => Sys2Proof.Machine.execLoop u count idx idxEn s
  | .endl u => Sys2Proof.Machine.execEndl u s
  | .call u target => Sys2Proof.Machine.execCall u target s
  | .ret u => Sys2Proof.Machine.execRet u s
  | .sli u d file high imm => Sys2Proof.Machine.execSli u d file high imm s
  | .salu u w => Sys2Proof.Machine.execSalu u w s
  | .sld u w => Sys2Proof.Machine.execSld u w s
  | .sst u w => Sys2Proof.Machine.execSst u w s
  | .semw u sem n => Sys2Proof.Machine.execSemw u sem n s
  | .sems u sem cell n => Sys2Proof.Machine.execSems u sem cell n s
  | .semSignalArrive cell sem => Sys2Proof.Machine.execSemSignalArrive cell sem s
  | .rpush u src ring => Sys2Proof.Machine.execRpush u src ring s
  | .rpop u dst ring => Sys2Proof.Machine.execRpop u dst ring s
  | .ringPushArrive ring => Sys2Proof.Machine.execRingPushArrive ring s
  | .ncinv u => Sys2Proof.Machine.execNcinv u s
  | .tagw u tag all => Sys2Proof.Machine.execTagw u tag all s
  | .move u p w => Sys2Proof.Machine.execMove u p w s
  | .move2 u p w => Sys2Proof.Machine.execMove2 u p w s
  | .movel u p w => Sys2Proof.Machine.execMovel u p w s
  | .transferComplete cell stream tag => Sys2Proof.Machine.execTransferComplete cell stream tag s
  | .mma u p w => Sys2Proof.Machine.execMma u p w s
  | .mmaTa u p w => Sys2Proof.Machine.execMmaTa u p w s
  | .mmaTb u p w => Sys2Proof.Machine.execMmaTb u p w s
  | .mmaComplete cell => Sys2Proof.Machine.execMmaComplete cell s
  | .drain u p w => Sys2Proof.Machine.execDrain u p w s
  | .drainComplete cell bank => Sys2Proof.Machine.execDrainComplete cell bank s
  | .vld u p w => Sys2Proof.Machine.execVld u p w s
  | .vst u p w => Sys2Proof.Machine.execVst u p w s
  | .vbin u p vd va vb ety fn => Sys2Proof.Machine.execVbin u p vd va vb ety fn s
  | .vfma u p vd va vb vc ety => Sys2Proof.Machine.execVfma u p vd va vb vc ety s
  | .vcmp u p va vb md half ety fn => Sys2Proof.Machine.execVcmp u p va vb md half ety fn s
  | .vsel u p vd va vb ma => Sys2Proof.Machine.execVsel u p vd va vb ma s
  | .vcvt u p vd va etyD etyA half => Sys2Proof.Machine.execVcvt u p vd va etyD etyA half s
  | .vbcast u p vd sreg ety => Sys2Proof.Machine.execVbcast u p vd sreg ety s
  | .vmsk u p md ma mb fn reg => Sys2Proof.Machine.execVmsk u p md ma mb fn reg s
  | .vun u p vd va ety fn => Sys2Proof.Machine.execVun u p vd va ety fn s
  | .vxs u p va sreg lane => Sys2Proof.Machine.execVxs u p va sreg lane s
  | .sopElem u p w => Sys2Proof.Machine.execSopElem u p w s
  | .sopRed u p w => Sys2Proof.Machine.execSopRed u p w s
  | .sopScan u p w => Sys2Proof.Machine.execSopScan u p w s
  | .sopSegscan u p w => Sys2Proof.Machine.execSopSegscan u p w s
  | .sopTopk u p w => Sys2Proof.Machine.execSopTopk u p w s
  | .sopCvt u p w => Sys2Proof.Machine.execSopCvt u p w s
  | .sopFill u p w => Sys2Proof.Machine.execSopFill u p w s
  | .tab u p w => Sys2Proof.Machine.execTab u p w s
  | .walk u p w => Sys2Proof.Machine.execWalk u p w s
  | .pmapSet u p res key val => Sys2Proof.Machine.execPmapSet u p res key val s
  | .pmapCow u p res key => Sys2Proof.Machine.execPmapCow u p res key s
  | .cowCopyComplete key => Sys2Proof.Machine.execCowCopyComplete key s
  | .pmapFree u p res key => Sys2Proof.Machine.execPmapFree u p res key s
  | .pmapFence u => Sys2Proof.Machine.execPmapFence u s
  | .bell u d x fn group => Sys2Proof.Machine.execBell u d x fn group s
  | .nearCacheFill cell line => Sys2Proof.Machine.execNearCacheFill cell line s
  | .phaseEnd phase => Sys2Proof.Machine.execPhaseEnd phase s
  | .planStage id addr len => Sys2Proof.Machine.execPlanStage id addr len s
  | .stagingComplete => Sys2Proof.Machine.execStagingComplete s
  | .planSwap id => Sys2Proof.Machine.execPlanSwap id s
  | .swapBoundary => Sys2Proof.Machine.execSwapBoundary s
  | .swapReady m => Sys2Proof.Machine.execSwapReady m s
  | .swapWaitExpire => Sys2Proof.Machine.execSwapWaitExpire s
  | .swapGo m => Sys2Proof.Machine.execSwapGo m s
  | .swapAbort m => Sys2Proof.Machine.execSwapAbort m s
  | .reshard id => Sys2Proof.Machine.execReshard id s
  | .permute => Sys2Proof.Machine.execPermute s
  | .permuteComplete => Sys2Proof.Machine.execPermuteComplete s
  | .stepRun id step consts => Sys2Proof.Machine.execStepRun id step consts s
  | .stepAbortReq id step => Sys2Proof.Machine.execStepAbortReq id step s
  | .stepGo m => Sys2Proof.Machine.execStepGo m s
  | .readySend => Sys2Proof.Machine.execReadySend s
  | .ready m => Sys2Proof.Machine.execReady m s
  | .fail m => Sys2Proof.Machine.execFail m s
  | .commit m => Sys2Proof.Machine.execCommit m s
  | .abort m => Sys2Proof.Machine.execAbort m s
  | .ack m => Sys2Proof.Machine.execAck m s
  | .probe m => Sys2Proof.Machine.execProbe m s
  | .lostReport m => Sys2Proof.Machine.execLostReport m s
  | .bellAckCanaryExpire dst kind code chan => Sys2Proof.Machine.execBellAckCanaryExpire dst kind code chan s
  | .commitWaitExpire => Sys2Proof.Machine.execCommitWaitExpire s
  | .attemptCanaryExpire => Sys2Proof.Machine.execAttemptCanaryExpire s
  | .commitRetryExpire => Sys2Proof.Machine.execCommitRetryExpire s
  | .ckptWrite id step flags addr len => Sys2Proof.Machine.execCkptWrite id step flags addr len s
  | .ckptWriteComplete => Sys2Proof.Machine.execCkptWriteComplete s
  | .mirrorUnitReceive unit data crc => Sys2Proof.Machine.execMirrorUnitReceive unit data crc s
  | .ckptRestore id step source addr => Sys2Proof.Machine.execCkptRestore id step source addr s
  | .collRequest die => Sys2Proof.Machine.execCollRequest die s
  | .collChunkLand r => Sys2Proof.Machine.execCollChunkLand r s
  | .combinerToken die => Sys2Proof.Machine.execCombinerToken die s
  | .collCredit r => Sys2Proof.Machine.execCollCredit r s
  | .collDigestExchange coll => Sys2Proof.Machine.execCollDigestExchange coll s
  | .bellUp m => Sys2Proof.Machine.execBellUp m s
  | .bellDown m => Sys2Proof.Machine.execBellDown m s
  | .circStart chan => Sys2Proof.Machine.execCircStart chan s
  | .circRelease chan => Sys2Proof.Machine.execCircRelease chan s
  | .gradDone chan => Sys2Proof.Machine.execGradDone chan s
  | .circUnitLand r => Sys2Proof.Machine.execCircUnitLand r s
  | .circCredit chan hop => Sys2Proof.Machine.execCircCredit chan hop s
  | .feedDeliver feed => Sys2Proof.Machine.execFeedDeliver feed s
  | .ringStepCanaryExpire w => Sys2Proof.Machine.execRingStepCanaryExpire w s
  | .epochExamine => Sys2Proof.Machine.execEpochExamine s
  | .mapReclaimExpire => Sys2Proof.Machine.execMapReclaimExpire s
  | .allocationCanaryExpire => Sys2Proof.Machine.execAllocationCanaryExpire s
  | .compactRelocate key => Sys2Proof.Machine.execCompactRelocate key s
  | .stashSave die => Sys2Proof.Machine.execStashSave die s
  | .stashLoad die => Sys2Proof.Machine.execStashLoad die s
  | .stashCheck die => Sys2Proof.Machine.execStashCheck die s
  | .gatherRequest die => Sys2Proof.Machine.execGatherRequest die s
  | .gatherTagRetry die => Sys2Proof.Machine.execGatherTagRetry die s
  | .updateRequest die => Sys2Proof.Machine.execUpdateRequest die s
  | .updateHeaderWrite die => Sys2Proof.Machine.execUpdateHeaderWrite die s
  | .publishRequest die => Sys2Proof.Machine.execPublishRequest die s
  | .publicationEnd die => Sys2Proof.Machine.execPublicationEnd die s
  | .moveData r => Sys2Proof.Machine.execMoveData r s
  | .read r => Sys2Proof.Machine.execRead r s
  | .signal r => Sys2Proof.Machine.execSignal r s
  | .sack r => Sys2Proof.Machine.execSack r s
  | .cnp r => Sys2Proof.Machine.execCnp r s
  | .sackDelayExpire w => Sys2Proof.Machine.execSackDelayExpire w s
  | .reorderExpire w psn => Sys2Proof.Machine.execReorderExpire w psn s
  | .retxTimeout w => Sys2Proof.Machine.execRetxTimeout w s
  | .rateIntervalEnd w => Sys2Proof.Machine.execRateIntervalEnd w s
  | .neighborSolicitation die port target source => Sys2Proof.Machine.execNeighborSolicitation die port target source s
  | .neighborAdvertisement die port addr mac solicited => Sys2Proof.Machine.execNeighborAdvertisement die port addr mac solicited s
  | .nsRetryExpire die port addr => Sys2Proof.Machine.execNsRetryExpire die port addr s
  | .neighborCacheExpire die port addr => Sys2Proof.Machine.execNeighborCacheExpire die port addr s
  | .pfcFrame die port prio quanta => Sys2Proof.Machine.execPfcFrame die port prio quanta s
  | .pfcPauseExpire die port prio => Sys2Proof.Machine.execPfcPauseExpire die port prio s
  | .lldpTimer die port => Sys2Proof.Machine.execLldpTimer die port s
  | .pcsLockLoss die port => Sys2Proof.Machine.execPcsLockLoss die port s
  | .fecUncorrectableBurst die port => Sys2Proof.Machine.execFecUncorrectableBurst die port s
  | .portDownExpire die port => Sys2Proof.Machine.execPortDownExpire die port s
  | .portLinkUp die port bad => Sys2Proof.Machine.execPortLinkUp die port bad s
  | .portStableExpire die port => Sys2Proof.Machine.execPortStableExpire die port s
  | .portTrainingTimeout die port bad => Sys2Proof.Machine.execPortTrainingTimeout die port bad s
  | .fecIntervalEnd link lane corrections replays => Sys2Proof.Machine.execFecIntervalEnd link lane corrections replays s
  | .dataFlit bytes => Sys2Proof.Machine.execDataFlit bytes s
  | .idleFlit bytes => Sys2Proof.Machine.execIdleFlit bytes s
  | .nakFlit bytes => Sys2Proof.Machine.execNakFlit bytes s
  | .flitReplayTimeout => Sys2Proof.Machine.execFlitReplayTimeout s
  | .bxlDownExpire => Sys2Proof.Machine.execBxlDownExpire s
  | .bxlDetectExpire => Sys2Proof.Machine.execBxlDetectExpire s
  | .trainingPatternSeen lanes => Sys2Proof.Machine.execTrainingPatternSeen lanes s
  | .lanesEqualised bad => Sys2Proof.Machine.execLanesEqualised bad s
  | .bxlTrainTimeout => Sys2Proof.Machine.execBxlTrainTimeout s
  | .alignDone => Sys2Proof.Machine.execAlignDone s
  | .bxlAlignTimeout => Sys2Proof.Machine.execBxlAlignTimeout s
  | .bxlLockLoss => Sys2Proof.Machine.execBxlLockLoss s
  | .mwr space addr data => Sys2Proof.Machine.execMwr space addr data s
  | .mrd space addr len tag => Sys2Proof.Machine.execMrd space addr len tag s
  | .drsp tag flags data => Sys2Proof.Machine.execDrsp tag flags data s
  | .cxlMemrd tag addr => Sys2Proof.Machine.execCxlMemrd tag addr s
  | .cxlMemrddata tag addr => Sys2Proof.Machine.execCxlMemrddata tag addr s
  | .cxlMemwr tag addr data => Sys2Proof.Machine.execCxlMemwr tag addr data s
  | .cxlMemwrptl tag addr data enables => Sys2Proof.Machine.execCxlMemwrptl tag addr data enables s
  | .cxlMemspecrd addr => Sys2Proof.Machine.execCxlMemspecrd addr s
  | .inbandReset opx => Sys2Proof.Machine.execInbandReset opx s
  | .lmsg data => Sys2Proof.Machine.execLmsg data s
  | .irqHoldoffExpire vector => Sys2Proof.Machine.execIrqHoldoffExpire vector s
  | .bxlCmdqCfgWrite v => Sys2Proof.Machine.execBxlCmdqCfgWrite v s
  | .bxlCmdqTailWrite v => Sys2Proof.Machine.execBxlCmdqTailWrite v s
  | .bxlCplqHeadWrite v => Sys2Proof.Machine.execBxlCplqHeadWrite v s
  | .bxlRetrainRequest => Sys2Proof.Machine.execBxlRetrainRequest s
  | .dbHostIdxWrite bell v => Sys2Proof.Machine.execDbHostIdxWrite bell v s
  | .planKeyLock => Sys2Proof.Machine.execPlanKeyLock s
  | .evtRingSizeWrite v => Sys2Proof.Machine.execEvtRingSizeWrite v s
  | .evtTailWrite v => Sys2Proof.Machine.execEvtTailWrite v s
  | .eventRecordLanded => Sys2Proof.Machine.execEventRecordLanded s
  | .ctrClear v => Sys2Proof.Machine.execCtrClear v s
  | .arbClear site => Sys2Proof.Machine.execArbClear site s
  | .arbiterGrant site arb present => Sys2Proof.Machine.execArbiterGrant site arb present s
  | .grantHeldCanaryExpire site arb => Sys2Proof.Machine.execGrantHeldCanaryExpire site arb s
  | .cellTagsRead die cell => Sys2Proof.Machine.execCellTagsRead die cell s
  | .pmapFenceReg => Sys2Proof.Machine.execPmapFenceReg s
  | .pmapBaseWrite v => Sys2Proof.Machine.execPmapBaseWrite v s
  | .modeCtlWrite v => Sys2Proof.Machine.execModeCtlWrite v s
  | .portCtlWrite die port v => Sys2Proof.Machine.execPortCtlWrite die port v s
  | .pwrCapWrite v => Sys2Proof.Machine.execPwrCapWrite v s
  | .lampRtcWrite v => Sys2Proof.Machine.execLampRtcWrite v s
  | .comparatorSample n v => Sys2Proof.Machine.execComparatorSample n v s
  | .maintStart id w => Sys2Proof.Machine.execMaintStart id w s
  | .maintCancel v => Sys2Proof.Machine.execMaintCancel v s
  | .scrubHbm => Sys2Proof.Machine.execScrubHbm s
  | .scrubDeep => Sys2Proof.Machine.execScrubDeep s
  | .scrubSram => Sys2Proof.Machine.execScrubSram s
  | .marginSurvey lowest => Sys2Proof.Machine.execMarginSurvey lowest s
  | .mapCompact => Sys2Proof.Machine.execMapCompact s
  | .linkRetrain port => Sys2Proof.Machine.execLinkRetrain port s
  | .fwStage img => Sys2Proof.Machine.execFwStage img s
  | .ckptMirrorVerify => Sys2Proof.Machine.execCkptMirrorVerify s
  | .maintEnd activity port => Sys2Proof.Machine.execMaintEnd activity port s
  | .lendSet id base size => Sys2Proof.Machine.execLendSet id base size s
  | .lendZeroingComplete => Sys2Proof.Machine.execLendZeroingComplete s
  | .attest id nonce addr len => Sys2Proof.Machine.execAttest id nonce addr len s
  | .attestSigned => Sys2Proof.Machine.execAttestSigned s
  | .aliasGenerated => Sys2Proof.Machine.execAliasGenerated s
  | .dikReservationWrite => Sys2Proof.Machine.execDikReservationWrite s
  | .intakeFeed id queue count addr => Sys2Proof.Machine.execIntakeFeed id queue count addr s
  | .intakeRecord => Sys2Proof.Machine.execIntakeRecord s
  | .stagingWindowFreed slot bytes => Sys2Proof.Machine.execStagingWindowFreed slot bytes s
  | .batchComplete busy total => Sys2Proof.Machine.execBatchComplete busy total s
  | .genSubmit id w => Sys2Proof.Machine.execGenSubmit id w s
  | .genCancel id request => Sys2Proof.Machine.execGenCancel id request s
  | .genToken user pairs => Sys2Proof.Machine.execGenToken user pairs s
  | .memoryRequest ctl w => Sys2Proof.Machine.execMemoryRequest ctl w s
  | .mcCommand ctl chan aged => Sys2Proof.Machine.execMcCommand ctl chan aged s
  | .memoryReadComplete ctl result => Sys2Proof.Machine.execMemoryReadComplete ctl result s
  | .rowIdleClose ctl chan bank => Sys2Proof.Machine.execRowIdleClose ctl chan bank s
  | .channelCanaryExpire ctl chan => Sys2Proof.Machine.execChannelCanaryExpire ctl chan s
  | .bankQuotaExpire ctl chan bank age => Sys2Proof.Machine.execBankQuotaExpire ctl chan bank age s
  | .patrolScrub ctl result => Sys2Proof.Machine.execPatrolScrub ctl result s
  | .repairStart ctl => Sys2Proof.Machine.execRepairStart ctl s
  | .repairComplete ctl => Sys2Proof.Machine.execRepairComplete ctl s
  | .inputRise => Sys2Proof.Machine.execInputRise s
  | .standbyEntry strap => Sys2Proof.Machine.execStandbyEntry strap s
  | .inputStableStart => Sys2Proof.Machine.execInputStableStart s
  | .brownout => Sys2Proof.Machine.execBrownout s
  | .inputLoss => Sys2Proof.Machine.execInputLoss s
  | .overvoltage => Sys2Proof.Machine.execOvervoltage s
  | .pwrEnAssert => Sys2Proof.Machine.execPwrEnAssert s
  | .pwrEnDeassert => Sys2Proof.Machine.execPwrEnDeassert s
  | .resetNLow => Sys2Proof.Machine.execResetNLow s
  | .resetNRelease => Sys2Proof.Machine.execResetNRelease s
  | .railsOff => Sys2Proof.Machine.execRailsOff s
  | .warm => Sys2Proof.Machine.execWarm s
  | .hot => Sys2Proof.Machine.execHot s
  | .hotResetComplete => Sys2Proof.Machine.execHotResetComplete s
  | .bootVerified failedA failedB => Sys2Proof.Machine.execBootVerified failedA failedB s
  | .railsInRegulation => Sys2Proof.Machine.execRailsInRegulation s
  | .railTimeout rail => Sys2Proof.Machine.execRailTimeout rail s
  | .memoryTrainingComplete failed => Sys2Proof.Machine.execMemoryTrainingComplete failed s
  | .readyReached => Sys2Proof.Machine.execReadyReached s
  | .thermtrip die temp => Sys2Proof.Machine.execThermtrip die temp s
  | .thermalSlowCheck die temp => Sys2Proof.Machine.execThermalSlowCheck die temp s
  | .thermalRecoverCheck die temp => Sys2Proof.Machine.execThermalRecoverCheck die temp s
  | .currentLimit => Sys2Proof.Machine.execCurrentLimit s
  | .currentRecoverStep ma10 => Sys2Proof.Machine.execCurrentRecoverStep ma10 s
  | .capRecompute mean => Sys2Proof.Machine.execCapRecompute mean s
  | .statusWord => Sys2Proof.Machine.execStatusWord s
  | .readVin => Sys2Proof.Machine.execReadVin s
  | .readIin => Sys2Proof.Machine.execReadIin s
  | .readTemperature1 => Sys2Proof.Machine.execReadTemperature1 s
  | .readTemperature2 => Sys2Proof.Machine.execReadTemperature2 s
  | .readPin => Sys2Proof.Machine.execReadPin s
  | .mfrRegAddr w => Sys2Proof.Machine.execMfrRegAddr w s
  | .mfrRegDataRead => Sys2Proof.Machine.execMfrRegDataRead s
  | .mfrRegDataWrite v => Sys2Proof.Machine.execMfrRegDataWrite v s
  | .mfrAlertCause => Sys2Proof.Machine.execMfrAlertCause s
  | .mfrPwrCap w => Sys2Proof.Machine.execMfrPwrCap w s
  | .dynamicAddressAssign addr => Sys2Proof.Machine.execDynamicAddressAssign addr s
  | .rstdaa => Sys2Proof.Machine.execRstdaa s
  | .selfTestComplete badCells => Sys2Proof.Machine.execSelfTestComplete badCells s
  | .decodeEnd out => Sys2Proof.Machine.execDecodeEnd out s
  | .bankRefresh ctl chan bank => Sys2Proof.Machine.execBankRefresh ctl chan bank s
  | .telemetrySample t => Sys2Proof.Machine.execTelemetrySample t s
  | .nonTransportFrame die port fcs kind => Sys2Proof.Machine.execNonTransportFrame die port fcs kind s
  | .jtagAccess op => Sys2Proof.Machine.execJtagAccess op s

end Sys2Proof.Machine
end

