-- ==== Sys2Proof/Machine/Tick.lean ====
section
/-!
DEFINITION. One period of the Lamp room's 100 MHz tick source, 10 ns, which passes where no command waits
(R485): time, and the counters of cycles in which something waits (R47, R204, R287, R361, R379, R404, R476).
-/
namespace Sys2Proof.Machine

/-- The number of a stall cause (R65). -/
def StallCause.code : StallCause → Nat
  | .operand => 0
  | .bank => 1
  | .deep => 2
  | .remote => 3
  | .ring => 4
  | .semaphore => 5
  | .collective => 6
  | .map => 7
  | .table => 8
  | .acc => 9
  | .arbiter => 10
  | .throttle => 11

/-- Cycles of CORE in the period (R539, R540). -/
def coreCycles (s : State) : Nat := s.faults.current / 100

/-- Cycles of GAL in the period: 12 and 13 in turn, 1.25 GHz (R539). -/
def galCycles (s : State) : Nat := if s.lamp.tick % 20 = 0 then 12 else 13

/-- Cycles that an issue fraction suppresses among n cycles after the first done ones: of each 64 cycles the
fraction's count stays (R48, R534, R536).
DESIGN CHOICE: notes/assumptions/179.md. -/
def lostCycles (f done n : Nat) : Nat := (done + n) * (64 - f) / 64 - done * (64 - f) / 64

/-- Cycles of n that die number x loses: to its issue fraction, and on a die that needs more offset than its rails
give to the cycles that its replicas do not pass, a free number (R507).
DESIGN CHOICE: notes/assumptions/179.md. -/
def lostOn (s : State) (x done n : Nat) : Nat :=
  max (lostCycles (fInForce s.pwr x) done n) (if x ∈ s.faults.shortDies then Config.freeNat (s.free + x) % (n + 1) else 0)

/-- Every blocked stream of a cell counts under its cause (R47), and every stream that could have issued counts the
suppressed cycles under THROTTLE (R48).
DESIGN CHOICE: notes/assumptions/179.md. -/
def tickCell (n : Nat) (s : State) (k : Nat) : State :=
  let lost := lostOn s (k / 128) (s.lamp.tick / 10 * n) n
  (getCell s k).streams.foldl (fun s e =>
    let cause := match e.2.wait with | some (.sem sem _) => semCause s k sem | _ => e.2.cause
    if !e.2.running then s
    else if e.2.wait.isSome then bump (cellBase k + 0x100 + 8 * cause.code) n s
    else bump (cellBase k + 0x100 + 8 * StallCause.throttle.code) lost s) s

/-- The cycles of a controller in which a quota is full (R379). -/
def tickMc (s : State) (ctl : Nat) : State :=
  if !quotaFull s ctl then s else bump (mcBase ctl + 0x28) (if ctl < 16 then 10 else 12) s

/-- The counter of a Gallery die for a stall cause (R476). -/
def galStall (g : Nat) (c : StallCause) : Nat := galBase g + 0x70100 + 8 * c.code

/-- An engine of a Gallery die: blocked under a cause (R476), or at work and slowed, when the cycles on which it
accepts no work count under THROTTLE (R536). -/
def tickGal (n g : Nat) (cause : Option StallCause) (busy : Bool) (s : State) : State :=
  match cause with
  | some c => bump (galStall g c) n s
  | none =>
    if busy then bump (galStall g .throttle) (lostOn s (16 + g) (s.lamp.tick * 5 / 4) n) s else s

/-- The wait figure of an attempt takes cycles that a wait counter counts (R360). -/
def addWait (n : Nat) (s : State) : State :=
  if inAttempt s then { s with steps := { s.steps with waited := s.steps.waited + n } } else s

/-- The hop engine of a Gallery die (R47, R204): its first cause in the order of R47, and the counters of a wait
on a peer. -/
def tickHop (n : Nat) (s : State) (g : Nat) : State :=
  let l := (rangeFrom 0 (circCount s)).filter fun c => (chanPorts s c).any fun p => p / 2 == g
  let data := l.any (waitsData s)
  let credit := l.any (waitsCredit s)
  let s' := bump (galBase g + 0x20018) (if data then n else 0) s |> bump (galBase g + 0x20020) (if credit then n else 0)
    |> addWait ((if data then n else 0) + (if credit then n else 0))
  let cause : Option StallCause :=
    if l.any (fun c => waitsTokens s c && !waitsData s c && !waitsCredit s c) then some .ring
    else if data || credit then some .collective
    else if l.any (waitsPages s) then some .map
    else none
  tickGal n g cause (l.any fun c => (getChan s c).isOpen) s'

/-- The collective engine of a Gallery die (R361). -/
def tickColl (n : Nat) (s : State) (g : Nat) : State :=
  let l := (rangeFrom 0 (collCount s)).filter fun c => collDie s c == g
  if l.any (collWaits s) then bump (galBase g + 0x40018) n s |> addWait n |> tickGal n g (some .collective) true
  else tickGal n g none (l.any fun c => (getColl s c).active && !collComplete s c) s

/-- The gather engine of a Gallery die (R268, R476): for a tag that its owner has not published, or for a read of
another module.
DEDUCED: notes/assumptions/174.md. -/
def tickGather (n : Nat) (s : State) (g : Nat) : State :=
  if (getGath s g).job.isNone then s
  else tickGal n g (some (if 0 < xfersLeft s (.gather g) + xfersLeft s (.gatherHdr g) then .remote else .collective)) true s

/-- The Bell keeper (R476): for the UPs and the DOWN of an operation, or for an ACK.
DEDUCED: notes/assumptions/174.md. -/
def tickBell (n : Nat) (s : State) : State :=
  if (s.bell.ops.any fun e => e.2.active) || !s.bell.out.isEmpty then tickGal n 0 (some .collective) true s else s

/-- Why a frame that waits at a port does not leave: a paused priority, or else the peer or the way to it (R317,
R476).
DEDUCED: notes/assumptions/174.md. -/
def egressCause (s : State) (p : Nat) (f : Frame) : StallCause :=
  if priority f.cls ∈ (getPort s p).paused then .arbiter else if f.cls = 3 then .remote else .collective

/-- The egress of a port that holds frames, under the first of their causes in the order of R47 (R476). -/
def tickEgress (n : Nat) (s : State) (p : Nat) : State :=
  let causes := (txWaiting s p).map fun e => egressCause s p e.2.frame
  tickGal n (p / 2) ([StallCause.collective, .remote, .arbiter].find? fun c => decide (c ∈ causes)) false s

/-- With no command waiting, no receive buffer holds a frame: a port that stopped a priority lets it go on (R332).
DEDUCED: notes/assumptions/175.md. -/
def tickBuffers (s : State) : State :=
  allPorts.foldl (fun s p =>
    (getPort s p).xoff.foldl (fun s prio => if portUp s p then pfcFall p prio 0 s else s) s) s

/-- What an entropy decoder waits for: room in the staging window (R404) or in the manifest ring, which holds the
intake up (R414), or a record that comes over the host link (R405, R476). -/
def decoderCause (i : Intake) : Option StallCause :=
  match i.work with
  | .filling _ _ _ _ => some .ring
  | .reading _ _ _ _ _ _ _ => some .remote
  | _ => if i.manifest.isEmpty then none else some .ring

/-- The entropy decoder of the slot that the intake works on (R476). -/
def tickDecoder (n : Nat) (s : State) : State :=
  tickGal n (s.intake.slot % 4) (decoderCause s.intake) (s.intake.work != .idle) s

/-- An update engine whose next request a checkpoint holds (R287, R305), or one at work on a die that is slowed
(R536). -/
def tickEngine (s : State) (d : Nat) : State :=
  match ringHead s (updRing s d) with
  | some (_, x) =>
    if ckptHolds s && numAt x 8 1 != 1 then bump (stopeBase d + 0x10100 + 8 * StallCause.deep.code) 10 s
    else bump (stopeBase d + 0x10100 + 8 * StallCause.throttle.code) (lostOn s (8 + d) s.lamp.tick 10) s
  | none => s

/-- An edge of the 32.768 kHz crystal (R486, R491): a written value takes its place, else the count goes on. A fault
window closes 3,600 s after it opened (R490, R494). -/
def crystalEdge (s : State) : State :=
  let edge := { s with
    lamp := { s.lamp with rtc := s.lamp.rtcWrite.getD ((s.lamp.rtc + 1) % 2 ^ 48), rtcWrite := none }
    faults := { s.faults with
      elapsed := (s.faults.elapsed + 1) % 2 ^ 64
      ledger := s.faults.ledger.filter fun w => decide ((s.faults.elapsed + 1) % 2 ^ 64 - w.opened ≤ 117964800) } }
  if s.lamp.rtcWrite.isSome then edge else sampleClock 3 edge

/-- Whether an edge falls into the period is a free choice: the two crystals have no fixed relation (R539). -/
def tickCrystal (s : State) : State :=
  let t := { s with free := s.free + 1 }
  if Config.freeBool s.free then crystalEdge t else t

/-- LAMP_TICK adds 10 (R485), and the comparators on it sample (R488). -/
def tickLamp (s : State) : State :=
  sampleClock 4 { s with lamp := { s.lamp with tick := (s.lamp.tick + 10) % 2 ^ 64 } }

/-- Scratchpad address of a row of a bank: x[10:6] is the bank and x[20:11] the row (R33). -/
def bankAddr (bank row : Nat) : Nat := (row % 1024) * 2 ^ 11 + (bank % 32) * 2 ^ 6

/-- A granule of a cell's SRAM reads as all ones (R500): banks 0 to 31 of the scratchpad, 32 the cache, 33 to 36
the tile buffers, 37 and 38 the accumulator banks (*Site locator*). -/
def loseGranule (bank row : Nat) (c : Cell) : Cell :=
  let ones := List.replicate 64 0xFF#8
  let acc := fun (b : Bank) => { b with vals := (rangeFrom (16 * (row % 1024)) 16).foldl (fun t i => tset 0#32 t i (BitVec.allOnes 32)) b.vals }
  if bank < 32 then { c with scratch := mwrite c.scratch (bankAddr bank row) ones }
  else if bank = 32 then { c with opcache := mwrite c.opcache (64 * (row % 4096)) ones }
  else if bank < 37 then { c with tiles := mwrite c.tiles (65536 * (bank - 33) + 64 * (row % 1024)) ones }
  else if bank = 37 then { c with acc0 := acc c.acc0 } else { c with acc1 := acc c.acc1 }

/-- A line of a cell's near cache is lost to a parity error (R39). -/
def loseLine (n : Nat) (c : Cell) : Cell := { c with near := c.near.eraseIdx n }

/-- A cell detects an error in a bank of its SRAM, or (bank 39) in its registers and checks: corrected, or not
(*Fault sites*, R39, R500). -/
def cellError (k bank row : Nat) (ue : Bool) (s : State) : State :=
  if bank = 39 then (if ue then countUE else countCE) ⟨3, k / 128, k % 128, 0, 0⟩ 0 s
  else if bank = 32 ∧ !opMode s (getCell s k) then modCell k (loseLine row) s |> countCE (nearSite k) 0
  else
    let x : Site := ⟨2, k / 128, k % 128, bank, 0⟩
    if !ue then countCE x 0 s
    else modCell k (loseGranule bank row) s |> countUE x 0
      |> fun s => if workload s ≤ 1 then sendFail cStepAborted (source 1 k) s else s

/-- An SRAM outside the cells detects an error: nothing is retired (R493). -/
def dieError (site block : Nat) (ue : Bool) (s : State) : State :=
  let x : Site := ⟨2, site, 0xFF, block, 0⟩
  if !ue then countCE x 0 s
  else countUE x 0 s |> fun s => if workload s ≤ 1 then sendFail cStepAborted (siteSource x) s else s

/-- Whether the module detects an error of its SRAM in the period, and which, is open: no command carries one
(R39, R493, R500).
DESIGN CHOICE: notes/assumptions/161.md. -/
def tickErrors (s : State) : State :=
  let f := takeFree s
  let v := f.1 / 4
  let ue := f.1 % 4 == 2
  match f.1 % 4 with
  | 1 | 2 => cellError (128 * (v % 8) + v / 8 % 100) (v / 800 % 40) (v / 32000) ue f.2
  | 3 => dieError ([0, 32, 64].getD (v % 3) 0 + v / 3 % (if v % 3 = 2 then 4 else 8)) (v / 48 % 256) (v / 12288 % 2 == 1) f.2
  | _ => f.2

/-- The waits of the module count, while the rails are up. -/
def tickWaits (s : State) : State :=
  if !s.pwr.pwrGood then s
  else
    let g := galCycles s
    let c := coreCycles s
    let s := (s.cells.map (·.1)).foldl (tickCell c) s
    let s := (s.mcs.map (·.1)).foldl tickMc s
    let s := [0, 1, 2, 3].foldl (tickHop g) s
    let s := [0, 1, 2, 3].foldl (tickColl g) s
    let s := [0, 1, 2, 3].foldl (tickGather g) s |> tickBell g
    let s := allPorts.foldl (tickEgress g) s
    let s := (rangeFrom 0 8).foldl tickEngine (tickDecoder g s)
    if s.faults.shortDies.isEmpty then s else { s with free := s.free + 20 }

/-- A period of the tick source with no command; in OFF nothing runs (R485).
DESIGN CHOICE: notes/assumptions/1.md. -/
def idle (s : State) : State :=
  if s.pwr.state = stOff then s
  else (if s.pwr.pwrGood then tickWaits s |> tickErrors |> tickBuffers |> pumpChans else s) |> tickCrystal |> tickLamp

end Sys2Proof.Machine
end

