-- ==== Sys2Proof/Machine/Step.lean ====
section
/-!
DEFINITION. One step of the module: the command at the front of the queue takes effect, and without a command
one period of the Lamp room's tick source passes.
-/
namespace Sys2Proof.Machine

/-- A step takes the command at the front of the queue.
DESIGN CHOICE: notes/assumptions/1.md.
DESIGN CHOICE: notes/assumptions/147.md. -/
def step (s : State) : Host.Outcome State Fault Refusal :=
  match s.pending with
  | c :: rest => exec c { s with pending := rest }
  | [] => .next (idle s)

/-- The state with the command that a word spells put at the front of its queue. -/
def State.withFetchWord (s : State) (nbits w : Nat) : State :=
  match Sys2Proof.decodeTableWord nbits w with
  | some c => { s with pending := c :: s.pending }
  | none => s

end Sys2Proof.Machine
end

