-- ==== Sys2Proof/WellFormed.lean ====
section
/-!
DEFINITION. Well-formed commands: a stream's word decodes (R118, R149, R152) and every unit that a command
names exists on the module (R10, R58, R112, R113, R337).
-/
namespace Sys2Proof

open Machine

/-- The fields that every SOP word shares (R149, R167). -/
def sopWf (u : StreamAt) (p : Pred) (w : SopWord) : Bool :=
  cellOk u.cell && predOk p && w.fmtX != 0xF && w.fmtD != 0xF && sopMaskOk w

/-- A frame of a class and type at a port of the module. -/
def frameWf (r : RxFrame) (cls typ : Nat) : Bool := portOk r.die r.port && r.f.cls == cls && r.f.typ == typ

/-- A Bell message arrives from this member itself or as a frame of class BELL (R354). -/
def bellWf (m : BellIn) : Bool :=
  match m with
  | .own => true
  | .frame r => frameWf r 0 0

/-- The unit that a ring-step Canary watches exists. -/
def waitWf (w : RingWait) : Bool :=
  match w with
  | .channel c => decide (c < 64)
  | .gather die => decide (die < 4)
  | .bellUp _ _ => true
  | .coll _ _ => true
  | .walk => true
  | .intake => true

/-- A command is well formed.
DEDUCED: notes/assumptions/50.md. -/
def Instr.wf (i : Instr) : Bool :=
  match i with
  | .nop u => cellOk u.cell
  | .stop u => cellOk u.cell
  | .loop u count _ _ => cellOk u.cell && count != 0
  | .endl u => cellOk u.cell
  | .call u _ => cellOk u.cell
  | .ret u => cellOk u.cell
  | .sli u _ _ _ _ => cellOk u.cell
  | .salu u w => cellOk u.cell && decide (w.fn.toNat ≤ 11) && (w.fn == 8 || w.imm == 0)
  | .sld u _ => cellOk u.cell
  | .sst u _ => cellOk u.cell
  | .semw u _ n => cellOk u.cell && n != 0
  | .sems u _ cell n => cellOk u.cell && n != 0 && semsCellOk cell.toNat
  | .semSignalArrive cell sem => cellOk cell && decide (sem < 64)
  | .rpush u _ _ => cellOk u.cell
  | .rpop u _ _ => cellOk u.cell
  | .ringPushArrive ring => decide (ring < 262144)
  | .ncinv u => cellOk u.cell
  | .tagw u _ _ => cellOk u.cell
  | .move u p w => cellOk u.cell && moveOk false p w
  | .move2 u p w => cellOk u.cell && moveOk true p w
  | .movel u p w => cellOk u.cell && moveOk false p w
  | .transferComplete cell stream tag => cellOk cell && decide (stream < 64) && decide (tag < 512)
  | .mma u p w => cellOk u.cell && predOk p && mmaOk false false w
  | .mmaTa u p w => cellOk u.cell && predOk p && mmaOk true false w
  | .mmaTb u p w => cellOk u.cell && predOk p && mmaOk false true w
  | .mmaComplete cell => cellOk cell
  | .drain u p w => cellOk u.cell && predOk p && drainOk w
  | .drainComplete cell _ => cellOk cell
  | .vld u p w => cellOk u.cell && predOk p && !(w.orient && is16 w.ety.toNat) && w.fmt != 0xF
  | .vst u p w => cellOk u.cell && predOk p && !(w.orient && is16 w.ety.toNat) && w.fmt != 0xF
  | .vbin u p _ _ _ _ fn => cellOk u.cell && predOk p && decide (fn.toNat ≤ 9)
  | .vfma u p _ _ _ _ _ => cellOk u.cell && predOk p
  | .vcmp u p _ _ _ half ety fn => cellOk u.cell && predOk p && decide (fn.toNat ≤ 6) && (!half || is16 ety.toNat)
  | .vsel u p _ _ _ _ => cellOk u.cell && predOk p
  | .vcvt u p _ _ etyD etyA half => cellOk u.cell && predOk p && (!half || is16 etyD.toNat != is16 etyA.toNat)
  | .vbcast u p _ _ _ => cellOk u.cell && predOk p
  | .vmsk u p _ _ _ fn _ => cellOk u.cell && predOk p && decide (fn.toNat ≤ 9)
  | .vun u p _ _ ety fn => cellOk u.cell && predOk p && decide (fn.toNat ≤ 4) && !(ety == 3 && (fn == 2 || fn == 3))
  | .vxs u p _ _ _ => cellOk u.cell && predOk p
  | .sopElem u p w => sopWf u p w && decide (w.fn.toNat ≤ 8) && sopRowOk w
  | .sopRed u p w => sopWf u p w && decide (w.fn.toNat ≤ 3)
  | .sopScan u p w => sopWf u p w && decide (w.fn.toNat ≤ 2)
  | .sopSegscan u p w => sopWf u p w && decide (w.fn.toNat ≤ 2)
  | .sopTopk u p w => sopWf u p w && w.fn == 0
  | .sopCvt u p w => sopWf u p w && decide (w.fn.toNat ≤ 1) && (w.fn == 1) == (blockLen w.fmtD.toNat != 0)
  | .sopFill u p w => sopWf u p w && w.fn == 0 && w.n != 15
  | .tab u p w => cellOk u.cell && predOk p && w.mode != 3 && w.fmtX != 0xF && decide (w.fmtD.toNat ≤ 4)
  | .walk u p w => cellOk u.cell && predOk p && w.list != 15
  | .pmapSet u p _ _ val => cellOk u.cell && predOk p && val.toNat % 2 == 0
  | .pmapCow u p _ _ => cellOk u.cell && predOk p
  | .cowCopyComplete _ => true
  | .pmapFree u p _ _ => cellOk u.cell && predOk p
  | .pmapFence u => cellOk u.cell
  | .bell u _ _ fn _ => cellOk u.cell && decide (fn.toNat ≤ 8)
  | .nearCacheFill cell line => cellOk cell && decide (line / 2 ^ 41 ≤ 1) &&
      (if line / 2 ^ 41 = 0 then hbmOk (128 * (line % 2 ^ 41)) 128 else deepOk (128 * (line % 2 ^ 41)) 128)
  | .phaseEnd _ => true
  | .planStage _ _ _ => true
  | .stagingComplete => true
  | .planSwap _ => true
  | .swapBoundary => true
  | .swapReady m => bellWf m
  | .swapWaitExpire => true
  | .swapGo m => bellWf m
  | .swapAbort m => bellWf m
  | .reshard _ => true
  | .permute => true
  | .permuteComplete => true
  | .stepRun _ _ _ => true
  | .stepAbortReq _ _ => true
  | .stepGo m => bellWf m
  | .readySend => true
  | .ready m => bellWf m
  | .fail m => bellWf m
  | .commit m => bellWf m
  | .abort m => bellWf m
  | .ack m => bellWf m
  | .probe m => bellWf m
  | .lostReport m => bellWf m
  | .bellAckCanaryExpire _ _ _ _ => true
  | .commitWaitExpire => true
  | .attemptCanaryExpire => true
  | .commitRetryExpire => true
  | .ckptWrite _ _ _ _ _ => true
  | .ckptWriteComplete => true
  | .mirrorUnitReceive _ _ _ => true
  | .ckptRestore _ _ _ _ => true
  | .collRequest die => decide (die < 4)
  | .collChunkLand r => frameWf r 2 0
  | .combinerToken die => decide (die < 4)
  | .collCredit r => frameWf r 2 0
  | .collDigestExchange coll => decide (coll < 4096)
  | .bellUp m => bellWf m
  | .bellDown m => bellWf m
  | .circStart chan => decide (chan < 64)
  | .circRelease chan => decide (chan < 64)
  | .gradDone chan => decide (chan < 64)
  | .circUnitLand r => frameWf r 1 0
  | .circCredit chan _ => decide (chan < 64)
  | .feedDeliver feed => decide (feed < 1024)
  | .ringStepCanaryExpire w => waitWf w
  | .epochExamine => true
  | .mapReclaimExpire => true
  | .allocationCanaryExpire => true
  | .compactRelocate _ => true
  | .stashSave die => decide (die < 8)
  | .stashLoad die => decide (die < 8)
  | .stashCheck die => decide (die < 8)
  | .gatherRequest die => decide (die < 4)
  | .gatherTagRetry die => decide (die < 4)
  | .updateRequest die => decide (die < 8)
  | .updateHeaderWrite die => decide (die < 8)
  | .publishRequest die => decide (die < 8)
  | .publicationEnd die => decide (die < 8)
  | .moveData r => frameWf r 3 0
  | .read r => frameWf r 3 3
  | .signal r => frameWf r 3 4
  | .sack r => portOk r.die r.port && r.f.typ == 1
  | .cnp r => portOk r.die r.port && r.f.typ == 2
  | .sackDelayExpire w => flowOk w
  | .reorderExpire w _ => flowOk w
  | .retxTimeout w => flowOk w
  | .rateIntervalEnd w => flowOk w
  | .neighborSolicitation die port _ _ => portOk die port
  | .neighborAdvertisement die port _ _ _ => portOk die port
  | .nsRetryExpire die port _ => portOk die port
  | .neighborCacheExpire die port _ => portOk die port
  | .pfcFrame die port _ _ => portOk die port
  | .pfcPauseExpire die port _ => portOk die port
  | .lldpTimer die port => portOk die port
  | .pcsLockLoss die port => portOk die port
  | .fecUncorrectableBurst die port => portOk die port
  | .portDownExpire die port => portOk die port
  | .portLinkUp die port _ => portOk die port
  | .portStableExpire die port => portOk die port
  | .portTrainingTimeout die port _ => portOk die port
  | .fecIntervalEnd link lane _ _ => linkExists link && decide (lane < if link < 28 then 256 else 8)
  | .dataFlit bytes => bytes.length == 256
  | .idleFlit bytes => bytes.length == 256
  | .nakFlit bytes => bytes.length == 256
  | .flitReplayTimeout => true
  | .bxlDownExpire => true
  | .bxlDetectExpire => true
  | .trainingPatternSeen _ => true
  | .lanesEqualised _ => true
  | .bxlTrainTimeout => true
  | .alignDone => true
  | .bxlAlignTimeout => true
  | .bxlLockLoss => true
  | .mwr _ _ _ => true
  | .mrd _ _ _ _ => true
  | .drsp _ _ _ => true
  | .cxlMemrd _ _ => true
  | .cxlMemrddata _ _ => true
  | .cxlMemwr _ _ _ => true
  | .cxlMemwrptl _ _ _ _ => true
  | .cxlMemspecrd _ => true
  | .inbandReset _ => true
  | .lmsg _ => true
  | .irqHoldoffExpire vector => decide (vector < 64)
  | .bxlCmdqCfgWrite _ => true
  | .bxlCmdqTailWrite _ => true
  | .bxlCplqHeadWrite _ => true
  | .bxlRetrainRequest => true
  | .dbHostIdxWrite db _ => decide (db < 16384)
  | .planKeyLock => true
  | .evtRingSizeWrite _ => true
  | .evtTailWrite _ => true
  | .eventRecordLanded => true
  | .ctrClear _ => true
  | .arbClear site => siteOk site
  | .arbiterGrant site arb present =>
    decide (0 < arbReqs site arb) && present.all fun r => decide (r < arbReqs site arb)
  | .grantHeldCanaryExpire site arb => decide (0 < arbReqs site arb)
  | .cellTagsRead die cell => decide (die < 8) && decide (cell < 100)
  | .pmapFenceReg => true
  | .pmapBaseWrite _ => true
  | .modeCtlWrite _ => true
  | .portCtlWrite die port _ => portOk die port
  | .pwrCapWrite _ => true
  | .lampRtcWrite _ => true
  | .comparatorSample n _ => decide (n < 8)
  | .maintStart _ _ => true
  | .maintCancel _ => true
  | .scrubHbm => true
  | .scrubDeep => true
  | .scrubSram => true
  | .marginSurvey _ => true
  | .mapCompact => true
  | .linkRetrain port => decide (port < 7)
  | .fwStage _ => true
  | .ckptMirrorVerify => true
  | .maintEnd _ _ => true
  | .lendSet _ _ _ => true
  | .lendZeroingComplete => true
  | .attest _ _ _ _ => true
  | .attestSigned => true
  | .aliasGenerated => true
  | .dikReservationWrite => true
  | .intakeFeed _ _ _ _ => true
  | .intakeRecord => true
  | .stagingWindowFreed _ _ => true
  | .batchComplete _ _ => true
  | .genSubmit _ _ => true
  | .genCancel _ _ => true
  | .genToken user _ => decide (user < 12)
  | .memoryRequest ctl w =>
    decide (ctl < 32) && decide (w.requester < ctlRequesters ctl) && decide (w.off + w.len ≤ stackBytes ctl)
  | .mcCommand ctl chan _ => decide (ctl < 32) && decide (chan < ctlChans ctl)
  | .memoryReadComplete ctl _ => decide (ctl < 32)
  | .rowIdleClose ctl chan bank => bankOk ctl chan bank
  | .channelCanaryExpire ctl chan => decide (ctl < 32) && decide (chan < ctlChans ctl)
  | .bankQuotaExpire ctl chan bank _ => bankOk ctl chan bank
  | .patrolScrub ctl _ => decide (ctl < 32)
  | .repairStart ctl => decide (ctl < 32)
  | .repairComplete ctl => decide (ctl < 32)
  | .inputRise => true
  | .standbyEntry _ => true
  | .inputStableStart => true
  | .brownout => true
  | .inputLoss => true
  | .overvoltage => true
  | .pwrEnAssert => true
  | .pwrEnDeassert => true
  | .resetNLow => true
  | .resetNRelease => true
  | .railsOff => true
  | .warm => true
  | .hot => true
  | .hotResetComplete => true
  | .bootVerified _ _ => true
  | .railsInRegulation => true
  | .railTimeout _ => true
  | .memoryTrainingComplete failed => failed.all fun c => decide (c < 32)
  | .readyReached => true
  | .thermtrip die _ => decide (die < 20)
  | .thermalSlowCheck die _ => decide (die < 20)
  | .thermalRecoverCheck die _ => decide (die < 20)
  | .currentLimit => true
  | .currentRecoverStep _ => true
  | .capRecompute _ => true
  | .statusWord => true
  | .readVin => true
  | .readIin => true
  | .readTemperature1 => true
  | .readTemperature2 => true
  | .readPin => true
  | .mfrRegAddr _ => true
  | .mfrRegDataRead => true
  | .mfrRegDataWrite _ => true
  | .mfrAlertCause => true
  | .mfrPwrCap _ => true
  | .dynamicAddressAssign _ => true
  | .rstdaa => true
  | .selfTestComplete badCells => badCells.all cellOk
  | .decodeEnd _ => true
  | .bankRefresh ctl chan bank => bankOk ctl chan bank
  | .telemetrySample t => t.dies.all fun d => decide (d.1 < 20)
  | .nonTransportFrame die port _ _ => portOk die port
  | .jtagAccess _ => true

end Sys2Proof
end

