-- ==== Sys2Proof/Safety.lean ====
section
/-!
DEFINITION. The words in which claims about the module are made: what an outcome must be to count as
a completion, when a stream or the host can act, and what a command leaves alone.
-/
namespace Sys2Proof

/-- The stream that issues a command of the stream classes; none for a command that no stream issues. -/
def Instr.streamAt (i : Instr) : Option StreamAt :=
  match i with
  | .nop u => some u
  | .stop u => some u
  | .loop u _ _ _ => some u
  | .endl u => some u
  | .call u _ => some u
  | .ret u => some u
  | .sli u _ _ _ _ => some u
  | .salu u _ => some u
  | .sld u _ => some u
  | .sst u _ => some u
  | .semw u _ _ => some u
  | .sems u _ _ _ => some u
  | .rpush u _ _ => some u
  | .rpop u _ _ => some u
  | .ncinv u => some u
  | .tagw u _ _ => some u
  | .move u _ _ => some u
  | .move2 u _ _ => some u
  | .movel u _ _ => some u
  | .mma u _ _ => some u
  | .mmaTa u _ _ => some u
  | .mmaTb u _ _ => some u
  | .drain u _ _ => some u
  | .vld u _ _ => some u
  | .vst u _ _ => some u
  | .vbin u _ _ _ _ _ _ => some u
  | .vfma u _ _ _ _ _ _ => some u
  | .vcmp u _ _ _ _ _ _ _ => some u
  | .vsel u _ _ _ _ _ => some u
  | .vcvt u _ _ _ _ _ _ => some u
  | .vbcast u _ _ _ _ => some u
  | .vmsk u _ _ _ _ _ _ => some u
  | .vun u _ _ _ _ _ => some u
  | .vxs u _ _ _ _ => some u
  | .sopElem u _ _ => some u
  | .sopRed u _ _ => some u
  | .sopScan u _ _ => some u
  | .sopSegscan u _ _ => some u
  | .sopTopk u _ _ => some u
  | .sopCvt u _ _ => some u
  | .sopFill u _ _ => some u
  | .tab u _ _ => some u
  | .walk u _ _ => some u
  | .pmapSet u _ _ _ _ => some u
  | .pmapCow u _ _ _ => some u
  | .pmapFree u _ _ _ => some u
  | .pmapFence u => some u
  | .bell u _ _ _ _ => some u
  | _ => none

namespace Machine

/-- The outcome is a next state with a property. -/
def RunsTo (o : Host.Outcome State Fault Refusal) (p : State → Prop) : Prop := ∃ t, o = .next t ∧ p t

/-- Nothing but what the module counts and reports to its host changed: counters, overflow bits, the
event block and the host link. -/
def OnlyReport (s t : State) : Prop :=
  t = { s with ctr := t.ctr, ovf := t.ovf, obs := t.obs, bxl := t.bxl, hostOut := t.hostOut }

/-- A stream can issue, in a cell that the module has. -/
def Issues (s : State) (u : StreamAt) : Prop := cellOk u.cell = true ∧ canIssue s u = true

/-- A state after the cells changed and nothing else did. -/
def OnlyCells (s t : State) : Prop := t = { s with cells := t.cells }

/-- Only one cell changed. -/
def OnlyCell (k : Nat) (s t : State) : Prop := OnlyCells s t ∧ ∀ j, j ≠ k → getCell t j = getCell s j

/-- Only the stream's own registers, loops, calls, tags, wait and place in its program changed. -/
def OnlyStream (u : StreamAt) (s t : State) : Prop :=
  OnlyCell u.cell s t ∧
  getCell t u.cell = { getCell s u.cell with streams := (getCell t u.cell).streams } ∧
  ∀ i, i ≠ u.stream.toNat → getStream (getCell t u.cell) i = getStream (getCell s u.cell) i

/-- The stream after an instruction that changed none of its registers. -/
def Stream.next (t : Stream) : Stream := { t with ip := t.ip + 1, wait := none }

/-- One byte of a space of a cell: 0 scratchpad, 1 tile buffers, 2 operand cache (R146). -/
def spaceByte (c : Cell) (space b : Nat) : Byte :=
  match space with
  | 0 => mget c.scratch b
  | 1 => mget c.tiles b
  | _ => mget c.opcache b

/-- Of a cell only bytes of its memories changed. -/
def OnlyMemory (c d : Cell) : Prop :=
  d = { c with scratch := d.scratch, opcache := d.opcache, tiles := d.tiles }

/-- A byte of a space holds a part of the elements at some places of a reference, or the scale of one
of their blocks (R71, R146, R147). -/
def InElems (r : Ref) (code rowLen : Nat) (places : List (Nat × Nat)) (space b : Nat) : Prop :=
  (space = r.space ∧ ∃ q ∈ places, r.bitAddr code rowLen q.1 q.2 / 8 ≤ b ∧
    b < r.bitAddr code rowLen q.1 q.2 / 8 + (r.bitAddr code rowLen q.1 q.2 % 8 + elemBits code + 7) / 8) ∨
  (blockLen code ≠ 0 ∧ space = 0 ∧ ∃ q ∈ places, b = r.scaleAddr code rowLen q.1 q.2)

/-- Of a cell only bytes inside a set of places changed. -/
def KeepsOutside (inside : Nat → Nat → Prop) (c d : Cell) : Prop :=
  OnlyMemory c d ∧ ∀ space b, space ≤ 2 → ¬inside space b → spaceByte d space b = spaceByte c space b

/-- The host link carries messages, and the module serves a register to it. -/
def HostReady (s : State) (off : Nat) : Prop := s.bxl.st = .active ∧ served s off = true

/-- The first of the messages that the member sent to itself, and the state without it (R354). -/
def OwnFront (s : State) (src : Nat) (m : BellMsg) (t : State) : Prop :=
  ∃ rest, s.bell.selfQ = (src, m) :: rest ∧ t = { s with bell := { s.bell with selfQ := rest } }

/-- A Bell message that is new reaches its receiver: the first of the member's own, or one in a frame that passes
the checks. The member is in state a when it arrives, and in state b when it has its effect: a frame's message is
acknowledged and recorded before (R354, R358). -/
def BellArrives (x : BellIn) (s : State) (src : Nat) (m : BellMsg) (a b : State) : Prop :=
  match x with
  | .own => OwnFront s src m a ∧ b = a
  | .frame r => portOk r.die r.port = true ∧ r.f.cls = 0 ∧ r.f.typ = 0 ∧ (accept r s).1 = true ∧ a = (accept r s).2 ∧
      src = r.f.src ∧ m = bellOf r.f ∧ m.kind ≠ 2 ∧ (src, m) ∉ a.bell.seen ∧
      b = bellSend src (ackOf m) { a with bell := { a.bell with
        seen := a.bell.seen.filter (fun e => !sameSlot e (src, m)) ++ [(src, m)] } }

/-- The queue of the commands that wait is what is left of a list of commands taken in order. -/
def QueueWithin (l : List Instr) (s : State) : Prop := s.pending <:+ l

end Machine

end Sys2Proof
end

