-- ==== Sys2Proof/Certificates/Slice0/Obligations.lean ====
section
/-!
DEFINITION. The statements made of the model, one definition each; OBLIGATIONS.json lists them with the
rules and sections of spec/ they come from.
-/
open Sys2Proof Sys2Proof.Machine

/-- For every command c and state s, the step of s with c at the front of its queue is exec of c on s with the
rest of the queue, whatever exec answers. On an empty queue the step is one period of the Lamp room's tick
source (the model's choice: notes/assumptions/1.md). (00_scope.md, 95_what_each_step_holds.md) -/
def Obligations.StepTakesTheFrontCommand : Prop :=
  (∀ (s : State) (c : Instr) (rest : List Instr),
    step { s with pending := c :: rest } = exec c { s with pending := rest }) ∧
  (∀ s : State, step { s with pending := [] } = .next (idle { s with pending := [] }))

/-- First in, first out: if the queue of s is what is left of a list of commands taken in order, the queue after
any step that answers a next state is so too, and it is the rest of the queue of s. No command, event, engine
or tick puts a command in the queue, drops one that waits or reorders it. (00_scope.md,
95_what_each_step_holds.md) -/
def Obligations.EveryStepKeepsTheQueueInOrder : Prop :=
  ∀ (l : List Instr) (s t : State), QueueWithin l s → step s = .next t →
    QueueWithin l t ∧ t.pending = s.pending.tail

/-- The queue of the state after reset is empty, so it is what is left of any list of commands. The state is that
of a COLD start as BOOT begins (the model's choice of the moment: notes/assumptions/2.md): SYS_ID, SYS_STATE,
CKPT_LOCAL_STEP, CKPT_MIRROR_STEP, PWR_CAP, PWR_STATUS, BXL_CTL, PMAP_ENTRIES, STASH_STATUS, INTAKE_BALANCE,
INTAKE_OVF and the event ring's size read the values of the register tables, and each of the seven ports has
the reset values of PORT_STATUS and PORT_CTL. (22_register_map.md, 21_power_clocks_reset.md, 16_host_link.md,
14_intake.md, 11_fabric.md, 08_backward_and_stash.md, 10_steps_and_spares.md, 00_scope.md) -/
def Obligations.ResetQueueIsEmpty : Prop :=
  State.reset.pending = [] ∧ (∀ l : List Instr, QueueWithin l State.reset) ∧
  (∀ x ∈ [(0x0, 0x4E47435800080100), (0x10, 0x102), (0x148, 0xFFFFFFFFFFFFFFFF), (0x150, 0xFFFFFFFFFFFFFFFF),
      (0x800, 0x12C0), (0x808, 0x4040000000), (bxlBase + 8, 0x200), (pmapBase + 8, 0x1000000),
      (pmapBase + 0x100, 0xFFFFFFFF00000000), (intakeBase + 0x18, 0x100), (intakeBase + 0x38, 0), (obsBase + 8, 0)],
    regGet State.reset x.1 = x.2) ∧
  ∀ p ∈ [0, 2, 3, 4, 5, 6, 7], regGet State.reset (portBase p) = 0xFFFF0000 ∧ regGet State.reset (portBase p + 8) = 0xF000A0007

/-- For a stream that can issue: NOP goes on to the next word; LOOP pushes a loop of COUNT iterations on the loop
stack and, with IDXEN, writes 0 to its S register; ENDL starts the next iteration at the word after LOOP,
writing its number to that register, or leaves the loop; CALL goes to TARGET and RET to the word after the
CALL. Each changes nothing but its own stream, and of the stream nothing but what is named. (R153, R145,
05_stream_programs.md) -/
def Obligations.ControlOperationsMoveTheStream : Prop :=
  ∀ (s : State) (u : StreamAt), Issues s u →
    (RunsTo (exec (.nop u) s) fun t => streamOf t u = (streamOf s u).next ∧ OnlyStream u s t) ∧
    (∀ (count : BitVec 24) (idx : BitVec 4) (idxEn : Bool), count ≠ 0 →
      RunsTo (exec (.loop u count idx idxEn) s) fun t => OnlyStream u s t ∧
        streamOf t u = { (streamOf s u).next with
          loops := ⟨(streamOf s u).ip + 1, count.toNat, 0, if idxEn then some idx.toNat else none⟩ :: (streamOf s u).loops
          s := if idxEn then tset 0 (streamOf s u).s idx.toNat 0 else (streamOf s u).s }) ∧
    (∀ (l : LoopFrame) (rest : List LoopFrame), (streamOf s u).loops = l :: rest →
      RunsTo (exec (.endl u) s) fun t => OnlyStream u s t ∧
        (l.iter + 1 < l.count → streamOf t u = { streamOf s u with
          ip := l.top, wait := none, loops := { l with iter := l.iter + 1 } :: rest
          s := match l.idx with
            | some r => tset 0 (streamOf s u).s r (BitVec.ofNat 64 (l.iter + 1))
            | none => (streamOf s u).s }) ∧
        (l.count ≤ l.iter + 1 → streamOf t u = { (streamOf s u).next with loops := rest })) ∧
    (∀ target : BitVec 32, RunsTo (exec (.call u target) s) fun t => OnlyStream u s t ∧
      streamOf t u = { streamOf s u with
        ip := target.toNat, wait := none, calls := ((streamOf s u).ip + 1) :: (streamOf s u).calls }) ∧
    (∀ (a : Nat) (rest : List Nat), (streamOf s u).calls = a :: rest →
      RunsTo (exec (.ret u) s) fun t => OnlyStream u s t ∧
        streamOf t u = { streamOf s u with ip := a, wait := none, calls := rest })

/-- For a stream that can issue: SLI writes its immediate sign-extended to 64 bits, or with HIGH puts it into the
upper half and keeps the lower; SALU writes the 64-bit result of its function, wrapping modulo 2^64, with
shifts by the low 6 bits; SLD writes the 8 bytes at the reference's ADDR plus the signed offset. Each goes on
to the next word and changes nothing else in the module. (R145, R153, 05_stream_programs.md) -/
def Obligations.ScalarOperationsWriteOneRegister : Prop :=
  ∀ (s : State) (u : StreamAt), Issues s u →
    (∀ (d : BitVec 4) (file high : Bool) (imm : BitVec 32),
      RunsTo (exec (.sli u d file high imm) s) fun t => OnlyStream u s t ∧
        (let v : BitVec 64 := if high then imm ++ (BitVec.ofNat 32 (getReg file (streamOf s u) d.toNat)) else imm.signExtend 64
         streamOf t u = if file then { (streamOf s u).next with a := tset 0 (streamOf s u).a d.toNat v }
           else { (streamOf s u).next with s := tset 0 (streamOf s u).s d.toNat v })) ∧
    (∀ w : SaluWord, w.fn.toNat ≤ 11 → (w.fn = 8 ∨ w.imm = 0) →
      RunsTo (exec (.salu u w) s) fun t => OnlyStream u s t ∧
        (let x := BitVec.ofNat 64 (getReg w.fx (streamOf s u) w.x.toNat)
         let y := BitVec.ofNat 64 (getReg w.fy (streamOf s u) w.y.toNat)
         let v : BitVec 64 := match w.fn.toNat with
           | 0 => x + y | 1 => x - y | 2 => x * y | 3 => x &&& y | 4 => x ||| y | 5 => x ^^^ y
           | 6 => x <<< (y.toNat % 64) | 7 => x >>> (y.toNat % 64) | 8 => x + w.imm.signExtend 64 | 9 => x
           | 10 => if x ≤ y then x else y
           | _ => if x ≤ y then y else x
         streamOf t u = if w.fd then { (streamOf s u).next with a := tset 0 (streamOf s u).a w.d.toNat v }
           else { (streamOf s u).next with s := tset 0 (streamOf s u).s w.d.toNat v })) ∧
    (∀ (w : LdWord) (space a : Nat), ldPlace s (getCell s u.cell) w (getA (streamOf s u) w.base.toNat) false = .ok (space, a) →
      RunsTo (exec (.sld u w) s) fun t => OnlyStream u s t ∧
        (let v := BitVec.ofNat 64 (ofBytes (spaceRead (getCell s u.cell) space a 8))
         streamOf t u = if w.fd then { (streamOf s u).next with a := tset 0 (streamOf s u).a w.d.toNat v }
           else { (streamOf s u).next with s := tset 0 (streamOf s u).s w.d.toNat v }))

/-- For a stream that can issue: where the place of SST (ldPlace, the function that the meaning uses: the
reference's ADDR plus the signed offset) is in the scratchpad or the operand cache, SST waits while an earlier
MMA of its stream in the array still reads bytes that it would change, and else stores the 8 bytes of its
register there, least significant first; every byte of the scratchpad and the operand cache outside them reads
as before, the tile buffers are unchanged, the stream goes on to the next word and keeps its registers, and no
other cell and no other part of the module changes. (R153, R171, R173, 05_stream_programs.md) -/
def Obligations.StoreWritesEightBytes : Prop :=
  ∀ (s : State) (u : StreamAt) (w : LdWord) (space a : Nat), Issues s u →
    ldPlace s (getCell s u.cell) w (getA (streamOf s u) w.base.toNat) true = .ok (space, a) →
    let d := spaceWrite space a (toBytes 8 (getReg w.fd (streamOf s u) w.d.toNat)) (getCell s u.cell)
    (overtakes u (getCell s u.cell) d = true → RunsTo (exec (.sst u w) s) fun t => t = blockUnit u .arbiter s) ∧
    (overtakes u (getCell s u.cell) d = false → RunsTo (exec (.sst u w) s) fun t => OnlyCell u.cell s t ∧ streamOf t u = (streamOf s u).next ∧
      spaceRead (getCell t u.cell) space a 8 = toBytes 8 (getReg w.fd (streamOf s u) w.d.toNat) ∧
      (∀ b, (space = 0 → b < a ∨ a + 8 ≤ b) → mget (getCell t u.cell).scratch b = mget (getCell s u.cell).scratch b) ∧
      (∀ b, (space ≠ 0 → b < a ∨ a + 8 ≤ b) → mget (getCell t u.cell).opcache b = mget (getCell s u.cell).opcache b) ∧
      (getCell t u.cell).tiles = (getCell s u.cell).tiles)

/-- For every stream that can issue, whatever it holds, STOP ends its program: the stream no longer runs, waits
for nothing, has no loop and no call open, keeps its S and A registers and its tags, and holds no pin; no
memory of the module changes, no register of another cell's vector or matrix unit, and no plan, step or power
state. (R153, R128, R228, 05_stream_programs.md) -/
def Obligations.StopEndsTheProgram : Prop :=
  ∀ (s : State) (u : StreamAt), Issues s u →
    RunsTo (exec (.stop u) s) fun t => t = stopStream false u.cell u.stream.toNat (stepOn u s) ∧
      (streamOf t u).running = false ∧ (streamOf t u).wait = none ∧
      (streamOf t u).loops = [] ∧ (streamOf t u).calls = [] ∧ (streamOf t u).tags = (streamOf s u).tags ∧
      (streamOf t u).s = (streamOf s u).s ∧ (streamOf t u).a = (streamOf s u).a ∧
      (∀ p ∈ t.pmap.pins, p.who ≠ .stream u.cell u.stream.toNat) ∧
      t.hbm = s.hbm ∧ t.deep = s.deep ∧ t.plan = s.plan ∧ t.steps = s.steps ∧ t.pwr = s.pwr

/-- For a stream that can issue a SEMW of n, n not zero: where the semaphore reads at least n, n is subtracted and
the stream goes on; where it reads less, its value is unchanged and the stream joins the end of the
semaphore's queue and waits for that amount, under the cause of the peer, the stash request or the semaphore
that it waits for. Every other semaphore of the cell, every other cell and everything outside the cells is
unchanged. (R49, R155, R204, R260, R268, 05_stream_programs.md) -/
def Obligations.SemaphoreWaitTakesItsAmountOrBlocks : Prop :=
  ∀ (s : State) (u : StreamAt) (sem : BitVec 6) (n : BitVec 16), Issues s u → n ≠ 0 →
    RunsTo (exec (.semw u sem n) s) fun t => OnlyCell u.cell s t ∧
      (∀ q, q ≠ sem.toNat → tget 0 (getCell t u.cell).sems q = tget 0 (getCell s u.cell).sems q) ∧
      (n.toNat ≤ tget 0 (getCell s u.cell).sems sem.toNat →
        tget 0 (getCell t u.cell).sems sem.toNat = tget 0 (getCell s u.cell).sems sem.toNat - n.toNat ∧
        streamOf t u = (streamOf s u).next ∧ (getCell t u.cell).semQ = (getCell s u.cell).semQ) ∧
      (tget 0 (getCell s u.cell).sems sem.toNat < n.toNat →
        tget 0 (getCell t u.cell).sems sem.toNat = tget 0 (getCell s u.cell).sems sem.toNat ∧
        (streamOf t u).wait = some (.sem sem.toNat n.toNat) ∧ (streamOf t u).ip = (streamOf s u).ip ∧
        (streamOf t u).cause = semCause s u.cell sem.toNat ∧
        (getCell t u.cell).semQ = (getCell s u.cell).semQ ++ [u.stream.toNat])

/-- SEMS of n, n not zero, to the stream's own cell (0x3FF) or to a mapped logical cell completes with one signal
of n added to the signals on their way, its stream on the next word and nothing else changed. The arrival of
the oldest signal of a semaphore that no stream waits for and that the amount does not take above 65,535 adds
the amount to that semaphore and takes the signal off; every other semaphore of the cell and every other cell
is unchanged. In every other state the oldest signal on its way is taken off and added, saturating at 65,535,
and the streams that wait are served. (R49, R54, R155, 05_stream_programs.md) -/
def Obligations.SignalLeavesAndArrives : Prop :=
  (∀ (s : State) (u : StreamAt) (sem : BitVec 6) (cell : BitVec 10) (n : BitVec 16) (k : Nat), Issues s u → n ≠ 0 →
    (cell = 0x3FF ∧ k = u.cell ∨ cell.toNat < 768 ∧ physOf s cell.toNat = some k) →
    RunsTo (exec (.sems u sem cell n) s) fun t =>
      t = stepOn u { s with sigs := s.sigs ++ [⟨k, sem.toNat, n.toNat⟩] }) ∧
  (∀ (s : State) (cell sem amt : Nat) (before after : List Sig), cellOk cell = true → sem < 64 →
    s.sigs = before ++ ⟨cell, sem, amt⟩ :: after → (∀ g ∈ before, ¬(g.cell = cell ∧ g.sem = sem)) →
    (getCell s cell).semQ = [] → tget 0 (getCell s cell).sems sem + amt ≤ 65535 →
    RunsTo (exec (.semSignalArrive cell sem) s) fun t => t.sigs = before ++ after ∧
      tget 0 (getCell t cell).sems sem = tget 0 (getCell s cell).sems sem + amt ∧
      (∀ q, q ≠ sem → tget 0 (getCell t cell).sems q = tget 0 (getCell s cell).sems q) ∧
      (∀ k, k ≠ cell → getCell t k = getCell s k) ∧ t = { s with cells := t.cells, sigs := t.sigs }) ∧
  (∀ (s : State) (cell sem : Nat) (g : Sig), cellOk cell = true → sem < 64 →
    s.sigs.find? (fun g => g.cell == cell && g.sem == sem) = some g →
    RunsTo (exec (.semSignalArrive cell sem) s) fun t => t = semAdd cell sem g.amt { s with sigs := s.sigs.erase g })

/-- For an allocated ring that lies in no held scratchpad: RPUSH to a full ring blocks its stream in the ring's
queue at its place in the order of source cells and streams; otherwise its entry is put into the ring or on
its way, the stream goes on and the ring serves the streams that wait; the oldest entry on its way, when it
arrives, lands and the ring serves; RPOP of an empty ring blocks and otherwise writes the oldest entry at its
reference and goes on. In particular, for such a ring whose queues are empty, with no edit or recomputation of
the page map waiting, and for a host ring a doorbell that is disabled and writes no shadow and raises no
vector: RPUSH to a full ring blocks its stream in the ring's queue; otherwise the entry of the ring's size
goes to the ring, at once when the ring lies in the stream's own cell, else on its way holding one place; the
oldest entry on its way, when it arrives, becomes the ring's newest. RPOP of an empty ring blocks; otherwise
it advances the head by one. A stream that does not block goes on to the next word. (R51, R54, R156,
05_stream_programs.md) -/
def Obligations.PushAndPopMoveOneEntry : Prop :=
  (∀ (s : State) (u : StreamAt) (reg : BitVec 4) (ring : BitVec 18) (a : Nat), Issues s u →
    let r := ring.toNat
    let w := getA (streamOf s u) reg.toNat
    (getRing s r).alloc = true → ringHeld s r = none →
    (entryPlace s (getCell s u.cell) w (getRing s r).entry false = .ok a → RunsTo (exec (.rpush u reg ring) s) fun t =>
      ((getRing s r).full = true → t = modStream u.cell u.stream.toNat
        (fun q => { q with wait := some (.push r reg.toNat), cause := .ring })
        (modRing r (fun g => { g with pushQ := queueIn s (u.cell, u.stream.toNat) g.pushQ }) s)) ∧
      ((getRing s r).full = false → t = mapAfterPush r (ringServe r (stepOn u
        (pushEntry r u.cell u.stream.toNat (spaceRead (getCell s u.cell) (refSpace w) a (getRing s r).entry) s))))) ∧
    (entryPlace s (getCell s u.cell) w (getRing s r).entry true = .ok a → RunsTo (exec (.rpop u reg ring) s) fun t =>
      ((getRing s r).len = 0 → t = modStream u.cell u.stream.toNat
        (fun q => { q with wait := some (.pop r reg.toNat), cause := if isLandRing s r then .collective else .ring })
        (modRing r (fun g => { g with popQ := queueIn s (u.cell, u.stream.toNat) g.popQ }) s)) ∧
      ((getRing s r).len ≠ 0 → t = mapAfterPop r (ringServe r (stepOn u
        (modCell u.cell (spaceWrite (refSpace w) a (ringTake r s).1) (ringTake r s).2)))))) ∧
  (∀ (s : State) (r : Nat), r < 262144 →
    (s.pushes.find? (fun p => p.ring == r) = none → RunsTo (exec (.ringPushArrive r) s) fun t => t = s) ∧
    (∀ p, s.pushes.find? (fun p => p.ring == r) = some p → ringHeld s r = none → RunsTo (exec (.ringPushArrive r) s) fun t =>
      t = mapAfterPush r (ringServe r (ringLand r p.data
        (modRing r (fun g => { g with flying := g.flying - 1 }) { s with pushes := s.pushes.erase p }))))) ∧
  ∀ (s : State), s.pmap.edits = [] → s.pmap.pendWait = [] → ∀ r : Nat, ringHeld s r = none →
    ((getRing s r).kind = 3 → (getBell s (r - 245760)).enable = false ∧ (getBell s (r - 245760)).shadow = 0 ∧
      (getBell s (r - 245760)).irqEn = false) →
    (getRing s r).popQ = [] → (getRing s r).pushQ = [] →
    (∀ (u : StreamAt) (src : BitVec 4) (ring : BitVec 18) (a : Nat), r = ring.toNat → Issues s u → (getRing s r).alloc = true →
      entryPlace s (getCell s u.cell) (getA (streamOf s u) src.toNat) (getRing s r).entry false = .ok a →
      RunsTo (exec (.rpush u src ring) s) fun t =>
        ((getRing s r).full = true → (streamOf t u).wait = some (.push r src.toNat) ∧
          (streamOf t u).ip = (streamOf s u).ip ∧ (getRing t r).pushQ = [(u.cell, u.stream.toNat)]) ∧
        ((getRing s r).full = false → streamOf t u = (streamOf s u).next ∧
          ((getRing s r).kind = 0 ∧ physOf s (r / 256) = some u.cell → (getRing t r).tail = (getRing s r).tail + 1) ∧
          (¬((getRing s r).kind = 0 ∧ physOf s (r / 256) = some u.cell) →
            (getRing t r).flying = (getRing s r).flying + 1 ∧
            t.pushes = s.pushes ++ [⟨r, u.cell, u.stream.toNat,
              spaceRead (getCell s u.cell) (refSpace (getA (streamOf s u) src.toNat)) a (getRing s r).entry⟩]))) ∧
    (∀ (p : PushFlight) (rest : List PushFlight), r < 262144 → s.pushes = p :: rest → p.ring = r →
      RunsTo (exec (.ringPushArrive r) s) fun t => t.pushes = rest ∧
        (getRing t r).tail = (getRing s r).tail + 1 ∧ (getRing t r).flying = (getRing s r).flying - 1) ∧
    (∀ (u : StreamAt) (dst : BitVec 4) (ring : BitVec 18) (a : Nat), r = ring.toNat → Issues s u → (getRing s r).alloc = true →
      entryPlace s (getCell s u.cell) (getA (streamOf s u) dst.toNat) (getRing s r).entry true = .ok a →
      RunsTo (exec (.rpop u dst ring) s) fun t =>
        ((getRing s r).len = 0 → (streamOf t u).wait = some (.pop r dst.toNat) ∧
          (streamOf t u).ip = (streamOf s u).ip ∧ (getRing t r).popQ = [(u.cell, u.stream.toNat)]) ∧
        ((getRing s r).len ≠ 0 → streamOf t u = (streamOf s u).next ∧ (getRing t r).head = (getRing s r).head + 1))

/-- For a stream that can issue: NCINV leaves the near cache of its cell empty and changes nothing else of the
module but its stream's place; TAGW of a tag that is not busy frees it and goes on, and of a busy tag blocks
the stream until the transfer under the tag ends; with ALL, whatever its TAG, it frees every tag, goes on and
gives up the stream's pin when none is busy, and blocks otherwise. (R157, R158, R38, 05_stream_programs.md) -/
def Obligations.CellCacheAndTagOperationsComplete : Prop :=
  ∀ (s : State) (u : StreamAt), Issues s u →
    (RunsTo (exec (.ncinv u) s) fun t => OnlyCell u.cell s t ∧ streamOf t u = (streamOf s u).next ∧
      (getCell t u.cell).near = [] ∧
      getCell t u.cell = { getCell s u.cell with near := [], streams := (getCell t u.cell).streams }) ∧
    (∀ tag : BitVec 9, RunsTo (exec (.tagw u tag true) s) fun t =>
      (noneBusy (streamOf s u) = true → t = tagwAll u.cell u.stream.toNat s) ∧
      (noneBusy (streamOf s u) = false → OnlyStream u s t ∧ (streamOf t u).wait = some .allTags ∧
        (streamOf t u).ip = (streamOf s u).ip ∧ (streamOf t u).tags = (streamOf s u).tags)) ∧
    (∀ tag : BitVec 9, RunsTo (exec (.tagw u tag false) s) fun t => OnlyStream u s t ∧
      (tagOf (streamOf s u) tag.toNat ≠ .busy → tagOf (streamOf t u) tag.toNat = .free ∧
        (streamOf t u).ip = (streamOf s u).ip + 1 ∧ (streamOf t u).wait = none) ∧
      (tagOf (streamOf s u) tag.toNat = .busy → (streamOf t u).wait = some (.tag tag.toNat) ∧
        (streamOf t u).ip = (streamOf s u).ip ∧ (streamOf t u).tags = (streamOf s u).tags))

/-- For a stream that can issue an MMA, MMA.TA or MMA.TB whose word decodes: while its bank drains, or it takes
effect and an MMA is in the array, it waits and nothing but its wait changes; otherwise, with operands that
pass the checks, one that takes effect puts its bank and close flag in the array and its bank is filling, a
suppressed one, unless an MMA of its bank is in the array, takes no array and leaves its bank with close
closed, with a zero start alone filling and with neither as it was; the other bank, the registers and every
memory are unchanged, and the stream goes on. The end of the MMA frees the array and closes the bank where it
says so. A suppressed DRAIN only signals; one whose bank's drain path is held waits under ARBITER, and one
whose bank an MMA in the array fills under ACC; one that runs updates the status word that it names and puts
its bank in the state draining under its job; its end closes the bank and sends its signal. (R30, R31, R32,
R47, R78, R151, R162, R163, R171, R184, 02_cells.md) -/
def Obligations.MatrixInstructionsUseTheArrayAndTheBank : Prop :=
  (∀ (s : State) (u : StreamAt) (p : Pred) (w : MmaWord) (ta tb : Bool) (c : Instr), Issues s u →
    (c = .mma u p w ∧ ta = false ∧ tb = false ∨ c = .mmaTa u p w ∧ ta = true ∧ tb = false ∨
      c = .mmaTb u p w ∧ ta = false ∧ tb = true) →
    predOk p = true → mmaOk ta tb w = true →
    ((getBank (getCell s u.cell) w.bank).st = .draining ∨
        takesEffect (getCell s u.cell) p = true ∧ (getCell s u.cell).array.isSome →
      RunsTo (exec c s) fun t => OnlyStream u s t ∧ (streamOf t u).wait = some .unit ∧ (streamOf t u).ip = (streamOf s u).ip) ∧
    (∀ d : Cell, (getBank (getCell s u.cell) w.bank).st ≠ .draining →
      (takesEffect (getCell s u.cell) p = true → (getCell s u.cell).array = none) →
      (∀ close, (getCell s u.cell).array ≠ some (w.bank, close)) →
      mmaCell (opMode s (getCell s u.cell)) (takesEffect (getCell s u.cell) p) ta tb w (aReg s u w.aRef) (aReg s u w.bRef)
        (getCell s u.cell) = .ok d →
      RunsTo (exec c s) fun t => OnlyCell u.cell s t ∧ streamOf t u = (streamOf s u).next ∧
        (takesEffect (getCell s u.cell) p = true → (getCell t u.cell).array = some (w.bank, w.close) ∧
          (getBank (getCell t u.cell) w.bank).st = .filling) ∧
        (takesEffect (getCell s u.cell) p = false → (getCell t u.cell).array = (getCell s u.cell).array ∧
          (getCell t u.cell).reading = (getCell s u.cell).reading ∧
          (getBank (getCell t u.cell) w.bank).st = (if w.close then .closed
            else if w.zs then .filling else (getBank (getCell s u.cell) w.bank).st) ∧
          (w.zs = false → w.close = false → getBank (getCell t u.cell) w.bank = getBank (getCell s u.cell) w.bank)) ∧
        getCell t u.cell = { getCell s u.cell with
          streams := (getCell t u.cell).streams, array := (getCell t u.cell).array, reading := (getCell t u.cell).reading
          acc0 := if w.bank then (getCell s u.cell).acc0 else (getCell t u.cell).acc0
          acc1 := if w.bank then (getCell t u.cell).acc1 else (getCell s u.cell).acc1 })) ∧
  (∀ (s : State) (cell : Nat) (bank close : Bool), cellOk cell = true → (getCell s cell).array = some (bank, close) →
    RunsTo (exec (.mmaComplete cell) s) fun t => OnlyCell cell s t ∧ (getCell t cell).array = none ∧
      (close = true → (getBank (getCell s cell) bank).st = .filling → (getBank (getCell t cell) bank).st = .closed) ∧
      (close = false → (getBank (getCell t cell) bank) = getBank (getCell s cell) bank) ∧
      getBank (getCell t cell) (!bank) = getBank (getCell s cell) (!bank)) ∧
  (∀ (s : State) (u : StreamAt) (p : Pred) (w : DrainWord), Issues s u → predOk p = true → drainOk w = true →
    (takesEffect (getCell s u.cell) p = false → RunsTo (exec (.drain u p w) s) fun t =>
      t = stepOn u { s with sigs := s.sigs ++ if w.amt = 0 then [] else [⟨u.cell, w.sem.toNat, w.amt.toNat⟩] }) ∧
    (takesEffect (getCell s u.cell) p = true → (getDrain (getCell s u.cell) w.bank).isSome →
      RunsTo (exec (.drain u p w) s) fun t => t = blockUnit u .arbiter s) ∧
    (∀ close, takesEffect (getCell s u.cell) p = true → getDrain (getCell s u.cell) w.bank = none →
      (getCell s u.cell).array = some (w.bank, close) → RunsTo (exec (.drain u p w) s) fun t => t = blockUnit u .acc s) ∧
    (∀ x : Cell × Sts, takesEffect (getCell s u.cell) p = true → getDrain (getCell s u.cell) w.bank = none →
      (∀ close, (getCell s u.cell).array ≠ some (w.bank, close)) → checkSts w.stsEn (sReg s u w.sts) = .ok () →
      drainCell (opMode s (getCell s u.cell)) w (aReg s u w.dst) (aReg s u w.aux) (aReg s u w.mask) (sReg s u w.scale)
        (sReg s u w.diag) (getCell s u.cell) = .ok x →
      let d := setDrain w.bank (some ⟨u.stream.toNat, w.sem.toNat, w.amt.toNat⟩)
        (setBank w.bank { getBank x.1 w.bank with st := .draining } x.1)
      RunsTo (exec (.drain u p w) s) fun t =>
        (overtakes u (getCell s u.cell) d = true → t = blockUnit u .arbiter s) ∧
        (overtakes u (getCell s u.cell) d = false →
          t = stepOn u (updateSts u.cell w.stsEn (sReg s u w.sts) x.2 (modCell u.cell (fun _ => d) s)))) ∧
    (∀ x : Cell × Sts, takesEffect (getCell s u.cell) p = true → getDrain (getCell s u.cell) w.bank = none →
      (∀ close, (getCell s u.cell).array ≠ some (w.bank, close)) → w.stsEn = false →
      drainCell (opMode s (getCell s u.cell)) w (aReg s u w.dst) (aReg s u w.aux) (aReg s u w.mask) (sReg s u w.scale)
        (sReg s u w.diag) (getCell s u.cell) = .ok x → overtakes u (getCell s u.cell) x.1 = false →
      RunsTo (exec (.drain u p w) s) fun t => OnlyCell u.cell s t ∧ streamOf t u = (streamOf s u).next ∧
        (getBank (getCell t u.cell) w.bank).st = .draining ∧
        getDrain (getCell t u.cell) w.bank = some ⟨u.stream.toNat, w.sem.toNat, w.amt.toNat⟩ ∧
        ∀ space b, spaceByte (getCell t u.cell) space b = spaceByte x.1 space b)) ∧
  (∀ (s : State) (cell : Nat) (bank : Bool) (d : DrainJob), cellOk cell = true → getDrain (getCell s cell) bank = some d →
    RunsTo (exec (.drainComplete cell bank) s) fun t =>
      (getBank (getCell t cell) bank).st = .closed ∧ getDrain (getCell t cell) bank = none ∧
      t.sigs = (s.sigs ++ if d.amt = 0 then [] else [⟨cell, d.sem, d.amt⟩]) ∧
      t = { s with cells := t.cells, sigs := t.sigs }) ∧
  (∀ (s : State) (cell : Nat) (bank : Bool), cellOk cell = true →
    ((getCell s cell).array = none → RunsTo (exec (.mmaComplete cell) s) fun t => t = modCell cell id s) ∧
    (getDrain (getCell s cell) bank = none → RunsTo (exec (.drainComplete cell bank) s) fun t => t = s))

/-- When a DRAIN without ROWMAX answers a cell, that cell differs from the one before only in bytes of the
elements of the tile at its destination reference, row by row within the bank's extent, whole blocks with
their scale bytes for a block-scaled format, in FP32 when the destination is a tile buffer. With ROWMAX it
differs in addition only in the FP32 vector at the AUX reference. (R163, R146, R147, R72) -/
def Obligations.DrainStoresOnlyItsTile : Prop :=
  ∀ (op : Bool) (w : DrainWord) (dst aux maskRef mult delta : Nat) (c : Cell) (x : Cell × Sts) (rd : Ref),
    drainCell op w dst aux maskRef mult delta c = .ok x → decodeRef (drainFmt w dst) dst = .ok rd →
    let places := (rangeFrom 0 (getBank c w.bank).extM).flatMap fun r => rowPlaces r 0 (ceilDiv (getBank c w.bank).extN (max 1 (blockLen (drainFmt w dst))) * max 1 (blockLen (drainFmt w dst)))
    (w.rowmaxEn = false → KeepsOutside (InElems rd (drainFmt w dst) (getBank c w.bank).extN places) c x.1) ∧
    (∀ ra : Ref, w.rowmaxEn = true → decodeRef 0 aux = .ok ra →
      KeepsOutside (fun space b => InElems rd (drainFmt w dst) (getBank c w.bank).extN places space b ∨
        InElems ra 0 (getBank c w.bank).extM (rowPlaces 0 0 (getBank c w.bank).extM) space b) c x.1)

/-- For a stream that can issue a VBIN, VFMA, VSEL, VCVT, VBCAST or VUN whose word decodes: the instruction
completes; every vector register but the destination, every lane of it that takes no part, every mask
register, accumulator, memory and semaphore of the cell and every other cell are unchanged, and so is the rest
of the module; the stream goes on. VSEL takes each lane that takes part from VA where its mask bit is 1 and
from VB where it is 0. VBCAST of INT32 puts the low 32 bits of its S register in each. (R43, R150, R165,
05_stream_programs.md) -/
def Obligations.VectorInstructionsChangeOnlyRegisters : Prop :=
  ∀ (s : State) (u : StreamAt) (p : Pred), Issues s u → predOk p = true →
    let c := getCell s u.cell
    let done := fun (i : Instr) (vd : BitVec 5) => RunsTo (exec i s) fun t => OnlyCell u.cell s t ∧
      streamOf t u = (streamOf s u).next ∧
      getCell t u.cell = { c with streams := (getCell t u.cell).streams, v := (getCell t u.cell).v } ∧
      ∀ r lane, lane < 64 → (r ≠ vd.toNat ∨ laneOn c p lane = false) →
        tget 0#32 (getCell t u.cell).v (64 * r + lane) = tget 0#32 c.v (64 * r + lane)
    (∀ (vd va vb : BitVec 5) (ety : BitVec 2) (fn : BitVec 6), fn.toNat ≤ 9 → done (.vbin u p vd va vb ety fn) vd) ∧
    (∀ (vd va vb vc : BitVec 5) (ety : BitVec 2), done (.vfma u p vd va vb vc ety) vd) ∧
    (∀ (vd va : BitVec 5) (etyD etyA : BitVec 2) (half : Bool), (half = false ∨ is16 etyD.toNat ≠ is16 etyA.toNat) →
      done (.vcvt u p vd va etyD etyA half) vd) ∧
    (∀ (vd va : BitVec 5) (ety : BitVec 2) (fn : BitVec 6), fn.toNat ≤ 4 → ¬(ety = 3 ∧ (fn = 2 ∨ fn = 3)) →
      done (.vun u p vd va ety fn) vd) ∧
    (∀ (vd va vb : BitVec 5) (ma : BitVec 3), done (.vsel u p vd va vb ma) vd ∧
      RunsTo (exec (.vsel u p vd va vb ma) s) fun t => ∀ lane, lane < 64 → laneOn c p lane = true →
        vget (getCell t u.cell) vd.toNat 0 lane =
          if (tget 0#64 c.m ma.toNat).getLsbD lane then vget c va.toNat 0 lane else vget c vb.toNat 0 lane) ∧
    (∀ (vd : BitVec 5) (sreg : BitVec 4) (ety : BitVec 2), done (.vbcast u p vd sreg ety) vd ∧
      (ety = 3 → RunsTo (exec (.vbcast u p vd sreg ety) s) fun t => ∀ lane, lane < 64 → laneOn c p lane = true →
        vget (getCell t u.cell) vd.toNat 3 lane = sReg s u sreg % 2 ^ 32))

/-- For a stream that can issue: VCMP writes its mask register: each bit whose lane takes part is the comparison
and every other bit is 0; VMSK AND, OR, XOR, ANDN and NOT write the lanes of their mask register that take
part and keep the others, as every function of it does, LD and ST with the 8 bytes at their reference; VXS
copies its lane, where it takes part, to its S register. Nothing else of the cell but the stream's place
changes, and nothing else of the module. (R43, R165, 05_stream_programs.md) -/
def Obligations.MaskInstructionsChangeOneMask : Prop :=
  ∀ (s : State) (u : StreamAt) (p : Pred), Issues s u → predOk p = true →
    let c := getCell s u.cell
    (∀ (va vb : BitVec 5) (md : BitVec 3) (half : Bool) (ety : BitVec 2) (fn : BitVec 6), fn.toNat ≤ 6 →
      (half = false ∨ is16 ety.toNat = true) →
      RunsTo (exec (.vcmp u p va vb md half ety fn) s) fun t => OnlyCell u.cell s t ∧ streamOf t u = (streamOf s u).next ∧
        getCell t u.cell = { c with streams := (getCell t u.cell).streams, m := (getCell t u.cell).m } ∧
        (∀ q, q ≠ md.toNat → tget 0#64 (getCell t u.cell).m q = tget 0#64 c.m q) ∧
        ∀ lane, lane < 64 → (tget 0#64 (getCell t u.cell).m md.toNat).getLsbD lane =
          (laneOn c p lane && cmpOp ety.toNat fn.toNat
            (vget c va.toNat ety.toNat (if is16 ety.toNat then 2 * lane + bit01 half else lane))
            (vget c vb.toNat ety.toNat (if is16 ety.toNat then 2 * lane + bit01 half else lane)))) ∧
    (∀ (md ma mb : BitVec 3) (fn : BitVec 6) (reg : BitVec 4), fn.toNat ≤ 4 →
      RunsTo (exec (.vmsk u p md ma mb fn reg) s) fun t => OnlyCell u.cell s t ∧ streamOf t u = (streamOf s u).next ∧
        getCell t u.cell = { c with streams := (getCell t u.cell).streams, m := (getCell t u.cell).m } ∧
        (∀ q, q ≠ md.toNat → tget 0#64 (getCell t u.cell).m q = tget 0#64 c.m q) ∧
        ∀ lane, lane < 64 → (tget 0#64 (getCell t u.cell).m md.toNat).getLsbD lane =
          let a := (tget 0#64 c.m ma.toNat).getLsbD lane
          let b := (tget 0#64 c.m mb.toNat).getLsbD lane
          if laneOn c p lane then
            match fn.toNat with
            | 0 => a && b
            | 1 => a || b
            | 2 => a ^^ b
            | 3 => a && !b
            | _ => !a
          else (tget 0#64 c.m md.toNat).getLsbD lane) ∧
    (∀ (md ma mb : BitVec 3) (reg : BitVec 4) (ld : Bool) (d : Cell),
      vmskMem s u p md.toNat ma.toNat ld (aReg s u reg) = .ok d → overtakes u c d = false →
      RunsTo (exec (.vmsk u p md ma mb (if ld then 6 else 7) reg) s) fun t => t = stepOn u (modCell u.cell (fun _ => d) s)) ∧
    (∀ (md ma mb : BitVec 3) (fn : BitVec 6) (reg : BitVec 4), fn.toNat ≤ 9 → fn ≠ 6 → fn ≠ 7 →
      RunsTo (exec (.vmsk u p md ma mb fn reg) s) fun t =>
        t = stepOn u (modCell u.cell (fun c => setM md.toNat (mergeMask (predMask c p)
          (maskFn fn.toNat (tget 0#64 c.m ma.toNat) (tget 0#64 c.m mb.toNat) (sReg s u reg % 2 ^ 32))
          (tget 0#64 c.m md.toNat)) c) s)) ∧
    (∀ (va : BitVec 5) (sreg : BitVec 4) (lane : BitVec 6),
      RunsTo (exec (.vxs u p va sreg lane) s) fun t => OnlyStream u s t ∧
        streamOf t u = if laneOn c p lane.toNat then
            { (streamOf s u).next with s := tset 0 (streamOf s u).s sreg.toNat (BitVec.ofNat 64 (vget c va.toNat 0 lane.toNat)) }
          else (streamOf s u).next)

/-- For a stream that can issue a VLD or VST whose word decodes: with no lane taking part both only go on to the
next word. A VLD whose places pass the checks changes its vector register in the lanes that take part and no
memory. A VST without a status word whose places pass the checks changes only bytes of the elements of the
lanes that take part, at the addresses its reference gives (whole blocks with their scales for a block-scaled
format), and no register; with a status word the word is updated in addition, whose bound mark may be set for
a reduction that no register tells of (the model's free value: notes/assumptions/177.md). (R43, R78, R85,
R146, R165, R166, R171, 05_stream_programs.md) -/
def Obligations.VectorLoadsAndStoresTouchTheirLanes : Prop :=
  ∀ (s : State) (u : StreamAt) (p : Pred) (w : VmemWord), Issues s u → predOk p = true →
    (w.orient = true → is16 w.ety.toNat = false) → w.fmt ≠ 0xF →
    let c := getCell s u.cell
    (predMask c p = 0#64 → RunsTo (exec (.vld u p w) s) fun t => t = stepOn u s) ∧
    (predMask c p = 0#64 → RunsTo (exec (.vst u p w) s) fun t => t = stepOn u s) ∧
    (∀ d, vldCell (opMode s c) p w (aReg s u w.ref) (sReg s u w.idx) c = .ok d →
      RunsTo (exec (.vld u p w) s) fun t => OnlyCell u.cell s t ∧ streamOf t u = (streamOf s u).next ∧
        getCell t u.cell = { c with streams := (getCell t u.cell).streams, v := (getCell t u.cell).v } ∧
        ∀ r lane, lane < 64 → (r ≠ w.v.toNat ∨ laneOn c p lane = false) →
          tget 0#32 (getCell t u.cell).v (64 * r + lane) = tget 0#32 c.v (64 * r + lane)) ∧
    (∀ (x : Cell × Sts) (r : Ref), w.stsEn = false → decodeRef w.fmt.toNat (aReg s u w.ref) = .ok r →
      vstCell (opMode s c) p w (aReg s u w.ref) (sReg s u w.idx) c = .ok x → overtakes u c x.1 = false →
      RunsTo (exec (.vst u p w) s) fun t => OnlyCell u.cell s t ∧ streamOf t u = (streamOf s u).next ∧
        getCell t u.cell = { x.1 with streams := (getCell t u.cell).streams } ∧
        KeepsOutside (InElems r w.fmt.toNat 128
          (writePlaces w.fmt.toNat ((livePlaces c p w (sReg s u w.idx)).map fun e => (e.2.1, e.2.2, Num.inf true)))) c x.1) ∧
    (∀ x : Cell × Sts, w.stsEn = true → takesEffect c p = true → checkSts true (sReg s u w.sts) = .ok () →
      vstCell (opMode s c) p w (aReg s u w.ref) (sReg s u w.idx) c = .ok x → overtakes u c x.1 = false →
      RunsTo (exec (.vst u p w) s) fun t => ∃ b : Bool, t = stepOn u (updateSts u.cell true (sReg s u w.sts)
        { x.2 with bound := x.2.bound || b } (modCell u.cell (fun _ => x.1) { s with free := s.free + 1 })))

/-- A SOP ELEM, CVT or FILL that answers a cell changed only bytes of the n elements at its destination reference;
RED only the one result or the 8-byte pair, TOPK only the k pairs, SCAN and SEGSCAN only the n outputs, each
in addition only the output mask where OUTMASK is set; TAB only the n outputs and the row sums where ROWSUM is
set. No register, accumulator or semaphore of the cell changes. (R93, R94, R95, R97, R167, R168, R146) -/
def Obligations.StreamUnitStoresOnlyItsDestinations : Prop :=
  ∀ (op : Bool) (w : SopWord) (a : VecArgs) (c : Cell) (x : Cell × Sts) (rd : Ref),
    let whole := fun (code : Nat) => rowPlaces 0 0 (ceilDiv a.n (max 1 (blockLen code)) * max 1 (blockLen code))
    let out := fun (space b : Nat) => w.outmask = true ∧ ∃ ro, decodeRef 0xC a.d2 = .ok ro ∧ space = ro.space ∧
      ro.a ≤ b ∧ b < ro.a + (a.n + 7) / 8
    (decodeRef w.fmtD.toNat a.d = .ok rd →
      (sopElemCell op w a c = .ok x ∨ sopCvtCell op w a c = .ok x ∨ sopFillCell op w a c = .ok x →
        KeepsOutside (InElems rd w.fmtD.toNat a.n (whole w.fmtD.toNat)) c x.1) ∧
      (∀ seg, sopScanCell op seg w a c = .ok x →
        KeepsOutside (fun sp b => InElems rd w.fmtD.toNat a.n (whole w.fmtD.toNat) sp b ∨ out sp b) c x.1) ∧
      (w.fn.toNat ≤ 1 → sopRedCell op w a c = .ok x →
        KeepsOutside (InElems rd w.fmtD.toNat 1 (rowPlaces 0 0 (max 1 (blockLen w.fmtD.toNat)))) c x.1)) ∧
    (decodeRef 0 a.d = .ok rd →
      (2 ≤ w.fn.toNat → sopRedCell op w a c = .ok x →
        KeepsOutside (fun sp b => sp = rd.space ∧ rd.a ≤ b ∧ b < rd.a + 8) c x.1) ∧
      (sopTopkCell op w a c = .ok x →
        KeepsOutside (fun sp b => (sp = rd.space ∧ rd.a ≤ b ∧ b < rd.a + 8 * (w.aux.toNat + 1)) ∨ out sp b) c x.1)) ∧
    (∀ tw : TabWord, decodeRef tw.fmtD.toNat a.d = .ok rd → tabCell op tw a c = .ok x →
      KeepsOutside (fun sp b => InElems rd tw.fmtD.toNat a.n (whole tw.fmtD.toNat) sp b ∨
        tw.rowsumEn = true ∧ ∃ rs, decodeRef 0 a.rowsum = .ok rs ∧
          InElems rs 0 (ceilDiv a.n (2 ^ tw.rowlen.toNat)) (rowPlaces 0 0 (ceilDiv a.n (2 ^ tw.rowlen.toNat))) sp b) c x.1)

/-- For a stream that can issue a SOP or TAB whose word decodes: a suppressed one only goes on to the next word;
one whose operands pass the checks and that names no status word leaves its cell as its operation gives it and
goes on; with a status word the word is updated in addition, for ELEM with a bound mark that may be set for a
reduction that no register tells of (the model's free value: notes/assumptions/177.md). One that would
overwrite bytes that an earlier MMA of its stream in the array still reads waits. (R78, R85, R150, R167, R168,
R171, 05_stream_programs.md) -/
def Obligations.StreamUnitInstructionsComplete : Prop :=
  ∀ (s : State) (u : StreamAt) (p : Pred), Issues s u → predOk p = true →
    let c := getCell s u.cell
    let done := fun (i : Instr) (en : Bool) (sts : BitVec 4) (long : Bool) (r : Except RtFault (Cell × Sts)) =>
      (takesEffect c p = false → RunsTo (exec i s) fun t => t = stepOn u s) ∧
      (∀ x, takesEffect c p = true → checkSts en (sReg s u sts) = .ok () → r = .ok x →
        (overtakes u c x.1 = true → long = false → RunsTo (exec i s) fun t => t = blockUnit u .arbiter s) ∧
        (overtakes u c x.1 = false → RunsTo (exec i s) fun t => ∃ b : Bool, (long = false → b = false) ∧
          t = stepOn u (updateSts u.cell en (sReg s u sts) { x.2 with bound := x.2.bound || b }
            (modCell u.cell (fun _ => x.1) (if long then { s with free := s.free + 1 } else s)))))
    (∀ w : SopWord, w.fmtX ≠ 0xF → w.fmtD ≠ 0xF → (w.outmask = true → w.dRef ≠ 15) →
      (w.fn.toNat ≤ 8 → (w.fn = 6 ∨ w.fn = 7 → w.xRef ≠ 15 ∧ w.aux.toNat ≤ 7) → done (.sopElem u p w) w.stsEn w.sts w.stsEn (sopElemCell (opMode s c) w (sopArgs s u w) c)) ∧
      (w.fn.toNat ≤ 3 → done (.sopRed u p w) w.stsEn w.sts false (sopRedCell (opMode s c) w (sopArgs s u w) c)) ∧
      (w.fn.toNat ≤ 2 → done (.sopScan u p w) w.stsEn w.sts false (sopScanCell (opMode s c) false w (sopArgs s u w) c)) ∧
      (w.fn.toNat ≤ 2 → done (.sopSegscan u p w) w.stsEn w.sts false (sopScanCell (opMode s c) true w (sopArgs s u w) c)) ∧
      (w.fn = 0 → done (.sopTopk u p w) w.stsEn w.sts false (sopTopkCell (opMode s c) w (sopArgs s u w) c)) ∧
      (w.fn = 0 ∧ blockLen w.fmtD.toNat = 0 ∨ w.fn = 1 ∧ blockLen w.fmtD.toNat ≠ 0 →
        done (.sopCvt u p w) w.stsEn w.sts false (sopCvtCell (opMode s c) w (sopArgs s u w) c)) ∧
      (w.fn = 0 → w.n ≠ 15 → done (.sopFill u p w) w.stsEn w.sts false (sopFillCell (opMode s c) w (sopArgs s u w) c))) ∧
    (∀ w : TabWord, w.mode ≠ 3 → w.fmtX ≠ 0xF → w.fmtD.toNat ≤ 4 →
      done (.tab u p w) w.stsEn w.sts false (tabCell (opMode s c) w
        { n := sReg s u w.n % 2 ^ 32, d := aReg s u w.dRef, x := aReg s u w.xRef, y := aReg s u w.yRef
          mask := aReg s u w.mask, rowsum := aReg s u w.rowsumRef } c))

/-- For a stream that can issue a WALK whose tag can be taken: a suppressed WALK signals its semaphore and ends
its tag at once; one that takes effect with keys inside the map and places that pass the checks takes a pin,
starts under its tag, its stream goes on and its entries are served in order. Where the near cache holds none
of its entries and each is INVALID, RESIDENT or EVICTED, its tag is busy and its stream's pin held, no other
cell changes, and HBM, the deep tier and so the map with its scores are unchanged. (R169, R217, R221, R228,
07_page_map.md) -/
def Obligations.WalksReadEntriesAndChangeNone : Prop :=
  ∀ (s : State) (u : StreamAt) (p : Pred) (w : WalkWord), Issues s u → predOk p = true → w.list ≠ 15 →
    canTake (getCell s u.cell) u.stream.toNat w.tag.toNat = true →
    (takesEffect (getCell s u.cell) p = false → RunsTo (exec (.walk u p w) s) fun t =>
      t = suppressTag u w.tag.toNat w.auto w.sem.toNat w.amt.toNat [u.cell] s) ∧
    (∀ (r m : Ref), takesEffect (getCell s u.cell) p = true →
      let key := sReg s u w.key % 2 ^ 24
      let n := sReg s u w.n % 2 ^ 32
      key + n ≤ s.pmap.entries →
      decodeRef 0 (aReg s u w.list) = .ok r → decodeRef 0 (aNext s u w.list) = .ok m →
      checkSpace (opMode s (getCell s u.cell)) (getCell s u.cell) r.space r.a (8 * n) true = .ok () →
      checkSpace (opMode s (getCell s u.cell)) (getCell s u.cell) m.space m.a (ceilDiv n 8) true = .ok () →
      (RunsTo (exec (.walk u p w) s) fun t =>
        t = serveWalk { cell := u.cell, stream := u.stream.toNat, tag := w.tag.toNat, list := aReg s u w.list
                        mask := aNext s u w.list, key := key, n := n, i := 0, ip := (streamOf s u).ip } (n + 1)
          (stepOn u (startTransfer u.cell { stream := u.stream.toNat, tag := w.tag.toNat, auto := w.auto
                                            sem := w.sem.toNat, amt := w.amt.toNat, walk := true, cells := [u.cell], cause := .map }
            (takePin (.stream u.cell u.stream.toNat) s)))) ∧
      ((∀ i, i < n → peState (pentry s (key + i)) ∈ [0, 1, 3] ∧
        (getCell s u.cell).near.find? (fun l => l.line == nearNo 0 (s.pmap.base + 16 * (key + i))) = none) →
      RunsTo (exec (.walk u p w) s) fun t =>
        tagOf (streamOf t u) w.tag.toNat = .busy ∧ (streamOf t u).ip = (streamOf s u).ip + 1 ∧ (streamOf t u).wait = none ∧
        (∃ q ∈ t.pmap.pins, q.who = .stream u.cell u.stream.toNat) ∧
        (∀ k, k ≠ u.cell → getCell t k = getCell s k) ∧ t = { s with cells := t.cells, pmap := t.pmap } ∧
        (∀ key, pentry t key = pentry s key)))

/-- An edit of a key of the map that takes effect, for SET with a value that can be written, blocks its stream and
arrives at the epoch keeper behind the edits that wait. With no edit, walk, recomputation or fence of the map
waiting and for a key of the map whose entry names no frame of this module and lies before the tables of a map
configuration: PMAP.SET of such a value writes the value, with TIER 0 and FRAME 0 unless it is RESIDENT or
COPYING and with GEN one more than it was, and PMAP.FREE leaves the entry INVALID in TIER 0 with its GEN one
more; both write the previous GEN to RES, the stream goes on, and every byte of HBM outside the 16 bytes of
the entry and before those tables and every byte of the deep tier is unchanged. PMAP.COW of a resident
copy-on-write entry whose frame only it names clears COW and SHARED. A suppressed edit only goes on. (R222,
R223, R224, R225, 07_page_map.md) -/
def Obligations.MapEditsRewriteTheirEntry : Prop :=
  ∀ (s : State) (u : StreamAt) (p : Pred) (res key : BitVec 4), Issues s u → predOk p = true →
    (∀ val, val.toNat % 2 = 0 → takesEffect (getCell s u.cell) p = false →
      ∀ x ∈ [Instr.pmapSet u p res key val, .pmapCow u p res key, .pmapFree u p res key],
      RunsTo (exec x s) fun t => t = stepOn u s) ∧
    (takesEffect (getCell s u.cell) p = true → sReg s u key % 2 ^ 24 < s.pmap.entries →
      let sent := fun (op : EditOp) => arriveEdit
        { key := sReg s u key % 2 ^ 24, op := op, by_ := .stream u.cell u.stream.toNat res.toNat }
        (modStream u.cell u.stream.toNat (fun q => { q with wait := some (.edit res.toNat), cause := .map }) s)
      (∀ val : BitVec 4, val.toNat % 2 = 0 →
        let v := sReg s u val + getS (streamOf s u) (val.toNat + 1) * 2 ^ 64
        setOk v = true → RunsTo (exec (.pmapSet u p res key val) s) fun t => t = sent (.set v)) ∧
      (RunsTo (exec (.pmapCow u p res key) s) fun t => t = sent .cow) ∧
      RunsTo (exec (.pmapFree u p res key) s) fun t => t = sent .free) ∧
    (takesEffect (getCell s u.cell) p = true → s.pmap.edits = [] → s.pmap.walks = [] → s.pmap.pendWait = [] →
      s.pmap.fenceStreams = [] → s.pmap.pend = [] → s.circ.chans = [] →
      (∀ r, mapCfg s = some r → s.pmap.base + 16 * s.pmap.entries ≤ r.base + 64) →
      let k := sReg s u key % 2 ^ 24
      let old := pentry s k
      let answered := fun (new : Nat) (t : State) => pentry t k = new ∧
        streamOf t u = { (streamOf s u).next with
          s := tset 0 (streamOf s u).s res.toNat (BitVec.ofNat 64 (peGen old)), cause := (streamOf t u).cause } ∧
        (∀ b, b < s.pmap.base + 16 * k ∨ s.pmap.base + 16 * k + 16 ≤ b →
          (∀ r, mapCfg s = some r → b < r.base + 64) → mget t.hbm b = mget s.hbm b) ∧ t.deep = s.deep
      k < s.pmap.entries → peState old ≠ 4 →
      (∀ val : BitVec 4, val.toNat % 2 = 0 →
        let v := sReg s u val + getS (streamOf s u) (val.toNat + 1) * 2 ^ 64
        setOk v = true → peNames v = none → peNames old = none → (logs s old v = true → logFull s = false) →
        RunsTo (exec (.pmapSet u p res key val) s) (answered (putField (peClean v) 127 96 (peGen old + 1)))) ∧
      (peNames old = none → RunsTo (exec (.pmapFree u p res key) s) fun t =>
        peState (pentry t k) = 0 ∧ peTier (pentry t k) = 0 ∧ peGen (pentry t k) = (peGen old + 1) % 2 ^ 32 ∧
        answered (pentry t k) t) ∧
      (∀ f, peState old = 1 → bitAt old 25 = true → peNames old = some f → frameCount s f = 1 →
        RunsTo (exec (.pmapCow u p res key) s)
          (answered (putField (putField (putField old 25 25 0) 27 27 0) 127 96 (peGen old + 1)))))

/-- PMAP.FENCE goes on when every earlier edit and pin has ended and blocks otherwise. A near-cache fill puts the
line with the bytes that HBM or the deep tier holds in front of its cell's cache, where it replaces the line
it held and then counts a correctable error (a parity error invalidated it). The epoch advances by one when no
pin is older than it and stays otherwise. A pin that holds frames in limbo past the time-out raises its event
once; an edit that waits for a frame too long raises its event and fails the step, or in GENERATE ends its
user's request. A copy that has landed leaves the list of copies. A relocation waits for two advances of the
epoch. (R229, R230, R231, R234, R239, R37, R39, R224, 07_page_map.md) -/
def Obligations.MapHousekeepingCompletes : Prop :=
  (∀ (s : State) (u : StreamAt), Issues s u →
    (fenceDone s (fenceSnap s) = true → RunsTo (exec (.pmapFence u) s) fun t => t = stepOn u s) ∧
    (fenceDone s (fenceSnap s) = false → RunsTo (exec (.pmapFence u) s) fun t =>
      (streamOf t u).wait = some .fence ∧ (streamOf t u).ip = (streamOf s u).ip ∧
      t.pmap.fenceStreams = s.pmap.fenceStreams ++ [(u.cell, u.stream.toNat, fenceSnap s)])) ∧
  (∀ (s : State) (cell line : Nat), cellOk cell = true →
    let tier := line / 2 ^ 41
    let off := 128 * (line % 2 ^ 41)
    tier ≤ 1 → (if tier = 0 then hbmOk off 128 else deepOk off 128) = true →
    (opMode s (getCell s cell) = true → RunsTo (exec (.nearCacheFill cell line) s) fun t => t = s) ∧
    (opMode s (getCell s cell) = false → RunsTo (exec (.nearCacheFill cell line) s) fun t => ∃ a : State, OnlyCell cell s a ∧
      (getCell a cell).near.head? = some ⟨line, readTier s tier off 128⟩ ∧
      ((getCell a cell).near.filter fun l => l.line == line).length = 1 ∧
      getCell a cell = { getCell s cell with near := (getCell a cell).near } ∧
      ((∀ l ∈ (getCell s cell).near, l.line ≠ line) → t = a) ∧
      (∀ l ∈ (getCell s cell).near, l.line = line → t = countCE (nearSite cell) 0 a))) ∧
  (∀ s : State, ((∃ p ∈ s.pmap.pins, p.epoch < s.pmap.epoch) → RunsTo (exec .epochExamine s) fun t => t = s) ∧
    ((∀ p ∈ s.pmap.pins, s.pmap.epoch ≤ p.epoch) → RunsTo (exec .epochExamine s) fun t =>
      t = pumpMap (leaveLimbo { s with pmap := { s.pmap with epoch := s.pmap.epoch + 1, reclaimRaised := false } }))) ∧
  (∀ (s : State) (p : Pin) (rest : List Pin), s.pmap.pins = p :: rest → s.pmap.limbo ≠ [] → s.pmap.reclaimRaised = false →
    p.epoch < s.pmap.epoch → RunsTo (exec .mapReclaimExpire s) fun t =>
      t = raise (mapSrc s) 0x0304 [(18, 2, pinSource s p.who), (24, 8, p.epoch)]
        { s with pmap := { s.pmap with reclaimRaised := true } }) ∧
  (∀ s : State, (∀ e ∈ s.pmap.edits, editTier s e = none) → RunsTo (exec .allocationCanaryExpire s) fun t => t = s) ∧
  (∀ (s : State) (e : Edit) (tier : Nat), s.pmap.edits.find? (fun e => (editTier s e).isSome) = some e → editTier s e = some tier →
    RunsTo (exec .allocationCanaryExpire s) fun t => ∃ s', s' = raise (mapSrc s) 0x0401 [(20, 4, e.key), (24, 1, tier)] s ∧
      (workload s' ≠ 2 → t = sendFail cCanaryTimeout (mapSrc s') s') ∧
      (workload s' = 2 → t = pumpMap (endUser (e.key / 2 ^ slotShift s') cBudget s'))) ∧
  (∀ (s : State) (key : Nat),
    (s.pmap.cows.find? (fun c => c.key == key) = none → RunsTo (exec (.cowCopyComplete key) s) fun t => t = s) ∧
    (∀ c, s.pmap.cows.find? (fun c => c.key == key) = some c →
      (xfersLeft s (.cow key) = 0 → RunsTo (exec (.cowCopyComplete key) s) fun t => t = cowDone c s) ∧
      (xfersLeft s (.cow key) ≠ 0 → RunsTo (exec (.cowCopyComplete key) s) fun t => t = s))) ∧
  (∀ (s : State) (r : Reloc), s.pmap.relocs.find? (fun x => x.key == r.key) = some r →
    (r.epoch + 2 ≤ s.pmap.epoch → RunsTo (exec (.compactRelocate r.key) s) fun t => t = endReloc r s) ∧
    (s.pmap.epoch < r.epoch + 2 → RunsTo (exec (.compactRelocate r.key) s) fun t => t = s))

/-- For each of MOVE, MOVE2 and MOVEL on a stream that can issue: without a free tag, or while a request of its
cell waits for its quota at a controller that it needs, it blocks and changes nothing but its stream;
suppressed, or with no row or no byte, it only signals, on other modules too, and completes its tag; where
every row passes its checks it starts: local bytes are read, its tag is busy, remote parts leave and the
stream goes on; where every row passes its checks and lies in HBM or the deep tier of this module, it reads
each row, records the rows of bytes with their destinations as a transfer of its cell, marks its tag busy and
goes on; no byte of HBM or of the deep tier changes and no other cell. (R52, R53, R64, R151, R158, R159, R160,
R161, R334, 05_stream_programs.md) -/
def Obligations.TransfersStartUnderTheirTag : Prop :=
  ∀ (s : State) (u : StreamAt) (p : Pred) (w : MoveWord), Issues s u → predOk p = true → w.shape.toNat % 2 = 0 →
    ∀ x ∈ [(Instr.move u p w, false, false), (Instr.move2 u p w, true, false), (Instr.movel u p w, false, true)],
    let c := getCell s u.cell
    let m := moveArgs s u w x.2.1
    (x.2.1 = false → w.dst2 = 0) →
    let n := w.tag.toNat
    ((canTake c u.stream.toNat n = false ∨ quotaHeld s u m = true) → RunsTo (exec x.1 s) fun t => OnlyStream u s t ∧
      streamOf t u = { streamOf s u with wait := some .unit, cause := moveCause s u m x.2.2 }) ∧
    (canTake c u.stream.toNat n = true → quotaHeld s u m = false →
      ((takesEffect c p = false ∨ m.rows = 0 ∨ m.len = 0) → RunsTo (exec x.1 s) fun t =>
        t = suppressTag u n w.auto w.sem.toNat w.amt.toNat (moveCells s u.cell m) (bareSignals u w m s)) ∧
      (takesEffect c p = true → m.rows ≠ 0 → m.len ≠ 0 → ∀ rows, moveRows s u m x.2.2 = .ok rows →
        RunsTo (exec x.1 s) fun t => t = moveStart u w m x.2.2 rows s)) ∧
    (canTake c u.stream.toNat n = true → quotaHeld s u m = false → (takesEffect c p = false ∨ m.rows = 0 ∨ m.len = 0) →
      (∀ d ∈ m.dsts, isRemote s (gaddr d).mod = false) → RunsTo (exec x.1 s) fun t =>
        t = suppressTag u n w.auto w.sem.toNat w.amt.toNat (moveCells s u.cell m) s) ∧
    (canTake c u.stream.toNat n = true → quotaHeld s u m = false → takesEffect c p = true → m.rows ≠ 0 → m.len ≠ 0 →
      ∀ rows, moveRows s u m x.2.2 = .ok rows →
      (∀ r ∈ rows, ∀ a ∈ r.1 :: r.2, isLocal s (gaddr a).mod = true ∧ (gaddr a).tier ≤ 1) →
      RunsTo (exec x.1 s) fun t => t.hbm = s.hbm ∧ t.deep = s.deep ∧ OnlyCell u.cell s t ∧
        tagOf (streamOf t u) n = .busy ∧
        streamOf t u = { (streamOf s u).next with tags := (streamOf t u).tags } ∧
        (getCell t u.cell).xfers = c.xfers ++ [{
          stream := u.stream.toNat, tag := n, auto := w.auto, sem := w.sem.toNat, amt := w.amt.toNat
          pieces := rows.flatMap fun r => r.2.map fun d => (d, readLocal s (gaddr r.1) m.len)
          cells := moveCells s u.cell m, ip := (streamOf s u).ip, cause := moveCause s u m x.2.2 }])

/-- A transfer of a cell that can land, a walk that has served every entry among them, completes: its pieces are
written in order at their places, memory, scratchpad or register, and it ends. Where its pieces are for HBM
and the deep tier, every byte of those two outside the pieces reads as before, a single piece reads back as
its bytes, its tag is done (free with AUTO) unless its stream waits in TAGW, and one signal of its amount
leaves for each of its cells. A transfer whose remote parts have not ended, and a tag with no transfer, change
nothing. (R52, R158, 05_stream_programs.md) -/
def Obligations.TransferCompletionWritesItsBytes : Prop :=
  (∀ (s : State) (k i n : Nat), cellOk k = true → i < 64 → n < 512 →
    ((getCell s k).xfers.find? (fun x => x.stream == i && x.tag == n)) = none →
    RunsTo (exec (.transferComplete k i n) s) fun t => t = s) ∧
  (∀ (s : State) (k i n : Nat) (x : Transfer), cellOk k = true → i < 64 → n < 512 →
    (getCell s k).xfers.find? (fun x => x.stream == i && x.tag == n) = some x →
    (transferDue s k x = false → RunsTo (exec (.transferComplete k i n) s) fun t => t = s) ∧
    (transferDue s k x = true → RunsTo (exec (.transferComplete k i n) s) fun t =>
      t = endTransfer k x (x.pieces.foldl (fun s p => endWrite k p s) s)) ∧
    (transferDue s k x = true → (∀ p ∈ x.pieces, (gaddr p.1).tier ≤ 1) →
      RunsTo (exec (.transferComplete k i n) s) fun t =>
        (∀ b, (∀ p ∈ x.pieces, (gaddr p.1).tier = 0 → b < (gaddr p.1).off ∨ (gaddr p.1).off + p.2.length ≤ b) →
          mget t.hbm b = mget s.hbm b) ∧
        (∀ b, (∀ p ∈ x.pieces, (gaddr p.1).tier = 1 → b < (gaddr p.1).off ∨ (gaddr p.1).off + p.2.length ≤ b) →
          mget t.deep b = mget s.deep b) ∧
        (∀ p, x.pieces = [p] → ∀ (j : Nat) (h : j < p.2.length),
          mget (if (gaddr p.1).tier = 0 then t.hbm else t.deep) ((gaddr p.1).off + j) = p.2[j]) ∧
        ((getStream (getCell s k) i).wait = none →
          tagOf (getStream (getCell t k) i) n = if x.auto then .free else .done) ∧
        (x.amt ≠ 0 → t.sigs = s.sigs ++ x.cells.map fun c => ⟨c, x.sem, x.amt⟩)))

/-- For a message that arrives, the first of the member's own or one in an accepted frame that was not applied
before and is acknowledged: one of another pair, or an UP or DOWN behind the member's operation, is dropped
and counted in BELL_STALE; any other has the effect of its kind and code: the step messages, STEP_GO, the swap
messages, a child's UP and the parent's DOWN. For the first message of the queue of messages to itself: a step
message of the present pair has the effect of its code on the state without that message, and so have a
STEP_GO that begins a pair, the swap messages and an UP or DOWN of the member's own next operation. A step
message of another pair, or an UP or DOWN of another operation, is dropped and counted in BELL_STALE. (R288,
R295, R298, R299, R354, R355, R357, R358, R137, R139, 10_steps_and_spares.md) -/
def Obligations.MessagesToItselfTakeEffect : Prop :=
  (∀ (s a b : State) (x : BellIn) (src : Nat) (m : BellMsg), BellArrives x s src m a b →
    (m.kind = 3 → stepStale a src m = true → ∀ y ∈ [(Instr.ready x, 1), (.fail x, 2), (.commit x, 3), (.abort x, 4), (.probe x, 5),
      (.lostReport x, 6)], m.code = y.2 → RunsTo (exec y.1 s) fun t => t = bump (galBase 0 + 0x50018) 1 a) ∧
    (m.kind = 3 → stepStale a src m = false →
      (m.code = 1 → RunsTo (exec (.ready x) s) fun t => t = masterReady src (m.value % 2 ^ 32) b) ∧
      (m.code = 2 → RunsTo (exec (.fail x) s) fun t => t = masterFail (m.value % 65536) b) ∧
      (m.code = 3 → RunsTo (exec (.commit x) s) fun t =>
        let c := if b.steps.live then commitEffect b else b
        let d := if src = b.me then commitAcked src c else c
        t = if src = imgMaster b b.act then d else haltLost d) ∧
      (m.code = 4 → RunsTo (exec (.abort x) s) fun t =>
        (b.steps.live = false → t = b) ∧
        (b.steps.live = true → t = if (abortEffect (m.value % 65536) b).steps.master.active
          then runOver (m.value % 65536) (abortEffect (m.value % 65536) b) else abortEffect (m.value % 65536) b)) ∧
      (m.code = 5 → RunsTo (exec (.probe x) s) fun t => t = b) ∧
      (m.code = 6 → RunsTo (exec (.lostReport x) s) fun t => t = lostReport (m.value % 65536) b)) ∧
    (m.kind = 3 → m.code = 0 → goStale a src m = false → RunsTo (exec (.stepGo x) s) fun t =>
      t = goEffect (numAt m.payload 0 8) m.group (numAt m.payload 8 32) b) ∧
    (m.kind = 4 → m.code = 0 → RunsTo (exec (.swapReady x) s) fun t =>
      ((swapHeld b = false ∨ stagedMaster b = false) → t = b) ∧
      (swapHeld b = true → stagedMaster b = true →
        let same := m.payload.take 32 = imgDigest b b.stg
        t = swapDecide { b with plan := { b.plan with
          ready := tset 0 b.plan.ready src (m.value % 65536 + 1)
          digests := if same then insertNew b.plan.digests src else b.plan.digests
          firstFail := b.plan.firstFail.or (if m.value % 65536 ≠ 0 then some (m.value % 65536)
            else if same then none else some cPlanInvalid) } })) ∧
    (m.kind = 4 → m.code = 1 → RunsTo (exec (.swapGo x) s) fun t => t = swapGoEffect b) ∧
    (m.kind = 4 → m.code = 2 → RunsTo (exec (.swapAbort x) s) fun t => t = swapAbortEffect (m.value % 65536) b) ∧
    ((m.kind = 0 ∨ m.kind = 1) → seqBehind m.seq (getOp a m.group m.chan).seq = true →
      RunsTo (exec (if m.kind = 0 then .bellUp x else .bellDown x) s) fun t => t = bump (galBase 0 + 0x50018) 1 a) ∧
    (seqBehind m.seq (getOp a m.group m.chan).seq = false →
      let l := bellGroup b m.group m.chan
      let rank := rankIn l (if m.chan = 4 then imgSetIndex b b.stg else b.me)
      let o := getOp b m.group m.chan
      (m.kind = 0 → RunsTo (exec (.bellUp x) s) fun t =>
        (src ∉ bellChildren l rank → t = b) ∧
        (src ∈ bellChildren l rank → m.seq = nextOp o → t = setOp m.group m.chan { o with early := o.early ++ [(src, m.value)] } b) ∧
        (src ∈ bellChildren l rank → m.seq ≠ nextOp o → (m.seq ≠ o.seq ∨ src ∈ o.heard) → t = b) ∧
        (src ∈ bellChildren l rank → m.seq ≠ nextOp o → m.seq = o.seq → src ∉ o.heard →
          t = permEnd (bellTry m.group m.chan (setOp m.group m.chan (bellHear o (src, m.value)) b)))) ∧
      (m.kind = 1 → RunsTo (exec (.bellDown x) s) fun t =>
        t = if o.active = true ∧ o.upSent = true ∧ m.seq = o.seq ∧ src = bellParent l rank
          then permEnd (bellDeliver m.group m.chan m.value b) else b))) ∧
  ∀ (s s' : State) (src : Nat) (m : BellMsg), OwnFront s src m s' →
    (m.kind = 3 → (m.group ≠ s.steps.attempt ∨ m.seq ≠ s.steps.step % 2 ^ 32) →
      ∀ x ∈ [(Instr.ready .own, 1), (.fail .own, 2), (.commit .own, 3), (.abort .own, 4), (.probe .own, 5), (.lostReport .own, 6)],
        m.code = x.2 → RunsTo (exec x.1 s) fun t => t = bump (galBase 0 + 0x50018) 1 s') ∧
    (m.kind = 3 → m.group = s.steps.attempt → m.seq = s.steps.step % 2 ^ 32 →
      (m.code = 1 → RunsTo (exec (.ready .own) s) fun t => t = masterReady src (m.value % 2 ^ 32) s') ∧
      (m.code = 2 → RunsTo (exec (.fail .own) s) fun t => t = masterFail (m.value % 65536) s') ∧
      (m.code = 3 → s.steps.live = true → src ≠ s.me → src = imgMaster s s.act →
        RunsTo (exec (.commit .own) s) fun t => t = commitEffect s') ∧
      (m.code = 4 → s.steps.live = true → (abortEffect (m.value % 65536) s').steps.master.active = false →
        RunsTo (exec (.abort .own) s) fun t => t = abortEffect (m.value % 65536) s') ∧
      (m.code = 5 → RunsTo (exec (.probe .own) s) fun t => t = s') ∧
      (m.code = 6 → RunsTo (exec (.lostReport .own) s) fun t => t = lostReport (m.value % 65536) s')) ∧
    (m.kind = 3 → m.code = 0 → goStale s src m = false → RunsTo (exec (.stepGo .own) s) fun t =>
      t = goEffect (numAt m.payload 0 8) m.group (numAt m.payload 8 32) s') ∧
    (m.kind = 4 → m.code = 1 → RunsTo (exec (.swapGo .own) s) fun t => t = swapGoEffect s') ∧
    (m.kind = 4 → m.code = 2 → RunsTo (exec (.swapAbort .own) s) fun t => t = swapAbortEffect (m.value % 65536) s') ∧
    (m.kind = 4 → m.code = 0 → swapHeld s = true → stagedMaster s = true → m.value % 65536 ≠ 0 → s.plan.firstFail = none →
      RunsTo (exec (.swapReady .own) s) fun t => t = swapDecide { s' with plan := { s.plan with
        ready := tset 0 s.plan.ready src (m.value % 65536 + 1)
        digests := if m.payload.take 32 = imgDigest s s.stg then insertNew s.plan.digests src else s.plan.digests
        firstFail := some (m.value % 65536) } }) ∧
    ((m.kind = 0 ∨ m.kind = 1) → seqBehind m.seq (getOp s m.group m.chan).seq = true →
      RunsTo (exec (if m.kind = 0 then .bellUp .own else .bellDown .own) s) fun t => t = bump (galBase 0 + 0x50018) 1 s') ∧
    ((getOp s m.group m.chan).seq = m.seq →
      let l := bellGroup s m.group m.chan
      let rank := rankIn l (if m.chan = 4 then imgSetIndex s s.stg else s.me)
      let o := getOp s m.group m.chan
      (m.kind = 0 → src ∈ bellChildren l rank → src ∉ o.heard → RunsTo (exec (.bellUp .own) s) fun t =>
        (o.active = true → t = permEnd (bellTry m.group m.chan (setOp m.group m.chan (bellHear o (src, m.value)) s'))) ∧
        (o.active = false → t = setOp m.group m.chan { o with early := o.early ++ [(src, m.value)] } s')) ∧
      (m.kind = 1 → o.active = true → o.upSent = true → src = bellParent l rank →
        RunsTo (exec (.bellDown .own) s) fun t => t = permEnd (bellDeliver m.group m.chan m.value s')))

/-- A Bell frame that the receiver accepts: the message of another kind than ACK that was applied already is
acknowledged again and does nothing else; otherwise a STEP_GO, READY, FAIL, ABORT or PROBE that is not stale
is acknowledged, recorded and has its effect. An ACK of a step message of another pair counts in BELL_STALE;
any other takes the message that it acknowledges out of those that wait; the ACK of a PROBE of the present
pair is an answer to it. (R288, R354, R358, R295, R298, R299, 12_collectives.md) -/
def Obligations.BellFramesAreAcknowledged : Prop :=
  ∀ (s : State) (r : RxFrame), portOk r.die r.port = true → r.f.cls = 0 → r.f.typ = 0 → (accept r s).1 = true →
    let m := bellOf r.f
    let a := (accept r s).2
    ((r.f.src, m) ∈ a.bell.seen → m.kind = 3 →
      ∀ x ∈ [(Instr.stepGo (.frame r), 0), (.ready (.frame r), 1), (.fail (.frame r), 2), (.commit (.frame r), 3),
        (.abort (.frame r), 4), (.probe (.frame r), 5), (.lostReport (.frame r), 6)],
        m.code = x.2 → RunsTo (exec x.1 s) fun t => t = bellSend r.f.src (ackOf m) a) ∧
    ((r.f.src, m) ∉ a.bell.seen → m.kind = 3 →
      let b := bellSend r.f.src (ackOf m) { a with bell := { a.bell with
        seen := a.bell.seen.filter (fun e => !sameSlot e (r.f.src, m)) ++ [(r.f.src, m)] } }
      (m.code = 0 → goStale a r.f.src m = false → RunsTo (exec (.stepGo (.frame r)) s) fun t =>
        t = goEffect (numAt m.payload 0 8) m.group (numAt m.payload 8 32) b) ∧
      (stepStale a r.f.src m = false →
        (m.code = 1 → RunsTo (exec (.ready (.frame r)) s) fun t => t = masterReady r.f.src (m.value % 2 ^ 32) b) ∧
        (m.code = 2 → RunsTo (exec (.fail (.frame r)) s) fun t => t = masterFail (m.value % 65536) b) ∧
        (m.code = 4 → b.steps.live = true → (abortEffect (m.value % 65536) b).steps.master.active = false →
          RunsTo (exec (.abort (.frame r)) s) fun t => t = abortEffect (m.value % 65536) b) ∧
        (m.code = 5 → RunsTo (exec (.probe (.frame r)) s) fun t => t = b))) ∧
    (m.kind = 2 → m.code = 3 → stepStale a r.f.src m = true → RunsTo (exec (.ack (.frame r)) s) fun t =>
      t = bump (galBase 0 + 0x50018) 1 a) ∧
    (m.kind = 2 → (m.code ≠ 3 ∨ stepStale a r.f.src m = false) → a.bell.out.find? (acks r.f.src m) = none →
      RunsTo (exec (.ack (.frame r)) s) fun t => t = a) ∧
    (m.kind = 2 → (m.code ≠ 3 ∨ stepStale a r.f.src m = false) → ∀ o, a.bell.out.find? (acks r.f.src m) = some o →
      let b := { a with bell := { a.bell with out := a.bell.out.erase o } }
      ((o.msg.kind ≠ 3 ∨ stepStale b r.f.src o.msg = true) → RunsTo (exec (.ack (.frame r)) s) fun t => t = b) ∧
      (o.msg.kind = 3 → stepStale b r.f.src o.msg = false → RunsTo (exec (.ack (.frame r)) s) fun t =>
        t = ackedStep r.f.src o.msg.code b))

/-- BELL on a stream that can issue blocks the stream until the result arrives and enters its member's next
operation of the group, on channel 0, with the operand of its register. PHASE_END of a phase that runs and
none of whose streams runs takes it off the list of phases and starts each phase that follows it; of any other
phase it changes nothing. (R170, R355, R128, 12_collectives.md) -/
def Obligations.BellInstructionBlocksItsStream : Prop :=
  (∀ (s : State) (u : StreamAt) (d x fn : BitVec 4) (g : BitVec 32), Issues s u → fn.toNat ≤ 8 →
    RunsTo (exec (.bell u d x fn g) s) fun t =>
      t = bellEnter g.toNat 0 fn.toNat (getS (streamOf s u) x.toNat) (.stream u.cell u.stream.toNat d.toNat)
        (modStream u.cell u.stream.toNat (fun t => { t with wait := some (.bell g.toNat d.toNat), cause := .collective }) s)) ∧
  (∀ (s : State) (n : Nat), n ∈ s.plan.phases → phaseRuns s n = false → RunsTo (exec (.phaseEnd n) s) fun t =>
    t = (((imgPhases s s.act).filter fun p => p.trigger == 2 && p.after == n).map (·.id)).foldl startPhase
      { s with plan := { s.plan with phases := s.plan.phases.filter (· != n) } }) ∧
  (∀ (s : State) (n : Nat), (n ∉ s.plan.phases ∨ phaseRuns s n = true) → RunsTo (exec (.phaseEnd n) s) fun t => t = s)

/-- PLAN_STAGE of a page-aligned image that fits the slot, while no staging or swap is in progress: in READY,
PLANNED, RUNNING, HALTED and RECOVERY the staging begins with nothing copied, every byte of the staged slot
reads as nothing written and every other byte of the deep tier and all of HBM as before, and no cell changes;
in any other state the command ends with NOT_READY and the state of the plan but its last code stays. Of a
misaligned or too long image it ends with PLAN_INVALID. (R133, R142, R524, 04_plan_image.md) -/
def Obligations.PlanStageEmptiesTheSlotAndCopies : Prop :=
  ∀ (s : State) (id : BitVec 16) (addr len : BitVec 64),
    let c : CmdRef := (take id.toNat 0x01 s).1
    let a := lockKey (take id.toNat 0x01 s).2
    (addr.toNat % 4096 = 0 → len.toNat ≤ 0x80000000 → s.plan.staged ≠ .staging → s.plan.swap = .idle →
      (s.pwr.state ∈ [stReady, stPlanned, stRunning, stHalted, stRecovery] →
        RunsTo (exec (.planStage id addr len) s) fun t =>
          t.plan = { s.plan with staged := .staging, stageCmd := some c, stageLen := len.toNat, stageGot := 0
                                 ready := [], digests := [], firstFail := none } ∧
          t.hbm = s.hbm ∧ t.cells = s.cells ∧ t.hf = (lockKey s).hf ∧
          (∀ b, s.stg ≤ b → b < s.stg + 0x80000000 → mget t.deep b = 0#8) ∧
          (∀ b, b < s.stg ∨ s.stg + 0x80000000 ≤ b → mget t.deep b = mget s.deep b)) ∧
      (s.pwr.state ∉ [stReady, stPlanned, stRunning, stHalted, stRecovery] →
        RunsTo (exec (.planStage id addr len) s) fun t =>
          t = planEnd c cNotReady a ∧ t.plan = { s.plan with lastCode := cNotReady } ∧ t.deep = s.deep)) ∧
    ((addr.toNat % 4096 ≠ 0 ∨ 0x80000000 < len.toNat) → RunsTo (exec (.planStage id addr len) s) fun t =>
      t = planEnd c cPlanInvalid a)

/-- STAGING_COMPLETE of a whole copy ends PLAN_STAGE with OK, or with the first check that fails. PLAN_SWAP and
RESHARD of a staged image wait for a step boundary; at one the member waits for the master's decision and
sends its check result and digest. When the wait expires the master sends SWAP_ABORT with MEMBER_LOST. After
the first barrier the permutation starts, and once all its entries have landed the second barrier is entered.
(R133, R136, R137, R143, R362, 04_plan_image.md) -/
def Obligations.PlanEventsAdvanceTheExchange : Prop :=
  (∀ s : State, s.plan.staged = .staging → s.plan.stageGot = s.plan.stageLen →
    RunsTo (exec .stagingComplete s) fun t => t = match stageChecks s with
      | none => completeOpt s.plan.stageCmd cOk { s with plan := { s.plan with staged := .staged, stageCmd := none, lastCode := cOk } }
      | some f => stageRefuse f.1 f.2 s) ∧
  (∀ (s : State) (id : BitVec 16), s.plan.staged = .staged → s.plan.swap = .idle →
    let waits := fun (c : CmdRef) (r : Bool) (a : State) => { a with
      plan := { a.plan with swap := .boundary, reshard := r, swapCmd := some c }
      bell := { a.bell with seen := a.bell.seen.filter fun e => !(e.2.kind == 4 && e.2.code != 0) } }
    (planState s = true → RunsTo (exec (.planSwap id) s) fun t =>
      t = waits (take id.toNat 0x02 s).1 false (take id.toNat 0x02 s).2) ∧
    (s.pwr.state = stPlanned ∨ s.pwr.state = stRunning → bitAt (imgFlags s s.stg) 1 = true →
      imgEpoch s s.stg = s.steps.epoch + 1 → RunsTo (exec (.reshard id) s) fun t =>
        t = waits (take id.toNat 0x30 s).1 true (take id.toNat 0x30 s).2)) ∧
  (∀ s : State, s.plan.swap = .boundary → atBoundary s = true →
    RunsTo (exec .swapBoundary s) fun t =>
      let told := fun (code sec off : Nat) => bellSend (imgMaster s s.stg)
        { kind := 4, code := 0, value := code, payload := imgDigest s s.stg } { s with plan := { s.plan with swap := .waitGo, faultSection := sec, faultOffset := off } }
      t = match swapChecks s with
        | none => told 0 s.plan.faultSection s.plan.faultOffset
        | some f => told f.1 f.2.sec f.2.off) ∧
  (∀ s : State, s.plan.swap = .waitGo → stagedMaster s = true → s.plan.permuting = false →
    RunsTo (exec .swapWaitExpire s) fun t => t = swapSend 2 cMemberLost s) ∧
  (∀ s : State, s.plan.permuting = true → s.plan.barrier = 1 →
    RunsTo (exec .permute s) (fun t => t = permPump s) ∧
    (s.plan.permWait = [] → s.plan.permLeft = [] → (∀ g, permGroup s = some g → (getOp s g 4).active = false) →
      RunsTo (exec .permuteComplete s) fun t => t = permEnd (permBarrier 2 s))) ∧
  (∀ s : State, (s.plan.swap ≠ .waitGo ∨ stagedMaster s = false ∨ s.plan.permuting = true) →
    RunsTo (exec .swapWaitExpire s) fun t => t = s)

/-- STEP_RUN on the master between attempts opens an attempt of step STEP_COMMITTED + 1 under its next attempt
number and sends STEP_GO to every worker. STEP_ABORT_REQ of the running step sends FAIL with STEP_ABORTED.
READY_SEND sends READY once every condition holds and asks nothing before. An expired wait of the master
probes the members whose READY is missing; a message without ACK goes again while resends are left, COMMIT
always, and else its receiver counts as silent; workers silent to COMMIT are lost and the master halts. (R130,
R289, R292, R295, R297, R298, R358, 10_steps_and_spares.md) -/
def Obligations.StepCommandsAndCanariesComplete : Prop :=
  (∀ (s : State) (id : BitVec 16) (step : BitVec 64) (k : BitVec 256), s.plan.active = true → imgMaster s s.act = s.me →
    s.steps.acting = false → s.steps.lostHalt = false → inRecovery s = false → s.steps.master.active = false →
    s.plan.swap = .idle → s.modes.running = [] → s.pwr.state ≠ stHalted → s.steps.live = false → s.steps.phase = .idle →
    step.toNat = s.steps.committed + 1 → rowOk s step.toNat k.toNat = true → s.plan.peerBad = false →
    planSupports s (goModes s) = true → RunsTo (exec (.stepRun id step k) s) fun t =>
      let a := tget 0 s.steps.attempts step.toNat % 2 ^ 32
      let b := (take id.toNat 0x10 s).2
      t = (imgWorkers s s.act).foldl
        (fun s i => sendStep i 0 0 (toBytes 8 step.toNat ++ toBytes 32 k.toNat ++ List.replicate 24 0#8) s)
        (modSteps (fun t => { t with
          step := step.toNat, attempt := a, live := true, failed := false, commitHeld := false
          attempts := tset 0 t.attempts step.toNat (tget 0 t.attempts step.toNat + 1)
          master := { active := true, cmd := some (take id.toNat 0x10 s).1, step := step.toNat, attempt := a } }) b)) ∧
  (∀ (s : State) (id : BitVec 16) (step : BitVec 64), step.toNat = s.steps.committed + 1 → s.steps.live = true →
    s.steps.master.decision ≠ some .commit → RunsTo (exec (.stepAbortReq id step) s) fun t =>
      let b := take id.toNat 0x11 s
      t = sendStep (masterOf s) 2 cStepAborted [] (modSteps (fun t => { t with aborts := t.aborts ++ [b.1] }) b.2)) ∧
  (∀ s : State, (readyBut s = false → RunsTo (exec .readySend s) fun t => t = s) ∧
    (readyBut s = true → nextGlobal s = none → (∀ n ∈ s.steps.scaleAsked, tget 0 s.steps.scaleDone n ≠ 0) →
      RunsTo (exec .readySend s) fun t => t = sendReady s) ∧
    (readyBut s = true → nextGlobal s = none → (∃ n ∈ s.steps.scaleAsked, tget 0 s.steps.scaleDone n = 0) →
      RunsTo (exec .readySend s) fun t => t = s) ∧
    (∀ r g, readyBut s = true → nextGlobal s = some r → wholeGroup s s.act = some g →
      ((getOp s g 1).active = true → RunsTo (exec .readySend s) fun t => t = s) ∧
      ((getOp s g 1).active = false → RunsTo (exec .readySend s) fun t =>
        t = bellEnter g 1 2 (amaxOf s r s.steps.step) (.scale r.num)
          (modSteps (fun t => { t with scaleAsked := t.scaleAsked ++ [r.num] }) s)))) ∧
  (∀ s : State, (s.steps.master.waitArmed = true → RunsTo (exec .commitWaitExpire s) fun t => t = probeMissing s) ∧
    (s.steps.master.waitArmed = false → RunsTo (exec .commitWaitExpire s) fun t => t = s) ∧
    RunsTo (exec .attemptCanaryExpire s) fun t => t = probeMissing s) ∧
  (∀ (s : State) (dst kind code chan : Nat),
    let mine := fun o : BellOut => o.dst == dst && o.msg.kind == kind && o.msg.code == code && o.msg.chan == chan
    (s.bell.out.find? mine = none → RunsTo (exec (.bellAckCanaryExpire dst kind code chan) s) fun t => t = s) ∧
    (∀ o, s.bell.out.find? mine = some o →
      let again := (kind = 3 ∧ code = 3 ∧ s.steps.master.commitSent = true) ∨ o.resends < (if s.plan.active then bellRetries s else 8)
      (again → RunsTo (exec (.bellAckCanaryExpire dst kind code chan) s) fun t =>
        t = bump (galBase 0 + 0x50010) 1 (bellFrame o.dst o.msg { s with bell := { s.bell with
          out := s.bell.out.map fun q => if q = o then { q with resends := q.resends + 1 } else q } })) ∧
      (¬again → RunsTo (exec (.bellAckCanaryExpire dst kind code chan) s) fun t => t = unanswered o s))) ∧
  (∀ s : State, ∀ l, l = (liveWorkers s).filter (fun i => decide (i ∉ s.steps.master.acked) && i != s.me) →
    ((s.steps.master.active = false ∨ s.steps.master.commitSent = false ∨ l = []) → RunsTo (exec .commitRetryExpire s) fun t => t = s) ∧
    (s.steps.master.active = true → s.steps.master.commitSent = true → l ≠ [] →
      let a := haltLost (l.foldl (fun s i => memberLost i s) { s with bell := { s.bell with
        out := s.bell.out.filter fun o => !(o.msg.kind == 3 && o.msg.code == 3) } })
      RunsTo (exec .commitRetryExpire s) fun t =>
        t = if a.me ∈ s.steps.master.acked ∨ a.steps.acting = true then runOver cMemberLost a else a))

/-- CKPT_WRITE of the committed step with an idle engine, a buddy where it mirrors and room where it exports
removes the MAGIC of the slot that it takes and writes the CRC table and the body; its completion writes the
header last, and after it the mirror is sent, the export follows, and the command ends. CKPT_RESTORE enters
RESTORING: from its own slots it restores the newest of the step, from the buddy it asks for the headers of
its two slots, from the host it reads the header of 256 bytes; outside PLANNED and HALTED it ends with
NOT_READY. A unit that arrives belongs to the BUDDY restore that runs, else to the mirror that this member
keeps. (R303, R304, R306, R308, 10_steps_and_spares.md) -/
def Obligations.CheckpointCommandsComplete : Prop :=
  (∀ (s : State) (id : BitVec 16) (step : BitVec 64) (flags : BitVec 8) (addr len : BitVec 64) (r : Region),
    imgKind s s.act 8 = some r → s.pwr.state ∈ [stPlanned, stRunning, stHalted] → s.plan.active = true →
    s.steps.committed = step.toNat → s.ckpt.cmd = none → flags.toNat < 4 → (bitAt flags.toNat 0 = true → hasBuddy s = true) →
    (bitAt flags.toNat 1 = true → slotBytes (ownBody s) ≤ len.toNat) →
    RunsTo (exec (.ckptWrite id step flags addr len) s) fun t =>
      let b := take id.toNat 0x20 s
      let slot := targetSlot s r s.ckpt.target
      let body := bodyBytes s step.toNat
      let base := slotAt r slot
      t = writeTier 1 (base + bodyStart body.length) body (writeTier 1 (base + 4096) (crcTable body)
        (writeTier 1 base (toBytes 4 0) (modCkpt (fun k => { k with
          st := .writing, cmd := some b.1, target := slot, step := step.toNat, mirror := bitAt flags.toNat 0
          export_ := bitAt flags.toNat 1
          hostAddr := addr.toNat, hostLen := len.toNat, header := ckptHeader s step.toNat body (crcTable body) }) b.2)))) ∧
  (∀ (s : State) (r : Region), imgKind s s.act 8 = some r →
    let base := slotAt r s.ckpt.target
    let size := slotBytes (numAt s.ckpt.header 40 8)
    (s.ckpt.st = .writing → RunsTo (exec .ckptWriteComplete s) fun t =>
      let a := writeTier 1 base s.ckpt.header s
      t = if s.ckpt.mirror = true then sendMirror base (numAt s.ckpt.header 40 8) (modCkpt (fun k => { k with st := .mirroring }) a)
        else ckptFinish base size a) ∧
    (s.ckpt.st = .mirroring → RunsTo (exec .ckptWriteComplete s) fun t =>
      t = if mirrorLeft s = true then s else ckptFinish base size s) ∧
    (s.ckpt.st = .exporting → RunsTo (exec .ckptWriteComplete s) fun t => t = ckptOver base size s)) ∧
  (∀ (s : State) (id : BitVec 16) (step addr : BitVec 64),
    let b := take id.toNat 0x21 s
    (s.pwr.state = stPlanned ∨ s.pwr.state = stHalted → s.plan.active = true → s.steps.phase = .idle → s.steps.live = false →
      s.ckpt.cmd = none →
      let begun := fun (src : Nat) => modCkpt (fun k => { k with
          st := .restoring, cmd := some b.1, step := step.toNat, source := src, hostAddr := addr.toNat, buf := [], got := 0
          want := 256, again := [], units := [] }) (modSteps (fun t => { t with phase := .restoring }) b.2)
      (RunsTo (exec (.ckptRestore id step 0 addr) s) fun t =>
        (localSlots (begun 0) step.toNat = [] → t = restoreFail cStepMismatch (begun 0)) ∧
        (∀ rd rest, localSlots (begun 0) step.toNat = rd :: rest →
          t = if badUnits rd = [] then restoreFrom rd (begun 0) else restoreFail cStepMismatch (begun 0))) ∧
      (RunsTo (exec (.ckptRestore id step 1 addr) s) fun t =>
        t = if hasBuddy b.2 = true then
          askUnit (buddyOf (begun 1)) headerUnit 256 (askUnit (buddyOf (begun 1)) headerUnit 256 (begun 1)) else ckptRefuse b.1 cPlanInvalid b.2) ∧
      RunsTo (exec (.ckptRestore id step 2 addr) s) fun t =>
        t = hostReadRange .checkpoint addr.toNat 256 (begun 2)) ∧
    (s.pwr.state ≠ stPlanned → s.pwr.state ≠ stHalted → RunsTo (exec (.ckptRestore id step 2 addr) s) fun t =>
      t = complete b.1 cNotReady (modCkpt (fun k => { k with lastCode := cNotReady }) b.2))) ∧
  (∀ (s : State) (unit : Nat) (data : List Byte) (crc : BitVec 32),
    (s.ckpt.st = .restoring → s.ckpt.source = 1 → s.ckpt.publishing = false →
      RunsTo (exec (.mirrorUnitReceive unit data crc) s) fun t => t = restoreUnit unit data crc.toNat s) ∧
    (∀ r, s.ckpt.st ≠ .restoring → s.plan.active = true → imgKind s s.act 9 = some r →
      RunsTo (exec (.mirrorUnitReceive unit data crc) s) fun t => t = mirrorUnit r unit data crc.toNat s))

/-- A request of a die's ring opens its collective, puts the member's own results into DST and sends what can go;
a second request of one collective fails the step. A COLL frame of the present epoch and pair is acknowledged
and lands its chunk, or as a credit releases its ordinal; of another pair it counts as stale. A combiner's
token releases its slot, or ends the chunk of its stage. A member that holds every result contributes its
digest to the group's sum once. (R340, R341, R343, R344, R345, R350, R351, R353, 12_collectives.md) -/
def Obligations.CollectiveEventsComplete : Prop :=
  (∀ (s : State) (die ring : Nat), die < 4 → reqRing s die = some ring → (getRing s ring).len ≠ 0 →
    let x := enginePop ring s
    let c := numAt x.1 0 4
    c < collCount x.2 →
    ((getColl x.2 c).started = false → RunsTo (exec (.collRequest die) s) fun t =>
      t = sendMore c (firstSends (collShape x.2 c)) (ownCopy c (collShape x.2 c)
        (modColl c (fun y => { y with active := true, started := true }) x.2))) ∧
    ((getColl x.2 c).started = true → RunsTo (exec (.collRequest die) s) fun t =>
      t = sendFail cStepAborted (source 3 die) x.2)) ∧
  (∀ (s : State) (r : RxFrame), portOk r.die r.port = true → r.f.cls = 2 → r.f.typ = 0 → (accept r s).1 = true →
    let a := ackFrame r (accept r s).2
    let c := fld r.f 44 4 % 4096
    ∀ x ∈ [Instr.collChunkLand r, .collCredit r],
      (r.f.epoch ≠ a.steps.epoch → RunsTo (exec x s) fun t => t = epochReject r a) ∧
      (r.f.epoch = a.steps.epoch → (fld r.f 52 4 ≠ a.steps.attempt ∨ fld r.f 56 4 ≠ a.steps.step % 2 ^ 32 ∨ inAttempt a = false) →
        RunsTo (exec x s) fun t => t = bump (galBase r.die + 0x40028) 1 a) ∧
      (r.f.epoch = a.steps.epoch → fld r.f 52 4 = a.steps.attempt → fld r.f 56 4 = a.steps.step % 2 ^ 32 → inAttempt a = true →
        c < collCount a → RunsTo (exec x s) fun t =>
          t = if fld r.f 44 4 / 2 ^ 28 = 15 then creditLand c r.f a else chunkLand r c a)) ∧
  (∀ (s : State) (die c : Nat), die < 4 → (rangeFrom 0 (collCount s)).find? (fun c =>
      collDie s c == die && decide (collNum s c 4 1 ≤ 1) && decide (0 < (getRing s (collNum s c 48 4)).len)) = some c →
    (numAt (enginePop (collNum s c 48 4) s).1 0 1 = 0 → RunsTo (exec (.combinerToken die) s) fun t =>
      t = releaseSlot c (numAt (enginePop (collNum s c 48 4) s).1 2 2) (enginePop (collNum s c 48 4) s).2) ∧
    (let x := enginePop (collNum s c 48 4) s
      let stage := numAt x.1 1 1
      let chunk := numAt x.1 4 4
      numAt x.1 0 1 = 1 → (stage, chunk) ∈ collDones (collShape x.2 c) → (stage, chunk) ∉ (getColl x.2 c).done →
      RunsTo (exec (.combinerToken die) s) fun t => t = stageDone c stage chunk x.2)) ∧
  (∀ (s : State) (c : Nat), c < 4096 → c < collCount s → (getColl s c).asked = false → resultsLanded s c = true →
    inAttempt s = true → (getOp s (collNum s c 8 4) 3).active = false → RunsTo (exec (.collDigestExchange c) s) fun t =>
      t = bellEnter (collNum s c 8 4) 3 0 (getColl s c).digest (.digest c) (modColl c (fun x => { x with asked := true }) s))

/-- A START token at a channel's first feed ring opens the channel, or fails the step when it is open; a release
and a gradient token that the channel expects are recorded, and one that it does not expect fails the step. A
unit for an open receive counts and lands, any other counts as a drop. A credit of a hop is kept. A feed
delivers its next block when it can. An expired wait of a channel raises EV_CANARY and reports the peer once
for each wait; so do those of a Bell operation, a collective, a gather's tag, the intake and the map's walks
act on theirs. (R195, R196, R197, R198, R199, R201, R206, R235, R268, R358, R361, R412) -/
def Obligations.CirculatorEventsComplete : Prop :=
  (∀ (s : State) (c f : Nat) (d : List Byte), c < 64 → c < circCount s → (chanFeeds s c).head? = some f → headToken s f = some d →
    tokenIs d 1 c = true → RunsTo (exec (.circStart c) s) fun t =>
      t = if (getChan (popToken f s).2 c).isOpen = true then circFail c (popToken f s).2
        else pumpChan c (openChan c (popToken f s).2)) ∧
  (∀ (s : State) (c f : Nat), c < 64 → c < circCount s → (chanFeeds s c).find? (isRelease s c) = some f →
    let x := popToken f s
    (releaseOk s c f x.1 = false → RunsTo (exec (.circRelease c) s) fun t => t = tokenFail c x.1 x.2) ∧
    (releaseOk s c f x.1 = true → RunsTo (exec (.circRelease c) s) fun t => t = pumpChan c (modChan c (fun ch => { ch with
      popped := tmod 0 ch.popped (f * 2 ^ 32 + numAt x.1 4 4) (· + 1)
      cellAt := tset 0 ch.cellAt (f * 1024 + numAt x.1 8 2) (numAt x.1 4 4 + 1) }) x.2))) ∧
  (∀ (s : State) (c f : Nat), c < 64 → c < circCount s →
    (chanFeeds s c).find? (fun f => (headToken s f).any fun d => tokenIs d 2 c) = some f →
    let x := popToken f s
    let ch := getChan s c
    let h := numAt x.1 4 4
    RunsTo (exec (.gradDone c) s) fun t =>
      (ch.isOpen = true → chanBack s c = true → h = ch.gradDone.length → h < chanR s c →
        t = pumpChan c (modChan c (fun ch => { ch with gradDone := ch.gradDone ++ [h] }) x.2)) ∧
      ((ch.isOpen = false ∨ chanBack s c = false ∨ h ≠ ch.gradDone.length ∨ chanR s c ≤ h) → t = tokenFail c x.1 x.2)) ∧
  (∀ (s : State) (r : RxFrame), portOk r.die r.port = true → r.f.cls = 1 → r.f.typ = 0 → (accept r s).1 = true →
    let a := ackFrame r (accept r s).2
    RunsTo (exec (.circUnitLand r) s) fun t =>
      (openReceive a r.f = true → t = pumpChan (fld r.f 44 1) (landData (fld r.f 44 1) (fld r.f 48 4) (fld r.f 60 4) r.f.payload
        (bump (galBase r.die + 0x20010) r.f.payload.length a))) ∧
      (openReceive a r.f = false → t = bump (galBase r.die + 0x20028) 1 a)) ∧
  (∀ (s : State) (c hop : Nat), c < 64 → c < circCount s → 0 < hop → hop < chanR s c →
    RunsTo (exec (.circCredit c hop) s) fun t =>
      t = pumpChan c (modChan c (fun ch =>
        if hop ∈ ch.credit then { ch with creditNext := insertNew ch.creditNext hop }
        else { ch with credit := ch.credit ++ [hop] }) s)) ∧
  (∀ (s : State) (f : Nat), f < 1024 → f < feedCount s →
    let c := feedNum s f 0 1
    let a := pumpChan c s
    RunsTo (exec (.feedDeliver f) s) fun t =>
      t = if feedReady a c f = true then pumpChan c (deliver c f (tget 0 (getChan a c).delivered f) a) else a) ∧
  (∀ (s : State) (c : Nat), c < 64 →
    (chanPeer s c = none → RunsTo (exec (.ringStepCanaryExpire (.channel c)) s) fun t => t = s) ∧
    (∀ x : Nat × Nat, chanPeer s c = some x → RunsTo (exec (.ringStepCanaryExpire (.channel c)) s) fun t =>
      t = reportPeer x.2 (raise (source 3 (chanDie s c)) 0x0401 [(18, 1, c), (20, 4, x.1), (24, 2, x.2)]
        (modChan c (fun ch => { ch with expired := ch.expired ++ [x] }) s)))) ∧
  (∀ (s : State) (g chan : Nat), (getOp s g chan).active = true → (getOp s g chan).upSent = false →
    RunsTo (exec (.ringStepCanaryExpire (.bellUp g chan)) s) fun t =>
      t = ((bellChildren (bellGroup s g chan) (rankIn (bellGroup s g chan) (if chan = 4 then imgSetIndex s s.stg else s.me))).filter
        fun c => decide (c ∉ (getOp s g chan).heard)).foldl (fun s c => reportPeer c s) s) ∧
  (∀ (s : State) (c r : Nat), RunsTo (exec (.ringStepCanaryExpire (.coll c r)) s) fun t =>
    t = if waitsOn s c r = true then peerCanary (source 3 (collDie s c)) (collMember s c r) [(20, 4, c)] s else s) ∧
  (∀ s : State, s.intake.starved = true → inAttempt s = true → RunsTo (exec (.ringStepCanaryExpire .intake) s) fun t =>
    t = sendFail cCanaryTimeout intakeSrc (raise intakeSrc 0x0401 [] s)) ∧
  (∀ (s : State) (die : Nat) (j : GatherJob), die < 4 → (getGath s die).job = some j → j.phase = 0 → gathNum s j.entry 6 1 ≠ 0 →
    RunsTo (exec (.ringStepCanaryExpire (.gather die)) s) fun t =>
      t = peerCanary (source 3 die) (gathNum s j.entry 4 2) [(20, 4, j.entry)] s) ∧
  (∀ s : State, (s.pmap.walks ≠ [] ∨ ∃ e ∈ s.circ.chans, chanAwaits s e.1 = true) → RunsTo (exec (.ringStepCanaryExpire .walk) s) fun t =>
    t = sendFail cCanaryTimeout (mapSrc (raise (mapSrc s) 0x0401 [] s)) (raise (mapSrc s) 0x0401 [] s))

/-- The stash engine pops a request of its ring, carries out SAVE, LOAD or CHECK and signals its semaphore once.
The gather engine takes the next request of its ring when it has none and reads its header, and again a
microsecond after a stale tag, which it counts. The update engine pops an UPDATE and runs its descriptors in
order, writes a header after its pass, pops a PUBLISH only when no publication runs, and ends a publication
descriptor by descriptor and signals after the last. (R259, R268, R282, R285, R286, 08_backward_and_stash.md,
09_stope_update.md) -/
def Obligations.StashGatherAndUpdateRequestsComplete : Prop :=
  (∀ (s : State) (die r : Nat) (d : List Byte), die < 8 → ringHead s (stashRing s die) = some (r, d) →
    ∀ x ∈ [(Instr.stashSave die, 0, stashSave die d), (.stashLoad die, 1, stashLoad d), (.stashCheck die, 2, stashCheck d)],
      numAt d 0 1 = x.2.1 → RunsTo (exec x.1 s) fun t =>
        t = signalLogical (numAt d 6 2) (numAt d 3 1 % 64) 1 (x.2.2 (enginePop r s).2)) ∧
  (∀ (s : State) (die r : Nat) (d : List Byte), die < 4 → ringHead s (gathRing s die) = some (r, d) → (getGath s die).job = none →
    let a := (enginePop r s).2
    numAt d 4 4 < gathCount a → RunsTo (exec (.gatherRequest die) s) fun t =>
      t = gathStart die (numAt d 4 4) (modGath die (fun g => { g with
        job := some { pass := numAt d 0 1, sem := numAt d 1 1 % 64, cell := numAt d 2 2, entry := numAt d 4 4 }
        lastLayer := gathNum a (numAt d 4 4) 0 4 % 65536 }) a)) ∧
  (∀ (s : State) (die : Nat) (j : GatherJob), die < 4 → (getGath s die).job = some j → j.phase = 0 →
    xfersLeft s (.gatherHdr die) = 0 → RunsTo (exec (.gatherTagRetry die) s) fun t =>
      t = gathStart die j.entry (bump (galBase die + 0x30010) 1250 s)) ∧
  (∀ (s : State) (die r : Nat) (d : List Byte), die < 8 → ringHead s (updRing s die) = some (r, d) →
    (numAt d 8 1 ≠ 1 → (getEng s die).signal = none → ckptHolds s = false → RunsTo (exec (.updateRequest die) s) fun t =>
      t = requestOver die ((rangeFrom (numAt d 0 4) (numAt d 4 4)).foldl (updateOne die)
        (modEng die (fun e => { e with signal := some (numAt d 10 2, numAt d 9 1 % 64) }) (enginePop r s).2))) ∧
    (numAt d 8 1 = 1 → (getEng s die).publishing ≠ [] → RunsTo (exec (.publishRequest die) s) fun t => t = s) ∧
    (numAt d 8 1 = 1 → (getEng s die).publishing = [] →
      let l := rangeFrom (numAt d 0 4) (numAt d 4 4)
      let b := (enginePop r s).2
      let a := bump (stopeBase die + 0x10010) (l.filter fun j => decide (updCount b ≤ j) || updNum b j 7 1 != die).length b
      (publishable a die l = [] → RunsTo (exec (.publishRequest die) s) fun t =>
        t = signalLogical (numAt d 10 2) (numAt d 9 1 % 64) 1 a) ∧
      (publishable a die l ≠ [] → RunsTo (exec (.publishRequest die) s) fun t => t = startPublish die (publishable a die l)
        (modEng die (fun e => { e with pubSignal := some (numAt d 10 2, numAt d 9 1 % 64) }) a)))) ∧
  (∀ (s : State) (die : Nat), die < 8 →
    ((getEng s die).headers = [] → RunsTo (exec (.updateHeaderWrite die) s) fun t => t = s) ∧
    (∀ h rest, (getEng s die).headers = h :: rest → RunsTo (exec (.updateHeaderWrite die) s) fun t =>
      let t1 := updStep s
      let a := modEng die (fun e => { e with headers := rest }) (writeTier 1 (updBlock s h.desc (t1 % 2))
        (toBytes 8 t1 ++ toBytes 4 (updNum s h.desc 0 4) ++ toBytes 4 h.rms ++ List.replicate 48 0#8) s)
      t = sumUpdates (requestOver die { a with update := { a.update with written := insertNew a.update.written h.desc } })) ∧
    ((getEng s die).publishing = [] → RunsTo (exec (.publicationEnd die) s) fun t => t = s) ∧
    (∀ j k rest, (getEng s die).publishing = j :: k :: rest → RunsTo (exec (.publicationEnd die) s) fun t =>
      t = restoreOver (publishOne die j (k :: rest) s)) ∧
    (∀ j, (getEng s die).publishing = [j] → RunsTo (exec (.publicationEnd die) s) fun t =>
      let a := restoreOver (publishOne die j [] s)
      ((getEng a die).pubSignal = none → t = a) ∧
      (∀ g, (getEng a die).pubSignal = some g →
        t = signalLogical g.1 g.2 1 (modEng die (fun e => { e with pubSignal := none }) a))))

/-- A MOVE frame that the receiver accepts: a DATA or READ frame whose address names tier 3 counts in
PORT_OTHER_DROP; one of another layout epoch is acknowledged and discarded. Else a store whose address checks
writes its bytes and is acknowledged; a READ whose address checks is acknowledged and its bytes leave as DATA
frames of at most 8,192 B with RESP; a failed check is acknowledged as refused and writes and reads nothing.
DATA with RESP lands in the read that it answers, and of no read is acknowledged and discarded. A SIGNAL
signals its semaphore. (R23, R325, R334, 11_fabric.md) -/
def Obligations.RemoteFramesAreServed : Prop :=
  ∀ (s : State) (r : RxFrame), portOk r.die r.port = true → r.f.cls = 3 → (accept r s).1 = true →
    let a := (accept r s).2
    let addr := fld r.f 44 8
    let n := numAt r.f.payload 0 4
    (∀ x ∈ [(Instr.moveData r, 0), (.read r, 3)], r.f.typ = x.2 → (gaddr addr).tier = 3 →
      RunsTo (exec x.1 s) fun t => t = bump (portBase (rxPort r) + 0x130) 1 a) ∧
    ((gaddr addr).tier ≠ 3 → r.f.epoch ≠ a.steps.epoch → ∀ x ∈ [(Instr.moveData r, 0), (.read r, 3), (.signal r, 4)],
      r.f.typ = x.2 → RunsTo (exec x.1 s) fun t => t = ackFrame r (bump (portBase (rxPort r) + 0x138) 1 a)) ∧
    ((gaddr addr).tier ≠ 3 → r.f.epoch = a.steps.epoch →
      (r.f.typ = 0 → r.f.resp = false → RunsTo (exec (.moveData r) s) fun t =>
        t = if rxAddrOk a addr r.f.payload.length = true then ackFrame r (writeLocal (gaddr addr) r.f.payload a)
          else refuseFrame r a) ∧
      (r.f.typ = 0 → r.f.resp = true →
        (getXfer a (fld r.f 60 4) = none → RunsTo (exec (.moveData r) s) fun t => t = ackFrame r a) ∧
        (∀ x, getXfer a (fld r.f 60 4) = some x → RunsTo (exec (.moveData r) s) fun t =>
          t = if x.write = true then ackFrame r a else responseData r (fld r.f 60 4) x a)) ∧
      (r.f.typ = 3 → (n = 0 ∨ 65536 < n ∨ rxAddrOk a addr n = false) → RunsTo (exec (.read r) s) fun t => t = refuseFrame r a) ∧
      (r.f.typ = 3 → 0 < n → n ≤ 65536 → rxAddrOk a addr n = true → RunsTo (exec (.read r) s) fun t =>
        t = ((parts 8192 n).map fun q => { mkFrame a false r.f.src 0 3 (moveArea (fld r.f 52 8 + q.1) 0 (fld r.f 60 4))
            (((readLocal a (gaddr addr) n).drop q.1).take q.2) with resp := true }).foldl
          (fun s f => handOff (rxPort r) { frame := f } s) (ackFrame r a)) ∧
      (r.f.typ = 4 → RunsTo (exec (.signal r) s) fun t =>
        t = ackFrame r (signalLogical (fld r.f 52 2) (fld r.f 54 1 % 64) (fld r.f 55 1 % 16) a)))

/-- A COLL frame that the receiver accepts, of the present layout epoch, whose ATTEMPT or step differs from the
receiver's current pair adds one to COLL_STALE of its Gallery die and does nothing else but be acknowledged as
any frame of a windowed flow: while that counter does not reach its largest value, no event is raised and
nothing else changes. (R351) -/
def Obligations.StaleCollectiveFramesAreDiscarded : Prop :=
  ∀ (s : State) (r : RxFrame), portOk r.die r.port = true → r.f.cls = 2 → r.f.typ = 0 → (accept r s).1 = true →
    let a := ackFrame r (accept r s).2
    r.f.epoch = a.steps.epoch → (fld r.f 52 4 ≠ a.steps.attempt ∨ fld r.f 56 4 ≠ a.steps.step % 2 ^ 32) →
    ∀ x ∈ [Instr.collChunkLand r, .collCredit r], RunsTo (exec x s) fun t =>
      t = bump (galBase r.die + 0x40028) 1 a ∧
      (tget 0 a.ctr (galBase r.die + 0x40028) + 1 < 2 ^ 64 - 1 →
        t = { a with ctr := tset 0 a.ctr (galBase r.die + 0x40028) (tget 0 a.ctr (galBase r.die + 0x40028) + 1) })

/-- A SACK that is accepted has its effect on the flow; a CNP counts in its port and, with ECN enabled, against
the flow's interval. The delay of an acknowledgement sends the SACK that is pending; the end of a reorder
allowance sends an exposed frame again; a retransmission timeout doubles the timeout up to 6.4 ms and sends
every held frame again; the end of a rate interval, from the line rate at first, sets the rate between 2
Gbit/s and the line rate, eighths down for up to four CNPs and a 64th or a 16th of the line rate up without
one. (R326, R327, R330, R331, 11_fabric.md) -/
def Obligations.FlowEventsComplete : Prop :=
  (∀ (s : State) (r : RxFrame), portOk r.die r.port = true → (accept r s).1 = true →
    (r.f.typ = 1 → RunsTo (exec (.sack r) s) fun t => t = sackEffect r (accept r s).2) ∧
    (r.f.typ = 2 → RunsTo (exec (.cnp r) s) fun t =>
      let b := bump (portBase (rxPort r) + 0x150) 1 (accept r s).2
      t = if (getPort b (rxPort r)).ctl.ecnEn = true then modSend (rxFlow r) (fun c => { c with cnps := c.cnps + 1 }) b else b)) ∧
  (∀ (s : State) (w : FlowId), flowOk w = true →
    let p := 2 * w.die + w.port
    let k := flowIdKey w
    let c := getSend s k
    RunsTo (exec (.sackDelayExpire w) s) (fun t =>
      t = if (getRecv s k).pending = 0 then s else sendSack p w.peer w.cls 0 s) ∧
    (∀ psn, c.unacked.find? (fun h => h.frame.psn == psn) = none → RunsTo (exec (.reorderExpire w psn) s) fun t => t = s) ∧
    (∀ (h : Held) (psn : Nat), c.unacked.find? (fun h => h.frame.psn == psn) = some h →
      RunsTo (exec (.reorderExpire w psn) s) fun t => t = (if h.exposed = true then resendHeld p w.peer w.cls psn else id)
        (modSend k (fun c => { c with unacked := c.unacked.map fun g =>
          if g.frame.psn = psn then { g with allowance := false } else g }) s)) ∧
    (c.unacked = [] → RunsTo (exec (.retxTimeout w) s) fun t => t = s) ∧
    (c.unacked ≠ [] → RunsTo (exec (.retxTimeout w) s) fun t =>
      t = c.unacked.foldl (fun s h => resendHeld p w.peer w.cls h.frame.psn s)
        (modSend k (fun c => { c with timeout := min (2 * c.timeout) 6400000 }) s)) ∧
    RunsTo (exec (.rateIntervalEnd w) s) (fun t =>
      let d := getSend t k
      let line := lineRate s p
      t = { s with sends := t.sends } ∧ (∀ j, j ≠ k → getSend t j = getSend s j) ∧ d.cnps = 0 ∧
      (0 < c.cnps → d.calm = 0 ∧ d.rate = some (max (c.rate.getD line * (8 - min c.cnps 4) / 8) 2000000000)) ∧
      (c.cnps = 0 → d.calm = c.calm + 1 ∧ d.rate = some (min (c.rate.getD line + line / (if d.calm ≤ 3 then 64 else 16)) line)) ∧
      d = { c with rate := d.rate, calm := d.calm, cnps := 0 }))

/-- On a port that is UP: a solicitation for the port's own address on a spine port is answered and any other
counts in PORT_OTHER_DROP, as does a frame that check 3 drops; a solicited answer to a resolution is kept and
waiting frames leave, any other counts there too; a resolution is solicited three times, and an answer
expires. A PFC frame of an enabled priority pauses it and counts, or with no pause time lets it go on, as the
end of the pause does. LLDP goes out when it is enabled. On a port that is not UP nothing that arrives has an
effect. (R321, R323, R332, R335, R336, 11_fabric.md) -/
def Obligations.NeighboursAndPausesOfAPort : Prop :=
  ∀ (s : State) (die port : Nat), portOk die port = true →
    let p := 2 * die + port
    (portUp s p = false → ∀ a b c d fcs, ∀ x ∈ [Instr.neighborSolicitation die port a b, .neighborAdvertisement die port a b fcs,
      .pfcFrame die port c d, .lldpTimer die port, .nonTransportFrame die port fcs a], RunsTo (exec x s) fun t => t = s) ∧
    (portUp s p = true →
      (∀ target source, RunsTo (exec (.neighborSolicitation die port target source) s) fun t =>
        t = if port = 0 ∧ target ∈ ownAddrs s p then emit p (.advertise target source) s else bump (portBase p + 0x130) 1 s) ∧
      (∀ addr mac sol, RunsTo (exec (.neighborAdvertisement die port addr mac sol) s) fun t =>
        t = if port = 0 ∧ sol = true ∧ 0 < (tget {} (getPort s p).nbrs addr).tries
          then pumpPorts (modPort p (fun q => { q with nbrs := tset {} q.nbrs addr ⟨some mac, 0⟩ }) s)
          else bump (portBase p + 0x130) 1 s) ∧
      (∀ addr n, tget {} (getPort s p).nbrs addr = ⟨none, n⟩ → 0 < n → RunsTo (exec (.nsRetryExpire die port addr) s) fun t =>
        t = if n < 3 then emit p (.solicit addr) (modPort p (fun q => { q with nbrs := tset {} q.nbrs addr ⟨none, n + 1⟩ }) s)
          else modPort p (fun q => { q with nbrs := tset {} q.nbrs addr {} }) s) ∧
      (∀ prio quanta, RunsTo (exec (.pfcFrame die port prio quanta) s) fun t =>
        (pfcOn s p prio = false → t = bump (portBase p + 0x130) 1 s) ∧
        (pfcOn s p prio = true → quanta = 0 → t = pumpPorts (modPort p (fun q => { q with paused := q.paused.filter (· != prio) }) s)) ∧
        (pfcOn s p prio = true → quanta ≠ 0 → t = bump (portBase p + 0x168) 1
          (modPort p (fun q => { q with paused := insertNew q.paused prio }) s))) ∧
      RunsTo (exec (.lldpTimer die port) s) (fun t => t = if (getPort s p).ctl.lldpEn = true then emit p (.lldp (lldpFrame p)) s else s) ∧
      (∀ fcs k, RunsTo (exec (.nonTransportFrame die port fcs k) s) fun t =>
        t = bump (portBase p + if fcs then 0x130 else 0x120) 1 s)) ∧
    (∀ addr, ((tget {} (getPort s p).nbrs addr).mac ≠ none ∨ (tget {} (getPort s p).nbrs addr).tries = 0) →
      RunsTo (exec (.nsRetryExpire die port addr) s) fun t => t = s) ∧
    (∀ addr, (tget {} (getPort s p).nbrs addr).mac ≠ none → RunsTo (exec (.neighborCacheExpire die port addr) s) fun t =>
      t = modPort p (fun q => { q with nbrs := tset {} q.nbrs addr {} }) s) ∧
    (∀ prio, RunsTo (exec (.pfcPauseExpire die port prio) s) fun t =>
      t = pumpPorts (modPort p (fun q => { q with paused := q.paused.filter (· != prio) }) s))

/-- Loss of PCS lock, or of a burst of uncorrectable codewords that it first counts, takes a port that is UP to
DOWN and its frames to other ports. After 1 s in DOWN, unless both halves are lastingly bad, the port enters
TRAINING; its link comes up on 8 lanes, or 4 at half width, unless lanes that failed three trainings spend
both halves and it goes DOWN; once stable it is UP and waiting frames leave; a timeout returns it to DOWN.
Each change of state raises EV_STATE_CHANGE of the Gallery die with the port, the new state and HALF. (R313,
R315, R316, R580, 11_fabric.md) -/
def Obligations.PortStateMachineMoves : Prop :=
  ∀ (s : State) (die port : Nat), portOk die port = true →
    let p := 2 * die + port
    let tells := fun (st : PortSt) (u : State) => raise (source 3 die) 0x0101
      [(18, 1, port), (19, 1, st.code), (20, 1, bit01 (getPort u p).half)] u
    let down := fun (u : State) => tells .down (modPort p (fun q => { q with
      st := .down, linkUp := false, lanes := 0, paused := [], xoff := [] }) u)
    ((getPort s p).st = .up →
      RunsTo (exec (.pcsLockLoss die port) s) (fun t => t = pumpPorts (down s)) ∧
      RunsTo (exec (.fecUncorrectableBurst die port) s) (fun t => t = pumpPorts (down (bump (portBase p + 0x160) 16 s)))) ∧
    ((getPort s p).st = .down → badHalves s (portLink p) 8 ≠ 3 → RunsTo (exec (.portDownExpire die port) s) fun t =>
      t = portTrain p s) ∧
    (((getPort s p).st ≠ .down ∨ badHalves s (portLink p) 8 = 3) → RunsTo (exec (.portDownExpire die port) s) fun t => t = s) ∧
    ((getPort s p).st = .training →
      ((getPort s p).linkUp = false → ∀ bad, RunsTo (exec (.portLinkUp die port bad) s) fun t =>
        let a := lanesTrained (portLink p) 8 bad
          (modPort p (fun q => { q with linkUp := true, lanes := if q.half then 4 else 8 }) s)
        t = if badHalves a (portLink p) 8 = 3 then portTo p .down a else a) ∧
      ((getPort s p).linkUp = true → RunsTo (exec (.portStableExpire die port) s) fun t =>
        t = pumpPorts (tells .up (modPort p (fun q => { q with st := .up }) s))) ∧
      (∀ bad, RunsTo (exec (.portTrainingTimeout die port bad) s) fun t =>
        t = portTo p .down (lanesTrained (portLink p) 8 bad s)))

/-- On an ACTIVE link a flit whose CRC fails after correction counts in BXL_CRC_ERR, starts discarding and is
answered by a NAK. A good flit's ACK and credit are taken, and a correction counts; an IDLE flit does no more;
a NAK sends every held flit again, as a replay timeout does; a DATA flit with the expected FSEQ delivers its
15 slots, any other is discarded, and only the first so discarded is answered by a NAK. On a link that is not
ACTIVE none has an effect. (R433, R434, R435, R437, 16_host_link.md) -/
def Obligations.FlitsOfTheHostLinkAreTaken : Prop :=
  ∀ (s : State) (bytes : List Byte),
    let r := correctFlit (sliceBytes bytes 0 256)
    let c := flitCtl r.1
    let a := takeAck c (bump (bxlBase + 0x120) (bit01 r.2) s)
    let rows := [(Instr.dataFlit bytes, 0), (.idleFlit bytes, 1), (.nakFlit bytes, 2)]
    (s.bxl.st ≠ .active → (∀ x ∈ rows, RunsTo (exec x.1 s) fun t => t = s) ∧
      RunsTo (exec .flitReplayTimeout s) fun t => t = s) ∧
    (s.bxl.st = .active →
      RunsTo (exec .flitReplayTimeout s) (fun t => t = resendFlits s) ∧
      (flitGood r.1 = false → ∀ x ∈ rows, RunsTo (exec x.1 s) fun t =>
        t = sendNak (modBxl (fun b => { b with discarding := true }) (bump (bxlBase + 0x118) 1 s))) ∧
      (flitGood r.1 = true →
        (c.ftype = 1 → RunsTo (exec (.idleFlit bytes) s) fun t => t = a) ∧
        (c.ftype = 2 → RunsTo (exec (.nakFlit bytes) s) fun t => t = resendFlits a) ∧
        (c.ftype = 0 → RunsTo (exec (.dataFlit bytes) s) fun t =>
          (c.fseq = a.bxl.expect → t = sendIdle (slotsTake (r.1.take 240) (bump (bxlBase + 0x108) 1 { a with
            bxl := { a.bxl with expect := (a.bxl.expect + 1) % 4096, discarding := false } }))) ∧
          (c.fseq ≠ a.bxl.expect → a.bxl.discarding = true → t = a) ∧
          (c.fseq ≠ a.bxl.expect → a.bxl.discarding = false →
            t = sendNak { a with bxl := { a.bxl with discarding := true } }))))

/-- From DOWN, after 1 ms with the link powered and a half that can be used, DETECT; from DETECT, with the pattern
on a usable half, TRAIN on 8 lanes or 4; from TRAIN, with lanes equalised on a usable half, ALIGN; from ALIGN,
ACTIVE with fresh credit or after a retrain with the old one. A timeout in DETECT, TRAIN or ALIGN and a loss
of lock in ALIGN lead to DOWN; a loss of lock in ACTIVE, or a request of the host, retrains. In any other
state these events change nothing. (R436, R437, R439, R440, 16_host_link.md) -/
def Obligations.HostLinkStatesMove : Prop :=
  ∀ s : State,
    (s.bxl.st = .down → linkPowered s = true → badHalves s hostLinkNo 8 ≠ 3 →
      RunsTo (exec .bxlDownExpire s) fun t => t = linkTo .detect s) ∧
    (∀ lanes, s.bxl.st = .detect → (halfSeen s lanes 0 = true ∨ halfSeen s lanes 1 = true) →
      RunsTo (exec (.trainingPatternSeen lanes) s) fun t => t = linkTo .train (modBxl (fun x => { x with
        lanes := if halfSeen s lanes 0 && halfSeen s lanes 1 then 8 else 4, fromRetrain := false }) (lanesRetire hostLinkNo 8 s))) ∧
    (∀ bad, s.bxl.st = .train →
      let u := lanesTrained hostLinkNo 8 bad s
      let out := fun h => bitAt (badHalves u hostLinkNo 8) h || (rangeFrom (4 * h) 4).any fun l => decide (l ∈ bad)
      RunsTo (exec (.lanesEqualised bad) s) fun t =>
        ((out 0 = true ∧ out 1 = true) → t = linkDown u) ∧
        ((out 0 = false ∨ out 1 = false) → t = linkTo .align
          (modBxl (fun b => { b with lanes := if out 0 || out 1 then 4 else b.lanes }) u))) ∧
    (s.bxl.st = .align → RunsTo (exec .alignDone s) fun t => t = pumpEvents (pumpLink (resendFlits (linkTo .active
      (modBxl (fun b => { b with
        credits := if s.bxl.fromRetrain then b.credits else [(0, vcBuffer 0), (1, vcBuffer 1), (2, vcBuffer 2), (3, vcBuffer 3)]
        retrainReq := false, fromRetrain := false, streak := 0, cxl := Config.adapterCxl }) s))))) ∧
    (∀ x ∈ [(Instr.bxlDetectExpire, LinkSt.detect), (.bxlTrainTimeout, .train), (.bxlAlignTimeout, .align)],
      RunsTo (exec x.1 s) fun t => t = if s.bxl.st = x.2 then linkDown s else s) ∧
    RunsTo (exec .bxlLockLoss s) (fun t =>
      (s.bxl.st = .active → t = retrain 1 s) ∧ (s.bxl.st = .align → t = linkDown s) ∧
      (s.bxl.st ≠ .active → s.bxl.st ≠ .align → t = s)) ∧
    (HostReady s (bxlBase + 0x08) → RunsTo (exec .bxlRetrainRequest s) fun t =>
      t = retrain 2 (modBxl (fun b => { b with retrainReq := true }) s))

/-- On an ACTIVE link: a write of 4 or 8 aligned bytes of BAR0 in a block that answers writes the register under
the mask of its bytes, and of BAR2 a doorbell; any other write counts in BXL_BAD_ACCESS and writes nothing. A
read answers MRSP with its tag: the bytes of the register, after which what reading it does is done, or all
ones for a refused one, which counts. A DRSP of an outstanding read is taken, its data delivered and the next
read sent; of any other tag it has no effect. The link messages of the adapter set the HDM bit. For every
command that is a host write of one register, or a read of CELL_TAGS: while the link is not ACTIVE no message
arrives and nothing changes; on an ACTIVE link, when the block of the register does not answer in the present
state, BXL_BAD_ACCESS counts and nothing else happens. (R438, R442, R449, R453, R556, 16_host_link.md,
22_register_map.md) -/
def Obligations.HostAccessesReachRegisters : Prop :=
  (∀ (s : State), s.bxl.st = .active →
    (∀ (space : BitVec 8) (addr : BitVec 64) (data : List Byte),
      let a := addr.toNat / 8 * 8
      let v := ofBytes data <<< (8 * (addr.toNat % 8))
      let m := barMask addr.toNat data.length
      let ok := barOk space.toNat addr.toNat data.length && barServed s space.toNat addr.toNat
      RunsTo (exec (.mwr space addr data) s) fun t =>
        (ok = true → space = 0 → t = regPut a v m s) ∧ (ok = true → space = 1 → t = doorbellPut a v m s) ∧
        (ok = false → t = bump (bxlBase + 0x130) 1 s)) ∧
    (∀ (space : BitVec 8) (addr : BitVec 64) (n tag : Nat),
      let ok := barOk space.toNat addr.toNat n && barServed s space.toNat addr.toNat
      let reg := if space = 0 then regGet s (addr.toNat / 8 * 8) else doorbellGet s (addr.toNat / 8 * 8)
      let answer := fun (d : List Byte) (u : State) =>
        sendMsg { typ := 0x03, len := n, tag := tag, space := space.toNat, addr := addr.toNat, data := d } u
      RunsTo (exec (.mrd space addr n tag) s) fun t =>
        (ok = true → space = 0 → t = answer (toBytes n (reg >>> (8 * (addr.toNat % 8))))
          (regRead (addr.toNat / 8 * 8) (barMask addr.toNat n) s)) ∧
        (ok = true → space = 1 → t = answer (toBytes n (reg >>> (8 * (addr.toNat % 8)))) s) ∧
        (ok = false → t = answer (List.replicate n 0xFF#8) (bump (bxlBase + 0x130) 1 s))) ∧
    (∀ (tag : Nat) (flags : BitVec 8) (data : List Byte), RunsTo (exec (.drsp tag flags data) s) fun t =>
      (tget none s.bxl.reads tag = none → t = s) ∧
      (∀ r, tget none s.bxl.reads tag = some r → t = issueRead (readAnswered r data (flags.toNat % 4 == 0)
        (modBxl (fun b => { b with reads := tset none b.reads tag none }) s)))) ∧
    (∀ data : List Byte, RunsTo (exec (.lmsg data) s) fun t =>
      t = modBxl (fun b => { b with hdm := data.headD 0#8 != 0#8 }) s) ∧
    (∀ opx : BitVec 8, RunsTo (exec (.inbandReset opx) s) fun t => t = if opx = 1 then warmReset s else s)) ∧
  (∀ (s : State) (v : BitVec 64) (g port site d c : Nat), portOk g port = true → siteOk site = true → d < 8 → c < 100 →
    ∀ x ∈ [(Instr.bxlRetrainRequest, bxlBase + 0x08), (.bxlCmdqCfgWrite v, bxlBase + 0x18),
      (.bxlCmdqTailWrite v, bxlBase + 0x20), (.bxlCplqHeadWrite v, bxlBase + 0x38), (.planKeyLock, hfBase + 0x40),
      (.evtRingSizeWrite v, obsBase + 0x08), (.evtTailWrite v, obsBase + 0x18), (.ctrClear v, obsBase + 0x108),
      (.pmapFenceReg, pmapBase + 0x18), (.pmapBaseWrite v, pmapBase), (.modeCtlWrite v, 0x200), (.pwrCapWrite v, 0x800),
      (.lampRtcWrite v, lampBase), (.portCtlWrite g port v, portBase (2 * g + port) + 8), (.arbClear site, arbClearOff site),
      (.cellTagsRead d c, cellBase (128 * d + c) + 0x10)],
    (s.bxl.st ≠ .active → RunsTo (exec x.1 s) fun t => t = s) ∧
    (s.bxl.st = .active → served s x.2 = false → RunsTo (exec x.1 s) fun t => t = bump (bxlBase + 0x130) 1 s))

/-- On an ACTIVE link with a lend range in force, a write of a line inside it stores exactly the enabled bytes of
the line at the range's base plus its address and is answered; every other byte of the deep tier, all of HBM
and every cell are unchanged. Beyond the range it counts in LEND_OUTSIDE, writes nothing and is answered. A
read inside the range is answered with the line and writes nothing, and a speculative read does nothing at
all. (R390, R392, R452, R453, 13_memory_system.md) -/
def Obligations.LentMemoryIsReadAndWritten : Prop :=
  ∀ (s : State) (tag : Nat) (addr : BitVec 64) (data : List Byte) (e : BitVec 64), s.bxl.st = .active →
    let a := addr.toNat / 64 * 64
    let off := s.lend.base * 2 ^ 30 + a
    let same := fun (t : State) => t.hbm = s.hbm ∧ t.cells = s.cells ∧ t.lend = s.lend
    (s.lend.on = true → a < s.lend.size * 2 ^ 30 →
      (∀ x ∈ [(Instr.cxlMemwr tag addr data, BitVec.allOnes 64), (.cxlMemwrptl tag addr data e, e)],
        RunsTo (exec x.1 s) fun t => same t ∧
          (∀ i < 64, mget t.deep (off + i) = if x.2.getLsbD i = true then (sliceBytes data 0 64).getD i 0#8 else mget s.deep (off + i)) ∧
          (∀ b, b < off ∨ off + 64 ≤ b → mget t.deep b = mget s.deep b)) ∧
      (∀ x ∈ [Instr.cxlMemrd tag addr, .cxlMemrddata tag addr], RunsTo (exec x s) fun t => same t ∧ t.deep = s.deep ∧
        t = cxlAnswer tag addr.toNat (decide ((1, off / 64) ∈ s.bad)) (readTier s 1 off 64) s)) ∧
    ((s.lend.on = false ∨ s.lend.size * 2 ^ 30 ≤ a) →
      (∀ x ∈ [Instr.cxlMemwr tag addr data, .cxlMemwrptl tag addr data e], RunsTo (exec x s) fun t =>
        same t ∧ t.deep = s.deep ∧ t = cxlAnswer tag addr.toNat false [] (bump 0x508 1 s)) ∧
      (∀ x ∈ [Instr.cxlMemrd tag addr, .cxlMemrddata tag addr], RunsTo (exec x s) fun t => same t ∧ t.deep = s.deep)) ∧
    RunsTo (exec (.cxlMemspecrd addr) s) fun t => t = s

/-- For a cell whose window answers: the PEAK field of the value read is the peak; after CELL_TAGS_READ, and after
an MRD of the register's eight bytes, the cell's peak is the number of tags that it uses, and nothing else of
the cell and no other cell changed. With no tag in use and a peak of three, the peak after the read is zero
only because IN_USE is. (R66) -/
def Obligations.ReadingCellTagsRestartsThePeak : Prop :=
  ∀ (s : State) (die cell tag : Nat), die < 8 → cell < 100 →
    let k := 128 * die + cell
    let off := cellBase k + 0x10
    HostReady s off → (getCell s k).tagsPeak ≤ 512 →
    fieldOf (regGet s off) 25 16 = (getCell s k).tagsPeak ∧
    ∀ x ∈ [Instr.cellTagsRead die cell, .mrd 0 (BitVec.ofNat 64 off) 8 tag], RunsTo (exec x s) fun t =>
      getCell t k = { getCell s k with tagsPeak := tagsInUse (getCell s k) } ∧ ∀ j, j ≠ k → getCell t j = getCell s j

/-- Where its block answers: BXL_CMDQ_CFG with ENABLE and sizes from 4 to 12 enables a disabled queue with both
heads and tails at 0, and with ENABLE clear disables an enabled one; a tail within the queue is kept and
commands are read, one beyond it counts as a bad access; a head of the completion queue lets completions out.
A write of a doorbell's host index is a write of its register. The end of a hold-off sends an interrupt that
waits while its cause is present. (R443, R444, R445, R450, R451, 16_host_link.md) -/
def Obligations.QueueRegistersTakeEffect : Prop :=
  ∀ (s : State) (v : BitVec 64),
    (HostReady s (bxlBase + 0x18) →
      (s.bxl.enable = false → bitAt v.toNat 16 = true → fieldOf v.toNat 3 0 ∈ rangeFrom 4 9 → fieldOf v.toNat 11 8 ∈ rangeFrom 4 9 →
        RunsTo (exec (.bxlCmdqCfgWrite v) s) fun t =>
          t = queueOn (modBxl (fun b => { b with cmdqLog := fieldOf v.toNat 3 0, cplqLog := fieldOf v.toNat 11 8 }) s)) ∧
      (s.bxl.enable = true → bitAt v.toNat 16 = false → RunsTo (exec (.bxlCmdqCfgWrite v) s) fun t => t = queueOff s) ∧
      (s.bxl.enable = true → bitAt v.toNat 16 = true → RunsTo (exec (.bxlCmdqCfgWrite v) s) fun t => t = s)) ∧
    (HostReady s (bxlBase + 0x20) →
      let tail := v.toNat % 2 ^ 32
      RunsTo (exec (.bxlCmdqTailWrite v) s) fun t =>
        ((tail + 2 ^ 32 - s.bxl.cmdHead) % 2 ^ 32 ≤ 2 ^ s.bxl.cmdqLog → t = pumpCmds { s with bxl := { s.bxl with cmdTail := tail } }) ∧
        (2 ^ s.bxl.cmdqLog < (tail + 2 ^ 32 - s.bxl.cmdHead) % 2 ^ 32 → t = bump (bxlBase + 0x130) 1 s)) ∧
    (HostReady s (bxlBase + 0x38) → RunsTo (exec (.bxlCplqHeadWrite v) s) fun t =>
      t = pumpCpl (modBxl (fun b => { b with cplHead := v.toNat % 2 ^ 32 }) s)) ∧
    (∀ n, n < 16384 → s.bxl.st = .active → RunsTo (exec (.dbHostIdxWrite n v) s) fun t =>
      t = if bar2Served s = true then doorbellPut (64 * n + 0x10) v.toNat allBits s else bump (bxlBase + 0x130) 1 s) ∧
    (∀ n, n < 64 → n ∈ s.bxl.irqHeld →
      let a := modBxl (fun b => { b with irqHeld := b.irqHeld.filter (· != n), irqWait := b.irqWait.filter (· != n) }) s
      RunsTo (exec (.irqHoldoffExpire n) s) fun t =>
        (n ∈ s.bxl.irqWait → irqCause a n = true → t = irq n a) ∧ (n ∉ s.bxl.irqWait → t = a))

/-- Where the OBS block answers, a write of CTR_CLEAR leaves every saturating counter and every overflow register
of a group whose bit is set at zero, and every one of another group at its value; and nothing but counters,
overflow bits and the tallies of arbiters changes. ARB_CLEAR zeroes the tally that the die's ARB_SEL names and
no other tally. (R386, R394, R474, 18_observability.md) -/
def Obligations.CounterClearZeroesItsGroups : Prop :=
  (∀ (s : State) (v : BitVec 64), HostReady s (obsBase + 0x108) → RunsTo (exec (.ctrClear v) s) fun t =>
    let g := v.toNat % 2 ^ 25
    (∀ off, bitAt g (groupOf off) = true → tget 0 t.ctr off = 0 ∧ tget 0 t.ovf off = 0) ∧
    (∀ off, bitAt g (groupOf off) = false → tget 0 t.ctr off = tget 0 s.ctr off ∧ tget 0 t.ovf off = tget 0 s.ovf off) ∧
    t = { s with ctr := t.ctr, ovf := t.ovf, arbs := t.arbs }) ∧
  (∀ (s : State) (site : Nat), siteOk site = true → HostReady s (arbClearOff site) → RunsTo (exec (.arbClear site) s) fun t =>
    let w := tget {} s.arbWins site
    let k := arbKey site (fieldOf w.sel 28 16)
    (∀ j, j ≠ k → tget {} t.arbs j = tget {} s.arbs j) ∧
    (∀ r, tget {} (tget {} t.arbs k).tallies r = if r = w.sel % 256 then {} else tget {} (tget {} s.arbs k).tallies r) ∧
    t = { s with arbs := t.arbs })

/-- Where its block answers: EVT_RING_SIZE of a size in range empties and enables the ring, and of 0 disables it;
EVT_TAIL of an index not yet read is refused and counts; a record that has landed moves the head and
interrupts. HF_PLAN_KEY_CTL.LOCK locks the key. PMAP_FENCE starts a fence, or extends the one in force to
every edit and walk that began before. PMAP_BASE changes only without an active plan. MODE_CTL keeps its field
on a reserved workload. PWR_CAP takes 2,000 to 4,800 W. LAMP_RTC waits for the next crystal edge. Outside OFF,
an enabled comparator that has not fired and whose sampled quantity is at or beyond its threshold in its
direction sets FIRED and raises its event with its number and the value, and its wake source when WAKE is set,
changing nothing else of the Lamp room; one that is disabled, has fired or does not meet its threshold changes
nothing, and in OFF none does. (R456, R458, R481, R486, R524, R534, R559, R560, R337, R488, R489,
18_observability.md) -/
def Obligations.ControlRegistersTakeEffect : Prop :=
  (∀ (s : State) (v : BitVec 64),
    (HostReady s (obsBase + 0x08) →
      (6 ≤ v.toNat % 32 → v.toNat % 32 ≤ 20 → RunsTo (exec (.evtRingSizeWrite v) s) fun t => t = raiseTrip (pumpEvents
        (modObs (fun o => { o with ringLog := v.toNat % 32, head := 0, tail := 0, landing := 0 }) s))) ∧
      (v.toNat % 32 = 0 → RunsTo (exec (.evtRingSizeWrite v) s) fun t => t = modObs (fun o => { o with ringLog := 0 }) s)) ∧
    (HostReady s (obsBase + 0x18) →
      let size := if s.obs.ringLog = 0 then 0 else 2 ^ s.obs.ringLog
      let behind := (s.obs.head + 2 ^ 32 - v.toNat % 2 ^ 32) % 2 ^ 32
      RunsTo (exec (.evtTailWrite v) s) fun t =>
        (behind ≤ size → t = pumpEvents (modObs (fun o => { o with tail := v.toNat % 2 ^ 32 }) s)) ∧
        (size < behind → t = bump (bxlBase + 0x130) 1 s)) ∧
    (s.obs.landing ≠ 0 → RunsTo (exec .eventRecordLanded s) fun t =>
      t = irq 1 (modObs (fun o => { o with head := (o.head + 1) % 2 ^ 32, landing := o.landing - 1 }) s)) ∧
    (HostReady s (hfBase + 0x40) → RunsTo (exec .planKeyLock s) fun t =>
      t = lockKey s ∧ t.hf.planKeyLock = true ∧ t.hf.planKey = s.hf.planKey) ∧
    (HostReady s (pmapBase + 0x18) → RunsTo (exec .pmapFenceReg s) fun t =>
      t = fenceCheck { s with pmap := { s.pmap with fenceHost := some (fenceSnap s) } }) ∧
    (HostReady s pmapBase → RunsTo (exec (.pmapBaseWrite v) s) fun t =>
      (s.plan.active = true → t = s) ∧
      (s.plan.active = false → t.pmap.base = v.toNat % 2 ^ 40 / 16 * 16 ∧
        t.pmap.page = if v.toNat % 8 < 5 then v.toNat % 8 else s.pmap.page)) ∧
    (HostReady s 0x200 → RunsTo (exec (.modeCtlWrite v) s) fun t => ∃ w, t = latchModes { s with modes := { s.modes with ctl := w } } ∧
      w % 4 = if v.toNat % 4 = 3 then s.modes.ctl % 4 else v.toNat % 4) ∧
    (HostReady s 0x800 → inAttempt s = true → s.pwr.cap < 8192 → RunsTo (exec (.pwrCapWrite v) s) fun t =>
      let w := v.toNat % 8192
      t = { s with pwr := { s.pwr with cap := if 2000 ≤ w ∧ w ≤ 4800 then w else s.pwr.cap } }) ∧
    (HostReady s 0x800 → RunsTo (exec (.pwrCapWrite v) s) fun t => t = pwrCapPut v.toNat allBits s) ∧
    (HostReady s lampBase → RunsTo (exec (.lampRtcWrite v) s) fun t =>
      t = { s with lamp := { s.lamp with rtcWrite := some (v.toNat % 2 ^ 48) } }) ∧
    (∀ die port, portOk die port = true → HostReady s (portBase (2 * die + port) + 8) →
      RunsTo (exec (.portCtlWrite die port v) s) fun t => t = portCtlSet (2 * die + port) v.toNat s)) ∧
  (∀ (s : State) (n : Nat) (v : BitVec 64), n < 8 →
    let c := tget {} s.lamp.cmps n
    let x := cmpValue s c v
    let met := if c.dir then x.sle c.thr else c.thr.sle x
    ((c.enable = false ∨ s.pwr.state = stOff ∨ met = false ∨ c.fired = true) →
      RunsTo (exec (.comparatorSample n v) s) fun t => t = s) ∧
    (c.enable = true → s.pwr.state ≠ stOff → met = true → c.fired = false → (c.qty = 2 → s.pwr.pwrGood = true) →
      RunsTo (exec (.comparatorSample n v) s) fun t =>
        t = raise (source 6 n) 0x0101 [(18, 1, n), (24, 8, x.toNat)] (modLamp (fun l => { l with
          cmps := tmod {} l.cmps n fun c => { c with fired := true }
          wakeSrc := if c.wake then l.wakeSrc ||| 1 <<< n else l.wakeSrc }) s) ∧
        (tget {} t.lamp.cmps n).fired = true ∧ ∀ j, j ≠ n → tget {} t.lamp.cmps j = tget {} s.lamp.cmps j))

/-- A request that can start begins; one that must wait joins the queue of 16, and an unknown activity ends with
PLAN_INVALID. A write of MAINT_CTL takes the named activities off the queue with NOT_READY. The work of a
running activity: the scrubs of HBM, the deep tier and the cells, the margin survey, the compaction of the
map, a retrained port, a staged image and the mirror's check, each of which then ends with its code; one that
does not run does nothing. A lane's FEC interval adds a port's corrections to its counter, and one over its
limit is one correctable error; a mirror that disagrees ends with a code that the spec leaves open (the
model's free value: notes/assumptions/122.md). (R57, R239, R371, R466, R467, R468, R490, R504, R516,
17_modes.md) -/
def Obligations.MaintenanceCommandsComplete : Prop :=
  (∀ (s : State) (id : BitVec 16) (w : MaintWord),
    let b := take id.toNat 0x40 s
    let r : MaintReq := ⟨b.1, w.activity.toNat, if w.activity.toNat = 5 then w.port.toNat else 0, w.arg0.toNat, w.arg1.toNat, none⟩
    (s.pwr.state ≠ stFault → 7 < w.activity.toNat → RunsTo (exec (.maintStart id w) s) fun t => t = complete b.1 cPlanInvalid b.2) ∧
    (w.activity.toNat = 4 ∨ w.activity.toNat = 5 ∨ w.activity.toNat = 6 ∨ w.activity.toNat = 7 →
      (s.pwr.state ≠ stFault ∨ w.activity.toNat = 6) → (w.activity.toNat = 5 → w.port.toNat ≤ 6) →
      (w.activity.toNat = 4 → s.plan.active = true ∧ (compactRange b.2 w.arg0.toNat w.arg1.toNat).isSome) →
      (w.activity.toNat = 6 → w.arg1.toNat ≤ 23 * 2 ^ 20) → RunsTo (exec (.maintStart id w) s) fun t =>
        t = if maintReady b.2 r && (blockers b.2 b.2.modes.waiting r).isEmpty then maintBegin r b.2 else maintWait r b.2) ∧
    (s.pwr.state ≠ stFault → w.activity.toNat ≤ 3 → RunsTo (exec (.maintStart id w) s) fun t =>
      t = if maintReady b.2 r && (blockers b.2 b.2.modes.waiting r).isEmpty then maintBegin r b.2 else maintWait r b.2)) ∧
  (∀ (s : State) (v : BitVec 64), HostReady s 0x300 → RunsTo (exec (.maintCancel v) s) fun t =>
    t = maintCtlPut v.toNat allOnes64 s) ∧
  (∀ (s : State) (r : MaintReq),
    (maintJob s 0 = some r → RunsTo (exec .scrubHbm s) fun t => t = workDone r cOk (scrubPasses 0 true s)) ∧
    (maintJob s 1 = some r → RunsTo (exec .scrubDeep s) fun t => t = workDone r cOk (scrubPasses 16 true s)) ∧
    (maintJob s 2 = some r → (∃ e ∈ s.cells, e.2.scratchHeld = true) → RunsTo (exec .scrubSram s) fun t =>
      t = workDone r cOk (((s.cells.filter fun e => e.2.scratchHeld).map (·.1)).foldl (fun s k => testCell k s) s)) ∧
    (maintJob s 2 = some r → (∀ e ∈ s.cells, e.2.scratchHeld = false) → RunsTo (exec .scrubSram s) fun t =>
      t = (sramCells s).foldl (fun s k => testCell k s) s) ∧
    (s.pwr.reset = .cold → s.pwr.state = stMemtrain → s.pwr.surveyed = false → ∀ l, RunsTo (exec (.marginSurvey l) s) fun t =>
      t = surveyStart l s) ∧
    (maintJob s 3 = some r → (s.pwr.reset ≠ .cold ∨ s.pwr.state ≠ stMemtrain ∨ s.pwr.surveyed = true) → ∀ l, RunsTo (exec (.marginSurvey l) s) fun t =>
      t = workDone r cOk (surveyRun l s)) ∧
    (maintJob s 4 = some r → s.pmap.relocs = [] →
      let a := { s with pmap := { s.pmap with compact := compactRange s r.arg0 r.arg1 } }
      RunsTo (exec .mapCompact s) fun t => t = if compactLeft a = [] then workDone r cOk a
        else ((compactLeft a).take 64).foldl (fun s k => startReloc k s) a) ∧
    (maintJob s 4 = some r → s.pmap.relocs ≠ [] → RunsTo (exec .mapCompact s) fun t =>
      t = { s with pmap := { s.pmap with compact := compactRange s r.arg0 r.arg1 } }) ∧
    (∀ img, maintJob s 6 = some r → r.arg1 ≤ s.modes.fwGot → fwCode s img ≠ cOk → RunsTo (exec (.fwStage img) s) fun t =>
      t = workDone r (fwCode s img) s) ∧
    (∀ img, maintJob s 6 = some r → r.arg1 ≤ s.modes.fwGot → fwCode s img = cOk → RunsTo (exec (.fwStage img) s) fun t =>
      t.hf.bootRecord = fwTarget s ∧ t.hf.fwPending = true ∧
      (if fwTarget s then t.hf.slotB else t.hf.slotA) = { header := img.header } ∧
      t = workDone r cOk { s with hf := t.hf }) ∧
    (maintJob s 7 = some r → badMirrors s r = [] → RunsTo (exec .ckptMirrorVerify s) fun t => t = mirrorsChecked r [] cOk s) ∧
    (maintJob s 7 = some r → badMirrors s r ≠ [] → RunsTo (exec .ckptMirrorVerify s) fun t =>
      ∃ code < 17, t = mirrorsChecked r (badMirrors s r) code { s with free := s.free + 1 })) ∧
  (∀ s : State, ∀ x ∈ [(Instr.scrubHbm, 0), (.scrubDeep, 1), (.scrubSram, 2), (.mapCompact, 4), (.ckptMirrorVerify, 7)],
    maintJob s x.2 = none → RunsTo (exec x.1 s) fun t => t = s) ∧
  (∀ (s : State) (n : Nat) (r : MaintReq), n < 7 →
    s.modes.running.find? (fun r => r.activity == 5 && r.port == n && r.done.isNone) = some r →
    RunsTo (exec (.linkRetrain n) s) fun t => t = workDone r cOk
      (if portUp s (maintPort n) = true then portTrain (maintPort n) (portLeave (maintPort n) .held s) else s)) ∧
  (∀ (s : State) (a p : Nat) (r : MaintReq),
    s.modes.running.find? (fun r => r.activity == a && (a != 5 || r.port == p) && mayEnd s r) = some r →
    RunsTo (exec (.maintEnd a p) s) fun t => t = maintFinish r (if a = 7 then endCode s r else r.done.getD cOk) s) ∧
  (∀ (s : State) (link lane c n : Nat), linkExists link = true → (lane < if link < 28 then 256 else 8) →
    RunsTo (exec (.fecIntervalEnd link lane c n) s) fun t =>
      let a := if 32 ≤ link ∧ link < 40 then bump (portBase (link - 32) + 0x158) c s else s
      t = if 1000 < c ∨ (link < 28 ∧ 16 < n) then countCE ⟨4, link, lane, 0, 0⟩ 0 a else a)

/-- A request of 64 B to 1 KiB within a page is admitted. A channel issues its choice, and with a row that must be
opened every request of the window to that page. A read that is answered clean leaves, corrected counts its
error, uncorrectable in an attempt of TRAIN or EVAL sends FAIL with STEP_ABORTED. A refresh or an idle time
closes the bank's row. A channel that does not answer is reset, its requests are uncorrectable and the attempt
fails with CANARY_TIMEOUT. (R368, R370, R375, R376, R379, R381, 13_memory_system.md) -/
def Obligations.MemoryControllersServeRequests : Prop :=
  ∀ (s : State) (ctl : Nat), ctl < 32 →
    (∀ w : ReqWord, w.requester < ctlRequesters ctl → w.off + w.len ≤ stackBytes ctl → 64 ≤ w.len → w.len ≤ 1024 →
      w.off % 1024 + w.len ≤ 1024 → (w.fill = true → w.len = 128 ∧ w.write = false) → RunsTo (exec (.memoryRequest ctl w) s) fun t =>
        t = admitReq ctl s ⟨w.requester, w.off, w.len, w.write, w.fill, ofAttempt s ctl w.requester⟩) ∧
    (∀ (chan : Nat) (aged : Bool), chan < ctlChans ctl →
      (chooseReq s ctl chan aged = none → RunsTo (exec (.mcCommand ctl chan aged) s) fun t => t = s) ∧
      (∀ q, chooseReq s ctl chan aged = some q → RunsTo (exec (.mcCommand ctl chan aged) s) fun t =>
        (rowOpen (getMc s ctl) ctl q = true → t = issueReqs ctl [q] s) ∧
        (rowOpen (getMc s ctl) ctl q = false → t = issueReqs ctl
          ((window s ctl chan).filter fun p => bankOf ctl p.off == bankOf ctl q.off && rowOf ctl p.off == rowOf ctl q.off)
          (modMc ctl (fun m => { m with openRows := tset 0 m.openRows (bankOf ctl q.off) (rowOf ctl q.off + 1) }) s)))) ∧
    (∀ q rest, (getMc s ctl).issued = q :: rest →
      let a := modMc ctl (fun m => { m with issued := rest }) s
      RunsTo (exec (.memoryReadComplete ctl .clean) s) (fun t => t = admitWaiting ctl a) ∧
      RunsTo (exec (.memoryReadComplete ctl .corrected) s) (fun t => t = admitWaiting ctl (memCE ctl q.off a)) ∧
      RunsTo (exec (.memoryReadComplete ctl .uncorrectable) s) (fun t =>
        let b := memUE ctl q.off 2 a
        t = admitWaiting ctl (if q.attempt = true ∧ workload b ≤ 1 then sendFail cStepAborted (ctlSource ctl) b else b))) ∧
    (∀ chan bank, bankOk ctl chan bank = true →
      RunsTo (exec (.bankRefresh ctl chan bank) s) (fun t => t = closeRow ctl chan bank s) ∧
      RunsTo (exec (.rowIdleClose ctl chan bank) s) (fun t => t = closeRow ctl chan bank s) ∧
      (∀ age, (getMc s ctl).quotaRaised = false →
        128 ≤ ((getMc s ctl).pool.filter fun q => bankOf ctl q.off == chan * 64 + bank).length →
        RunsTo (exec (.bankQuotaExpire ctl chan bank age) s) fun t =>
          t = raise (ctlSource ctl) 0x0402 [(18, 1, chan), (19, 1, bank), (20, 4, age)]
            (modMc ctl (fun m => { m with quotaRaised := true }) s))) ∧
    (∀ chan q rest, chan < ctlChans ctl → ((getMc s ctl).issued.filter fun q => chanOf ctl q.off == chan) = q :: rest →
      RunsTo (exec (.channelCanaryExpire ctl chan) s) fun t => ∃ a b, t = admitWaiting ctl b ∧
        b = (if workload a ≤ 1 then sendFail cCanaryTimeout (ctlSource ctl) a else a) ∧
        a = (q :: rest).foldl (fun s p => bump (mcBase ctl + 0x30) 1 (memUE ctl p.off 3 s)) (modMc ctl (fun m => { m with
          chanReset := true, issued := m.issued.filter fun p => chanOf ctl p.off != chan
          openRows := tclear m.openRows (chan * 64) (chan * 64 + 64) })
          (raise (ctlSource ctl) 0x0401 [(18, 1, chan), (19, 1, (rowPlace ctl q.off).2.1)] s)))

/-- A patrol scrub of a trained controller handles what it reads and moves to the next granule, around the stack;
of one that is not trained it does nothing. A queued repair starts between attempts when its bank has a spare
row, and ends with the row in the spare, its count and its event. An arbiter grants its choice and tallies it;
a grant held too long is released, its requester isolated and reported, and the attempt fails with
CANARY_TIMEOUT; a cell that held it stops and counts an uncorrectable error. (R371, R373, R374, R383, R384,
R386, R387, 13_memory_system.md) -/
def Obligations.ScrubsRepairsAndArbitersAct : Prop :=
  (∀ (s : State) (ctl : Nat), ctl < 32 →
    let m := getMc s ctl
    let next := modMc ctl (fun m => { m with scrubPos := (m.scrubPos + 64) % stackBytes ctl })
    (m.trained = false → ∀ r, RunsTo (exec (.patrolScrub ctl r) s) fun t => t = s) ∧
    (m.trained = true →
      RunsTo (exec (.patrolScrub ctl .clean) s) (fun t => t = next s) ∧
      RunsTo (exec (.patrolScrub ctl .corrected) s) (fun t => t = next (memCE ctl m.scrubPos s)) ∧
      RunsTo (exec (.patrolScrub ctl .uncorrectable) s) (fun t => t = next (memUE ctl m.scrubPos 2 s))) ∧
    (∀ off rest, m.repairQ = off :: rest → m.repairing = none → inAttempt s = false →
      tget 0 m.used (bankOf ctl off) < bankSpares ctl (bankOf ctl off) → RunsTo (exec (.repairStart ctl) s) fun t =>
        t = closeRow ctl (chanOf ctl off) (rowPlace ctl off).2.1
          (modMc ctl (fun m => { m with repairQ := rest, repairing := some off }) s)) ∧
    (m.repairQ = [] → RunsTo (exec (.repairStart ctl) s) fun t => t = s) ∧
    (∀ off, m.repairing = some off → RunsTo (exec (.repairComplete ctl) s) fun t =>
      t = raiseRetired (rowSite ctl off) 0 (modFaults (fun f => { f with lasting := f.lasting.filter (· != rowSite ctl off) })
        (bump (mcBase ctl + 0x18) 1 (modMc ctl (fun m => { m with repairing := none, used := tmod 0 m.used (bankOf ctl off) (· + 1) })
          (rowBack (ctlTier ctl) (tierOff ctl off / 1024 * 1024) s)))))) ∧
  (∀ (s : State) (site arb : Nat), 0 < arbReqs site arb →
    let b := tget {} s.arbs (arbKey site arb)
    (∀ present : List Nat, (∀ r ∈ present, r < arbReqs site arb) →
      let c := arbChoose s site arb ((rangeFrom 0 (arbReqs site arb)).filter fun r => decide (r ∈ present) && decide (r ∉ b.isolated))
      let a := { s with arbs := tset {} s.arbs (arbKey site arb) { b with holder := c.1, credits := c.2 } }
      RunsTo (exec (.arbiterGrant site arb present) s) fun t =>
        (c.1 = none → t = a) ∧ (∀ r, c.1 = some r → t = bankLosers site arb
          (((rangeFrom 0 (arbReqs site arb)).filter fun r => decide (r ∈ present) && decide (r ∉ b.isolated)).length - 1) (tally site arb r a))) ∧
    (∀ r, b.holder = some r → RunsTo (exec (.grantHeldCanaryExpire site arb) s) fun t =>
      let a := raise (arbSource site) 0x0401 [(20, 2, arb), (22, 1, r)] { s with
        arbs := tset {} s.arbs (arbKey site arb) { b with holder := none, isolated := insertNew b.isolated r }
        arbWins := tmod {} s.arbWins site fun w => { w with isoValid := true, isoArb := arb, isoReq := r } }
      let c := if workload a ≤ 1 then sendFail cCanaryTimeout (arbSource site) a else a
      (arbCell site arb r = none → t = c) ∧
      (∀ k, arbCell site arb r = some k → t = countUE ⟨3, k / 128, k % 128, 0, 0⟩ 0 (stopFormation k cCanaryTimeout c))) ∧
    (b.holder = none → RunsTo (exec (.grantHeldCanaryExpire site arb) s) fun t => t = s))

/-- LEND_SET of more than 512 GiB ends with PLAN_INVALID; while the host uses the range, or one is being zeroed,
with NOT_READY; where the range meets the plan, with LEND_CONFLICT; else it takes effect once every GiB that
enters is zero. After LEND_ZEROING_COMPLETE the entering range reads zero and no other byte of the deep tier
changed. ATTEST joins the queue of the Headframe; a signed report goes to the host and ends its command with
OK; the alias and the reservation continue what waits for them. (R388, R389, R518, R520, R523, 20_security.md) -/
def Obligations.LendingAndAttestationComplete : Prop :=
  (∀ (s : State) (id base size : BitVec 16), s.pwr.state ≠ stFault →
    let b := take id.toNat 0x50 s
    (512 < size.toNat → RunsTo (exec (.lendSet id base size) s) fun t => t = complete b.1 cPlanInvalid b.2) ∧
    (size.toNat ≤ 512 →
      ((s.bxl.hdm = true ∨ s.lend.zeroing = true) → RunsTo (exec (.lendSet id base size) s) fun t => t = complete b.1 cNotReady b.2) ∧
      (s.bxl.hdm = false → s.lend.zeroing = false →
        (0 < size.toNat → lendConflict b.2 base.toNat size.toNat = true → RunsTo (exec (.lendSet id base size) s) fun t =>
          t = complete b.1 cLendConflict b.2) ∧
        (lendConflict b.2 base.toNat size.toNat = false → RunsTo (exec (.lendSet id base size) s) fun t =>
          t = if lendEnters b.2 base.toNat size.toNat = true then
              { b.2 with lend := { b.2.lend with zeroing := true, newBase := base.toNat, newSize := size.toNat, cmd := some b.1 } }
            else complete b.1 cOk (lendCommit base.toNat size.toNat b.2))))) ∧
  (∀ s : State, s.lend.zeroing = true → RunsTo (exec .lendZeroingComplete s) fun t =>
    let l := s.lend
    let enters := fun (g : Nat) => l.newBase ≤ g ∧ g < l.newBase + l.newSize ∧ ¬(l.on = true ∧ l.base ≤ g ∧ g < l.base + l.size)
    (∀ b, enters (b / 2 ^ 30) → mget t.deep b = 0#8) ∧ (∀ b, ¬enters (b / 2 ^ 30) → mget t.deep b = mget s.deep b) ∧
    t.hbm = s.hbm ∧ t.cells = s.cells) ∧
  (∀ (s : State) (id : BitVec 16) (nonce : BitVec 256) (addr : BitVec 64) (len : BitVec 32),
    let b := take id.toNat 0x60 s
    (s.pwr.state ≠ stFault → RunsTo (exec (.attest id nonce addr len) s) fun t =>
      t = serveAttest (modHf (fun h => { h with jobs := h.jobs ++ [⟨b.1, toBytes 32 nonce.toNat, addr.toNat, len.toNat⟩] }) b.2)) ∧
    (s.pwr.state = stFault → RunsTo (exec (.attest id nonce addr len) s) fun t => t = complete b.1 cNotReady b.2)) ∧
  (∀ s : State,
    (s.hf.signing = false → RunsTo (exec .attestSigned s) fun t => t = s) ∧
    (∀ j rest, s.hf.signing = true → s.hf.jobs = j :: rest → s.hf.aliasLeaf < 1024 → RunsTo (exec .attestSigned s) fun t =>
      ∃ data, t = serveAttest (completeR j.cmd cOk reportLength (hostWrite j.addr (s.hf.report ++ data)
        (modHf (fun h => { h with signing := false, report := [], jobs := rest }) s)))) ∧
    (s.hf.wait = some .alias_ → RunsTo (exec .aliasGenerated s) fun t => t = serveAttest (certify s)) ∧
    (s.hf.wait = some .reserve → hfRuns s = true → RunsTo (exec .dikReservationWrite s) fun t =>
      t = serveAttest (certify (modHf (fun h => { h with recorded := h.limit + 64, limit := h.limit + 64 }) s))))

/-- INTAKE_FEED of 1 to 65,536 records joins its queue of 256, or ends with PLAN_INVALID or NOT_READY. A record
that has been read whole is checked; a decoder's output of the declared length fills the slot, a shorter or
longer one is rejected; freed staging lets the filling go on; the last slot ends the batch with its busy
fraction and share. GEN_SUBMIT with a reserved flag ends with PLAN_INVALID, with CANCEL cancels its request
and else submits it. A token is drawn and put, or ends the request. (R404, R405, R408, R413, R416, R421, R422,
R424, 14_intake.md, 15_generation.md) -/
def Obligations.IntakeAndGenerationComplete : Prop :=
  (∀ (s : State) (id : BitVec 16) (q : BitVec 8) (count : BitVec 32) (addr : BitVec 64),
    let b := take id.toNat 0x70 s
    ((1 < q.toNat ∨ count = 0 ∨ 65536 < count.toNat) → RunsTo (exec (.intakeFeed id q count addr) s) fun t =>
      t = complete b.1 cPlanInvalid b.2) ∧
    (q.toNat ≤ 1 → count ≠ 0 → count.toNat ≤ 65536 → RunsTo (exec (.intakeFeed id q count addr) s) fun t =>
      t = if intakeTab b.2 = none ∨ 256 ≤ (feedsOf b.2 q.toNat).length then complete b.1 cNotReady b.2
        else setFeeds q.toNat (feedsOf b.2 q.toNat ++ [{ cmd := b.1, addr := addr.toNat, count := count.toNat }]) b.2)) ∧
  (∀ s : State,
    let a := handOut s
    (building a = false → RunsTo (exec .intakeRecord s) fun t => t = a) ∧
    (building a = true → a.intake.work = .idle → RunsTo (exec .intakeRecord s) fun t => t = takeSlot a) ∧
    (∀ src pos len got n bad, building a = true → a.intake.work = .reading false src pos len got n bad →
      RunsTo (exec .intakeRecord s) fun t =>
        t = if n < len then a else checkRecord src pos (some len) bad (mread got 0 len) a)) ∧
  (∀ (s : State) (src pos id typ n : Nat) (d : List Byte), s.intake.work = .decoding src pos id typ n →
    (typ ≠ 2 → d.length < n → RunsTo (exec (.decodeEnd (.filled d)) s) fun t => t = rejectRecord src pos id 9 s) ∧
    (typ ≠ 2 → n < d.length → RunsTo (exec (.decodeEnd (.filled d)) s) fun t => t = rejectRecord src pos id 10 s) ∧
    ((typ = 2 ∨ d.length = n) → RunsTo (exec (.decodeEnd (.filled d)) s) fun t =>
      t = fillTry (modIntake (fun i => { i with work := .filling src pos id d }) s)) ∧
    (∀ c ∈ [9, 10, 11], RunsTo (exec (.decodeEnd (.rejected c)) s) fun t => t = rejectRecord src pos id c s) ∧
    (∀ m, intakeTab s ≠ none → RunsTo (exec (.stagingWindowFreed s.intake.slot m) s) fun t =>
      t = modIntake (fun i => { i with freed := i.freed + m }) s)) ∧
  (∀ (s : State) (busy total : Nat), intakeTab s ≠ none → s.intake.built = false → s.intake.slot = slotCount s →
    s.intake.manifest = [] → RunsTo (exec (.batchComplete busy total) s) fun t => ∃ h b n d,
      h = (fpRound fp32 ((Num.ofInt (min busy total)).div (Num.ofInt (max 1 total))) :: s.intake.busyHist).take 8 ∧
      n = shareNext (h.foldl maxFrac 0) s.intake.share ∧
      t = handOut (pushManifest d (modIntake (fun i => { i with built := true, busyHist := h, busy := b, share := n }) s))) ∧
  (∀ (s : State) (id : BitVec 16) (w : GenWord) (r : BitVec 32),
    let b := take id.toNat 0x80 s
    RunsTo (exec (.genSubmit id w) s) (fun t =>
      t = if 8 ≤ w.flags.toNat then complete b.1 cPlanInvalid b.2
        else if bitAt w.flags.toNat 0 = true then cancelRequest b.1 w.request.toNat b.2 else submit b.1 w b.2) ∧
    RunsTo (exec (.genCancel id r) s) fun t => t = cancelRequest b.1 r.toNat b.2) ∧
  (∀ (s : State) (u : Nat) (pairs : List (BitVec 32 × Nat)) (q), u < 12 → getUser s u = some q → tokenRuns s q = true →
    RunsTo (exec (.genToken u pairs) s) fun t =>
      (drawToken q (nextPos q) pairs = none → t = endUser u cNonfinite s) ∧
      (∀ id, drawToken q (nextPos q) pairs = some id → t = afterToken u id (putToken u id q s)))

/-- From OFF, an input that rises and its standby rail lead to STANDBY with a fresh Lamp room. In STANDBY and
above a stable input may start the module; a brownout, an overvoltage and PWR_EN going low remove the rails of
a started module and leave STANDBY; a loss of input leads to OFF and clears the Lamp room, the event block and
the sideband. RESET_N held low begins and holds a WARM reset, whose sequence begins when it is released.
SYS_CTL takes RAILS_OFF, WARM and HOT; a HOT reset ends in READY, and in RECOVERY while that mode is in force.
(R530, R531, R532, R542, R543, R545, R546, R547, 21_power_clocks_reset.md) -/
def Obligations.SupplyAndPinsAct : Prop :=
  ∀ s : State,
    let lost := fun (u : State) => modPwr (fun p => { p with stable := false }) u
    (s.pwr.state = stOff → RunsTo (exec .inputRise s) fun t =>
      t = { s with pwr := { s.pwr with inputOk := true, stable := false } }) ∧
    (s.pwr.state = stOff → s.pwr.inputOk = true → ∀ strap, RunsTo (exec (.standbyEntry strap) s) fun t =>
      t = setSys stStandby { s with
        lamp := {}, side := { strap := strap.toNat }, pwr := { s.pwr with standby := .normal, lowAt := none } } ∧
      t.pwr.state = stStandby ∧ t.pwr.previous = stOff) ∧
    (s.pwr.state = stOff → ∀ x ∈ [Instr.inputStableStart, .brownout, .inputLoss, .overvoltage],
      RunsTo (exec x s) fun t => t = s) ∧
    (s.pwr.state ≠ stOff →
      RunsTo (exec .inputStableStart s) (fun t => t = tryStart (modPwr (fun p => { p with stable := true }) s)) ∧
      RunsTo (exec .overvoltage s) (fun t => t = if started s = true then railsOff stStandby .normal (lost s) else lost s) ∧
      RunsTo (exec .brownout s) (fun t =>
        let a := modPwr (fun p => { p with stable := false, brownSeen := true }) s
        t = if started s = true then railsOff stStandby .normal a else a) ∧
      RunsTo (exec .inputLoss s) (fun t => t.lamp = {} ∧ t.side = {} ∧ t.obs = {} ∧ t.faults.ledger = [] ∧ t.pwr.inputOk = false)) ∧
    (s.pwr.pwrEn = false → s.pwr.lowAt = none → RunsTo (exec .pwrEnAssert s) fun t =>
      t = tryStart (modPwr (fun p => { p with pwrEn := true, standby := .normal }) s)) ∧
    (s.pwr.pwrEn = false → RunsTo (exec .pwrEnAssert s) fun t =>
      let long := ∀ m, s.pwr.lowAt = some m → enableLow ≤ s.lamp.tick - m
      (long → t = tryStart (modPwr (fun p => { p with pwrEn := true, standby := .normal }) s)) ∧
      (¬long → t = modPwr (fun p => { p with pwrEn := true }) s)) ∧
    (s.pwr.pwrEn = true → RunsTo (exec .pwrEnAssert s) fun t => t = s) ∧
    (s.pwr.pwrEn = true → RunsTo (exec .pwrEnDeassert s) fun t =>
      let a := modPwr (fun p => { p with pwrEn := false, thermtrip := false, lowAt := some s.lamp.tick }) s
      t = if started s = true then railsOff stStandby .normal a else a) ∧
    RunsTo (exec .resetNLow s) (fun t =>
      let a := modPwr (fun p => { p with resetN := false }) s
      t = if warmable a = true ∧ s.pwr.reset ≠ .warmHeld then warmBegin .warmHeld a else a) ∧
    RunsTo (exec .resetNRelease s) (fun t => t = modPwr (fun p => { p with
      resetN := true, reset := if p.reset = .warmHeld then .warm else p.reset }) s) ∧
    (HostReady s 0x18 →
      RunsTo (exec .railsOff s) (fun t => t = if started s = true then railsOff stStandby .needEn s else s) ∧
      RunsTo (exec .warm s) (fun t => t = warmReset s) ∧ RunsTo (exec .hot s) (fun t => t = hotReset s)) ∧
    (s.pwr.reset ≠ .hot → RunsTo (exec .hotResetComplete s) fun t => t = s) ∧
    (s.pwr.reset = .hot → inRecovery s = true → RunsTo (exec .hotResetComplete s) fun t =>
      let a := setSys stReady (modPwr (fun p => { p with reset := .none }) s)
      t = startQueued (latchModes (setSys stRecovery { a with modes := { a.modes with saved := stReady } }))) ∧
    (s.pwr.reset = .hot → inRecovery s = false → RunsTo (exec .hotResetComplete s) fun t =>
      t = startQueued (latchModes (setSys stReady (modPwr (fun p => { p with reset := .none }) s))))

/-- The boot takes the slot of the boot record when it verifies, else the other, else the module is in FAULT. With
the boot done, rails in regulation raise PWR_GOOD and a rail that is late removes them and records it. A self
test begins memory training with its bad cells counted; trained stacks are in service, HBM that trained reads
zero, at a COLD start the deep tier that trained too, and what failed keeps its bytes; then READY is reached
with no reset in progress and the current clock the rated one. (R514, R546, R548, R549, R578,
21_power_clocks_reset.md) -/
def Obligations.StartUpReachesReady : Prop :=
  ∀ s : State,
    (booting s = true → s.hf.bootOk = false → ∀ a b : Option Nat,
      let ok := fun (x : Bool) => bootFlaw s.hf (slotHeader s x) (23 * 2 ^ 20) (if x then b else a) = none
      RunsTo (exec (.bootVerified a b) s) fun t =>
        (ok s.hf.bootRecord → t = bootImage s.hf.bootRecord false s) ∧
        (¬ok s.hf.bootRecord → ok (!s.hf.bootRecord) → t = bootImage (!s.hf.bootRecord) true s) ∧
        (¬ok false → ¬ok true → t.pwr.state = stFault ∧ t.hf.bootFail = true ∧ t.pwr.reset = .none)) ∧
    (booting s = true → s.hf.bootOk = true →
      RunsTo (exec .railsInRegulation s) (fun t => t = modPwr (fun p => { p with pwrGood := true }) s) ∧
      (s.pwr.pwrGood = false → ∀ rail, RunsTo (exec (.railTimeout rail) s) fun t =>
        let a := railsOff stFault .normal s
        t = modPwr (fun p => { p with railFault := true }) { a with faults := { a.faults with history := a.faults.history ++ [.rail rail] } }) ∧
      (s.pwr.pwrGood = true → ∀ l : List Nat, (∀ k ∈ l, cellOk k = true) → RunsTo (exec (.selfTestComplete l) s) fun t =>
        t = setSys stMemtrain (l.foldl (fun s k => countUE (cellSite k) 0 s) s))) ∧
    (s.pwr.state = stMemtrain →
      (∀ l : List Nat, (∀ c ∈ l, c < 32) → (∀ e ∈ s.mcs, e.2.trained = false) → RunsTo (exec (.memoryTrainingComplete l) s) fun t =>
        (∀ off, mget t.hbm off = if off / 2 ^ 36 ∈ l then mget s.hbm off else 0#8) ∧
        (∀ off, mget t.deep off = if s.pwr.reset ≠ .cold ∨ 16 + off / 2 ^ 36 ∈ l then mget s.deep off else 0#8) ∧
        ∀ c < 32, ((getMc t c).trained = true ↔ c ∉ l)) ∧
      (s.pwr.reset = .cold → (∀ e ∈ s.mcs, e.2.trained = false) → RunsTo (exec (.memoryTrainingComplete []) s) fun t =>
        (∀ off < 2 ^ 40, mget t.hbm off = 0#8 ∧ mget t.deep off = 0#8) ∧ ∀ c < 32, (getMc t c).trained = true) ∧
      (s.pwr.reset ≠ .cold ∨ s.pwr.surveyed = true → RunsTo (exec .readyReached s) fun t =>
        t = startQueued (latchModes (setSys stReady (modFaults (fun f => { f with current := f.rated })
          (modPwr (fun p => { p with reset := .none }) (blowFuses s)))))))

/-- At 105 °C or above a powered die's thermal fraction falls by 4 but not below 4, at 103 °C or below it rises by
1 up to its limit, and in between neither check changes anything. The current limit halves the fraction of
every Spire die to no less than 4; recovery adds 1 to each and ends at the cap fraction. The cap fraction is
recomputed between attempts only. A telemetry sample sets the input and temperature figures and counts its
energy. A thermal trip removes the rails until PWR_EN and records die and temperature. (R534, R535, R536,
R538, R550, 21_power_clocks_reset.md) -/
def Obligations.ThrottlingStaysInItsLimits : Prop :=
  (∀ (s : State) (die temp : Nat), die < 20 → s.pwr.pwrGood = true →
    (105 * 16 ≤ temp → RunsTo (exec (.thermalSlowCheck die temp) s) fun t =>
      fThermal t.pwr die = max 4 (fThermal s.pwr die - 4) ∧ (∀ d, d ≠ die → fThermal t.pwr d = fThermal s.pwr d) ∧
      t.cells = s.cells ∧ t.hbm = s.hbm) ∧
    (temp < 105 * 16 → RunsTo (exec (.thermalSlowCheck die temp) s) fun t => t = s) ∧
    (temp ≤ 103 * 16 → RunsTo (exec (.thermalRecoverCheck die temp) s) fun t =>
      fThermal t.pwr die = min (min (fThermal s.pwr die + 1) (fLimit s.pwr die)) 64 ∧
      (∀ d, d ≠ die → fThermal t.pwr d = fThermal s.pwr d) ∧ t = { s with pwr := { s.pwr with fDie := t.pwr.fDie } }) ∧
    (103 * 16 < temp → RunsTo (exec (.thermalRecoverCheck die temp) s) fun t => t = s)) ∧
  (∀ s : State, s.pwr.pwrGood = true →
    RunsTo (exec .currentLimit s) (fun t => t.pwr.curLimit = true ∧
      ∀ d < 8, 64 - tget 0 t.pwr.fCur d = min 64 (max 4 (fInForce s.pwr d / 2))) ∧
    (inAttempt s = false → ∀ mean, RunsTo (exec (.capRecompute mean) s) fun t =>
      t = { s with pwr := { s.pwr with fCap := capFraction s.pwr.fCap s.pwr.cap mean } }) ∧
    (inAttempt s = true → ∀ mean, RunsTo (exec (.capRecompute mean) s) fun t => t = s)) ∧
  (∀ (s : State) (ma : Nat), s.pwr.curLimit = true →
    (9200 ≤ ma → RunsTo (exec (.currentRecoverStep ma) s) fun t => t = s) ∧
    (ma < 9200 → (∀ d < 8, s.pwr.fCap ≤ 64 - tget 0 s.pwr.fCur d + 1) → RunsTo (exec (.currentRecoverStep ma) s) fun t =>
      t = { s with pwr := { s.pwr with fCur := [], curLimit := false } })) ∧
  (∀ (s : State) (x : Telemetry), (∀ d ∈ x.dies, d.1 < 20) → s.pwr.state ≠ stOff → RunsTo (exec (.telemetrySample x) s) fun t =>
    fieldOf t.pwr.input 15 0 = x.mv % 2 ^ 16 ∧ fieldOf t.pwr.input 47 32 = x.ma10 % 2 ^ 16 ∧
    fieldOf t.pwr.input 63 48 = x.watts % 2 ^ 16 ∧
    t = bump 0x820 x.energy { s with pwr := { s.pwr with
      input := t.pwr.input, temp := t.pwr.temp, junction := t.pwr.junction, uvWarn := t.pwr.uvWarn, ovWarn := t.pwr.ovWarn } }) ∧
  (∀ (s : State) (die temp : Nat), die < 20 → started s = true → s.pwr.railFault = false → RunsTo (exec (.thermtrip die temp) s) fun t =>
    let a := railsOff stStandby .needEn s
    t.pwr.thermtrip = true ∧ t.pwr.standby = .needEn ∧ t.pwr.tripRec = some (dieSite die, temp, s.lamp.rtc) ∧
    t.faults.history = a.faults.history ++ [.trip (dieSite die) temp s.lamp.rtc])

/-- In every state but OFF a read on the sideband bus answers with its figure and changes nothing but the answer:
the status word, input voltage, current and power, inlet and hottest temperature, the register address, the
alert causes and the power cap. MFR_REG_ADDR takes a multiple of 8; MFR_REG_DATA reads a register that the bus
may read and answers all ones otherwise, and writes one in the writable set only. The dynamic address is
assigned and reset. In OFF no read is answered. (R534, R550, R567, R568, R569, R570, R571, 23_physical.md) -/
def Obligations.SidebandCommandsAnswer : Prop :=
  ∀ s : State,
    let tells := fun (v : Nat) (u : State) => { u with side := { u.side with answer := some v } }
    let reads := [(Instr.statusWord, statusWord s), (.readVin, fieldOf s.pwr.input 15 0), (.readIin, fieldOf s.pwr.input 47 32),
      (.readPin, fieldOf s.pwr.input 63 48), (.readTemperature1, fieldOf s.pwr.temp 63 48),
      (.readTemperature2, if s.pwr.pwrGood then fieldOf s.pwr.temp 15 0 else 0x8000), (.mfrRegAddr none, s.side.regAddr),
      (.mfrAlertCause, alertCauses s), (.mfrPwrCap none, s.pwr.cap)]
    (s.pwr.state ≠ stOff → ∀ x ∈ reads, RunsTo (exec x.1 s) fun t => t = tells x.2 s) ∧
    (s.pwr.state = stOff → ∀ x ∈ reads, RunsTo (exec x.1 s) fun t => t = { s with side := { s.side with answer := none } }) ∧
    (s.pwr.state ≠ stOff →
      (∀ v : BitVec 32, RunsTo (exec (.mfrRegAddr (some v)) s) fun t =>
        t = { s with side := { s.side with regAddr := v.toNat / 8 * 8 } }) ∧
      RunsTo (exec .mfrRegDataRead s) (fun t =>
        (sideReads s s.side.regAddr = true → t = sideRefused false (regRead s.side.regAddr allBits (tells (regGet s s.side.regAddr) s))) ∧
        (sideReads s s.side.regAddr = false → t = { s with side := { s.side with answer := some allBits, refused := true } })) ∧
      (∀ v : BitVec 64, RunsTo (exec (.mfrRegDataWrite v) s) fun t =>
        t = if sideWrites s s.side.regAddr = true then regPut s.side.regAddr v.toNat allBits (sideRefused false s)
          else { s with side := { s.side with refused := true } }) ∧
      (∀ v : BitVec 16, v.toNat ≤ 4800 → RunsTo (exec (.mfrPwrCap (some v)) s) fun t => t = pwrCapPut v.toNat allBits s) ∧
      (∀ a, a < 128 → RunsTo (exec (.dynamicAddressAssign a) s) fun t => t = { s with side := { s.side with dynamic := some a } })) ∧
    RunsTo (exec .rstdaa s) fun t => t = { s with side := { s.side with dynamic := none } }

/-- For every operation of the JTAG port: the state afterwards differs from the state before in nothing but what
the port shifts out and the boundary cells that it drives, so no register read, memory, fuse or Headframe
state changes; the boundary cells change only by boundary scan, and IDCODE shifts out the 32 bits of the
identification code. (R527) -/
def Obligations.JtagReachesOnlyItsPort : Prop :=
  ∀ (s : State) (op : JtagOp), RunsTo (exec (.jtagAccess op) s) fun t =>
    t = { s with side := { s.side with jtagOut := t.side.jtagOut, boundary := t.side.boundary } } ∧
    ((∀ l, op ≠ .boundary l) → t.side.boundary = s.side.boundary) ∧
    (op = .idcode → s.pwr.state ≠ stOff → t.side.jtagOut = (rangeFrom 0 32).map fun i => Config.idcode.getLsbD i) ∧
    (∀ l, op = .other l → s.pwr.state ≠ stOff → t.side.jtagOut = (false :: l).take l.length)

/-- Outside TRAIN, a STASH_SAVE of the oldest request of a die's ring pops the request and signals its semaphore
and does nothing else: it writes no byte, keeps no ledger and raises no event. A STASH_CHECK writes sixteen
zero bytes, both words, at the address of its request and signals. (R462) -/
def Obligations.StashRestsOutsideTrain : Prop :=
  ∀ (s : State) (die r : Nat) (d : List Byte), die < 8 → ringHead s (stashRing s die) = some (r, d) →
    let a := (enginePop r s).2
    let done := signalLogical (numAt d 6 2) (numAt d 3 1 % 64) 1
    workload a ≠ 0 →
    (numAt d 0 1 = 0 → RunsTo (exec (.stashSave die) s) fun t => t = done a ∧ t.stash = a.stash ∧ t.deep = a.deep ∧ t.hbm = a.hbm ∧ t.obs = a.obs) ∧
    (numAt d 0 1 = 2 → engineOk a (numAt d 8 8) 16 = true → RunsTo (exec (.stashCheck die) s) fun t =>
      t = done (writeLocal (gaddr (numAt d 8 8)) (List.replicate 16 0#8) a))

/-- While the event ring is disabled, an event carries the next sequence number of its source. With 64 or more
places free in the queue of 4,096 records, or with one free and an error or fatal severity, one record with
the code, severity, number, a tick that lags LAMP_TICK by what its source may lag (the model's free value:
notes/assumptions/180.md), source and payload joins the queue behind the others and the number of its source
goes on, modulo 2^32; with no place free the queue stays as it is and the next record is marked LOST. A change
of SYS_STATE sets STATE and PREVIOUS together, queues EV_STATE_CHANGE with source 0, the old state and the new
one, and changes nothing else of the power block; the state in force already changes nothing. (R479, R481,
R482, R483, R557, 18_observability.md) -/
def Obligations.EventsAreQueuedUnderTheirNumber : Prop :=
  (∀ (s : State) (src code : Nat) (fields : List (Nat × Nat × Nat)), s.obs.ringLog = 0 →
    let t := raise src code fields s
    let e : Event := ⟨code, severity code, 0, tget 0 s.obs.seqs src, tickOf s src (tget 0 s.obs.seqs src), src, eventPayload fields⟩
    (s.obs.queue.length ≤ 4032 ∨ (s.obs.queue.length < 4096 ∧ 2 ≤ severity code) →
      t = { s with obs := { s.obs with seqs := tset 0 s.obs.seqs src ((tget 0 s.obs.seqs src + 1) % 2 ^ 32), queue := s.obs.queue ++ [e] } }) ∧
    (s.obs.queue.length = 4096 → t.obs.queue = s.obs.queue ∧ t.obs.lostMark = true ∧ t.pwr = s.pwr ∧ t.cells = s.cells ∧ t.hbm = s.hbm)) ∧
  (∀ (s : State) (st : Nat), s.obs.ringLog = 0 → s.obs.queue.length ≤ 4032 →
    (st ≠ s.pwr.state →
      (setSys st s).pwr = { s.pwr with state := st, previous := s.pwr.state } ∧
      (s.obs.queue ++ [⟨0x0101, severity 0x0101, 0, tget 0 s.obs.seqs 0, tickOf s 0 (tget 0 s.obs.seqs 0), 0,
        eventPayload [(18, 1, s.pwr.state), (19, 1, st)]⟩]) <+: (setSys st s).obs.queue ∧
      (setSys st s).cells = s.cells ∧ (setSys st s).hbm = s.hbm) ∧
    (st = s.pwr.state → setSys st s = s))

/-- No command stops the model on an operand that the module has: in every state, the ones that no run reaches
among them, a command whose word decodes and whose units exist is taken and answers a next state. Whatever the
state of power, reset, plan, link or stream, it is never refused and never faults; RPUSH and RPOP ask in
addition that the active plan allocates the ring, as their word decodes only then. (R118, R149, R552, R556,
00_scope.md, 05_stream_programs.md) -/
def Obligations.WellFormedCommandsAlwaysAnswer : Prop :=
  ∀ (i : Instr) (s : State), i.wf = true →
    (∀ u reg ring, i = .rpush u reg ring ∨ i = .rpop u reg ring → (getRing s ring.toNat).alloc = true) →
    ∃ t, exec i s = .next t

/-- A command of a stream in a cell that the module does not have stops with noSuchUnit, and one of a cell that it
has whose word does not decode (a reserved class, operation or field, or an RPUSH or RPOP of a ring that is
not allocated) stops with undecodable; no state is left, in whatever state the command comes. R118 keeps such
words out of every plan. (R118, R149, R152, 05_stream_programs.md) -/
def Obligations.IllFormedCommandsStopByName : Prop :=
  ∀ (i : Instr) (u : StreamAt) (s : State), i.streamAt = some u →
    (cellOk u.cell = false → exec i s = .fault .noSuchUnit) ∧
    (cellOk u.cell = true → i.wf = false → exec i s = .fault .undecodable) ∧
    (∀ reg ring, cellOk u.cell = true → (i = .rpush u reg ring ∨ i = .rpop u reg ring) → (getRing s ring.toNat).alloc = false →
      exec i s = .fault .undecodable)
end

