-- ==== Sys2Proof/Laws/State.lean ====
section
/-!
SUPPORT. The fields of State after each named update: the one that it changes, and every other one as it was.
-/
namespace Sys2Proof.Machine

@[simp] theorem modCell_pending (k : Nat) (f : Cell → Cell) (s : State) : (modCell k f s).pending = s.pending := rfl
@[simp] theorem modCell_hbm (k : Nat) (f : Cell → Cell) (s : State) : (modCell k f s).hbm = s.hbm := rfl
@[simp] theorem modCell_deep (k : Nat) (f : Cell → Cell) (s : State) : (modCell k f s).deep = s.deep := rfl
@[simp] theorem modCell_bad (k : Nat) (f : Cell → Cell) (s : State) : (modCell k f s).bad = s.bad := rfl
@[simp] theorem modCell_cells (k : Nat) (f : Cell → Cell) (s : State) : (modCell k f s).cells = tmod {} s.cells k f := rfl
@[simp] theorem modCell_rings (k : Nat) (f : Cell → Cell) (s : State) : (modCell k f s).rings = s.rings := rfl
@[simp] theorem modCell_sigs (k : Nat) (f : Cell → Cell) (s : State) : (modCell k f s).sigs = s.sigs := rfl
@[simp] theorem modCell_pushes (k : Nat) (f : Cell → Cell) (s : State) : (modCell k f s).pushes = s.pushes := rfl
@[simp] theorem modCell_plan (k : Nat) (f : Cell → Cell) (s : State) : (modCell k f s).plan = s.plan := rfl
@[simp] theorem modCell_pmap (k : Nat) (f : Cell → Cell) (s : State) : (modCell k f s).pmap = s.pmap := rfl
@[simp] theorem modCell_circ (k : Nat) (f : Cell → Cell) (s : State) : (modCell k f s).circ = s.circ := rfl
@[simp] theorem modCell_stash (k : Nat) (f : Cell → Cell) (s : State) : (modCell k f s).stash = s.stash := rfl
@[simp] theorem modCell_gather (k : Nat) (f : Cell → Cell) (s : State) : (modCell k f s).gather = s.gather := rfl
@[simp] theorem modCell_update (k : Nat) (f : Cell → Cell) (s : State) : (modCell k f s).update = s.update := rfl
@[simp] theorem modCell_steps (k : Nat) (f : Cell → Cell) (s : State) : (modCell k f s).steps = s.steps := rfl
@[simp] theorem modCell_ckpt (k : Nat) (f : Cell → Cell) (s : State) : (modCell k f s).ckpt = s.ckpt := rfl
@[simp] theorem modCell_ports (k : Nat) (f : Cell → Cell) (s : State) : (modCell k f s).ports = s.ports := rfl
@[simp] theorem modCell_sends (k : Nat) (f : Cell → Cell) (s : State) : (modCell k f s).sends = s.sends := rfl
@[simp] theorem modCell_recvs (k : Nat) (f : Cell → Cell) (s : State) : (modCell k f s).recvs = s.recvs := rfl
@[simp] theorem modCell_xfers (k : Nat) (f : Cell → Cell) (s : State) : (modCell k f s).xfers = s.xfers := rfl
@[simp] theorem modCell_nextXfer (k : Nat) (f : Cell → Cell) (s : State) : (modCell k f s).nextXfer = s.nextXfer := rfl
@[simp] theorem modCell_bell (k : Nat) (f : Cell → Cell) (s : State) : (modCell k f s).bell = s.bell := rfl
@[simp] theorem modCell_colls (k : Nat) (f : Cell → Cell) (s : State) : (modCell k f s).colls = s.colls := rfl
@[simp] theorem modCell_collEngs (k : Nat) (f : Cell → Cell) (s : State) : (modCell k f s).collEngs = s.collEngs := rfl
@[simp] theorem modCell_mcs (k : Nat) (f : Cell → Cell) (s : State) : (modCell k f s).mcs = s.mcs := rfl
@[simp] theorem modCell_arbs (k : Nat) (f : Cell → Cell) (s : State) : (modCell k f s).arbs = s.arbs := rfl
@[simp] theorem modCell_arbWins (k : Nat) (f : Cell → Cell) (s : State) : (modCell k f s).arbWins = s.arbWins := rfl
@[simp] theorem modCell_lend (k : Nat) (f : Cell → Cell) (s : State) : (modCell k f s).lend = s.lend := rfl
@[simp] theorem modCell_intake (k : Nat) (f : Cell → Cell) (s : State) : (modCell k f s).intake = s.intake := rfl
@[simp] theorem modCell_gen (k : Nat) (f : Cell → Cell) (s : State) : (modCell k f s).gen = s.gen := rfl
@[simp] theorem modCell_bxl (k : Nat) (f : Cell → Cell) (s : State) : (modCell k f s).bxl = s.bxl := rfl
@[simp] theorem modCell_bells (k : Nat) (f : Cell → Cell) (s : State) : (modCell k f s).bells = s.bells := rfl
@[simp] theorem modCell_modes (k : Nat) (f : Cell → Cell) (s : State) : (modCell k f s).modes = s.modes := rfl
@[simp] theorem modCell_obs (k : Nat) (f : Cell → Cell) (s : State) : (modCell k f s).obs = s.obs := rfl
@[simp] theorem modCell_lamp (k : Nat) (f : Cell → Cell) (s : State) : (modCell k f s).lamp = s.lamp := rfl
@[simp] theorem modCell_faults (k : Nat) (f : Cell → Cell) (s : State) : (modCell k f s).faults = s.faults := rfl
@[simp] theorem modCell_hf (k : Nat) (f : Cell → Cell) (s : State) : (modCell k f s).hf = s.hf := rfl
@[simp] theorem modCell_pwr (k : Nat) (f : Cell → Cell) (s : State) : (modCell k f s).pwr = s.pwr := rfl
@[simp] theorem modCell_side (k : Nat) (f : Cell → Cell) (s : State) : (modCell k f s).side = s.side := rfl
@[simp] theorem modCell_ctr (k : Nat) (f : Cell → Cell) (s : State) : (modCell k f s).ctr = s.ctr := rfl
@[simp] theorem modCell_ovf (k : Nat) (f : Cell → Cell) (s : State) : (modCell k f s).ovf = s.ovf := rfl
@[simp] theorem modCell_wire (k : Nat) (f : Cell → Cell) (s : State) : (modCell k f s).wire = s.wire := rfl
@[simp] theorem modCell_hostOut (k : Nat) (f : Cell → Cell) (s : State) : (modCell k f s).hostOut = s.hostOut := rfl
@[simp] theorem modCell_free (k : Nat) (f : Cell → Cell) (s : State) : (modCell k f s).free = s.free := rfl

@[simp] theorem modStream_pending (k i : Nat) (f : Stream → Stream) (s : State) : (modStream k i f s).pending = s.pending := rfl
@[simp] theorem modStream_hbm (k i : Nat) (f : Stream → Stream) (s : State) : (modStream k i f s).hbm = s.hbm := rfl
@[simp] theorem modStream_deep (k i : Nat) (f : Stream → Stream) (s : State) : (modStream k i f s).deep = s.deep := rfl
@[simp] theorem modStream_bad (k i : Nat) (f : Stream → Stream) (s : State) : (modStream k i f s).bad = s.bad := rfl
@[simp] theorem modStream_rings (k i : Nat) (f : Stream → Stream) (s : State) : (modStream k i f s).rings = s.rings := rfl
@[simp] theorem modStream_sigs (k i : Nat) (f : Stream → Stream) (s : State) : (modStream k i f s).sigs = s.sigs := rfl
@[simp] theorem modStream_pushes (k i : Nat) (f : Stream → Stream) (s : State) : (modStream k i f s).pushes = s.pushes := rfl
@[simp] theorem modStream_plan (k i : Nat) (f : Stream → Stream) (s : State) : (modStream k i f s).plan = s.plan := rfl
@[simp] theorem modStream_pmap (k i : Nat) (f : Stream → Stream) (s : State) : (modStream k i f s).pmap = s.pmap := rfl
@[simp] theorem modStream_circ (k i : Nat) (f : Stream → Stream) (s : State) : (modStream k i f s).circ = s.circ := rfl
@[simp] theorem modStream_stash (k i : Nat) (f : Stream → Stream) (s : State) : (modStream k i f s).stash = s.stash := rfl
@[simp] theorem modStream_gather (k i : Nat) (f : Stream → Stream) (s : State) : (modStream k i f s).gather = s.gather := rfl
@[simp] theorem modStream_update (k i : Nat) (f : Stream → Stream) (s : State) : (modStream k i f s).update = s.update := rfl
@[simp] theorem modStream_steps (k i : Nat) (f : Stream → Stream) (s : State) : (modStream k i f s).steps = s.steps := rfl
@[simp] theorem modStream_ckpt (k i : Nat) (f : Stream → Stream) (s : State) : (modStream k i f s).ckpt = s.ckpt := rfl
@[simp] theorem modStream_ports (k i : Nat) (f : Stream → Stream) (s : State) : (modStream k i f s).ports = s.ports := rfl
@[simp] theorem modStream_sends (k i : Nat) (f : Stream → Stream) (s : State) : (modStream k i f s).sends = s.sends := rfl
@[simp] theorem modStream_recvs (k i : Nat) (f : Stream → Stream) (s : State) : (modStream k i f s).recvs = s.recvs := rfl
@[simp] theorem modStream_xfers (k i : Nat) (f : Stream → Stream) (s : State) : (modStream k i f s).xfers = s.xfers := rfl
@[simp] theorem modStream_nextXfer (k i : Nat) (f : Stream → Stream) (s : State) : (modStream k i f s).nextXfer = s.nextXfer := rfl
@[simp] theorem modStream_bell (k i : Nat) (f : Stream → Stream) (s : State) : (modStream k i f s).bell = s.bell := rfl
@[simp] theorem modStream_colls (k i : Nat) (f : Stream → Stream) (s : State) : (modStream k i f s).colls = s.colls := rfl
@[simp] theorem modStream_collEngs (k i : Nat) (f : Stream → Stream) (s : State) : (modStream k i f s).collEngs = s.collEngs := rfl
@[simp] theorem modStream_mcs (k i : Nat) (f : Stream → Stream) (s : State) : (modStream k i f s).mcs = s.mcs := rfl
@[simp] theorem modStream_arbs (k i : Nat) (f : Stream → Stream) (s : State) : (modStream k i f s).arbs = s.arbs := rfl
@[simp] theorem modStream_arbWins (k i : Nat) (f : Stream → Stream) (s : State) : (modStream k i f s).arbWins = s.arbWins := rfl
@[simp] theorem modStream_lend (k i : Nat) (f : Stream → Stream) (s : State) : (modStream k i f s).lend = s.lend := rfl
@[simp] theorem modStream_intake (k i : Nat) (f : Stream → Stream) (s : State) : (modStream k i f s).intake = s.intake := rfl
@[simp] theorem modStream_gen (k i : Nat) (f : Stream → Stream) (s : State) : (modStream k i f s).gen = s.gen := rfl
@[simp] theorem modStream_bxl (k i : Nat) (f : Stream → Stream) (s : State) : (modStream k i f s).bxl = s.bxl := rfl
@[simp] theorem modStream_bells (k i : Nat) (f : Stream → Stream) (s : State) : (modStream k i f s).bells = s.bells := rfl
@[simp] theorem modStream_modes (k i : Nat) (f : Stream → Stream) (s : State) : (modStream k i f s).modes = s.modes := rfl
@[simp] theorem modStream_obs (k i : Nat) (f : Stream → Stream) (s : State) : (modStream k i f s).obs = s.obs := rfl
@[simp] theorem modStream_lamp (k i : Nat) (f : Stream → Stream) (s : State) : (modStream k i f s).lamp = s.lamp := rfl
@[simp] theorem modStream_faults (k i : Nat) (f : Stream → Stream) (s : State) : (modStream k i f s).faults = s.faults := rfl
@[simp] theorem modStream_hf (k i : Nat) (f : Stream → Stream) (s : State) : (modStream k i f s).hf = s.hf := rfl
@[simp] theorem modStream_pwr (k i : Nat) (f : Stream → Stream) (s : State) : (modStream k i f s).pwr = s.pwr := rfl
@[simp] theorem modStream_side (k i : Nat) (f : Stream → Stream) (s : State) : (modStream k i f s).side = s.side := rfl
@[simp] theorem modStream_ctr (k i : Nat) (f : Stream → Stream) (s : State) : (modStream k i f s).ctr = s.ctr := rfl
@[simp] theorem modStream_ovf (k i : Nat) (f : Stream → Stream) (s : State) : (modStream k i f s).ovf = s.ovf := rfl
@[simp] theorem modStream_wire (k i : Nat) (f : Stream → Stream) (s : State) : (modStream k i f s).wire = s.wire := rfl
@[simp] theorem modStream_hostOut (k i : Nat) (f : Stream → Stream) (s : State) : (modStream k i f s).hostOut = s.hostOut := rfl
@[simp] theorem modStream_free (k i : Nat) (f : Stream → Stream) (s : State) : (modStream k i f s).free = s.free := rfl

@[simp] theorem modRing_pending (r : Nat) (f : Ring → Ring) (s : State) : (modRing r f s).pending = s.pending := rfl
@[simp] theorem modRing_hbm (r : Nat) (f : Ring → Ring) (s : State) : (modRing r f s).hbm = s.hbm := rfl
@[simp] theorem modRing_deep (r : Nat) (f : Ring → Ring) (s : State) : (modRing r f s).deep = s.deep := rfl
@[simp] theorem modRing_bad (r : Nat) (f : Ring → Ring) (s : State) : (modRing r f s).bad = s.bad := rfl
@[simp] theorem modRing_cells (r : Nat) (f : Ring → Ring) (s : State) : (modRing r f s).cells = s.cells := rfl
@[simp] theorem modRing_rings (r : Nat) (f : Ring → Ring) (s : State) : (modRing r f s).rings = tmod {} s.rings r f := rfl
@[simp] theorem modRing_sigs (r : Nat) (f : Ring → Ring) (s : State) : (modRing r f s).sigs = s.sigs := rfl
@[simp] theorem modRing_pushes (r : Nat) (f : Ring → Ring) (s : State) : (modRing r f s).pushes = s.pushes := rfl
@[simp] theorem modRing_plan (r : Nat) (f : Ring → Ring) (s : State) : (modRing r f s).plan = s.plan := rfl
@[simp] theorem modRing_pmap (r : Nat) (f : Ring → Ring) (s : State) : (modRing r f s).pmap = s.pmap := rfl
@[simp] theorem modRing_circ (r : Nat) (f : Ring → Ring) (s : State) : (modRing r f s).circ = s.circ := rfl
@[simp] theorem modRing_stash (r : Nat) (f : Ring → Ring) (s : State) : (modRing r f s).stash = s.stash := rfl
@[simp] theorem modRing_gather (r : Nat) (f : Ring → Ring) (s : State) : (modRing r f s).gather = s.gather := rfl
@[simp] theorem modRing_update (r : Nat) (f : Ring → Ring) (s : State) : (modRing r f s).update = s.update := rfl
@[simp] theorem modRing_steps (r : Nat) (f : Ring → Ring) (s : State) : (modRing r f s).steps = s.steps := rfl
@[simp] theorem modRing_ckpt (r : Nat) (f : Ring → Ring) (s : State) : (modRing r f s).ckpt = s.ckpt := rfl
@[simp] theorem modRing_ports (r : Nat) (f : Ring → Ring) (s : State) : (modRing r f s).ports = s.ports := rfl
@[simp] theorem modRing_sends (r : Nat) (f : Ring → Ring) (s : State) : (modRing r f s).sends = s.sends := rfl
@[simp] theorem modRing_recvs (r : Nat) (f : Ring → Ring) (s : State) : (modRing r f s).recvs = s.recvs := rfl
@[simp] theorem modRing_xfers (r : Nat) (f : Ring → Ring) (s : State) : (modRing r f s).xfers = s.xfers := rfl
@[simp] theorem modRing_nextXfer (r : Nat) (f : Ring → Ring) (s : State) : (modRing r f s).nextXfer = s.nextXfer := rfl
@[simp] theorem modRing_bell (r : Nat) (f : Ring → Ring) (s : State) : (modRing r f s).bell = s.bell := rfl
@[simp] theorem modRing_colls (r : Nat) (f : Ring → Ring) (s : State) : (modRing r f s).colls = s.colls := rfl
@[simp] theorem modRing_collEngs (r : Nat) (f : Ring → Ring) (s : State) : (modRing r f s).collEngs = s.collEngs := rfl
@[simp] theorem modRing_mcs (r : Nat) (f : Ring → Ring) (s : State) : (modRing r f s).mcs = s.mcs := rfl
@[simp] theorem modRing_arbs (r : Nat) (f : Ring → Ring) (s : State) : (modRing r f s).arbs = s.arbs := rfl
@[simp] theorem modRing_arbWins (r : Nat) (f : Ring → Ring) (s : State) : (modRing r f s).arbWins = s.arbWins := rfl
@[simp] theorem modRing_lend (r : Nat) (f : Ring → Ring) (s : State) : (modRing r f s).lend = s.lend := rfl
@[simp] theorem modRing_intake (r : Nat) (f : Ring → Ring) (s : State) : (modRing r f s).intake = s.intake := rfl
@[simp] theorem modRing_gen (r : Nat) (f : Ring → Ring) (s : State) : (modRing r f s).gen = s.gen := rfl
@[simp] theorem modRing_bxl (r : Nat) (f : Ring → Ring) (s : State) : (modRing r f s).bxl = s.bxl := rfl
@[simp] theorem modRing_bells (r : Nat) (f : Ring → Ring) (s : State) : (modRing r f s).bells = s.bells := rfl
@[simp] theorem modRing_modes (r : Nat) (f : Ring → Ring) (s : State) : (modRing r f s).modes = s.modes := rfl
@[simp] theorem modRing_obs (r : Nat) (f : Ring → Ring) (s : State) : (modRing r f s).obs = s.obs := rfl
@[simp] theorem modRing_lamp (r : Nat) (f : Ring → Ring) (s : State) : (modRing r f s).lamp = s.lamp := rfl
@[simp] theorem modRing_faults (r : Nat) (f : Ring → Ring) (s : State) : (modRing r f s).faults = s.faults := rfl
@[simp] theorem modRing_hf (r : Nat) (f : Ring → Ring) (s : State) : (modRing r f s).hf = s.hf := rfl
@[simp] theorem modRing_pwr (r : Nat) (f : Ring → Ring) (s : State) : (modRing r f s).pwr = s.pwr := rfl
@[simp] theorem modRing_side (r : Nat) (f : Ring → Ring) (s : State) : (modRing r f s).side = s.side := rfl
@[simp] theorem modRing_ctr (r : Nat) (f : Ring → Ring) (s : State) : (modRing r f s).ctr = s.ctr := rfl
@[simp] theorem modRing_ovf (r : Nat) (f : Ring → Ring) (s : State) : (modRing r f s).ovf = s.ovf := rfl
@[simp] theorem modRing_wire (r : Nat) (f : Ring → Ring) (s : State) : (modRing r f s).wire = s.wire := rfl
@[simp] theorem modRing_hostOut (r : Nat) (f : Ring → Ring) (s : State) : (modRing r f s).hostOut = s.hostOut := rfl
@[simp] theorem modRing_free (r : Nat) (f : Ring → Ring) (s : State) : (modRing r f s).free = s.free := rfl

@[simp] theorem modPort_pending (p : Nat) (f : Port → Port) (s : State) : (modPort p f s).pending = s.pending := rfl
@[simp] theorem modPort_hbm (p : Nat) (f : Port → Port) (s : State) : (modPort p f s).hbm = s.hbm := rfl
@[simp] theorem modPort_deep (p : Nat) (f : Port → Port) (s : State) : (modPort p f s).deep = s.deep := rfl
@[simp] theorem modPort_bad (p : Nat) (f : Port → Port) (s : State) : (modPort p f s).bad = s.bad := rfl
@[simp] theorem modPort_cells (p : Nat) (f : Port → Port) (s : State) : (modPort p f s).cells = s.cells := rfl
@[simp] theorem modPort_rings (p : Nat) (f : Port → Port) (s : State) : (modPort p f s).rings = s.rings := rfl
@[simp] theorem modPort_sigs (p : Nat) (f : Port → Port) (s : State) : (modPort p f s).sigs = s.sigs := rfl
@[simp] theorem modPort_pushes (p : Nat) (f : Port → Port) (s : State) : (modPort p f s).pushes = s.pushes := rfl
@[simp] theorem modPort_plan (p : Nat) (f : Port → Port) (s : State) : (modPort p f s).plan = s.plan := rfl
@[simp] theorem modPort_pmap (p : Nat) (f : Port → Port) (s : State) : (modPort p f s).pmap = s.pmap := rfl
@[simp] theorem modPort_circ (p : Nat) (f : Port → Port) (s : State) : (modPort p f s).circ = s.circ := rfl
@[simp] theorem modPort_stash (p : Nat) (f : Port → Port) (s : State) : (modPort p f s).stash = s.stash := rfl
@[simp] theorem modPort_gather (p : Nat) (f : Port → Port) (s : State) : (modPort p f s).gather = s.gather := rfl
@[simp] theorem modPort_update (p : Nat) (f : Port → Port) (s : State) : (modPort p f s).update = s.update := rfl
@[simp] theorem modPort_steps (p : Nat) (f : Port → Port) (s : State) : (modPort p f s).steps = s.steps := rfl
@[simp] theorem modPort_ckpt (p : Nat) (f : Port → Port) (s : State) : (modPort p f s).ckpt = s.ckpt := rfl
@[simp] theorem modPort_ports (p : Nat) (f : Port → Port) (s : State) : (modPort p f s).ports = tmod {} s.ports p f := rfl
@[simp] theorem modPort_sends (p : Nat) (f : Port → Port) (s : State) : (modPort p f s).sends = s.sends := rfl
@[simp] theorem modPort_recvs (p : Nat) (f : Port → Port) (s : State) : (modPort p f s).recvs = s.recvs := rfl
@[simp] theorem modPort_xfers (p : Nat) (f : Port → Port) (s : State) : (modPort p f s).xfers = s.xfers := rfl
@[simp] theorem modPort_nextXfer (p : Nat) (f : Port → Port) (s : State) : (modPort p f s).nextXfer = s.nextXfer := rfl
@[simp] theorem modPort_bell (p : Nat) (f : Port → Port) (s : State) : (modPort p f s).bell = s.bell := rfl
@[simp] theorem modPort_colls (p : Nat) (f : Port → Port) (s : State) : (modPort p f s).colls = s.colls := rfl
@[simp] theorem modPort_collEngs (p : Nat) (f : Port → Port) (s : State) : (modPort p f s).collEngs = s.collEngs := rfl
@[simp] theorem modPort_mcs (p : Nat) (f : Port → Port) (s : State) : (modPort p f s).mcs = s.mcs := rfl
@[simp] theorem modPort_arbs (p : Nat) (f : Port → Port) (s : State) : (modPort p f s).arbs = s.arbs := rfl
@[simp] theorem modPort_arbWins (p : Nat) (f : Port → Port) (s : State) : (modPort p f s).arbWins = s.arbWins := rfl
@[simp] theorem modPort_lend (p : Nat) (f : Port → Port) (s : State) : (modPort p f s).lend = s.lend := rfl
@[simp] theorem modPort_intake (p : Nat) (f : Port → Port) (s : State) : (modPort p f s).intake = s.intake := rfl
@[simp] theorem modPort_gen (p : Nat) (f : Port → Port) (s : State) : (modPort p f s).gen = s.gen := rfl
@[simp] theorem modPort_bxl (p : Nat) (f : Port → Port) (s : State) : (modPort p f s).bxl = s.bxl := rfl
@[simp] theorem modPort_bells (p : Nat) (f : Port → Port) (s : State) : (modPort p f s).bells = s.bells := rfl
@[simp] theorem modPort_modes (p : Nat) (f : Port → Port) (s : State) : (modPort p f s).modes = s.modes := rfl
@[simp] theorem modPort_obs (p : Nat) (f : Port → Port) (s : State) : (modPort p f s).obs = s.obs := rfl
@[simp] theorem modPort_lamp (p : Nat) (f : Port → Port) (s : State) : (modPort p f s).lamp = s.lamp := rfl
@[simp] theorem modPort_faults (p : Nat) (f : Port → Port) (s : State) : (modPort p f s).faults = s.faults := rfl
@[simp] theorem modPort_hf (p : Nat) (f : Port → Port) (s : State) : (modPort p f s).hf = s.hf := rfl
@[simp] theorem modPort_pwr (p : Nat) (f : Port → Port) (s : State) : (modPort p f s).pwr = s.pwr := rfl
@[simp] theorem modPort_side (p : Nat) (f : Port → Port) (s : State) : (modPort p f s).side = s.side := rfl
@[simp] theorem modPort_ctr (p : Nat) (f : Port → Port) (s : State) : (modPort p f s).ctr = s.ctr := rfl
@[simp] theorem modPort_ovf (p : Nat) (f : Port → Port) (s : State) : (modPort p f s).ovf = s.ovf := rfl
@[simp] theorem modPort_wire (p : Nat) (f : Port → Port) (s : State) : (modPort p f s).wire = s.wire := rfl
@[simp] theorem modPort_hostOut (p : Nat) (f : Port → Port) (s : State) : (modPort p f s).hostOut = s.hostOut := rfl
@[simp] theorem modPort_free (p : Nat) (f : Port → Port) (s : State) : (modPort p f s).free = s.free := rfl

@[simp] theorem modSend_pending (k : Nat) (f : SendCtx → SendCtx) (s : State) : (modSend k f s).pending = s.pending := rfl
@[simp] theorem modSend_hbm (k : Nat) (f : SendCtx → SendCtx) (s : State) : (modSend k f s).hbm = s.hbm := rfl
@[simp] theorem modSend_deep (k : Nat) (f : SendCtx → SendCtx) (s : State) : (modSend k f s).deep = s.deep := rfl
@[simp] theorem modSend_bad (k : Nat) (f : SendCtx → SendCtx) (s : State) : (modSend k f s).bad = s.bad := rfl
@[simp] theorem modSend_cells (k : Nat) (f : SendCtx → SendCtx) (s : State) : (modSend k f s).cells = s.cells := rfl
@[simp] theorem modSend_rings (k : Nat) (f : SendCtx → SendCtx) (s : State) : (modSend k f s).rings = s.rings := rfl
@[simp] theorem modSend_sigs (k : Nat) (f : SendCtx → SendCtx) (s : State) : (modSend k f s).sigs = s.sigs := rfl
@[simp] theorem modSend_pushes (k : Nat) (f : SendCtx → SendCtx) (s : State) : (modSend k f s).pushes = s.pushes := rfl
@[simp] theorem modSend_plan (k : Nat) (f : SendCtx → SendCtx) (s : State) : (modSend k f s).plan = s.plan := rfl
@[simp] theorem modSend_pmap (k : Nat) (f : SendCtx → SendCtx) (s : State) : (modSend k f s).pmap = s.pmap := rfl
@[simp] theorem modSend_circ (k : Nat) (f : SendCtx → SendCtx) (s : State) : (modSend k f s).circ = s.circ := rfl
@[simp] theorem modSend_stash (k : Nat) (f : SendCtx → SendCtx) (s : State) : (modSend k f s).stash = s.stash := rfl
@[simp] theorem modSend_gather (k : Nat) (f : SendCtx → SendCtx) (s : State) : (modSend k f s).gather = s.gather := rfl
@[simp] theorem modSend_update (k : Nat) (f : SendCtx → SendCtx) (s : State) : (modSend k f s).update = s.update := rfl
@[simp] theorem modSend_steps (k : Nat) (f : SendCtx → SendCtx) (s : State) : (modSend k f s).steps = s.steps := rfl
@[simp] theorem modSend_ckpt (k : Nat) (f : SendCtx → SendCtx) (s : State) : (modSend k f s).ckpt = s.ckpt := rfl
@[simp] theorem modSend_ports (k : Nat) (f : SendCtx → SendCtx) (s : State) : (modSend k f s).ports = s.ports := rfl
@[simp] theorem modSend_sends (k : Nat) (f : SendCtx → SendCtx) (s : State) : (modSend k f s).sends = tmod {} s.sends k f := rfl
@[simp] theorem modSend_recvs (k : Nat) (f : SendCtx → SendCtx) (s : State) : (modSend k f s).recvs = s.recvs := rfl
@[simp] theorem modSend_xfers (k : Nat) (f : SendCtx → SendCtx) (s : State) : (modSend k f s).xfers = s.xfers := rfl
@[simp] theorem modSend_nextXfer (k : Nat) (f : SendCtx → SendCtx) (s : State) : (modSend k f s).nextXfer = s.nextXfer := rfl
@[simp] theorem modSend_bell (k : Nat) (f : SendCtx → SendCtx) (s : State) : (modSend k f s).bell = s.bell := rfl
@[simp] theorem modSend_colls (k : Nat) (f : SendCtx → SendCtx) (s : State) : (modSend k f s).colls = s.colls := rfl
@[simp] theorem modSend_collEngs (k : Nat) (f : SendCtx → SendCtx) (s : State) : (modSend k f s).collEngs = s.collEngs := rfl
@[simp] theorem modSend_mcs (k : Nat) (f : SendCtx → SendCtx) (s : State) : (modSend k f s).mcs = s.mcs := rfl
@[simp] theorem modSend_arbs (k : Nat) (f : SendCtx → SendCtx) (s : State) : (modSend k f s).arbs = s.arbs := rfl
@[simp] theorem modSend_arbWins (k : Nat) (f : SendCtx → SendCtx) (s : State) : (modSend k f s).arbWins = s.arbWins := rfl
@[simp] theorem modSend_lend (k : Nat) (f : SendCtx → SendCtx) (s : State) : (modSend k f s).lend = s.lend := rfl
@[simp] theorem modSend_intake (k : Nat) (f : SendCtx → SendCtx) (s : State) : (modSend k f s).intake = s.intake := rfl
@[simp] theorem modSend_gen (k : Nat) (f : SendCtx → SendCtx) (s : State) : (modSend k f s).gen = s.gen := rfl
@[simp] theorem modSend_bxl (k : Nat) (f : SendCtx → SendCtx) (s : State) : (modSend k f s).bxl = s.bxl := rfl
@[simp] theorem modSend_bells (k : Nat) (f : SendCtx → SendCtx) (s : State) : (modSend k f s).bells = s.bells := rfl
@[simp] theorem modSend_modes (k : Nat) (f : SendCtx → SendCtx) (s : State) : (modSend k f s).modes = s.modes := rfl
@[simp] theorem modSend_obs (k : Nat) (f : SendCtx → SendCtx) (s : State) : (modSend k f s).obs = s.obs := rfl
@[simp] theorem modSend_lamp (k : Nat) (f : SendCtx → SendCtx) (s : State) : (modSend k f s).lamp = s.lamp := rfl
@[simp] theorem modSend_faults (k : Nat) (f : SendCtx → SendCtx) (s : State) : (modSend k f s).faults = s.faults := rfl
@[simp] theorem modSend_hf (k : Nat) (f : SendCtx → SendCtx) (s : State) : (modSend k f s).hf = s.hf := rfl
@[simp] theorem modSend_pwr (k : Nat) (f : SendCtx → SendCtx) (s : State) : (modSend k f s).pwr = s.pwr := rfl
@[simp] theorem modSend_side (k : Nat) (f : SendCtx → SendCtx) (s : State) : (modSend k f s).side = s.side := rfl
@[simp] theorem modSend_ctr (k : Nat) (f : SendCtx → SendCtx) (s : State) : (modSend k f s).ctr = s.ctr := rfl
@[simp] theorem modSend_ovf (k : Nat) (f : SendCtx → SendCtx) (s : State) : (modSend k f s).ovf = s.ovf := rfl
@[simp] theorem modSend_wire (k : Nat) (f : SendCtx → SendCtx) (s : State) : (modSend k f s).wire = s.wire := rfl
@[simp] theorem modSend_hostOut (k : Nat) (f : SendCtx → SendCtx) (s : State) : (modSend k f s).hostOut = s.hostOut := rfl
@[simp] theorem modSend_free (k : Nat) (f : SendCtx → SendCtx) (s : State) : (modSend k f s).free = s.free := rfl

@[simp] theorem modRecv_pending (k : Nat) (f : RecvCtx → RecvCtx) (s : State) : (modRecv k f s).pending = s.pending := rfl
@[simp] theorem modRecv_hbm (k : Nat) (f : RecvCtx → RecvCtx) (s : State) : (modRecv k f s).hbm = s.hbm := rfl
@[simp] theorem modRecv_deep (k : Nat) (f : RecvCtx → RecvCtx) (s : State) : (modRecv k f s).deep = s.deep := rfl
@[simp] theorem modRecv_bad (k : Nat) (f : RecvCtx → RecvCtx) (s : State) : (modRecv k f s).bad = s.bad := rfl
@[simp] theorem modRecv_cells (k : Nat) (f : RecvCtx → RecvCtx) (s : State) : (modRecv k f s).cells = s.cells := rfl
@[simp] theorem modRecv_rings (k : Nat) (f : RecvCtx → RecvCtx) (s : State) : (modRecv k f s).rings = s.rings := rfl
@[simp] theorem modRecv_sigs (k : Nat) (f : RecvCtx → RecvCtx) (s : State) : (modRecv k f s).sigs = s.sigs := rfl
@[simp] theorem modRecv_pushes (k : Nat) (f : RecvCtx → RecvCtx) (s : State) : (modRecv k f s).pushes = s.pushes := rfl
@[simp] theorem modRecv_plan (k : Nat) (f : RecvCtx → RecvCtx) (s : State) : (modRecv k f s).plan = s.plan := rfl
@[simp] theorem modRecv_pmap (k : Nat) (f : RecvCtx → RecvCtx) (s : State) : (modRecv k f s).pmap = s.pmap := rfl
@[simp] theorem modRecv_circ (k : Nat) (f : RecvCtx → RecvCtx) (s : State) : (modRecv k f s).circ = s.circ := rfl
@[simp] theorem modRecv_stash (k : Nat) (f : RecvCtx → RecvCtx) (s : State) : (modRecv k f s).stash = s.stash := rfl
@[simp] theorem modRecv_gather (k : Nat) (f : RecvCtx → RecvCtx) (s : State) : (modRecv k f s).gather = s.gather := rfl
@[simp] theorem modRecv_update (k : Nat) (f : RecvCtx → RecvCtx) (s : State) : (modRecv k f s).update = s.update := rfl
@[simp] theorem modRecv_steps (k : Nat) (f : RecvCtx → RecvCtx) (s : State) : (modRecv k f s).steps = s.steps := rfl
@[simp] theorem modRecv_ckpt (k : Nat) (f : RecvCtx → RecvCtx) (s : State) : (modRecv k f s).ckpt = s.ckpt := rfl
@[simp] theorem modRecv_ports (k : Nat) (f : RecvCtx → RecvCtx) (s : State) : (modRecv k f s).ports = s.ports := rfl
@[simp] theorem modRecv_sends (k : Nat) (f : RecvCtx → RecvCtx) (s : State) : (modRecv k f s).sends = s.sends := rfl
@[simp] theorem modRecv_recvs (k : Nat) (f : RecvCtx → RecvCtx) (s : State) : (modRecv k f s).recvs = tmod {} s.recvs k f := rfl
@[simp] theorem modRecv_xfers (k : Nat) (f : RecvCtx → RecvCtx) (s : State) : (modRecv k f s).xfers = s.xfers := rfl
@[simp] theorem modRecv_nextXfer (k : Nat) (f : RecvCtx → RecvCtx) (s : State) : (modRecv k f s).nextXfer = s.nextXfer := rfl
@[simp] theorem modRecv_bell (k : Nat) (f : RecvCtx → RecvCtx) (s : State) : (modRecv k f s).bell = s.bell := rfl
@[simp] theorem modRecv_colls (k : Nat) (f : RecvCtx → RecvCtx) (s : State) : (modRecv k f s).colls = s.colls := rfl
@[simp] theorem modRecv_collEngs (k : Nat) (f : RecvCtx → RecvCtx) (s : State) : (modRecv k f s).collEngs = s.collEngs := rfl
@[simp] theorem modRecv_mcs (k : Nat) (f : RecvCtx → RecvCtx) (s : State) : (modRecv k f s).mcs = s.mcs := rfl
@[simp] theorem modRecv_arbs (k : Nat) (f : RecvCtx → RecvCtx) (s : State) : (modRecv k f s).arbs = s.arbs := rfl
@[simp] theorem modRecv_arbWins (k : Nat) (f : RecvCtx → RecvCtx) (s : State) : (modRecv k f s).arbWins = s.arbWins := rfl
@[simp] theorem modRecv_lend (k : Nat) (f : RecvCtx → RecvCtx) (s : State) : (modRecv k f s).lend = s.lend := rfl
@[simp] theorem modRecv_intake (k : Nat) (f : RecvCtx → RecvCtx) (s : State) : (modRecv k f s).intake = s.intake := rfl
@[simp] theorem modRecv_gen (k : Nat) (f : RecvCtx → RecvCtx) (s : State) : (modRecv k f s).gen = s.gen := rfl
@[simp] theorem modRecv_bxl (k : Nat) (f : RecvCtx → RecvCtx) (s : State) : (modRecv k f s).bxl = s.bxl := rfl
@[simp] theorem modRecv_bells (k : Nat) (f : RecvCtx → RecvCtx) (s : State) : (modRecv k f s).bells = s.bells := rfl
@[simp] theorem modRecv_modes (k : Nat) (f : RecvCtx → RecvCtx) (s : State) : (modRecv k f s).modes = s.modes := rfl
@[simp] theorem modRecv_obs (k : Nat) (f : RecvCtx → RecvCtx) (s : State) : (modRecv k f s).obs = s.obs := rfl
@[simp] theorem modRecv_lamp (k : Nat) (f : RecvCtx → RecvCtx) (s : State) : (modRecv k f s).lamp = s.lamp := rfl
@[simp] theorem modRecv_faults (k : Nat) (f : RecvCtx → RecvCtx) (s : State) : (modRecv k f s).faults = s.faults := rfl
@[simp] theorem modRecv_hf (k : Nat) (f : RecvCtx → RecvCtx) (s : State) : (modRecv k f s).hf = s.hf := rfl
@[simp] theorem modRecv_pwr (k : Nat) (f : RecvCtx → RecvCtx) (s : State) : (modRecv k f s).pwr = s.pwr := rfl
@[simp] theorem modRecv_side (k : Nat) (f : RecvCtx → RecvCtx) (s : State) : (modRecv k f s).side = s.side := rfl
@[simp] theorem modRecv_ctr (k : Nat) (f : RecvCtx → RecvCtx) (s : State) : (modRecv k f s).ctr = s.ctr := rfl
@[simp] theorem modRecv_ovf (k : Nat) (f : RecvCtx → RecvCtx) (s : State) : (modRecv k f s).ovf = s.ovf := rfl
@[simp] theorem modRecv_wire (k : Nat) (f : RecvCtx → RecvCtx) (s : State) : (modRecv k f s).wire = s.wire := rfl
@[simp] theorem modRecv_hostOut (k : Nat) (f : RecvCtx → RecvCtx) (s : State) : (modRecv k f s).hostOut = s.hostOut := rfl
@[simp] theorem modRecv_free (k : Nat) (f : RecvCtx → RecvCtx) (s : State) : (modRecv k f s).free = s.free := rfl

@[simp] theorem setXfer_pending (i : Nat) (x : Option RemoteXfer) (s : State) : (setXfer i x s).pending = s.pending := rfl
@[simp] theorem setXfer_hbm (i : Nat) (x : Option RemoteXfer) (s : State) : (setXfer i x s).hbm = s.hbm := rfl
@[simp] theorem setXfer_deep (i : Nat) (x : Option RemoteXfer) (s : State) : (setXfer i x s).deep = s.deep := rfl
@[simp] theorem setXfer_bad (i : Nat) (x : Option RemoteXfer) (s : State) : (setXfer i x s).bad = s.bad := rfl
@[simp] theorem setXfer_cells (i : Nat) (x : Option RemoteXfer) (s : State) : (setXfer i x s).cells = s.cells := rfl
@[simp] theorem setXfer_rings (i : Nat) (x : Option RemoteXfer) (s : State) : (setXfer i x s).rings = s.rings := rfl
@[simp] theorem setXfer_sigs (i : Nat) (x : Option RemoteXfer) (s : State) : (setXfer i x s).sigs = s.sigs := rfl
@[simp] theorem setXfer_pushes (i : Nat) (x : Option RemoteXfer) (s : State) : (setXfer i x s).pushes = s.pushes := rfl
@[simp] theorem setXfer_plan (i : Nat) (x : Option RemoteXfer) (s : State) : (setXfer i x s).plan = s.plan := rfl
@[simp] theorem setXfer_pmap (i : Nat) (x : Option RemoteXfer) (s : State) : (setXfer i x s).pmap = s.pmap := rfl
@[simp] theorem setXfer_circ (i : Nat) (x : Option RemoteXfer) (s : State) : (setXfer i x s).circ = s.circ := rfl
@[simp] theorem setXfer_stash (i : Nat) (x : Option RemoteXfer) (s : State) : (setXfer i x s).stash = s.stash := rfl
@[simp] theorem setXfer_gather (i : Nat) (x : Option RemoteXfer) (s : State) : (setXfer i x s).gather = s.gather := rfl
@[simp] theorem setXfer_update (i : Nat) (x : Option RemoteXfer) (s : State) : (setXfer i x s).update = s.update := rfl
@[simp] theorem setXfer_steps (i : Nat) (x : Option RemoteXfer) (s : State) : (setXfer i x s).steps = s.steps := rfl
@[simp] theorem setXfer_ckpt (i : Nat) (x : Option RemoteXfer) (s : State) : (setXfer i x s).ckpt = s.ckpt := rfl
@[simp] theorem setXfer_ports (i : Nat) (x : Option RemoteXfer) (s : State) : (setXfer i x s).ports = s.ports := rfl
@[simp] theorem setXfer_sends (i : Nat) (x : Option RemoteXfer) (s : State) : (setXfer i x s).sends = s.sends := rfl
@[simp] theorem setXfer_recvs (i : Nat) (x : Option RemoteXfer) (s : State) : (setXfer i x s).recvs = s.recvs := rfl
@[simp] theorem setXfer_xfers (i : Nat) (x : Option RemoteXfer) (s : State) : (setXfer i x s).xfers = tset none s.xfers i x := rfl
@[simp] theorem setXfer_nextXfer (i : Nat) (x : Option RemoteXfer) (s : State) : (setXfer i x s).nextXfer = s.nextXfer := rfl
@[simp] theorem setXfer_bell (i : Nat) (x : Option RemoteXfer) (s : State) : (setXfer i x s).bell = s.bell := rfl
@[simp] theorem setXfer_colls (i : Nat) (x : Option RemoteXfer) (s : State) : (setXfer i x s).colls = s.colls := rfl
@[simp] theorem setXfer_collEngs (i : Nat) (x : Option RemoteXfer) (s : State) : (setXfer i x s).collEngs = s.collEngs := rfl
@[simp] theorem setXfer_mcs (i : Nat) (x : Option RemoteXfer) (s : State) : (setXfer i x s).mcs = s.mcs := rfl
@[simp] theorem setXfer_arbs (i : Nat) (x : Option RemoteXfer) (s : State) : (setXfer i x s).arbs = s.arbs := rfl
@[simp] theorem setXfer_arbWins (i : Nat) (x : Option RemoteXfer) (s : State) : (setXfer i x s).arbWins = s.arbWins := rfl
@[simp] theorem setXfer_lend (i : Nat) (x : Option RemoteXfer) (s : State) : (setXfer i x s).lend = s.lend := rfl
@[simp] theorem setXfer_intake (i : Nat) (x : Option RemoteXfer) (s : State) : (setXfer i x s).intake = s.intake := rfl
@[simp] theorem setXfer_gen (i : Nat) (x : Option RemoteXfer) (s : State) : (setXfer i x s).gen = s.gen := rfl
@[simp] theorem setXfer_bxl (i : Nat) (x : Option RemoteXfer) (s : State) : (setXfer i x s).bxl = s.bxl := rfl
@[simp] theorem setXfer_bells (i : Nat) (x : Option RemoteXfer) (s : State) : (setXfer i x s).bells = s.bells := rfl
@[simp] theorem setXfer_modes (i : Nat) (x : Option RemoteXfer) (s : State) : (setXfer i x s).modes = s.modes := rfl
@[simp] theorem setXfer_obs (i : Nat) (x : Option RemoteXfer) (s : State) : (setXfer i x s).obs = s.obs := rfl
@[simp] theorem setXfer_lamp (i : Nat) (x : Option RemoteXfer) (s : State) : (setXfer i x s).lamp = s.lamp := rfl
@[simp] theorem setXfer_faults (i : Nat) (x : Option RemoteXfer) (s : State) : (setXfer i x s).faults = s.faults := rfl
@[simp] theorem setXfer_hf (i : Nat) (x : Option RemoteXfer) (s : State) : (setXfer i x s).hf = s.hf := rfl
@[simp] theorem setXfer_pwr (i : Nat) (x : Option RemoteXfer) (s : State) : (setXfer i x s).pwr = s.pwr := rfl
@[simp] theorem setXfer_side (i : Nat) (x : Option RemoteXfer) (s : State) : (setXfer i x s).side = s.side := rfl
@[simp] theorem setXfer_ctr (i : Nat) (x : Option RemoteXfer) (s : State) : (setXfer i x s).ctr = s.ctr := rfl
@[simp] theorem setXfer_ovf (i : Nat) (x : Option RemoteXfer) (s : State) : (setXfer i x s).ovf = s.ovf := rfl
@[simp] theorem setXfer_wire (i : Nat) (x : Option RemoteXfer) (s : State) : (setXfer i x s).wire = s.wire := rfl
@[simp] theorem setXfer_hostOut (i : Nat) (x : Option RemoteXfer) (s : State) : (setXfer i x s).hostOut = s.hostOut := rfl
@[simp] theorem setXfer_free (i : Nat) (x : Option RemoteXfer) (s : State) : (setXfer i x s).free = s.free := rfl

@[simp] theorem modMc_pending (c : Nat) (f : Mc → Mc) (s : State) : (modMc c f s).pending = s.pending := rfl
@[simp] theorem modMc_hbm (c : Nat) (f : Mc → Mc) (s : State) : (modMc c f s).hbm = s.hbm := rfl
@[simp] theorem modMc_deep (c : Nat) (f : Mc → Mc) (s : State) : (modMc c f s).deep = s.deep := rfl
@[simp] theorem modMc_bad (c : Nat) (f : Mc → Mc) (s : State) : (modMc c f s).bad = s.bad := rfl
@[simp] theorem modMc_cells (c : Nat) (f : Mc → Mc) (s : State) : (modMc c f s).cells = s.cells := rfl
@[simp] theorem modMc_rings (c : Nat) (f : Mc → Mc) (s : State) : (modMc c f s).rings = s.rings := rfl
@[simp] theorem modMc_sigs (c : Nat) (f : Mc → Mc) (s : State) : (modMc c f s).sigs = s.sigs := rfl
@[simp] theorem modMc_pushes (c : Nat) (f : Mc → Mc) (s : State) : (modMc c f s).pushes = s.pushes := rfl
@[simp] theorem modMc_plan (c : Nat) (f : Mc → Mc) (s : State) : (modMc c f s).plan = s.plan := rfl
@[simp] theorem modMc_pmap (c : Nat) (f : Mc → Mc) (s : State) : (modMc c f s).pmap = s.pmap := rfl
@[simp] theorem modMc_circ (c : Nat) (f : Mc → Mc) (s : State) : (modMc c f s).circ = s.circ := rfl
@[simp] theorem modMc_stash (c : Nat) (f : Mc → Mc) (s : State) : (modMc c f s).stash = s.stash := rfl
@[simp] theorem modMc_gather (c : Nat) (f : Mc → Mc) (s : State) : (modMc c f s).gather = s.gather := rfl
@[simp] theorem modMc_update (c : Nat) (f : Mc → Mc) (s : State) : (modMc c f s).update = s.update := rfl
@[simp] theorem modMc_steps (c : Nat) (f : Mc → Mc) (s : State) : (modMc c f s).steps = s.steps := rfl
@[simp] theorem modMc_ckpt (c : Nat) (f : Mc → Mc) (s : State) : (modMc c f s).ckpt = s.ckpt := rfl
@[simp] theorem modMc_ports (c : Nat) (f : Mc → Mc) (s : State) : (modMc c f s).ports = s.ports := rfl
@[simp] theorem modMc_sends (c : Nat) (f : Mc → Mc) (s : State) : (modMc c f s).sends = s.sends := rfl
@[simp] theorem modMc_recvs (c : Nat) (f : Mc → Mc) (s : State) : (modMc c f s).recvs = s.recvs := rfl
@[simp] theorem modMc_xfers (c : Nat) (f : Mc → Mc) (s : State) : (modMc c f s).xfers = s.xfers := rfl
@[simp] theorem modMc_nextXfer (c : Nat) (f : Mc → Mc) (s : State) : (modMc c f s).nextXfer = s.nextXfer := rfl
@[simp] theorem modMc_bell (c : Nat) (f : Mc → Mc) (s : State) : (modMc c f s).bell = s.bell := rfl
@[simp] theorem modMc_colls (c : Nat) (f : Mc → Mc) (s : State) : (modMc c f s).colls = s.colls := rfl
@[simp] theorem modMc_collEngs (c : Nat) (f : Mc → Mc) (s : State) : (modMc c f s).collEngs = s.collEngs := rfl
@[simp] theorem modMc_mcs (c : Nat) (f : Mc → Mc) (s : State) : (modMc c f s).mcs = tmod {} s.mcs c f := rfl
@[simp] theorem modMc_arbs (c : Nat) (f : Mc → Mc) (s : State) : (modMc c f s).arbs = s.arbs := rfl
@[simp] theorem modMc_arbWins (c : Nat) (f : Mc → Mc) (s : State) : (modMc c f s).arbWins = s.arbWins := rfl
@[simp] theorem modMc_lend (c : Nat) (f : Mc → Mc) (s : State) : (modMc c f s).lend = s.lend := rfl
@[simp] theorem modMc_intake (c : Nat) (f : Mc → Mc) (s : State) : (modMc c f s).intake = s.intake := rfl
@[simp] theorem modMc_gen (c : Nat) (f : Mc → Mc) (s : State) : (modMc c f s).gen = s.gen := rfl
@[simp] theorem modMc_bxl (c : Nat) (f : Mc → Mc) (s : State) : (modMc c f s).bxl = s.bxl := rfl
@[simp] theorem modMc_bells (c : Nat) (f : Mc → Mc) (s : State) : (modMc c f s).bells = s.bells := rfl
@[simp] theorem modMc_modes (c : Nat) (f : Mc → Mc) (s : State) : (modMc c f s).modes = s.modes := rfl
@[simp] theorem modMc_obs (c : Nat) (f : Mc → Mc) (s : State) : (modMc c f s).obs = s.obs := rfl
@[simp] theorem modMc_lamp (c : Nat) (f : Mc → Mc) (s : State) : (modMc c f s).lamp = s.lamp := rfl
@[simp] theorem modMc_faults (c : Nat) (f : Mc → Mc) (s : State) : (modMc c f s).faults = s.faults := rfl
@[simp] theorem modMc_hf (c : Nat) (f : Mc → Mc) (s : State) : (modMc c f s).hf = s.hf := rfl
@[simp] theorem modMc_pwr (c : Nat) (f : Mc → Mc) (s : State) : (modMc c f s).pwr = s.pwr := rfl
@[simp] theorem modMc_side (c : Nat) (f : Mc → Mc) (s : State) : (modMc c f s).side = s.side := rfl
@[simp] theorem modMc_ctr (c : Nat) (f : Mc → Mc) (s : State) : (modMc c f s).ctr = s.ctr := rfl
@[simp] theorem modMc_ovf (c : Nat) (f : Mc → Mc) (s : State) : (modMc c f s).ovf = s.ovf := rfl
@[simp] theorem modMc_wire (c : Nat) (f : Mc → Mc) (s : State) : (modMc c f s).wire = s.wire := rfl
@[simp] theorem modMc_hostOut (c : Nat) (f : Mc → Mc) (s : State) : (modMc c f s).hostOut = s.hostOut := rfl
@[simp] theorem modMc_free (c : Nat) (f : Mc → Mc) (s : State) : (modMc c f s).free = s.free := rfl

@[simp] theorem modColl_pending (c : Nat) (f : Coll → Coll) (s : State) : (modColl c f s).pending = s.pending := rfl
@[simp] theorem modColl_hbm (c : Nat) (f : Coll → Coll) (s : State) : (modColl c f s).hbm = s.hbm := rfl
@[simp] theorem modColl_deep (c : Nat) (f : Coll → Coll) (s : State) : (modColl c f s).deep = s.deep := rfl
@[simp] theorem modColl_bad (c : Nat) (f : Coll → Coll) (s : State) : (modColl c f s).bad = s.bad := rfl
@[simp] theorem modColl_cells (c : Nat) (f : Coll → Coll) (s : State) : (modColl c f s).cells = s.cells := rfl
@[simp] theorem modColl_rings (c : Nat) (f : Coll → Coll) (s : State) : (modColl c f s).rings = s.rings := rfl
@[simp] theorem modColl_sigs (c : Nat) (f : Coll → Coll) (s : State) : (modColl c f s).sigs = s.sigs := rfl
@[simp] theorem modColl_pushes (c : Nat) (f : Coll → Coll) (s : State) : (modColl c f s).pushes = s.pushes := rfl
@[simp] theorem modColl_plan (c : Nat) (f : Coll → Coll) (s : State) : (modColl c f s).plan = s.plan := rfl
@[simp] theorem modColl_pmap (c : Nat) (f : Coll → Coll) (s : State) : (modColl c f s).pmap = s.pmap := rfl
@[simp] theorem modColl_circ (c : Nat) (f : Coll → Coll) (s : State) : (modColl c f s).circ = s.circ := rfl
@[simp] theorem modColl_stash (c : Nat) (f : Coll → Coll) (s : State) : (modColl c f s).stash = s.stash := rfl
@[simp] theorem modColl_gather (c : Nat) (f : Coll → Coll) (s : State) : (modColl c f s).gather = s.gather := rfl
@[simp] theorem modColl_update (c : Nat) (f : Coll → Coll) (s : State) : (modColl c f s).update = s.update := rfl
@[simp] theorem modColl_steps (c : Nat) (f : Coll → Coll) (s : State) : (modColl c f s).steps = s.steps := rfl
@[simp] theorem modColl_ckpt (c : Nat) (f : Coll → Coll) (s : State) : (modColl c f s).ckpt = s.ckpt := rfl
@[simp] theorem modColl_ports (c : Nat) (f : Coll → Coll) (s : State) : (modColl c f s).ports = s.ports := rfl
@[simp] theorem modColl_sends (c : Nat) (f : Coll → Coll) (s : State) : (modColl c f s).sends = s.sends := rfl
@[simp] theorem modColl_recvs (c : Nat) (f : Coll → Coll) (s : State) : (modColl c f s).recvs = s.recvs := rfl
@[simp] theorem modColl_xfers (c : Nat) (f : Coll → Coll) (s : State) : (modColl c f s).xfers = s.xfers := rfl
@[simp] theorem modColl_nextXfer (c : Nat) (f : Coll → Coll) (s : State) : (modColl c f s).nextXfer = s.nextXfer := rfl
@[simp] theorem modColl_bell (c : Nat) (f : Coll → Coll) (s : State) : (modColl c f s).bell = s.bell := rfl
@[simp] theorem modColl_colls (c : Nat) (f : Coll → Coll) (s : State) : (modColl c f s).colls = tmod {} s.colls c f := rfl
@[simp] theorem modColl_collEngs (c : Nat) (f : Coll → Coll) (s : State) : (modColl c f s).collEngs = s.collEngs := rfl
@[simp] theorem modColl_mcs (c : Nat) (f : Coll → Coll) (s : State) : (modColl c f s).mcs = s.mcs := rfl
@[simp] theorem modColl_arbs (c : Nat) (f : Coll → Coll) (s : State) : (modColl c f s).arbs = s.arbs := rfl
@[simp] theorem modColl_arbWins (c : Nat) (f : Coll → Coll) (s : State) : (modColl c f s).arbWins = s.arbWins := rfl
@[simp] theorem modColl_lend (c : Nat) (f : Coll → Coll) (s : State) : (modColl c f s).lend = s.lend := rfl
@[simp] theorem modColl_intake (c : Nat) (f : Coll → Coll) (s : State) : (modColl c f s).intake = s.intake := rfl
@[simp] theorem modColl_gen (c : Nat) (f : Coll → Coll) (s : State) : (modColl c f s).gen = s.gen := rfl
@[simp] theorem modColl_bxl (c : Nat) (f : Coll → Coll) (s : State) : (modColl c f s).bxl = s.bxl := rfl
@[simp] theorem modColl_bells (c : Nat) (f : Coll → Coll) (s : State) : (modColl c f s).bells = s.bells := rfl
@[simp] theorem modColl_modes (c : Nat) (f : Coll → Coll) (s : State) : (modColl c f s).modes = s.modes := rfl
@[simp] theorem modColl_obs (c : Nat) (f : Coll → Coll) (s : State) : (modColl c f s).obs = s.obs := rfl
@[simp] theorem modColl_lamp (c : Nat) (f : Coll → Coll) (s : State) : (modColl c f s).lamp = s.lamp := rfl
@[simp] theorem modColl_faults (c : Nat) (f : Coll → Coll) (s : State) : (modColl c f s).faults = s.faults := rfl
@[simp] theorem modColl_hf (c : Nat) (f : Coll → Coll) (s : State) : (modColl c f s).hf = s.hf := rfl
@[simp] theorem modColl_pwr (c : Nat) (f : Coll → Coll) (s : State) : (modColl c f s).pwr = s.pwr := rfl
@[simp] theorem modColl_side (c : Nat) (f : Coll → Coll) (s : State) : (modColl c f s).side = s.side := rfl
@[simp] theorem modColl_ctr (c : Nat) (f : Coll → Coll) (s : State) : (modColl c f s).ctr = s.ctr := rfl
@[simp] theorem modColl_ovf (c : Nat) (f : Coll → Coll) (s : State) : (modColl c f s).ovf = s.ovf := rfl
@[simp] theorem modColl_wire (c : Nat) (f : Coll → Coll) (s : State) : (modColl c f s).wire = s.wire := rfl
@[simp] theorem modColl_hostOut (c : Nat) (f : Coll → Coll) (s : State) : (modColl c f s).hostOut = s.hostOut := rfl
@[simp] theorem modColl_free (c : Nat) (f : Coll → Coll) (s : State) : (modColl c f s).free = s.free := rfl

@[simp] theorem modDoorbell_pending (n : Nat) (f : Doorbell → Doorbell) (s : State) : (modDoorbell n f s).pending = s.pending := rfl
@[simp] theorem modDoorbell_hbm (n : Nat) (f : Doorbell → Doorbell) (s : State) : (modDoorbell n f s).hbm = s.hbm := rfl
@[simp] theorem modDoorbell_deep (n : Nat) (f : Doorbell → Doorbell) (s : State) : (modDoorbell n f s).deep = s.deep := rfl
@[simp] theorem modDoorbell_bad (n : Nat) (f : Doorbell → Doorbell) (s : State) : (modDoorbell n f s).bad = s.bad := rfl
@[simp] theorem modDoorbell_cells (n : Nat) (f : Doorbell → Doorbell) (s : State) : (modDoorbell n f s).cells = s.cells := rfl
@[simp] theorem modDoorbell_rings (n : Nat) (f : Doorbell → Doorbell) (s : State) : (modDoorbell n f s).rings = s.rings := rfl
@[simp] theorem modDoorbell_sigs (n : Nat) (f : Doorbell → Doorbell) (s : State) : (modDoorbell n f s).sigs = s.sigs := rfl
@[simp] theorem modDoorbell_pushes (n : Nat) (f : Doorbell → Doorbell) (s : State) : (modDoorbell n f s).pushes = s.pushes := rfl
@[simp] theorem modDoorbell_plan (n : Nat) (f : Doorbell → Doorbell) (s : State) : (modDoorbell n f s).plan = s.plan := rfl
@[simp] theorem modDoorbell_pmap (n : Nat) (f : Doorbell → Doorbell) (s : State) : (modDoorbell n f s).pmap = s.pmap := rfl
@[simp] theorem modDoorbell_circ (n : Nat) (f : Doorbell → Doorbell) (s : State) : (modDoorbell n f s).circ = s.circ := rfl
@[simp] theorem modDoorbell_stash (n : Nat) (f : Doorbell → Doorbell) (s : State) : (modDoorbell n f s).stash = s.stash := rfl
@[simp] theorem modDoorbell_gather (n : Nat) (f : Doorbell → Doorbell) (s : State) : (modDoorbell n f s).gather = s.gather := rfl
@[simp] theorem modDoorbell_update (n : Nat) (f : Doorbell → Doorbell) (s : State) : (modDoorbell n f s).update = s.update := rfl
@[simp] theorem modDoorbell_steps (n : Nat) (f : Doorbell → Doorbell) (s : State) : (modDoorbell n f s).steps = s.steps := rfl
@[simp] theorem modDoorbell_ckpt (n : Nat) (f : Doorbell → Doorbell) (s : State) : (modDoorbell n f s).ckpt = s.ckpt := rfl
@[simp] theorem modDoorbell_ports (n : Nat) (f : Doorbell → Doorbell) (s : State) : (modDoorbell n f s).ports = s.ports := rfl
@[simp] theorem modDoorbell_sends (n : Nat) (f : Doorbell → Doorbell) (s : State) : (modDoorbell n f s).sends = s.sends := rfl
@[simp] theorem modDoorbell_recvs (n : Nat) (f : Doorbell → Doorbell) (s : State) : (modDoorbell n f s).recvs = s.recvs := rfl
@[simp] theorem modDoorbell_xfers (n : Nat) (f : Doorbell → Doorbell) (s : State) : (modDoorbell n f s).xfers = s.xfers := rfl
@[simp] theorem modDoorbell_nextXfer (n : Nat) (f : Doorbell → Doorbell) (s : State) : (modDoorbell n f s).nextXfer = s.nextXfer := rfl
@[simp] theorem modDoorbell_bell (n : Nat) (f : Doorbell → Doorbell) (s : State) : (modDoorbell n f s).bell = s.bell := rfl
@[simp] theorem modDoorbell_colls (n : Nat) (f : Doorbell → Doorbell) (s : State) : (modDoorbell n f s).colls = s.colls := rfl
@[simp] theorem modDoorbell_collEngs (n : Nat) (f : Doorbell → Doorbell) (s : State) : (modDoorbell n f s).collEngs = s.collEngs := rfl
@[simp] theorem modDoorbell_mcs (n : Nat) (f : Doorbell → Doorbell) (s : State) : (modDoorbell n f s).mcs = s.mcs := rfl
@[simp] theorem modDoorbell_arbs (n : Nat) (f : Doorbell → Doorbell) (s : State) : (modDoorbell n f s).arbs = s.arbs := rfl
@[simp] theorem modDoorbell_arbWins (n : Nat) (f : Doorbell → Doorbell) (s : State) : (modDoorbell n f s).arbWins = s.arbWins := rfl
@[simp] theorem modDoorbell_lend (n : Nat) (f : Doorbell → Doorbell) (s : State) : (modDoorbell n f s).lend = s.lend := rfl
@[simp] theorem modDoorbell_intake (n : Nat) (f : Doorbell → Doorbell) (s : State) : (modDoorbell n f s).intake = s.intake := rfl
@[simp] theorem modDoorbell_gen (n : Nat) (f : Doorbell → Doorbell) (s : State) : (modDoorbell n f s).gen = s.gen := rfl
@[simp] theorem modDoorbell_bxl (n : Nat) (f : Doorbell → Doorbell) (s : State) : (modDoorbell n f s).bxl = s.bxl := rfl
@[simp] theorem modDoorbell_bells (n : Nat) (f : Doorbell → Doorbell) (s : State) : (modDoorbell n f s).bells = tmod {} s.bells n f := rfl
@[simp] theorem modDoorbell_modes (n : Nat) (f : Doorbell → Doorbell) (s : State) : (modDoorbell n f s).modes = s.modes := rfl
@[simp] theorem modDoorbell_obs (n : Nat) (f : Doorbell → Doorbell) (s : State) : (modDoorbell n f s).obs = s.obs := rfl
@[simp] theorem modDoorbell_lamp (n : Nat) (f : Doorbell → Doorbell) (s : State) : (modDoorbell n f s).lamp = s.lamp := rfl
@[simp] theorem modDoorbell_faults (n : Nat) (f : Doorbell → Doorbell) (s : State) : (modDoorbell n f s).faults = s.faults := rfl
@[simp] theorem modDoorbell_hf (n : Nat) (f : Doorbell → Doorbell) (s : State) : (modDoorbell n f s).hf = s.hf := rfl
@[simp] theorem modDoorbell_pwr (n : Nat) (f : Doorbell → Doorbell) (s : State) : (modDoorbell n f s).pwr = s.pwr := rfl
@[simp] theorem modDoorbell_side (n : Nat) (f : Doorbell → Doorbell) (s : State) : (modDoorbell n f s).side = s.side := rfl
@[simp] theorem modDoorbell_ctr (n : Nat) (f : Doorbell → Doorbell) (s : State) : (modDoorbell n f s).ctr = s.ctr := rfl
@[simp] theorem modDoorbell_ovf (n : Nat) (f : Doorbell → Doorbell) (s : State) : (modDoorbell n f s).ovf = s.ovf := rfl
@[simp] theorem modDoorbell_wire (n : Nat) (f : Doorbell → Doorbell) (s : State) : (modDoorbell n f s).wire = s.wire := rfl
@[simp] theorem modDoorbell_hostOut (n : Nat) (f : Doorbell → Doorbell) (s : State) : (modDoorbell n f s).hostOut = s.hostOut := rfl
@[simp] theorem modDoorbell_free (n : Nat) (f : Doorbell → Doorbell) (s : State) : (modDoorbell n f s).free = s.free := rfl

@[simp] theorem modSteps_pending (f : Step → Step) (s : State) : (modSteps f s).pending = s.pending := rfl
@[simp] theorem modSteps_hbm (f : Step → Step) (s : State) : (modSteps f s).hbm = s.hbm := rfl
@[simp] theorem modSteps_deep (f : Step → Step) (s : State) : (modSteps f s).deep = s.deep := rfl
@[simp] theorem modSteps_bad (f : Step → Step) (s : State) : (modSteps f s).bad = s.bad := rfl
@[simp] theorem modSteps_cells (f : Step → Step) (s : State) : (modSteps f s).cells = s.cells := rfl
@[simp] theorem modSteps_rings (f : Step → Step) (s : State) : (modSteps f s).rings = s.rings := rfl
@[simp] theorem modSteps_sigs (f : Step → Step) (s : State) : (modSteps f s).sigs = s.sigs := rfl
@[simp] theorem modSteps_pushes (f : Step → Step) (s : State) : (modSteps f s).pushes = s.pushes := rfl
@[simp] theorem modSteps_plan (f : Step → Step) (s : State) : (modSteps f s).plan = s.plan := rfl
@[simp] theorem modSteps_pmap (f : Step → Step) (s : State) : (modSteps f s).pmap = s.pmap := rfl
@[simp] theorem modSteps_circ (f : Step → Step) (s : State) : (modSteps f s).circ = s.circ := rfl
@[simp] theorem modSteps_stash (f : Step → Step) (s : State) : (modSteps f s).stash = s.stash := rfl
@[simp] theorem modSteps_gather (f : Step → Step) (s : State) : (modSteps f s).gather = s.gather := rfl
@[simp] theorem modSteps_update (f : Step → Step) (s : State) : (modSteps f s).update = s.update := rfl
@[simp] theorem modSteps_steps (f : Step → Step) (s : State) : (modSteps f s).steps = f s.steps := rfl
@[simp] theorem modSteps_ckpt (f : Step → Step) (s : State) : (modSteps f s).ckpt = s.ckpt := rfl
@[simp] theorem modSteps_ports (f : Step → Step) (s : State) : (modSteps f s).ports = s.ports := rfl
@[simp] theorem modSteps_sends (f : Step → Step) (s : State) : (modSteps f s).sends = s.sends := rfl
@[simp] theorem modSteps_recvs (f : Step → Step) (s : State) : (modSteps f s).recvs = s.recvs := rfl
@[simp] theorem modSteps_xfers (f : Step → Step) (s : State) : (modSteps f s).xfers = s.xfers := rfl
@[simp] theorem modSteps_nextXfer (f : Step → Step) (s : State) : (modSteps f s).nextXfer = s.nextXfer := rfl
@[simp] theorem modSteps_bell (f : Step → Step) (s : State) : (modSteps f s).bell = s.bell := rfl
@[simp] theorem modSteps_colls (f : Step → Step) (s : State) : (modSteps f s).colls = s.colls := rfl
@[simp] theorem modSteps_collEngs (f : Step → Step) (s : State) : (modSteps f s).collEngs = s.collEngs := rfl
@[simp] theorem modSteps_mcs (f : Step → Step) (s : State) : (modSteps f s).mcs = s.mcs := rfl
@[simp] theorem modSteps_arbs (f : Step → Step) (s : State) : (modSteps f s).arbs = s.arbs := rfl
@[simp] theorem modSteps_arbWins (f : Step → Step) (s : State) : (modSteps f s).arbWins = s.arbWins := rfl
@[simp] theorem modSteps_lend (f : Step → Step) (s : State) : (modSteps f s).lend = s.lend := rfl
@[simp] theorem modSteps_intake (f : Step → Step) (s : State) : (modSteps f s).intake = s.intake := rfl
@[simp] theorem modSteps_gen (f : Step → Step) (s : State) : (modSteps f s).gen = s.gen := rfl
@[simp] theorem modSteps_bxl (f : Step → Step) (s : State) : (modSteps f s).bxl = s.bxl := rfl
@[simp] theorem modSteps_bells (f : Step → Step) (s : State) : (modSteps f s).bells = s.bells := rfl
@[simp] theorem modSteps_modes (f : Step → Step) (s : State) : (modSteps f s).modes = s.modes := rfl
@[simp] theorem modSteps_obs (f : Step → Step) (s : State) : (modSteps f s).obs = s.obs := rfl
@[simp] theorem modSteps_lamp (f : Step → Step) (s : State) : (modSteps f s).lamp = s.lamp := rfl
@[simp] theorem modSteps_faults (f : Step → Step) (s : State) : (modSteps f s).faults = s.faults := rfl
@[simp] theorem modSteps_hf (f : Step → Step) (s : State) : (modSteps f s).hf = s.hf := rfl
@[simp] theorem modSteps_pwr (f : Step → Step) (s : State) : (modSteps f s).pwr = s.pwr := rfl
@[simp] theorem modSteps_side (f : Step → Step) (s : State) : (modSteps f s).side = s.side := rfl
@[simp] theorem modSteps_ctr (f : Step → Step) (s : State) : (modSteps f s).ctr = s.ctr := rfl
@[simp] theorem modSteps_ovf (f : Step → Step) (s : State) : (modSteps f s).ovf = s.ovf := rfl
@[simp] theorem modSteps_wire (f : Step → Step) (s : State) : (modSteps f s).wire = s.wire := rfl
@[simp] theorem modSteps_hostOut (f : Step → Step) (s : State) : (modSteps f s).hostOut = s.hostOut := rfl
@[simp] theorem modSteps_free (f : Step → Step) (s : State) : (modSteps f s).free = s.free := rfl

@[simp] theorem modCkpt_pending (f : Ckpt → Ckpt) (s : State) : (modCkpt f s).pending = s.pending := rfl
@[simp] theorem modCkpt_hbm (f : Ckpt → Ckpt) (s : State) : (modCkpt f s).hbm = s.hbm := rfl
@[simp] theorem modCkpt_deep (f : Ckpt → Ckpt) (s : State) : (modCkpt f s).deep = s.deep := rfl
@[simp] theorem modCkpt_bad (f : Ckpt → Ckpt) (s : State) : (modCkpt f s).bad = s.bad := rfl
@[simp] theorem modCkpt_cells (f : Ckpt → Ckpt) (s : State) : (modCkpt f s).cells = s.cells := rfl
@[simp] theorem modCkpt_rings (f : Ckpt → Ckpt) (s : State) : (modCkpt f s).rings = s.rings := rfl
@[simp] theorem modCkpt_sigs (f : Ckpt → Ckpt) (s : State) : (modCkpt f s).sigs = s.sigs := rfl
@[simp] theorem modCkpt_pushes (f : Ckpt → Ckpt) (s : State) : (modCkpt f s).pushes = s.pushes := rfl
@[simp] theorem modCkpt_plan (f : Ckpt → Ckpt) (s : State) : (modCkpt f s).plan = s.plan := rfl
@[simp] theorem modCkpt_pmap (f : Ckpt → Ckpt) (s : State) : (modCkpt f s).pmap = s.pmap := rfl
@[simp] theorem modCkpt_circ (f : Ckpt → Ckpt) (s : State) : (modCkpt f s).circ = s.circ := rfl
@[simp] theorem modCkpt_stash (f : Ckpt → Ckpt) (s : State) : (modCkpt f s).stash = s.stash := rfl
@[simp] theorem modCkpt_gather (f : Ckpt → Ckpt) (s : State) : (modCkpt f s).gather = s.gather := rfl
@[simp] theorem modCkpt_update (f : Ckpt → Ckpt) (s : State) : (modCkpt f s).update = s.update := rfl
@[simp] theorem modCkpt_steps (f : Ckpt → Ckpt) (s : State) : (modCkpt f s).steps = s.steps := rfl
@[simp] theorem modCkpt_ckpt (f : Ckpt → Ckpt) (s : State) : (modCkpt f s).ckpt = f s.ckpt := rfl
@[simp] theorem modCkpt_ports (f : Ckpt → Ckpt) (s : State) : (modCkpt f s).ports = s.ports := rfl
@[simp] theorem modCkpt_sends (f : Ckpt → Ckpt) (s : State) : (modCkpt f s).sends = s.sends := rfl
@[simp] theorem modCkpt_recvs (f : Ckpt → Ckpt) (s : State) : (modCkpt f s).recvs = s.recvs := rfl
@[simp] theorem modCkpt_xfers (f : Ckpt → Ckpt) (s : State) : (modCkpt f s).xfers = s.xfers := rfl
@[simp] theorem modCkpt_nextXfer (f : Ckpt → Ckpt) (s : State) : (modCkpt f s).nextXfer = s.nextXfer := rfl
@[simp] theorem modCkpt_bell (f : Ckpt → Ckpt) (s : State) : (modCkpt f s).bell = s.bell := rfl
@[simp] theorem modCkpt_colls (f : Ckpt → Ckpt) (s : State) : (modCkpt f s).colls = s.colls := rfl
@[simp] theorem modCkpt_collEngs (f : Ckpt → Ckpt) (s : State) : (modCkpt f s).collEngs = s.collEngs := rfl
@[simp] theorem modCkpt_mcs (f : Ckpt → Ckpt) (s : State) : (modCkpt f s).mcs = s.mcs := rfl
@[simp] theorem modCkpt_arbs (f : Ckpt → Ckpt) (s : State) : (modCkpt f s).arbs = s.arbs := rfl
@[simp] theorem modCkpt_arbWins (f : Ckpt → Ckpt) (s : State) : (modCkpt f s).arbWins = s.arbWins := rfl
@[simp] theorem modCkpt_lend (f : Ckpt → Ckpt) (s : State) : (modCkpt f s).lend = s.lend := rfl
@[simp] theorem modCkpt_intake (f : Ckpt → Ckpt) (s : State) : (modCkpt f s).intake = s.intake := rfl
@[simp] theorem modCkpt_gen (f : Ckpt → Ckpt) (s : State) : (modCkpt f s).gen = s.gen := rfl
@[simp] theorem modCkpt_bxl (f : Ckpt → Ckpt) (s : State) : (modCkpt f s).bxl = s.bxl := rfl
@[simp] theorem modCkpt_bells (f : Ckpt → Ckpt) (s : State) : (modCkpt f s).bells = s.bells := rfl
@[simp] theorem modCkpt_modes (f : Ckpt → Ckpt) (s : State) : (modCkpt f s).modes = s.modes := rfl
@[simp] theorem modCkpt_obs (f : Ckpt → Ckpt) (s : State) : (modCkpt f s).obs = s.obs := rfl
@[simp] theorem modCkpt_lamp (f : Ckpt → Ckpt) (s : State) : (modCkpt f s).lamp = s.lamp := rfl
@[simp] theorem modCkpt_faults (f : Ckpt → Ckpt) (s : State) : (modCkpt f s).faults = s.faults := rfl
@[simp] theorem modCkpt_hf (f : Ckpt → Ckpt) (s : State) : (modCkpt f s).hf = s.hf := rfl
@[simp] theorem modCkpt_pwr (f : Ckpt → Ckpt) (s : State) : (modCkpt f s).pwr = s.pwr := rfl
@[simp] theorem modCkpt_side (f : Ckpt → Ckpt) (s : State) : (modCkpt f s).side = s.side := rfl
@[simp] theorem modCkpt_ctr (f : Ckpt → Ckpt) (s : State) : (modCkpt f s).ctr = s.ctr := rfl
@[simp] theorem modCkpt_ovf (f : Ckpt → Ckpt) (s : State) : (modCkpt f s).ovf = s.ovf := rfl
@[simp] theorem modCkpt_wire (f : Ckpt → Ckpt) (s : State) : (modCkpt f s).wire = s.wire := rfl
@[simp] theorem modCkpt_hostOut (f : Ckpt → Ckpt) (s : State) : (modCkpt f s).hostOut = s.hostOut := rfl
@[simp] theorem modCkpt_free (f : Ckpt → Ckpt) (s : State) : (modCkpt f s).free = s.free := rfl

@[simp] theorem modFaults_pending (f : Faults → Faults) (s : State) : (modFaults f s).pending = s.pending := rfl
@[simp] theorem modFaults_hbm (f : Faults → Faults) (s : State) : (modFaults f s).hbm = s.hbm := rfl
@[simp] theorem modFaults_deep (f : Faults → Faults) (s : State) : (modFaults f s).deep = s.deep := rfl
@[simp] theorem modFaults_bad (f : Faults → Faults) (s : State) : (modFaults f s).bad = s.bad := rfl
@[simp] theorem modFaults_cells (f : Faults → Faults) (s : State) : (modFaults f s).cells = s.cells := rfl
@[simp] theorem modFaults_rings (f : Faults → Faults) (s : State) : (modFaults f s).rings = s.rings := rfl
@[simp] theorem modFaults_sigs (f : Faults → Faults) (s : State) : (modFaults f s).sigs = s.sigs := rfl
@[simp] theorem modFaults_pushes (f : Faults → Faults) (s : State) : (modFaults f s).pushes = s.pushes := rfl
@[simp] theorem modFaults_plan (f : Faults → Faults) (s : State) : (modFaults f s).plan = s.plan := rfl
@[simp] theorem modFaults_pmap (f : Faults → Faults) (s : State) : (modFaults f s).pmap = s.pmap := rfl
@[simp] theorem modFaults_circ (f : Faults → Faults) (s : State) : (modFaults f s).circ = s.circ := rfl
@[simp] theorem modFaults_stash (f : Faults → Faults) (s : State) : (modFaults f s).stash = s.stash := rfl
@[simp] theorem modFaults_gather (f : Faults → Faults) (s : State) : (modFaults f s).gather = s.gather := rfl
@[simp] theorem modFaults_update (f : Faults → Faults) (s : State) : (modFaults f s).update = s.update := rfl
@[simp] theorem modFaults_steps (f : Faults → Faults) (s : State) : (modFaults f s).steps = s.steps := rfl
@[simp] theorem modFaults_ckpt (f : Faults → Faults) (s : State) : (modFaults f s).ckpt = s.ckpt := rfl
@[simp] theorem modFaults_ports (f : Faults → Faults) (s : State) : (modFaults f s).ports = s.ports := rfl
@[simp] theorem modFaults_sends (f : Faults → Faults) (s : State) : (modFaults f s).sends = s.sends := rfl
@[simp] theorem modFaults_recvs (f : Faults → Faults) (s : State) : (modFaults f s).recvs = s.recvs := rfl
@[simp] theorem modFaults_xfers (f : Faults → Faults) (s : State) : (modFaults f s).xfers = s.xfers := rfl
@[simp] theorem modFaults_nextXfer (f : Faults → Faults) (s : State) : (modFaults f s).nextXfer = s.nextXfer := rfl
@[simp] theorem modFaults_bell (f : Faults → Faults) (s : State) : (modFaults f s).bell = s.bell := rfl
@[simp] theorem modFaults_colls (f : Faults → Faults) (s : State) : (modFaults f s).colls = s.colls := rfl
@[simp] theorem modFaults_collEngs (f : Faults → Faults) (s : State) : (modFaults f s).collEngs = s.collEngs := rfl
@[simp] theorem modFaults_mcs (f : Faults → Faults) (s : State) : (modFaults f s).mcs = s.mcs := rfl
@[simp] theorem modFaults_arbs (f : Faults → Faults) (s : State) : (modFaults f s).arbs = s.arbs := rfl
@[simp] theorem modFaults_arbWins (f : Faults → Faults) (s : State) : (modFaults f s).arbWins = s.arbWins := rfl
@[simp] theorem modFaults_lend (f : Faults → Faults) (s : State) : (modFaults f s).lend = s.lend := rfl
@[simp] theorem modFaults_intake (f : Faults → Faults) (s : State) : (modFaults f s).intake = s.intake := rfl
@[simp] theorem modFaults_gen (f : Faults → Faults) (s : State) : (modFaults f s).gen = s.gen := rfl
@[simp] theorem modFaults_bxl (f : Faults → Faults) (s : State) : (modFaults f s).bxl = s.bxl := rfl
@[simp] theorem modFaults_bells (f : Faults → Faults) (s : State) : (modFaults f s).bells = s.bells := rfl
@[simp] theorem modFaults_modes (f : Faults → Faults) (s : State) : (modFaults f s).modes = s.modes := rfl
@[simp] theorem modFaults_obs (f : Faults → Faults) (s : State) : (modFaults f s).obs = s.obs := rfl
@[simp] theorem modFaults_lamp (f : Faults → Faults) (s : State) : (modFaults f s).lamp = s.lamp := rfl
@[simp] theorem modFaults_faults (f : Faults → Faults) (s : State) : (modFaults f s).faults = f s.faults := rfl
@[simp] theorem modFaults_hf (f : Faults → Faults) (s : State) : (modFaults f s).hf = s.hf := rfl
@[simp] theorem modFaults_pwr (f : Faults → Faults) (s : State) : (modFaults f s).pwr = s.pwr := rfl
@[simp] theorem modFaults_side (f : Faults → Faults) (s : State) : (modFaults f s).side = s.side := rfl
@[simp] theorem modFaults_ctr (f : Faults → Faults) (s : State) : (modFaults f s).ctr = s.ctr := rfl
@[simp] theorem modFaults_ovf (f : Faults → Faults) (s : State) : (modFaults f s).ovf = s.ovf := rfl
@[simp] theorem modFaults_wire (f : Faults → Faults) (s : State) : (modFaults f s).wire = s.wire := rfl
@[simp] theorem modFaults_hostOut (f : Faults → Faults) (s : State) : (modFaults f s).hostOut = s.hostOut := rfl
@[simp] theorem modFaults_free (f : Faults → Faults) (s : State) : (modFaults f s).free = s.free := rfl

@[simp] theorem modHf_pending (f : Headframe → Headframe) (s : State) : (modHf f s).pending = s.pending := rfl
@[simp] theorem modHf_hbm (f : Headframe → Headframe) (s : State) : (modHf f s).hbm = s.hbm := rfl
@[simp] theorem modHf_deep (f : Headframe → Headframe) (s : State) : (modHf f s).deep = s.deep := rfl
@[simp] theorem modHf_bad (f : Headframe → Headframe) (s : State) : (modHf f s).bad = s.bad := rfl
@[simp] theorem modHf_cells (f : Headframe → Headframe) (s : State) : (modHf f s).cells = s.cells := rfl
@[simp] theorem modHf_rings (f : Headframe → Headframe) (s : State) : (modHf f s).rings = s.rings := rfl
@[simp] theorem modHf_sigs (f : Headframe → Headframe) (s : State) : (modHf f s).sigs = s.sigs := rfl
@[simp] theorem modHf_pushes (f : Headframe → Headframe) (s : State) : (modHf f s).pushes = s.pushes := rfl
@[simp] theorem modHf_plan (f : Headframe → Headframe) (s : State) : (modHf f s).plan = s.plan := rfl
@[simp] theorem modHf_pmap (f : Headframe → Headframe) (s : State) : (modHf f s).pmap = s.pmap := rfl
@[simp] theorem modHf_circ (f : Headframe → Headframe) (s : State) : (modHf f s).circ = s.circ := rfl
@[simp] theorem modHf_stash (f : Headframe → Headframe) (s : State) : (modHf f s).stash = s.stash := rfl
@[simp] theorem modHf_gather (f : Headframe → Headframe) (s : State) : (modHf f s).gather = s.gather := rfl
@[simp] theorem modHf_update (f : Headframe → Headframe) (s : State) : (modHf f s).update = s.update := rfl
@[simp] theorem modHf_steps (f : Headframe → Headframe) (s : State) : (modHf f s).steps = s.steps := rfl
@[simp] theorem modHf_ckpt (f : Headframe → Headframe) (s : State) : (modHf f s).ckpt = s.ckpt := rfl
@[simp] theorem modHf_ports (f : Headframe → Headframe) (s : State) : (modHf f s).ports = s.ports := rfl
@[simp] theorem modHf_sends (f : Headframe → Headframe) (s : State) : (modHf f s).sends = s.sends := rfl
@[simp] theorem modHf_recvs (f : Headframe → Headframe) (s : State) : (modHf f s).recvs = s.recvs := rfl
@[simp] theorem modHf_xfers (f : Headframe → Headframe) (s : State) : (modHf f s).xfers = s.xfers := rfl
@[simp] theorem modHf_nextXfer (f : Headframe → Headframe) (s : State) : (modHf f s).nextXfer = s.nextXfer := rfl
@[simp] theorem modHf_bell (f : Headframe → Headframe) (s : State) : (modHf f s).bell = s.bell := rfl
@[simp] theorem modHf_colls (f : Headframe → Headframe) (s : State) : (modHf f s).colls = s.colls := rfl
@[simp] theorem modHf_collEngs (f : Headframe → Headframe) (s : State) : (modHf f s).collEngs = s.collEngs := rfl
@[simp] theorem modHf_mcs (f : Headframe → Headframe) (s : State) : (modHf f s).mcs = s.mcs := rfl
@[simp] theorem modHf_arbs (f : Headframe → Headframe) (s : State) : (modHf f s).arbs = s.arbs := rfl
@[simp] theorem modHf_arbWins (f : Headframe → Headframe) (s : State) : (modHf f s).arbWins = s.arbWins := rfl
@[simp] theorem modHf_lend (f : Headframe → Headframe) (s : State) : (modHf f s).lend = s.lend := rfl
@[simp] theorem modHf_intake (f : Headframe → Headframe) (s : State) : (modHf f s).intake = s.intake := rfl
@[simp] theorem modHf_gen (f : Headframe → Headframe) (s : State) : (modHf f s).gen = s.gen := rfl
@[simp] theorem modHf_bxl (f : Headframe → Headframe) (s : State) : (modHf f s).bxl = s.bxl := rfl
@[simp] theorem modHf_bells (f : Headframe → Headframe) (s : State) : (modHf f s).bells = s.bells := rfl
@[simp] theorem modHf_modes (f : Headframe → Headframe) (s : State) : (modHf f s).modes = s.modes := rfl
@[simp] theorem modHf_obs (f : Headframe → Headframe) (s : State) : (modHf f s).obs = s.obs := rfl
@[simp] theorem modHf_lamp (f : Headframe → Headframe) (s : State) : (modHf f s).lamp = s.lamp := rfl
@[simp] theorem modHf_faults (f : Headframe → Headframe) (s : State) : (modHf f s).faults = s.faults := rfl
@[simp] theorem modHf_hf (f : Headframe → Headframe) (s : State) : (modHf f s).hf = f s.hf := rfl
@[simp] theorem modHf_pwr (f : Headframe → Headframe) (s : State) : (modHf f s).pwr = s.pwr := rfl
@[simp] theorem modHf_side (f : Headframe → Headframe) (s : State) : (modHf f s).side = s.side := rfl
@[simp] theorem modHf_ctr (f : Headframe → Headframe) (s : State) : (modHf f s).ctr = s.ctr := rfl
@[simp] theorem modHf_ovf (f : Headframe → Headframe) (s : State) : (modHf f s).ovf = s.ovf := rfl
@[simp] theorem modHf_wire (f : Headframe → Headframe) (s : State) : (modHf f s).wire = s.wire := rfl
@[simp] theorem modHf_hostOut (f : Headframe → Headframe) (s : State) : (modHf f s).hostOut = s.hostOut := rfl
@[simp] theorem modHf_free (f : Headframe → Headframe) (s : State) : (modHf f s).free = s.free := rfl

@[simp] theorem modIntake_pending (f : Intake → Intake) (s : State) : (modIntake f s).pending = s.pending := rfl
@[simp] theorem modIntake_hbm (f : Intake → Intake) (s : State) : (modIntake f s).hbm = s.hbm := rfl
@[simp] theorem modIntake_deep (f : Intake → Intake) (s : State) : (modIntake f s).deep = s.deep := rfl
@[simp] theorem modIntake_bad (f : Intake → Intake) (s : State) : (modIntake f s).bad = s.bad := rfl
@[simp] theorem modIntake_cells (f : Intake → Intake) (s : State) : (modIntake f s).cells = s.cells := rfl
@[simp] theorem modIntake_rings (f : Intake → Intake) (s : State) : (modIntake f s).rings = s.rings := rfl
@[simp] theorem modIntake_sigs (f : Intake → Intake) (s : State) : (modIntake f s).sigs = s.sigs := rfl
@[simp] theorem modIntake_pushes (f : Intake → Intake) (s : State) : (modIntake f s).pushes = s.pushes := rfl
@[simp] theorem modIntake_plan (f : Intake → Intake) (s : State) : (modIntake f s).plan = s.plan := rfl
@[simp] theorem modIntake_pmap (f : Intake → Intake) (s : State) : (modIntake f s).pmap = s.pmap := rfl
@[simp] theorem modIntake_circ (f : Intake → Intake) (s : State) : (modIntake f s).circ = s.circ := rfl
@[simp] theorem modIntake_stash (f : Intake → Intake) (s : State) : (modIntake f s).stash = s.stash := rfl
@[simp] theorem modIntake_gather (f : Intake → Intake) (s : State) : (modIntake f s).gather = s.gather := rfl
@[simp] theorem modIntake_update (f : Intake → Intake) (s : State) : (modIntake f s).update = s.update := rfl
@[simp] theorem modIntake_steps (f : Intake → Intake) (s : State) : (modIntake f s).steps = s.steps := rfl
@[simp] theorem modIntake_ckpt (f : Intake → Intake) (s : State) : (modIntake f s).ckpt = s.ckpt := rfl
@[simp] theorem modIntake_ports (f : Intake → Intake) (s : State) : (modIntake f s).ports = s.ports := rfl
@[simp] theorem modIntake_sends (f : Intake → Intake) (s : State) : (modIntake f s).sends = s.sends := rfl
@[simp] theorem modIntake_recvs (f : Intake → Intake) (s : State) : (modIntake f s).recvs = s.recvs := rfl
@[simp] theorem modIntake_xfers (f : Intake → Intake) (s : State) : (modIntake f s).xfers = s.xfers := rfl
@[simp] theorem modIntake_nextXfer (f : Intake → Intake) (s : State) : (modIntake f s).nextXfer = s.nextXfer := rfl
@[simp] theorem modIntake_bell (f : Intake → Intake) (s : State) : (modIntake f s).bell = s.bell := rfl
@[simp] theorem modIntake_colls (f : Intake → Intake) (s : State) : (modIntake f s).colls = s.colls := rfl
@[simp] theorem modIntake_collEngs (f : Intake → Intake) (s : State) : (modIntake f s).collEngs = s.collEngs := rfl
@[simp] theorem modIntake_mcs (f : Intake → Intake) (s : State) : (modIntake f s).mcs = s.mcs := rfl
@[simp] theorem modIntake_arbs (f : Intake → Intake) (s : State) : (modIntake f s).arbs = s.arbs := rfl
@[simp] theorem modIntake_arbWins (f : Intake → Intake) (s : State) : (modIntake f s).arbWins = s.arbWins := rfl
@[simp] theorem modIntake_lend (f : Intake → Intake) (s : State) : (modIntake f s).lend = s.lend := rfl
@[simp] theorem modIntake_intake (f : Intake → Intake) (s : State) : (modIntake f s).intake = f s.intake := rfl
@[simp] theorem modIntake_gen (f : Intake → Intake) (s : State) : (modIntake f s).gen = s.gen := rfl
@[simp] theorem modIntake_bxl (f : Intake → Intake) (s : State) : (modIntake f s).bxl = s.bxl := rfl
@[simp] theorem modIntake_bells (f : Intake → Intake) (s : State) : (modIntake f s).bells = s.bells := rfl
@[simp] theorem modIntake_modes (f : Intake → Intake) (s : State) : (modIntake f s).modes = s.modes := rfl
@[simp] theorem modIntake_obs (f : Intake → Intake) (s : State) : (modIntake f s).obs = s.obs := rfl
@[simp] theorem modIntake_lamp (f : Intake → Intake) (s : State) : (modIntake f s).lamp = s.lamp := rfl
@[simp] theorem modIntake_faults (f : Intake → Intake) (s : State) : (modIntake f s).faults = s.faults := rfl
@[simp] theorem modIntake_hf (f : Intake → Intake) (s : State) : (modIntake f s).hf = s.hf := rfl
@[simp] theorem modIntake_pwr (f : Intake → Intake) (s : State) : (modIntake f s).pwr = s.pwr := rfl
@[simp] theorem modIntake_side (f : Intake → Intake) (s : State) : (modIntake f s).side = s.side := rfl
@[simp] theorem modIntake_ctr (f : Intake → Intake) (s : State) : (modIntake f s).ctr = s.ctr := rfl
@[simp] theorem modIntake_ovf (f : Intake → Intake) (s : State) : (modIntake f s).ovf = s.ovf := rfl
@[simp] theorem modIntake_wire (f : Intake → Intake) (s : State) : (modIntake f s).wire = s.wire := rfl
@[simp] theorem modIntake_hostOut (f : Intake → Intake) (s : State) : (modIntake f s).hostOut = s.hostOut := rfl
@[simp] theorem modIntake_free (f : Intake → Intake) (s : State) : (modIntake f s).free = s.free := rfl

@[simp] theorem modModes_pending (f : Modes → Modes) (s : State) : (modModes f s).pending = s.pending := rfl
@[simp] theorem modModes_hbm (f : Modes → Modes) (s : State) : (modModes f s).hbm = s.hbm := rfl
@[simp] theorem modModes_deep (f : Modes → Modes) (s : State) : (modModes f s).deep = s.deep := rfl
@[simp] theorem modModes_bad (f : Modes → Modes) (s : State) : (modModes f s).bad = s.bad := rfl
@[simp] theorem modModes_cells (f : Modes → Modes) (s : State) : (modModes f s).cells = s.cells := rfl
@[simp] theorem modModes_rings (f : Modes → Modes) (s : State) : (modModes f s).rings = s.rings := rfl
@[simp] theorem modModes_sigs (f : Modes → Modes) (s : State) : (modModes f s).sigs = s.sigs := rfl
@[simp] theorem modModes_pushes (f : Modes → Modes) (s : State) : (modModes f s).pushes = s.pushes := rfl
@[simp] theorem modModes_plan (f : Modes → Modes) (s : State) : (modModes f s).plan = s.plan := rfl
@[simp] theorem modModes_pmap (f : Modes → Modes) (s : State) : (modModes f s).pmap = s.pmap := rfl
@[simp] theorem modModes_circ (f : Modes → Modes) (s : State) : (modModes f s).circ = s.circ := rfl
@[simp] theorem modModes_stash (f : Modes → Modes) (s : State) : (modModes f s).stash = s.stash := rfl
@[simp] theorem modModes_gather (f : Modes → Modes) (s : State) : (modModes f s).gather = s.gather := rfl
@[simp] theorem modModes_update (f : Modes → Modes) (s : State) : (modModes f s).update = s.update := rfl
@[simp] theorem modModes_steps (f : Modes → Modes) (s : State) : (modModes f s).steps = s.steps := rfl
@[simp] theorem modModes_ckpt (f : Modes → Modes) (s : State) : (modModes f s).ckpt = s.ckpt := rfl
@[simp] theorem modModes_ports (f : Modes → Modes) (s : State) : (modModes f s).ports = s.ports := rfl
@[simp] theorem modModes_sends (f : Modes → Modes) (s : State) : (modModes f s).sends = s.sends := rfl
@[simp] theorem modModes_recvs (f : Modes → Modes) (s : State) : (modModes f s).recvs = s.recvs := rfl
@[simp] theorem modModes_xfers (f : Modes → Modes) (s : State) : (modModes f s).xfers = s.xfers := rfl
@[simp] theorem modModes_nextXfer (f : Modes → Modes) (s : State) : (modModes f s).nextXfer = s.nextXfer := rfl
@[simp] theorem modModes_bell (f : Modes → Modes) (s : State) : (modModes f s).bell = s.bell := rfl
@[simp] theorem modModes_colls (f : Modes → Modes) (s : State) : (modModes f s).colls = s.colls := rfl
@[simp] theorem modModes_collEngs (f : Modes → Modes) (s : State) : (modModes f s).collEngs = s.collEngs := rfl
@[simp] theorem modModes_mcs (f : Modes → Modes) (s : State) : (modModes f s).mcs = s.mcs := rfl
@[simp] theorem modModes_arbs (f : Modes → Modes) (s : State) : (modModes f s).arbs = s.arbs := rfl
@[simp] theorem modModes_arbWins (f : Modes → Modes) (s : State) : (modModes f s).arbWins = s.arbWins := rfl
@[simp] theorem modModes_lend (f : Modes → Modes) (s : State) : (modModes f s).lend = s.lend := rfl
@[simp] theorem modModes_intake (f : Modes → Modes) (s : State) : (modModes f s).intake = s.intake := rfl
@[simp] theorem modModes_gen (f : Modes → Modes) (s : State) : (modModes f s).gen = s.gen := rfl
@[simp] theorem modModes_bxl (f : Modes → Modes) (s : State) : (modModes f s).bxl = s.bxl := rfl
@[simp] theorem modModes_bells (f : Modes → Modes) (s : State) : (modModes f s).bells = s.bells := rfl
@[simp] theorem modModes_modes (f : Modes → Modes) (s : State) : (modModes f s).modes = f s.modes := rfl
@[simp] theorem modModes_obs (f : Modes → Modes) (s : State) : (modModes f s).obs = s.obs := rfl
@[simp] theorem modModes_lamp (f : Modes → Modes) (s : State) : (modModes f s).lamp = s.lamp := rfl
@[simp] theorem modModes_faults (f : Modes → Modes) (s : State) : (modModes f s).faults = s.faults := rfl
@[simp] theorem modModes_hf (f : Modes → Modes) (s : State) : (modModes f s).hf = s.hf := rfl
@[simp] theorem modModes_pwr (f : Modes → Modes) (s : State) : (modModes f s).pwr = s.pwr := rfl
@[simp] theorem modModes_side (f : Modes → Modes) (s : State) : (modModes f s).side = s.side := rfl
@[simp] theorem modModes_ctr (f : Modes → Modes) (s : State) : (modModes f s).ctr = s.ctr := rfl
@[simp] theorem modModes_ovf (f : Modes → Modes) (s : State) : (modModes f s).ovf = s.ovf := rfl
@[simp] theorem modModes_wire (f : Modes → Modes) (s : State) : (modModes f s).wire = s.wire := rfl
@[simp] theorem modModes_hostOut (f : Modes → Modes) (s : State) : (modModes f s).hostOut = s.hostOut := rfl
@[simp] theorem modModes_free (f : Modes → Modes) (s : State) : (modModes f s).free = s.free := rfl

@[simp] theorem modObs_pending (f : Obs → Obs) (s : State) : (modObs f s).pending = s.pending := rfl
@[simp] theorem modObs_hbm (f : Obs → Obs) (s : State) : (modObs f s).hbm = s.hbm := rfl
@[simp] theorem modObs_deep (f : Obs → Obs) (s : State) : (modObs f s).deep = s.deep := rfl
@[simp] theorem modObs_bad (f : Obs → Obs) (s : State) : (modObs f s).bad = s.bad := rfl
@[simp] theorem modObs_cells (f : Obs → Obs) (s : State) : (modObs f s).cells = s.cells := rfl
@[simp] theorem modObs_rings (f : Obs → Obs) (s : State) : (modObs f s).rings = s.rings := rfl
@[simp] theorem modObs_sigs (f : Obs → Obs) (s : State) : (modObs f s).sigs = s.sigs := rfl
@[simp] theorem modObs_pushes (f : Obs → Obs) (s : State) : (modObs f s).pushes = s.pushes := rfl
@[simp] theorem modObs_plan (f : Obs → Obs) (s : State) : (modObs f s).plan = s.plan := rfl
@[simp] theorem modObs_pmap (f : Obs → Obs) (s : State) : (modObs f s).pmap = s.pmap := rfl
@[simp] theorem modObs_circ (f : Obs → Obs) (s : State) : (modObs f s).circ = s.circ := rfl
@[simp] theorem modObs_stash (f : Obs → Obs) (s : State) : (modObs f s).stash = s.stash := rfl
@[simp] theorem modObs_gather (f : Obs → Obs) (s : State) : (modObs f s).gather = s.gather := rfl
@[simp] theorem modObs_update (f : Obs → Obs) (s : State) : (modObs f s).update = s.update := rfl
@[simp] theorem modObs_steps (f : Obs → Obs) (s : State) : (modObs f s).steps = s.steps := rfl
@[simp] theorem modObs_ckpt (f : Obs → Obs) (s : State) : (modObs f s).ckpt = s.ckpt := rfl
@[simp] theorem modObs_ports (f : Obs → Obs) (s : State) : (modObs f s).ports = s.ports := rfl
@[simp] theorem modObs_sends (f : Obs → Obs) (s : State) : (modObs f s).sends = s.sends := rfl
@[simp] theorem modObs_recvs (f : Obs → Obs) (s : State) : (modObs f s).recvs = s.recvs := rfl
@[simp] theorem modObs_xfers (f : Obs → Obs) (s : State) : (modObs f s).xfers = s.xfers := rfl
@[simp] theorem modObs_nextXfer (f : Obs → Obs) (s : State) : (modObs f s).nextXfer = s.nextXfer := rfl
@[simp] theorem modObs_bell (f : Obs → Obs) (s : State) : (modObs f s).bell = s.bell := rfl
@[simp] theorem modObs_colls (f : Obs → Obs) (s : State) : (modObs f s).colls = s.colls := rfl
@[simp] theorem modObs_collEngs (f : Obs → Obs) (s : State) : (modObs f s).collEngs = s.collEngs := rfl
@[simp] theorem modObs_mcs (f : Obs → Obs) (s : State) : (modObs f s).mcs = s.mcs := rfl
@[simp] theorem modObs_arbs (f : Obs → Obs) (s : State) : (modObs f s).arbs = s.arbs := rfl
@[simp] theorem modObs_arbWins (f : Obs → Obs) (s : State) : (modObs f s).arbWins = s.arbWins := rfl
@[simp] theorem modObs_lend (f : Obs → Obs) (s : State) : (modObs f s).lend = s.lend := rfl
@[simp] theorem modObs_intake (f : Obs → Obs) (s : State) : (modObs f s).intake = s.intake := rfl
@[simp] theorem modObs_gen (f : Obs → Obs) (s : State) : (modObs f s).gen = s.gen := rfl
@[simp] theorem modObs_bxl (f : Obs → Obs) (s : State) : (modObs f s).bxl = s.bxl := rfl
@[simp] theorem modObs_bells (f : Obs → Obs) (s : State) : (modObs f s).bells = s.bells := rfl
@[simp] theorem modObs_modes (f : Obs → Obs) (s : State) : (modObs f s).modes = s.modes := rfl
@[simp] theorem modObs_obs (f : Obs → Obs) (s : State) : (modObs f s).obs = f s.obs := rfl
@[simp] theorem modObs_lamp (f : Obs → Obs) (s : State) : (modObs f s).lamp = s.lamp := rfl
@[simp] theorem modObs_faults (f : Obs → Obs) (s : State) : (modObs f s).faults = s.faults := rfl
@[simp] theorem modObs_hf (f : Obs → Obs) (s : State) : (modObs f s).hf = s.hf := rfl
@[simp] theorem modObs_pwr (f : Obs → Obs) (s : State) : (modObs f s).pwr = s.pwr := rfl
@[simp] theorem modObs_side (f : Obs → Obs) (s : State) : (modObs f s).side = s.side := rfl
@[simp] theorem modObs_ctr (f : Obs → Obs) (s : State) : (modObs f s).ctr = s.ctr := rfl
@[simp] theorem modObs_ovf (f : Obs → Obs) (s : State) : (modObs f s).ovf = s.ovf := rfl
@[simp] theorem modObs_wire (f : Obs → Obs) (s : State) : (modObs f s).wire = s.wire := rfl
@[simp] theorem modObs_hostOut (f : Obs → Obs) (s : State) : (modObs f s).hostOut = s.hostOut := rfl
@[simp] theorem modObs_free (f : Obs → Obs) (s : State) : (modObs f s).free = s.free := rfl

@[simp] theorem modLamp_pending (f : Lamp → Lamp) (s : State) : (modLamp f s).pending = s.pending := rfl
@[simp] theorem modLamp_hbm (f : Lamp → Lamp) (s : State) : (modLamp f s).hbm = s.hbm := rfl
@[simp] theorem modLamp_deep (f : Lamp → Lamp) (s : State) : (modLamp f s).deep = s.deep := rfl
@[simp] theorem modLamp_bad (f : Lamp → Lamp) (s : State) : (modLamp f s).bad = s.bad := rfl
@[simp] theorem modLamp_cells (f : Lamp → Lamp) (s : State) : (modLamp f s).cells = s.cells := rfl
@[simp] theorem modLamp_rings (f : Lamp → Lamp) (s : State) : (modLamp f s).rings = s.rings := rfl
@[simp] theorem modLamp_sigs (f : Lamp → Lamp) (s : State) : (modLamp f s).sigs = s.sigs := rfl
@[simp] theorem modLamp_pushes (f : Lamp → Lamp) (s : State) : (modLamp f s).pushes = s.pushes := rfl
@[simp] theorem modLamp_plan (f : Lamp → Lamp) (s : State) : (modLamp f s).plan = s.plan := rfl
@[simp] theorem modLamp_pmap (f : Lamp → Lamp) (s : State) : (modLamp f s).pmap = s.pmap := rfl
@[simp] theorem modLamp_circ (f : Lamp → Lamp) (s : State) : (modLamp f s).circ = s.circ := rfl
@[simp] theorem modLamp_stash (f : Lamp → Lamp) (s : State) : (modLamp f s).stash = s.stash := rfl
@[simp] theorem modLamp_gather (f : Lamp → Lamp) (s : State) : (modLamp f s).gather = s.gather := rfl
@[simp] theorem modLamp_update (f : Lamp → Lamp) (s : State) : (modLamp f s).update = s.update := rfl
@[simp] theorem modLamp_steps (f : Lamp → Lamp) (s : State) : (modLamp f s).steps = s.steps := rfl
@[simp] theorem modLamp_ckpt (f : Lamp → Lamp) (s : State) : (modLamp f s).ckpt = s.ckpt := rfl
@[simp] theorem modLamp_ports (f : Lamp → Lamp) (s : State) : (modLamp f s).ports = s.ports := rfl
@[simp] theorem modLamp_sends (f : Lamp → Lamp) (s : State) : (modLamp f s).sends = s.sends := rfl
@[simp] theorem modLamp_recvs (f : Lamp → Lamp) (s : State) : (modLamp f s).recvs = s.recvs := rfl
@[simp] theorem modLamp_xfers (f : Lamp → Lamp) (s : State) : (modLamp f s).xfers = s.xfers := rfl
@[simp] theorem modLamp_nextXfer (f : Lamp → Lamp) (s : State) : (modLamp f s).nextXfer = s.nextXfer := rfl
@[simp] theorem modLamp_bell (f : Lamp → Lamp) (s : State) : (modLamp f s).bell = s.bell := rfl
@[simp] theorem modLamp_colls (f : Lamp → Lamp) (s : State) : (modLamp f s).colls = s.colls := rfl
@[simp] theorem modLamp_collEngs (f : Lamp → Lamp) (s : State) : (modLamp f s).collEngs = s.collEngs := rfl
@[simp] theorem modLamp_mcs (f : Lamp → Lamp) (s : State) : (modLamp f s).mcs = s.mcs := rfl
@[simp] theorem modLamp_arbs (f : Lamp → Lamp) (s : State) : (modLamp f s).arbs = s.arbs := rfl
@[simp] theorem modLamp_arbWins (f : Lamp → Lamp) (s : State) : (modLamp f s).arbWins = s.arbWins := rfl
@[simp] theorem modLamp_lend (f : Lamp → Lamp) (s : State) : (modLamp f s).lend = s.lend := rfl
@[simp] theorem modLamp_intake (f : Lamp → Lamp) (s : State) : (modLamp f s).intake = s.intake := rfl
@[simp] theorem modLamp_gen (f : Lamp → Lamp) (s : State) : (modLamp f s).gen = s.gen := rfl
@[simp] theorem modLamp_bxl (f : Lamp → Lamp) (s : State) : (modLamp f s).bxl = s.bxl := rfl
@[simp] theorem modLamp_bells (f : Lamp → Lamp) (s : State) : (modLamp f s).bells = s.bells := rfl
@[simp] theorem modLamp_modes (f : Lamp → Lamp) (s : State) : (modLamp f s).modes = s.modes := rfl
@[simp] theorem modLamp_obs (f : Lamp → Lamp) (s : State) : (modLamp f s).obs = s.obs := rfl
@[simp] theorem modLamp_lamp (f : Lamp → Lamp) (s : State) : (modLamp f s).lamp = f s.lamp := rfl
@[simp] theorem modLamp_faults (f : Lamp → Lamp) (s : State) : (modLamp f s).faults = s.faults := rfl
@[simp] theorem modLamp_hf (f : Lamp → Lamp) (s : State) : (modLamp f s).hf = s.hf := rfl
@[simp] theorem modLamp_pwr (f : Lamp → Lamp) (s : State) : (modLamp f s).pwr = s.pwr := rfl
@[simp] theorem modLamp_side (f : Lamp → Lamp) (s : State) : (modLamp f s).side = s.side := rfl
@[simp] theorem modLamp_ctr (f : Lamp → Lamp) (s : State) : (modLamp f s).ctr = s.ctr := rfl
@[simp] theorem modLamp_ovf (f : Lamp → Lamp) (s : State) : (modLamp f s).ovf = s.ovf := rfl
@[simp] theorem modLamp_wire (f : Lamp → Lamp) (s : State) : (modLamp f s).wire = s.wire := rfl
@[simp] theorem modLamp_hostOut (f : Lamp → Lamp) (s : State) : (modLamp f s).hostOut = s.hostOut := rfl
@[simp] theorem modLamp_free (f : Lamp → Lamp) (s : State) : (modLamp f s).free = s.free := rfl

@[simp] theorem modPwr_pending (f : Power → Power) (s : State) : (modPwr f s).pending = s.pending := rfl
@[simp] theorem modPwr_hbm (f : Power → Power) (s : State) : (modPwr f s).hbm = s.hbm := rfl
@[simp] theorem modPwr_deep (f : Power → Power) (s : State) : (modPwr f s).deep = s.deep := rfl
@[simp] theorem modPwr_bad (f : Power → Power) (s : State) : (modPwr f s).bad = s.bad := rfl
@[simp] theorem modPwr_cells (f : Power → Power) (s : State) : (modPwr f s).cells = s.cells := rfl
@[simp] theorem modPwr_rings (f : Power → Power) (s : State) : (modPwr f s).rings = s.rings := rfl
@[simp] theorem modPwr_sigs (f : Power → Power) (s : State) : (modPwr f s).sigs = s.sigs := rfl
@[simp] theorem modPwr_pushes (f : Power → Power) (s : State) : (modPwr f s).pushes = s.pushes := rfl
@[simp] theorem modPwr_plan (f : Power → Power) (s : State) : (modPwr f s).plan = s.plan := rfl
@[simp] theorem modPwr_pmap (f : Power → Power) (s : State) : (modPwr f s).pmap = s.pmap := rfl
@[simp] theorem modPwr_circ (f : Power → Power) (s : State) : (modPwr f s).circ = s.circ := rfl
@[simp] theorem modPwr_stash (f : Power → Power) (s : State) : (modPwr f s).stash = s.stash := rfl
@[simp] theorem modPwr_gather (f : Power → Power) (s : State) : (modPwr f s).gather = s.gather := rfl
@[simp] theorem modPwr_update (f : Power → Power) (s : State) : (modPwr f s).update = s.update := rfl
@[simp] theorem modPwr_steps (f : Power → Power) (s : State) : (modPwr f s).steps = s.steps := rfl
@[simp] theorem modPwr_ckpt (f : Power → Power) (s : State) : (modPwr f s).ckpt = s.ckpt := rfl
@[simp] theorem modPwr_ports (f : Power → Power) (s : State) : (modPwr f s).ports = s.ports := rfl
@[simp] theorem modPwr_sends (f : Power → Power) (s : State) : (modPwr f s).sends = s.sends := rfl
@[simp] theorem modPwr_recvs (f : Power → Power) (s : State) : (modPwr f s).recvs = s.recvs := rfl
@[simp] theorem modPwr_xfers (f : Power → Power) (s : State) : (modPwr f s).xfers = s.xfers := rfl
@[simp] theorem modPwr_nextXfer (f : Power → Power) (s : State) : (modPwr f s).nextXfer = s.nextXfer := rfl
@[simp] theorem modPwr_bell (f : Power → Power) (s : State) : (modPwr f s).bell = s.bell := rfl
@[simp] theorem modPwr_colls (f : Power → Power) (s : State) : (modPwr f s).colls = s.colls := rfl
@[simp] theorem modPwr_collEngs (f : Power → Power) (s : State) : (modPwr f s).collEngs = s.collEngs := rfl
@[simp] theorem modPwr_mcs (f : Power → Power) (s : State) : (modPwr f s).mcs = s.mcs := rfl
@[simp] theorem modPwr_arbs (f : Power → Power) (s : State) : (modPwr f s).arbs = s.arbs := rfl
@[simp] theorem modPwr_arbWins (f : Power → Power) (s : State) : (modPwr f s).arbWins = s.arbWins := rfl
@[simp] theorem modPwr_lend (f : Power → Power) (s : State) : (modPwr f s).lend = s.lend := rfl
@[simp] theorem modPwr_intake (f : Power → Power) (s : State) : (modPwr f s).intake = s.intake := rfl
@[simp] theorem modPwr_gen (f : Power → Power) (s : State) : (modPwr f s).gen = s.gen := rfl
@[simp] theorem modPwr_bxl (f : Power → Power) (s : State) : (modPwr f s).bxl = s.bxl := rfl
@[simp] theorem modPwr_bells (f : Power → Power) (s : State) : (modPwr f s).bells = s.bells := rfl
@[simp] theorem modPwr_modes (f : Power → Power) (s : State) : (modPwr f s).modes = s.modes := rfl
@[simp] theorem modPwr_obs (f : Power → Power) (s : State) : (modPwr f s).obs = s.obs := rfl
@[simp] theorem modPwr_lamp (f : Power → Power) (s : State) : (modPwr f s).lamp = s.lamp := rfl
@[simp] theorem modPwr_faults (f : Power → Power) (s : State) : (modPwr f s).faults = s.faults := rfl
@[simp] theorem modPwr_hf (f : Power → Power) (s : State) : (modPwr f s).hf = s.hf := rfl
@[simp] theorem modPwr_pwr (f : Power → Power) (s : State) : (modPwr f s).pwr = f s.pwr := rfl
@[simp] theorem modPwr_side (f : Power → Power) (s : State) : (modPwr f s).side = s.side := rfl
@[simp] theorem modPwr_ctr (f : Power → Power) (s : State) : (modPwr f s).ctr = s.ctr := rfl
@[simp] theorem modPwr_ovf (f : Power → Power) (s : State) : (modPwr f s).ovf = s.ovf := rfl
@[simp] theorem modPwr_wire (f : Power → Power) (s : State) : (modPwr f s).wire = s.wire := rfl
@[simp] theorem modPwr_hostOut (f : Power → Power) (s : State) : (modPwr f s).hostOut = s.hostOut := rfl
@[simp] theorem modPwr_free (f : Power → Power) (s : State) : (modPwr f s).free = s.free := rfl

@[simp] theorem modBxl_pending (f : Bxl → Bxl) (s : State) : (modBxl f s).pending = s.pending := rfl
@[simp] theorem modBxl_hbm (f : Bxl → Bxl) (s : State) : (modBxl f s).hbm = s.hbm := rfl
@[simp] theorem modBxl_deep (f : Bxl → Bxl) (s : State) : (modBxl f s).deep = s.deep := rfl
@[simp] theorem modBxl_bad (f : Bxl → Bxl) (s : State) : (modBxl f s).bad = s.bad := rfl
@[simp] theorem modBxl_cells (f : Bxl → Bxl) (s : State) : (modBxl f s).cells = s.cells := rfl
@[simp] theorem modBxl_rings (f : Bxl → Bxl) (s : State) : (modBxl f s).rings = s.rings := rfl
@[simp] theorem modBxl_sigs (f : Bxl → Bxl) (s : State) : (modBxl f s).sigs = s.sigs := rfl
@[simp] theorem modBxl_pushes (f : Bxl → Bxl) (s : State) : (modBxl f s).pushes = s.pushes := rfl
@[simp] theorem modBxl_plan (f : Bxl → Bxl) (s : State) : (modBxl f s).plan = s.plan := rfl
@[simp] theorem modBxl_pmap (f : Bxl → Bxl) (s : State) : (modBxl f s).pmap = s.pmap := rfl
@[simp] theorem modBxl_circ (f : Bxl → Bxl) (s : State) : (modBxl f s).circ = s.circ := rfl
@[simp] theorem modBxl_stash (f : Bxl → Bxl) (s : State) : (modBxl f s).stash = s.stash := rfl
@[simp] theorem modBxl_gather (f : Bxl → Bxl) (s : State) : (modBxl f s).gather = s.gather := rfl
@[simp] theorem modBxl_update (f : Bxl → Bxl) (s : State) : (modBxl f s).update = s.update := rfl
@[simp] theorem modBxl_steps (f : Bxl → Bxl) (s : State) : (modBxl f s).steps = s.steps := rfl
@[simp] theorem modBxl_ckpt (f : Bxl → Bxl) (s : State) : (modBxl f s).ckpt = s.ckpt := rfl
@[simp] theorem modBxl_ports (f : Bxl → Bxl) (s : State) : (modBxl f s).ports = s.ports := rfl
@[simp] theorem modBxl_sends (f : Bxl → Bxl) (s : State) : (modBxl f s).sends = s.sends := rfl
@[simp] theorem modBxl_recvs (f : Bxl → Bxl) (s : State) : (modBxl f s).recvs = s.recvs := rfl
@[simp] theorem modBxl_xfers (f : Bxl → Bxl) (s : State) : (modBxl f s).xfers = s.xfers := rfl
@[simp] theorem modBxl_nextXfer (f : Bxl → Bxl) (s : State) : (modBxl f s).nextXfer = s.nextXfer := rfl
@[simp] theorem modBxl_bell (f : Bxl → Bxl) (s : State) : (modBxl f s).bell = s.bell := rfl
@[simp] theorem modBxl_colls (f : Bxl → Bxl) (s : State) : (modBxl f s).colls = s.colls := rfl
@[simp] theorem modBxl_collEngs (f : Bxl → Bxl) (s : State) : (modBxl f s).collEngs = s.collEngs := rfl
@[simp] theorem modBxl_mcs (f : Bxl → Bxl) (s : State) : (modBxl f s).mcs = s.mcs := rfl
@[simp] theorem modBxl_arbs (f : Bxl → Bxl) (s : State) : (modBxl f s).arbs = s.arbs := rfl
@[simp] theorem modBxl_arbWins (f : Bxl → Bxl) (s : State) : (modBxl f s).arbWins = s.arbWins := rfl
@[simp] theorem modBxl_lend (f : Bxl → Bxl) (s : State) : (modBxl f s).lend = s.lend := rfl
@[simp] theorem modBxl_intake (f : Bxl → Bxl) (s : State) : (modBxl f s).intake = s.intake := rfl
@[simp] theorem modBxl_gen (f : Bxl → Bxl) (s : State) : (modBxl f s).gen = s.gen := rfl
@[simp] theorem modBxl_bxl (f : Bxl → Bxl) (s : State) : (modBxl f s).bxl = f s.bxl := rfl
@[simp] theorem modBxl_bells (f : Bxl → Bxl) (s : State) : (modBxl f s).bells = s.bells := rfl
@[simp] theorem modBxl_modes (f : Bxl → Bxl) (s : State) : (modBxl f s).modes = s.modes := rfl
@[simp] theorem modBxl_obs (f : Bxl → Bxl) (s : State) : (modBxl f s).obs = s.obs := rfl
@[simp] theorem modBxl_lamp (f : Bxl → Bxl) (s : State) : (modBxl f s).lamp = s.lamp := rfl
@[simp] theorem modBxl_faults (f : Bxl → Bxl) (s : State) : (modBxl f s).faults = s.faults := rfl
@[simp] theorem modBxl_hf (f : Bxl → Bxl) (s : State) : (modBxl f s).hf = s.hf := rfl
@[simp] theorem modBxl_pwr (f : Bxl → Bxl) (s : State) : (modBxl f s).pwr = s.pwr := rfl
@[simp] theorem modBxl_side (f : Bxl → Bxl) (s : State) : (modBxl f s).side = s.side := rfl
@[simp] theorem modBxl_ctr (f : Bxl → Bxl) (s : State) : (modBxl f s).ctr = s.ctr := rfl
@[simp] theorem modBxl_ovf (f : Bxl → Bxl) (s : State) : (modBxl f s).ovf = s.ovf := rfl
@[simp] theorem modBxl_wire (f : Bxl → Bxl) (s : State) : (modBxl f s).wire = s.wire := rfl
@[simp] theorem modBxl_hostOut (f : Bxl → Bxl) (s : State) : (modBxl f s).hostOut = s.hostOut := rfl
@[simp] theorem modBxl_free (f : Bxl → Bxl) (s : State) : (modBxl f s).free = s.free := rfl

@[simp] theorem modSide_pending (f : Sideband → Sideband) (s : State) : (modSide f s).pending = s.pending := rfl
@[simp] theorem modSide_hbm (f : Sideband → Sideband) (s : State) : (modSide f s).hbm = s.hbm := rfl
@[simp] theorem modSide_deep (f : Sideband → Sideband) (s : State) : (modSide f s).deep = s.deep := rfl
@[simp] theorem modSide_bad (f : Sideband → Sideband) (s : State) : (modSide f s).bad = s.bad := rfl
@[simp] theorem modSide_cells (f : Sideband → Sideband) (s : State) : (modSide f s).cells = s.cells := rfl
@[simp] theorem modSide_rings (f : Sideband → Sideband) (s : State) : (modSide f s).rings = s.rings := rfl
@[simp] theorem modSide_sigs (f : Sideband → Sideband) (s : State) : (modSide f s).sigs = s.sigs := rfl
@[simp] theorem modSide_pushes (f : Sideband → Sideband) (s : State) : (modSide f s).pushes = s.pushes := rfl
@[simp] theorem modSide_plan (f : Sideband → Sideband) (s : State) : (modSide f s).plan = s.plan := rfl
@[simp] theorem modSide_pmap (f : Sideband → Sideband) (s : State) : (modSide f s).pmap = s.pmap := rfl
@[simp] theorem modSide_circ (f : Sideband → Sideband) (s : State) : (modSide f s).circ = s.circ := rfl
@[simp] theorem modSide_stash (f : Sideband → Sideband) (s : State) : (modSide f s).stash = s.stash := rfl
@[simp] theorem modSide_gather (f : Sideband → Sideband) (s : State) : (modSide f s).gather = s.gather := rfl
@[simp] theorem modSide_update (f : Sideband → Sideband) (s : State) : (modSide f s).update = s.update := rfl
@[simp] theorem modSide_steps (f : Sideband → Sideband) (s : State) : (modSide f s).steps = s.steps := rfl
@[simp] theorem modSide_ckpt (f : Sideband → Sideband) (s : State) : (modSide f s).ckpt = s.ckpt := rfl
@[simp] theorem modSide_ports (f : Sideband → Sideband) (s : State) : (modSide f s).ports = s.ports := rfl
@[simp] theorem modSide_sends (f : Sideband → Sideband) (s : State) : (modSide f s).sends = s.sends := rfl
@[simp] theorem modSide_recvs (f : Sideband → Sideband) (s : State) : (modSide f s).recvs = s.recvs := rfl
@[simp] theorem modSide_xfers (f : Sideband → Sideband) (s : State) : (modSide f s).xfers = s.xfers := rfl
@[simp] theorem modSide_nextXfer (f : Sideband → Sideband) (s : State) : (modSide f s).nextXfer = s.nextXfer := rfl
@[simp] theorem modSide_bell (f : Sideband → Sideband) (s : State) : (modSide f s).bell = s.bell := rfl
@[simp] theorem modSide_colls (f : Sideband → Sideband) (s : State) : (modSide f s).colls = s.colls := rfl
@[simp] theorem modSide_collEngs (f : Sideband → Sideband) (s : State) : (modSide f s).collEngs = s.collEngs := rfl
@[simp] theorem modSide_mcs (f : Sideband → Sideband) (s : State) : (modSide f s).mcs = s.mcs := rfl
@[simp] theorem modSide_arbs (f : Sideband → Sideband) (s : State) : (modSide f s).arbs = s.arbs := rfl
@[simp] theorem modSide_arbWins (f : Sideband → Sideband) (s : State) : (modSide f s).arbWins = s.arbWins := rfl
@[simp] theorem modSide_lend (f : Sideband → Sideband) (s : State) : (modSide f s).lend = s.lend := rfl
@[simp] theorem modSide_intake (f : Sideband → Sideband) (s : State) : (modSide f s).intake = s.intake := rfl
@[simp] theorem modSide_gen (f : Sideband → Sideband) (s : State) : (modSide f s).gen = s.gen := rfl
@[simp] theorem modSide_bxl (f : Sideband → Sideband) (s : State) : (modSide f s).bxl = s.bxl := rfl
@[simp] theorem modSide_bells (f : Sideband → Sideband) (s : State) : (modSide f s).bells = s.bells := rfl
@[simp] theorem modSide_modes (f : Sideband → Sideband) (s : State) : (modSide f s).modes = s.modes := rfl
@[simp] theorem modSide_obs (f : Sideband → Sideband) (s : State) : (modSide f s).obs = s.obs := rfl
@[simp] theorem modSide_lamp (f : Sideband → Sideband) (s : State) : (modSide f s).lamp = s.lamp := rfl
@[simp] theorem modSide_faults (f : Sideband → Sideband) (s : State) : (modSide f s).faults = s.faults := rfl
@[simp] theorem modSide_hf (f : Sideband → Sideband) (s : State) : (modSide f s).hf = s.hf := rfl
@[simp] theorem modSide_pwr (f : Sideband → Sideband) (s : State) : (modSide f s).pwr = s.pwr := rfl
@[simp] theorem modSide_side (f : Sideband → Sideband) (s : State) : (modSide f s).side = f s.side := rfl
@[simp] theorem modSide_ctr (f : Sideband → Sideband) (s : State) : (modSide f s).ctr = s.ctr := rfl
@[simp] theorem modSide_ovf (f : Sideband → Sideband) (s : State) : (modSide f s).ovf = s.ovf := rfl
@[simp] theorem modSide_wire (f : Sideband → Sideband) (s : State) : (modSide f s).wire = s.wire := rfl
@[simp] theorem modSide_hostOut (f : Sideband → Sideband) (s : State) : (modSide f s).hostOut = s.hostOut := rfl
@[simp] theorem modSide_free (f : Sideband → Sideband) (s : State) : (modSide f s).free = s.free := rfl

end Sys2Proof.Machine
end

