-- ==== Sys2Proof/Laws/Store.lean ====
section
/-!
SUPPORT. Laws of sparse tables and memories: reading after writing, and the canonical form that every
operation keeps.
-/
namespace Sys2Proof.Machine

variable {α : Type}

@[simp] theorem tget_nil (d : α) (k : Nat) : tget d ([] : Table α) k = d := rfl

theorem tget_cons (d : α) (e : Nat × α) (t : Table α) (k : Nat) :
    tget d (e :: t) k = if e.1 = k then e.2 else tget d t k := rfl

theorem tget_tdel_same (d : α) (t : Table α) (k : Nat) : tget d (tdel t k) k = d := by
  induction t with
  | nil => rfl
  | cons e t ih =>
    by_cases h : e.1 = k
    · simpa [tdel, h] using ih
    · simpa [tdel, h, tget_cons] using ih

theorem tget_tdel_ne (d : α) (t : Table α) {k j : Nat} (h : j ≠ k) : tget d (tdel t k) j = tget d t j := by
  induction t with
  | nil => rfl
  | cons e t ih =>
    by_cases h1 : e.1 = k
    · have : e.1 ≠ j := fun h2 => h (h2 ▸ h1)
      simpa [tdel, h1, tget_cons, this, Ne.symm h] using ih
    · simp [tdel, h1, tget_cons, ih]

theorem tget_tins_same (d : α) (t : Table α) (k : Nat) (v : α) : tget d (tins t k v) k = v := by
  induction t with
  | nil => simp [tins, tget_cons]
  | cons e t ih =>
    by_cases h : e.1 < k
    · simp [tins, h, tget_cons, Nat.ne_of_lt h, ih]
    · simp [tins, h, tget_cons]

theorem tget_tins_ne (d : α) (t : Table α) {k j : Nat} (v : α) (h : j ≠ k) :
    tget d (tins t k v) j = tget d t j := by
  induction t with
  | nil => simp [tins, tget_cons, Ne.symm h]
  | cons e t ih =>
    by_cases h1 : e.1 < k
    · simp [tins, h1, tget_cons, ih]
    · simp [tins, h1, tget_cons, Ne.symm h]

variable [DecidableEq α]

@[simp] theorem tget_tset_same (d : α) (t : Table α) (k : Nat) (v : α) : tget d (tset d t k v) k = v := by
  by_cases h : v = d
  · simp [tset, h, tget_tdel_same]
  · simp [tset, h, tget_tins_same]

theorem tget_tset_ne (d : α) (t : Table α) {k j : Nat} (v : α) (h : j ≠ k) :
    tget d (tset d t k v) j = tget d t j := by
  by_cases h1 : v = d
  · simp [tset, h1, tget_tdel_ne d t h]
  · simp [tset, h1, tget_tins_ne d _ v h, tget_tdel_ne d t h]

theorem tget_tset (d : α) (t : Table α) (k j : Nat) (v : α) :
    tget d (tset d t k v) j = if j = k then v else tget d t j := by
  by_cases h : j = k
  · simp [h]
  · simp [h, tget_tset_ne d t v h]

@[simp] theorem tget_tmod_same (d : α) (t : Table α) (k : Nat) (f : α → α) :
    tget d (tmod d t k f) k = f (tget d t k) := by simp [tmod]

theorem tget_tmod_ne (d : α) (t : Table α) {k j : Nat} (f : α → α) (h : j ≠ k) :
    tget d (tmod d t k f) j = tget d t j := by simp [tmod, tget_tset_ne d t _ h]

/-! ## The canonical form -/

theorem twfFrom_mono (d : α) {a b : Nat} (h : a ≤ b) : ∀ t : Table α, twfFrom d b t = true → twfFrom d a t = true
  | [], _ => rfl
  | e :: t, w => by
    simp only [twfFrom, Bool.and_eq_true, decide_eq_true_eq] at w ⊢
    exact ⟨⟨le_trans h w.1.1, w.1.2⟩, w.2⟩

theorem twfFrom_tdel (d : α) (k : Nat) : ∀ (t : Table α) (a : Nat), twfFrom d a t = true → twfFrom d a (tdel t k) = true
  | [], _, _ => rfl
  | e :: t, a, w => by
    simp only [twfFrom, Bool.and_eq_true, decide_eq_true_eq] at w
    by_cases h : e.1 = k
    · simp only [tdel, h, if_true]
      exact twfFrom_mono d (by omega) _ (twfFrom_tdel d k t _ w.2)
    · simp only [tdel, h, if_false, twfFrom, Bool.and_eq_true, decide_eq_true_eq]
      exact ⟨w.1, twfFrom_tdel d k t _ w.2⟩

omit [DecidableEq α] in
theorem mem_tdel_ne {t : Table α} {k : Nat} : ∀ e ∈ tdel t k, e.1 ≠ k := by
  induction t with
  | nil => simp [tdel]
  | cons a t ih =>
    by_cases h : a.1 = k
    · simpa [tdel, h] using ih
    · simp only [tdel, h, if_false, List.mem_cons]
      rintro e (rfl | he)
      · exact h
      · exact ih e he

theorem twfFrom_tins (d : α) (k : Nat) (v : α) (hv : v ≠ d) :
    ∀ (t : Table α) (a : Nat), (∀ e ∈ t, e.1 ≠ k) → a ≤ k → twfFrom d a t = true → twfFrom d a (tins t k v) = true
  | [], a, _, ha, _ => by simp [tins, twfFrom, ha, hv]
  | e :: t, a, hk, ha, w => by
    simp only [twfFrom, Bool.and_eq_true, decide_eq_true_eq] at w
    by_cases h : e.1 < k
    · simp only [tins, h, if_true, twfFrom, Bool.and_eq_true, decide_eq_true_eq]
      exact ⟨w.1, twfFrom_tins d k v hv t _ (fun x hx => hk x (List.mem_cons_of_mem _ hx)) h w.2⟩
    · have hne : e.1 ≠ k := hk e (List.mem_cons_self ..)
      simp only [tins, h, if_false, twfFrom, Bool.and_eq_true, decide_eq_true_eq]
      exact ⟨⟨ha, hv⟩, ⟨by omega, w.1.2⟩, w.2⟩

theorem twf_tset (d : α) (t : Table α) (k : Nat) (v : α) (w : twf d t = true) : twf d (tset d t k v) = true := by
  by_cases h : v = d
  · simpa [tset, h, twf] using twfFrom_tdel d k t 0 w
  · simpa [tset, h, twf] using
      twfFrom_tins d k v h (tdel t k) 0 (mem_tdel_ne) (Nat.zero_le _) (twfFrom_tdel d k t 0 w)

theorem twf_tmod (d : α) (t : Table α) (k : Nat) (f : α → α) (w : twf d t = true) : twf d (tmod d t k f) = true :=
  twf_tset d t k _ w

theorem twfFrom_filter (d : α) (p : Nat × α → Bool) :
    ∀ (t : Table α) (a : Nat), twfFrom d a t = true → twfFrom d a (t.filter p) = true
  | [], _, _ => rfl
  | e :: t, a, w => by
    simp only [twfFrom, Bool.and_eq_true, decide_eq_true_eq] at w
    by_cases h : p e = true
    · simp only [List.filter_cons, h, if_true, twfFrom, Bool.and_eq_true, decide_eq_true_eq]
      exact ⟨w.1, twfFrom_filter d p t _ w.2⟩
    · simp only [List.filter_cons, h]
      exact twfFrom_mono d (by omega) _ (twfFrom_filter d p t _ w.2)

theorem twf_tclear (d : α) (t : Table α) (lo hi : Nat) (w : twf d t = true) : twf d (tclear t lo hi) = true :=
  twfFrom_filter d _ t 0 w

theorem twf_tsetList (d : α) : ∀ (l : List α) (t : Table α) (k : Nat), twf d t = true → twf d (tsetList d t k l) = true
  | [], _, _, w => w
  | v :: l, t, k, w => twf_tsetList d l _ _ (twf_tset d t k v w)

/-! ## Memories -/

@[simp] theorem mget_mset_same (m : Memory) (a : Nat) (b : Byte) : mget (mset m a b) a = b := by simp [mget, mset]

theorem mget_mset_ne (m : Memory) {a x : Nat} (b : Byte) (h : x ≠ a) : mget (mset m a b) x = mget m x := by
  simp [mget, mset, tget_tset_ne _ _ _ h]

/-- Every write of one byte keeps the canonical form. -/
theorem Memory.wf_mset (m : Memory) (a : Nat) (b : Byte) (w : m.wf = true) : Memory.wf (mset m a b) = true :=
  twf_tset _ _ _ _ w

/-- Every write of a list of bytes keeps the canonical form. -/
theorem Memory.wf_mwrite (m : Memory) (a : Nat) (l : List Byte) (w : m.wf = true) : Memory.wf (mwrite m a l) = true :=
  twf_tsetList _ _ _ _ w

/-- Every write of a number keeps the canonical form. -/
theorem Memory.wf_mwriteNum (m : Memory) (a n v : Nat) (w : m.wf = true) : Memory.wf (mwriteNum m a n v) = true :=
  Memory.wf_mwrite m a _ w

/-- Zeroing a range keeps the canonical form. -/
theorem Memory.wf_tclear (m : Memory) (lo hi : Nat) (w : m.wf = true) : Memory.wf (tclear m lo hi) = true :=
  twf_tclear _ m lo hi w

theorem tget_tsetList_out (d : α) : ∀ (l : List α) (t : Table α) (k j : Nat), (j < k ∨ k + l.length ≤ j) →
    tget d (tsetList d t k l) j = tget d t j
  | [], _, _, _, _ => rfl
  | v :: l, t, k, j, h => by
    simp only [List.length_cons] at h
    rw [tsetList, tget_tsetList_out d l _ _ _ (by omega), tget_tset_ne d t v (by omega)]

/-- A byte outside the bytes written reads as before. -/
theorem mget_mwrite_out (m : Memory) (a x : Nat) (l : List Byte) (h : x < a ∨ a + l.length ≤ x) :
    mget (mwrite m a l) x = mget m x := tget_tsetList_out _ _ _ _ _ h

theorem tget_tsetList_in (d : α) : ∀ (l : List α) (t : Table α) (k i : Nat) (h : i < l.length),
    tget d (tsetList d t k l) (k + i) = l[i]
  | [], _, _, _, h => by simp at h
  | v :: l, t, k, 0, _ => by
    rw [tsetList, tget_tsetList_out d l _ _ _ (by omega)]; simp
  | v :: l, t, k, i + 1, h => by
    have := tget_tsetList_in d l (tset d t k v) (k + 1) i (by simpa using h)
    simpa [tsetList, Nat.add_assoc, Nat.add_comm 1 i] using this

/-- A byte written reads as it was written. -/
theorem mget_mwrite_in (m : Memory) (a i : Nat) (l : List Byte) (h : i < l.length) : mget (mwrite m a l) (a + i) = l[i] :=
  tget_tsetList_in _ _ _ _ _ h

end Sys2Proof.Machine
end

