-- ==== Sys2Proof/Laws/Cells.lean ====
section
/-!
SUPPORT. Cells and streams: what reading a cell or a stream gives after one of them changed, and what
issuing an instruction answers.
-/
namespace Sys2Proof.Machine

@[simp] theorem getCell_modCell (k : Nat) (f : Cell → Cell) (s : State) : getCell (modCell k f s) k = f (getCell s k) := by
  simp [getCell, modCell]

theorem getCell_modCell_ne {k j : Nat} (f : Cell → Cell) (s : State) (h : j ≠ k) :
    getCell (modCell k f s) j = getCell s j := by simp [getCell, modCell, tget_tmod_ne _ _ _ h]

@[simp] theorem getStream_tmod (t : Table Stream) (c : Cell) (i : Nat) (f : Stream → Stream) :
    getStream { c with streams := tmod {} t i f } i = f (tget {} t i) := by simp [getStream]

@[simp] theorem getStream_modStream (k i : Nat) (f : Stream → Stream) (s : State) :
    getStream (getCell (modStream k i f s) k) i = f (getStream (getCell s k) i) := by
  simp [modStream, getStream]

theorem getStream_modStream_ne {k i j : Nat} (f : Stream → Stream) (s : State) (h : j ≠ i) :
    getStream (getCell (modStream k i f s) k) j = getStream (getCell s k) j := by
  simp [modStream, getStream, tget_tmod_ne _ _ _ h]

theorem onlyCell_modCell (k : Nat) (f : Cell → Cell) (s : State) : OnlyCell k s (modCell k f s) :=
  ⟨rfl, fun _ h => getCell_modCell_ne f s h⟩

theorem OnlyCell.trans {k : Nat} {s t v : State} (h : OnlyCell k s t) (g : OnlyCell k t v) : OnlyCell k s v := by
  refine ⟨?_, fun j hj => (g.2 j hj).trans (h.2 j hj)⟩
  have a := h.1; have b := g.1
  unfold OnlyCells at *
  rw [a] at b
  exact b

theorem onlyStream_modStream (u : StreamAt) (f : Stream → Stream) (s : State) :
    OnlyStream u s (modStream u.cell u.stream.toNat f s) :=
  ⟨onlyCell_modCell .., by simp [modStream], fun _ h => getStream_modStream_ne f s h⟩

theorem OnlyStream.trans {u : StreamAt} {s t v : State} (h : OnlyStream u s t) (g : OnlyStream u t v) :
    OnlyStream u s v := by
  refine ⟨h.1.trans g.1, ?_, fun i hi => (g.2.2 i hi).trans (h.2.2 i hi)⟩
  rw [g.2.1, h.2.1]

/-- An instruction of a stream that can issue has its effect (R45, R149). -/
theorem issue_ready {s : State} {u : StreamAt} (h : Issues s u) (f : State → State) :
    issue u true f s = .next (f s) := by simp [issue, h.1, h.2]

/-- The same as a completion: the word decodes, the stream can issue, and the effect has the property. -/
theorem runs_issue {s : State} {u : StreamAt} {word : Bool} {f : State → State} {p : State → Prop} (h : Issues s u)
    (hw : word = true) (hp : p (f s)) : RunsTo (issue u word f s) p := ⟨f s, by rw [hw]; exact issue_ready h f, hp⟩

/-- A command of a unit that the module has completes. -/
theorem runs_onUnit {ok : Bool} {t : State} {p : State → Prop} (hok : ok = true) (hp : p t) : RunsTo (onUnit ok t) p :=
  ⟨t, by rw [onUnit, if_pos hok], hp⟩

/-- A stream that cannot issue changes nothing. -/
theorem issue_waits {s : State} {u : StreamAt} (hc : cellOk u.cell = true) (h : canIssue s u = false) (f : State → State) :
    issue u true f s = .next s := by simp [issue, hc, h]

theorem onlyStream_setReg (file : Bool) (u : StreamAt) (r v : Nat) (s : State) :
    OnlyStream u s (setReg file u.cell u.stream.toNat r v s) := by
  cases file <;> exact onlyStream_modStream ..

/-- Writing a register and going on to the next word. -/
theorem streamOf_setReg (file : Bool) (u : StreamAt) (r v : Nat) (s : State) :
    streamOf (stepOn u (setReg file u.cell u.stream.toNat r v s)) u =
      if file then { (streamOf s u).next with a := tset 0 (streamOf s u).a r (BitVec.ofNat 64 v) }
      else { (streamOf s u).next with s := tset 0 (streamOf s u).s r (BitVec.ofNat 64 v) } := by
  cases file <;> simp [setReg, setA, setS, streamOf, stepOn, advance, Stream.next]

end Sys2Proof.Machine
end

