-- ==== Sys2Proof/Laws/Operands.lean ====
section
/-!
SUPPORT. What the operations that store elements can do to a cell (R71 to R77, R146, R147): they change
bytes of the places they are given, and nothing else.
-/
namespace Sys2Proof.Machine

theorem onlyMemory_refl (c : Cell) : OnlyMemory c c := rfl

theorem OnlyMemory.trans {c d e : Cell} (h : OnlyMemory c d) (g : OnlyMemory d e) : OnlyMemory c e := by
  unfold OnlyMemory at *; rw [g, h]

theorem KeepsOutside.refl (i : Nat → Nat → Prop) (c : Cell) : KeepsOutside i c c := ⟨rfl, fun _ _ _ _ => rfl⟩

theorem KeepsOutside.trans {i : Nat → Nat → Prop} {c d e : Cell} (h : KeepsOutside i c d) (g : KeepsOutside i d e) :
    KeepsOutside i c e :=
  ⟨h.1.trans g.1, fun s b hs hb => (g.2 s b hs hb).trans (h.2 s b hs hb)⟩

theorem KeepsOutside.mono {i j : Nat → Nat → Prop} {c d : Cell} (h : KeepsOutside i c d) (g : ∀ s b, i s b → j s b) :
    KeepsOutside j c d := ⟨h.1, fun s b hs hb => h.2 s b hs fun hi => hb (g s b hi)⟩

theorem KeepsOutside.foldl {α : Type} {i : Nat → Nat → Prop} (f : Cell → α → Cell) :
    ∀ (l : List α) (c : Cell), (∀ a ∈ l, ∀ d, KeepsOutside i d (f d a)) → KeepsOutside i c (l.foldl f c)
  | [], c, _ => .refl i c
  | a :: l, c, h =>
    (h a (by simp) c).trans (KeepsOutside.foldl f l _ fun b hb d => h b (by simp [hb]) d)

theorem KeepsOutside.foldl_fst {α β : Type} {i : Nat → Nat → Prop} (f : Cell × β → α → Cell × β) :
    ∀ (l : List α) (p : Cell × β), (∀ a ∈ l, ∀ q, KeepsOutside i q.1 (f q a).1) → KeepsOutside i p.1 (l.foldl f p).1
  | [], p, _ => .refl i p.1
  | a :: l, p, h =>
    (h a (by simp) p).trans (KeepsOutside.foldl_fst f l _ fun b hb d => h b (by simp [hb]) d)

theorem toBytes_length : ∀ n v, (toBytes n v).length = n
  | 0, _ => rfl
  | n + 1, v => by simp [toBytes, toBytes_length n]

/-- Writing bytes to a space changes those bytes. -/
theorem spaceWrite_keeps (space a : Nat) (d : List Byte) (c : Cell) (h : space ≤ 2) :
    KeepsOutside (fun s b => s = space ∧ a ≤ b ∧ b < a + d.length) c (spaceWrite space a d c) := by
  unfold spaceWrite
  refine ⟨by split <;> rfl, fun s b hs hb => ?_⟩
  have out : s = space → b < a ∨ a + d.length ≤ b := fun e => by
    by_contra hc; exact hb ⟨e, by omega, by omega⟩
  have h1 : space = 0 ∨ space = 1 ∨ space = 2 := by omega
  have h2 : s = 0 ∨ s = 1 ∨ s = 2 := by omega
  rcases h1 with rfl | rfl | rfl <;> rcases h2 with rfl | rfl | rfl <;> first
    | rfl
    | exact mget_mwrite_out _ _ _ _ (out rfl)

/-- Writing one scale byte changes that byte. -/
theorem scratchSet_keeps (c : Cell) (a : Nat) (v : Byte) :
    KeepsOutside (fun s b => s = 0 ∧ b = a) c { c with scratch := mset c.scratch a v } := by
  refine ⟨rfl, fun s b hs hb => ?_⟩
  have h2 : s = 0 ∨ s = 1 ∨ s = 2 := by omega
  rcases h2 with rfl | rfl | rfl
  · exact mget_mset_ne _ _ fun e => hb ⟨rfl, e⟩
  · rfl
  · rfl

/-- Writing bits changes the bytes that hold them. -/
theorem writeBits_keeps (space bit n v : Nat) (c : Cell) (h : space ≤ 2) :
    KeepsOutside (fun s b => s = space ∧ bit / 8 ≤ b ∧ b < bit / 8 + (bit % 8 + n + 7) / 8) c
      (writeBits space bit n v c) := by
  unfold writeBits
  refine (spaceWrite_keeps space (bit / 8) _ c h).mono fun s b hb => ?_
  rwa [toBytes_length] at hb

theorem decodeRef_space {code w : Nat} {r : Ref} (h : decodeRef code w = .ok r) : r.space ≤ 2 := by
  unfold decodeRef at h
  dsimp only at h
  split at h; · cases h
  split at h; · cases h
  split at h; · cases h
  split at h; · cases h
  cases h
  rename_i h1 _ _ _
  have : refSpace w < 4 := by
    unfold refSpace fieldOf
    exact Nat.mod_lt _ (by norm_num)
  have : refSpace w ≠ 3 := fun e => h1 (.inl e)
  show refSpace w ≤ 2
  omega

theorem InElems.mono {r : Ref} {code rowLen : Nat} {p q : List (Nat × Nat)} (h : ∀ x ∈ p, x ∈ q) {s b : Nat}
    (hb : InElems r code rowLen p s b) : InElems r code rowLen q s b := by
  rcases hb with ⟨e, x, hx, g⟩ | ⟨n, e, x, hx, g⟩
  · exact .inl ⟨e, x, h x hx, g⟩
  · exact .inr ⟨n, e, x, h x hx, g⟩

theorem mem_rangeFrom : ∀ (n lo x : Nat), x ∈ rangeFrom lo n ↔ lo ≤ x ∧ x < lo + n
  | 0, lo, x => by rw [rangeFrom]; simp
  | n + 1, lo, x => by rw [rangeFrom, List.mem_cons, mem_rangeFrom n]; omega

/-- Writing the elements of a row changes the bytes of their places. -/
theorem bitsFold_keeps (r : Ref) (code rowLen row : Nat) (h : r.space ≤ 2) {places : List (Nat × Nat)}
    (l : List (Nat × Nat)) (c : Cell) (hm : ∀ x ∈ l, (row, x.2) ∈ places) :
    KeepsOutside (InElems r code rowLen places) c
      (l.foldl (fun c x => writeBits r.space (r.bitAddr code rowLen row x.2) (elemBits code) x.1 c) c) :=
  KeepsOutside.foldl _ _ _ fun x hx d =>
    (writeBits_keeps r.space _ _ _ d h).mono fun _ _ hb => .inl ⟨hb.1, (row, x.2), hm x hx, hb.2⟩

/-- A write of elements changes the bytes of their places, whole blocks for a block-scaled code. -/
theorem putVals_keeps (r : Ref) (code : Nat) (satf : Bool) (rowLen : Nat) (items : List (Nat × Nat × Num)) (c : Cell)
    (h : r.space ≤ 2) :
    KeepsOutside (InElems r code rowLen (writePlaces code items)) c (putVals r code satf rowLen items c).1 := by
  unfold putVals writePlaces
  split
  · refine KeepsOutside.foldl_fst _ _ _ fun a ha q => ?_
    refine (writeBits_keeps r.space _ _ _ _ h).mono fun s b hb => .inl ⟨hb.1, (a.1, a.2.1), ?_, hb.2⟩
    exact List.mem_map.2 ⟨a, ha, rfl⟩
  · rename_i hn
    refine KeepsOutside.foldl_fst _ _ _ fun a ha q => ?_
    have hmem : ∀ col, col ∈ rangeFrom (a.2 * blockLen code) (blockLen code) →
        (a.1, col) ∈ (touched code items).flatMap fun b => rowPlaces b.1 (b.2 * blockLen code) (blockLen code) := by
      intro col hc
      exact List.mem_flatMap.2 ⟨a, ha, List.mem_map.2 ⟨col, hc, rfl⟩⟩
    unfold putBlock
    split
    · exact .refl _ _
    · dsimp only
      refine KeepsOutside.trans ?_ ((scratchSet_keeps _ _ _).mono fun s b hb =>
        .inr ⟨hn, hb.1, (a.1, a.2 * blockLen code), hmem _ ?_, hb.2⟩)
      · exact bitsFold_keeps r code rowLen a.1 h _ _ fun x hx => hmem _ (List.of_mem_zip hx).2
      · rw [mem_rangeFrom]; omega

/-- A checked write of elements, when it answers a cell, changed only the bytes of their places. -/
theorem store_keeps {op : Bool} {r : Ref} {code : Nat} {satf : Bool} {rowLen : Nat} {items : List (Nat × Nat × Num)}
    {c : Cell} {x : Cell × Sts} (h : r.space ≤ 2) (e : store op r code satf rowLen items c = .ok x) :
    KeepsOutside (InElems r code rowLen (writePlaces code items)) c x.1 := by
  unfold store at e
  split at e
  · cases e
  · cases e; exact putVals_keeps r code satf rowLen items c h

/-- A write of a mask vector changes the bytes that hold its bits. -/
theorem putMask_keeps (r : Ref) (bits : List Bool) (c : Cell) (h : r.space ≤ 2) :
    KeepsOutside (fun s b => s = r.space ∧ r.a ≤ b ∧ b < r.a + (bits.length + 7) / 8) c (putMask r bits c) := by
  unfold putMask
  refine KeepsOutside.foldl _ _ _ fun x hx d => ?_
  refine (writeBits_keeps r.space _ _ _ _ h).mono fun s b hb => ?_
  have hx2 := (mem_rangeFrom _ _ _).1 (List.of_mem_zip hx).2
  omega

/-- The places of a row. -/
theorem rowPlaces_mem (row col n r x : Nat) : (r, x) ∈ rowPlaces row col n ↔ r = row ∧ col ≤ x ∧ x < col + n := by
  unfold rowPlaces; rw [List.mem_map]
  constructor
  · rintro ⟨a, ha, e⟩; cases e; exact ⟨rfl, (mem_rangeFrom _ _ _).1 ha⟩
  · rintro ⟨rfl, h⟩; exact ⟨x, (mem_rangeFrom _ _ _).2 h, rfl⟩

/-- Membership after an insertion. -/
theorem mem_insertNew {α} [DecidableEq α] (l : List α) (v x : α) : x ∈ insertNew l v ↔ x ∈ l ∨ x = v := by
  unfold insertNew; split <;> simp_all

/-- The blocks that elements touch. -/
theorem mem_touched_go (code : Nat) (items : List (Nat × Nat × Num)) (l : List (Nat × Nat)) (b) :
   b ∈ items.foldl (fun l it => insertNew l (it.1, it.2.1 / blockLen code)) l ↔
     b ∈ l ∨ ∃ it ∈ items, b = (it.1, it.2.1 / blockLen code) := by
  induction items generalizing l with
  | nil => simp
  | cons a as ih => rw [List.foldl_cons, ih, mem_insertNew]; simp [or_assoc]

/-- A write of the first elements of a row reaches that row, in whole blocks. -/
theorem writePlaces_sub (code rowLen : Nat) (items : List (Nat × Nat × Num)) (h : ∀ it ∈ items, it.1 = 0 ∧ it.2.1 < rowLen) :
   ∀ x ∈ writePlaces code items, x ∈ rowPlaces 0 0 (ceilDiv rowLen (max 1 (blockLen code)) * max 1 (blockLen code)) := by
  intro x hx
  unfold writePlaces at hx
  split at hx
  · rename_i hb
    obtain ⟨it, hi, rfl⟩ := List.mem_map.1 hx
    have := h it hi
    rw [rowPlaces_mem]
    refine ⟨this.1, by omega, ?_⟩
    simp [hb, ceilDiv]; omega
  · rename_i hb
    obtain ⟨b, hb1, hx⟩ := List.mem_flatMap.1 hx
    unfold touched at hb1
    rw [mem_touched_go] at hb1
    rcases hb1 with hb1 | ⟨it, hi, rfl⟩
    · cases hb1
    · have := h it hi
      obtain ⟨r, c⟩ := x
      rw [rowPlaces_mem] at hx ⊢
      refine ⟨hx.1.trans this.1, by omega, ?_⟩
      have e : max 1 (blockLen code) = blockLen code := by omega
      rw [e]
      have hd : it.2.1 / blockLen code < ceilDiv rowLen (blockLen code) := by
        unfold ceilDiv
        rw [show rowLen + blockLen code - 1 = (rowLen - 1) + blockLen code by omega, Nat.add_div_right _ (by omega)]
        exact Nat.lt_succ_of_le (Nat.div_le_div_right (by omega))
      have : (it.2.1 / blockLen code + 1) * blockLen code ≤ ceilDiv rowLen (blockLen code) * blockLen code :=
        Nat.mul_le_mul_right _ hd
      have := hx.2.2
      nlinarith

/-- What an answered sequence of checks says of its first. -/
theorem ok_bind {α β} {x : Except RtFault α} {f : α → Except RtFault β} {y} (h : (x >>= f) = .ok y) :
   ∃ a, x = .ok a ∧ f a = .ok y := by
  cases x with
  | error e => cases h
  | ok a => exact ⟨a, rfl, h⟩

/-- The live elements of a vector are elements of it. -/
theorem liveIdx_lt (c : Cell) (e : Bool) (r : Ref) (n : Nat) : ∀ i ∈ liveIdx c e r n, i < n := by
  intro i hi
  unfold liveIdx at hi
  have := (mem_rangeFrom _ _ _).1 (List.mem_filter.1 hi).1
  omega

/-- A checked write of the first n elements of a row changes bytes of that row only. -/
theorem storeRow {op : Bool} {r : Ref} {code : Nat} {satf : Bool} {n : Nat} {items : List (Nat × Nat × Num)}
    {c : Cell} {x : Cell × Sts} (hr : r.space ≤ 2) (h : store op r code satf n items c = .ok x)
  (hi : ∀ it ∈ items, it.1 = 0 ∧ it.2.1 < n) :
  KeepsOutside (InElems r code n (rowPlaces 0 0 (ceilDiv n (max 1 (blockLen code)) * max 1 (blockLen code)))) c x.1 :=
  (store_keeps hr h).mono fun _ _ hb => hb.mono (writePlaces_sub code n items hi)

end Sys2Proof.Machine
end

