-- ==== Sys2Proof/Laws/PendBase.lean ====
section
/-!
SUPPORT. What it means that an outcome keeps the queue of the commands that wait, and how that is
shown of an outcome, of a fold and of a command of a unit.
-/
namespace Sys2Proof.Machine

/-- Every next state of an outcome has the queue of a state. -/
def Keeps (s : State) (o : Host.Outcome State Fault Refusal) : Prop := ∀ t, o = .next t → t.pending = s.pending

@[simp] theorem keeps_next (s t : State) : Keeps s (.next t) ↔ t.pending = s.pending :=
  ⟨fun h => h t rfl, fun h _ e => by cases e; exact h⟩

@[simp] theorem keeps_fault (s : State) (f : Fault) : Keeps s (.fault f) := fun _ e => by cases e

theorem foldl_pending {α : Type} (f : State → α → State) (h : ∀ s a, (f s a).pending = s.pending) :
    ∀ (l : List α) (s : State), (l.foldl f s).pending = s.pending
  | [], _ => rfl
  | a :: l, s => (foldl_pending f h l (f s a)).trans (h s a)

/-- The same of a fold that carries a value beside the state. -/
theorem foldl_pending_fst {α β : Type} (f : State × β → α → State × β)
    (h : ∀ p a, (f p a).1.pending = p.1.pending) :
    ∀ (l : List α) (p : State × β), (l.foldl f p).1.pending = p.1.pending
  | [], _ => rfl
  | a :: l, p => (foldl_pending_fst f h l (f p a)).trans (h p a)

/-- The same of a fold that carries a value before the state. -/
theorem foldl_pending_snd {α β : Type} (f : β × State → α → β × State)
    (h : ∀ p a, (f p a).2.pending = p.2.pending) :
    ∀ (l : List α) (p : β × State), (l.foldl f p).2.pending = p.2.pending
  | [], _ => rfl
  | a :: l, p => (foldl_pending_snd f h l (f p a)).trans (h p a)

/-- Two states hold the same queue: the form in which the kernel compares the states and not their
queues, for functions whose evaluation is long. -/
def Same (s t : State) : Prop := t.pending = s.pending

theorem Same.of {s t : State} (h : t.pending = s.pending) : Same s t := h
theorem Same.out {s t : State} (h : Same s t) : t.pending = s.pending := h
theorem Same.rfl' (s : State) : Same s s := rfl
theorem Same.trans {s t u : State} (h : Same t u) (k : Same s t) : Same s u := Eq.trans h k
theorem Same.pmap (s : State) (p : PMap) : Same s { s with pmap := p } := rfl

theorem Same.foldl {α : Type} (f : State → α → State) (h : ∀ s a, Same s (f s a)) :
    ∀ (l : List α) (s : State), Same s (l.foldl f s) := fun l s => foldl_pending f h l s

/-- A command of a unit keeps the queue where its effect does. -/
theorem onUnit_pending {ok : Bool} {s t : State} (h : t.pending = s.pending) : Keeps s (onUnit ok t) := by
  unfold onUnit; split <;> simp [h]

@[simp] theorem pending_ite (c : Prop) [Decidable c] (a b : State) :
    (if c then a else b).pending = if c then a.pending else b.pending := by split <;> rfl

end Sys2Proof.Machine
end

