-- ==== Sys2Proof/Laws/PObs.lean ====
section
/-!
SUPPORT. What no function of `Machine/Obs.lean` does: touch the queue of the commands that wait.
-/
namespace Sys2Proof.Machine

@[simp] theorem setOvf_pending (reg bit group : Nat) (s : State) : (setOvf reg bit group s).1.pending = s.pending := by
  simp only [setOvf]; (repeat' split) <;> simp 

@[simp] theorem bumpCore_pending (off n : Nat) (s : State) : (bumpCore off n s).1.pending = s.pending := by
  simp only [bumpCore]; (repeat' split) <;> simp 

@[simp] theorem pumpCore_pending (s : State) : (pumpCore s).1.pending = s.pending := by rfl

@[simp] theorem raiseRaw_pending (src code flags : Nat) (fields : List (Nat × Nat × Nat)) (s : State) : (raiseRaw src code flags fields s).1.pending = s.pending := by
  simp only [raiseRaw]; (repeat' split) <;> simp 

@[simp] theorem raiseSaturated_pending (off : Nat) (s : State) : (raiseSaturated off s).pending = s.pending := by
  simp only [raiseSaturated]; (repeat' split) <;> simp 

@[simp] theorem countLost_pending (s : State) : (countLost s).pending = s.pending := by simp [countLost]

@[simp] theorem raiseQ_pending (src code flags : Nat) (fields : List (Nat × Nat × Nat)) (s : State) : (raiseQ src code flags fields s).pending = s.pending := by
  simp [raiseQ]

@[simp] theorem bump_pending (off n : Nat) (s : State) : (bump off n s).pending = s.pending := by simp [bump]

@[simp] theorem pumpLink_pending (s : State) : (pumpLink s).pending = s.pending := by simp [pumpLink]

@[simp] theorem sendMsg_pending (m : HostMsg) (s : State) : (sendMsg m s).pending = s.pending := by simp [sendMsg]

@[simp] theorem hostWrite_pending (addr : Nat) (data : List Byte) (s : State) : (hostWrite addr data s).pending = s.pending := by
  simp (disch := (intros; simp )) [hostWrite, foldl_pending]

@[simp] theorem issueRead_pending (s : State) : (issueRead s).pending = s.pending := by
  simp only [issueRead]; (repeat' split) <;> simp 

@[simp] theorem hostRead_pending (what : ReadFor) (addr len : Nat) (s : State) : (hostRead what addr len s).pending = s.pending := by
  simp [hostRead]

@[simp] theorem hostReadRange_pending (f : Nat → ReadFor) (addr len : Nat) (s : State) : (hostReadRange f addr len s).pending = s.pending := by
  simp (disch := (intros; simp )) [hostReadRange, foldl_pending]

@[simp] theorem dropReads_pending (gone : ReadFor → Bool) (s : State) : (dropReads gone s).pending = s.pending := by
  rfl

@[simp] theorem irq_pending (v : Nat) (s : State) : (irq v s).pending = s.pending := by simp [irq]

@[simp] theorem pumpEventsGo_pending (a0 : List Event) (a1 : State) : (pumpEventsGo a0 a1).pending = a1.pending := by
  induction a0 generalizing a1 <;> first | rfl | (rename_i ih; simp only [pumpEventsGo]; repeat' first | intro _ | (simp [ih]; done) | refine (foldl_pending _ ?_ _ _).trans ?_ | refine (foldl_pending_fst _ ?_ _ _).trans ?_ | refine (foldl_pending_snd _ ?_ _ _).trans ?_ | dsimp only | split | simp [ih])

@[simp] theorem pumpEvents_pending (s : State) : (pumpEvents s).pending = s.pending := by simp [pumpEvents]

@[simp] theorem raiseF_pending (src code flags : Nat) (fields : List (Nat × Nat × Nat)) (s : State) : (raiseF src code flags fields s).pending = s.pending := by
  simp [raiseF]

@[simp] theorem raise_pending (src code : Nat) (fields : List (Nat × Nat × Nat)) (s : State) : (raise src code fields s).pending = s.pending := by
  simp [raise]

@[simp] theorem setSys_pending (st : Nat) (s : State) : (setSys st s).pending = s.pending := by simp [setSys]

@[simp] theorem pumpCplGo_pending (a0 : List Completion) (a1 : State) : (pumpCplGo a0 a1).pending = a1.pending := by
  induction a0 generalizing a1 <;> first | rfl | (rename_i ih; simp only [pumpCplGo]; repeat' first | intro _ | (simp [ih]; done) | refine (foldl_pending _ ?_ _ _).trans ?_ | refine (foldl_pending_fst _ ?_ _ _).trans ?_ | refine (foldl_pending_snd _ ?_ _ _).trans ?_ | dsimp only | split | simp [ih])

@[simp] theorem pumpCpl_pending (s : State) : (pumpCpl s).pending = s.pending := by simp [pumpCpl]

@[simp] theorem pumpCmds_pending (s : State) : (pumpCmds s).pending = s.pending := by simp [pumpCmds]

@[simp] theorem post_pending (c : Completion) (s : State) : (post c s).pending = s.pending := by simp [post]

@[simp] theorem completeR_pending (cmd : CmdRef) (code result : Nat) (s : State) : (completeR cmd code result s).pending = s.pending := by
  simp [completeR]

@[simp] theorem complete_pending (cmd : CmdRef) (code : Nat) (s : State) : (complete cmd code s).pending = s.pending := by
  simp [complete]

@[simp] theorem completeOpt_pending (cmd : Option CmdRef) (code : Nat) (s : State) : (completeOpt cmd code s).pending = s.pending := by
  simp only [completeOpt]; (repeat' split) <;> simp 

@[simp] theorem takeFree_pending (s : State) : (takeFree s).2.pending = s.pending := by rfl

@[simp] theorem take_pending (id op : Nat) (s : State) : (take id op s).2.pending = s.pending := by rfl

end Sys2Proof.Machine
end

