-- ==== Sys2Proof/Laws/POps.lean ====
section
/-!
SUPPORT. What no function of `Machine/Ops.lean` does: touch the queue of the commands that wait.
-/
namespace Sys2Proof.Machine

@[simp] theorem advance_pending (k i : Nat) (s : State) : (advance k i s).pending = s.pending := by rfl

@[simp] theorem setS_pending (k i r v : Nat) (s : State) : (setS k i r v s).pending = s.pending := by rfl

@[simp] theorem setA_pending (k i r v : Nat) (s : State) : (setA k i r v s).pending = s.pending := by rfl

@[simp] theorem setReg_pending (file : Bool) (k i r v : Nat) (s : State) : (setReg file k i r v s).pending = s.pending := by
  simp [setReg]

@[simp] theorem signalSem_pending (cell sem amt : Nat) (s : State) : (signalSem cell sem amt s).pending = s.pending := by
  simp [signalSem]

@[simp] theorem signalLogical_pending (l sem amt : Nat) (s : State) : (signalLogical l sem amt s).pending = s.pending := by
  simp only [signalLogical]; (repeat' split) <;> simp 

@[simp] theorem serveSemGo_pending (k sem : Nat) (a0 : List Nat) (a1 : State) : (serveSemGo k sem a0 a1).pending = a1.pending := by
  induction a0 generalizing a1 <;> first | rfl | (rename_i ih; simp only [serveSemGo]; repeat' first | intro _ | (simp [ih]; done) | refine (foldl_pending _ ?_ _ _).trans ?_ | refine (foldl_pending_fst _ ?_ _ _).trans ?_ | refine (foldl_pending_snd _ ?_ _ _).trans ?_ | dsimp only | split | simp [ih])

@[simp] theorem semAdd_pending (k sem amt : Nat) (s : State) : (semAdd k sem amt s).pending = s.pending := by
  simp only [semAdd]; (repeat' split) <;> simp 

@[simp] theorem writeTier_pending (tier off : Nat) (d : List Byte) (s : State) : (writeTier tier off d s).pending = s.pending := by
  simp [writeTier]

@[simp] theorem ncDrop_pending (k lo len : Nat) (s : State) : (ncDrop k lo len s).pending = s.pending := by rfl

@[simp] theorem nearRead_pending (k tier off n : Nat) (s : State) : (nearRead k tier off n s).2.pending = s.pending := by
  simp only [nearRead]; (repeat' split) <;> simp 

@[simp] theorem ncClear_pending (s : State) : (ncClear s).pending = s.pending := by
  unfold ncClear; rw [foldl_pending]; intros; rfl

@[simp] theorem writeLocal_pending (g : GAddr) (d : List Byte) (s : State) : (writeLocal g d s).pending = s.pending := by
  unfold writeLocal
  split
  · simp
  · rw [foldl_pending]; intros; (repeat' split) <;> simp

@[simp] theorem ringWrite_pending (r idx : Nat) (d : List Byte) (s : State) : (ringWrite r idx d s).pending = s.pending := by
  simp only [ringWrite]; (repeat' split) <;> simp 

@[simp] theorem copyOutGo_pending (r : Nat) (a0 : Nat) (a1 : State) : (copyOutGo r a0 a1).pending = a1.pending := by
  induction a0 generalizing a1 <;> first | rfl | (rename_i ih; simp only [copyOutGo]; repeat' first | intro _ | (simp [ih]; done) | refine (foldl_pending _ ?_ _ _).trans ?_ | refine (foldl_pending_fst _ ?_ _ _).trans ?_ | refine (foldl_pending_snd _ ?_ _ _).trans ?_ | dsimp only | split | simp [ih])

@[simp] theorem copyOut_pending (r : Nat) (s : State) : (copyOut r s).pending = s.pending := by simp [copyOut]

@[simp] theorem noteHostPop_pending (r : Nat) (s : State) : (noteHostPop r s).pending = s.pending := by
  simp [noteHostPop]

@[simp] theorem ringLand_pending (r : Nat) (d : List Byte) (s : State) : (ringLand r d s).pending = s.pending := by
  simp [ringLand]

@[simp] theorem ringTake_pending (r : Nat) (s : State) : (ringTake r s).2.pending = s.pending := by simp [ringTake]

@[simp] theorem pushEntry_pending (r k i : Nat) (d : List Byte) (s : State) : (pushEntry r k i d s).pending = s.pending := by
  simp [pushEntry]

@[simp] theorem ringServeGo_pending (r : Nat) (a0 : Nat) (a1 : State) : (ringServeGo r a0 a1).pending = a1.pending := by
  induction a0 generalizing a1 <;> first | rfl | (rename_i ih; simp only [ringServeGo]; repeat' first | intro _ | (simp [ih]; done) | refine (foldl_pending _ ?_ _ _).trans ?_ | refine (foldl_pending_fst _ ?_ _ _).trans ?_ | refine (foldl_pending_snd _ ?_ _ _).trans ?_ | dsimp only | split | simp [ih])

@[simp] theorem ringServe_pending (r : Nat) (s : State) : (ringServe r s).pending = s.pending := by simp [ringServe]

@[simp] theorem enginePop_pending (r : Nat) (s : State) : (enginePop r s).2.pending = s.pending := by simp [enginePop]

@[simp] theorem enginePush_pending (r : Nat) (d : List Byte) (s : State) : (enginePush r d s).1.pending = s.pending := by
  simp only [enginePush]; (repeat' split) <;> simp 

end Sys2Proof.Machine
end

