-- ==== Sys2Proof/Laws/PModeOps.lean ====
section
/-!
SUPPORT. What no function of `Machine/ModeOps.lean` does: touch the queue of the commands that wait.
-/
namespace Sys2Proof.Machine

@[simp] theorem writeModeBlock_pending (s : State) : (writeModeBlock s).pending = s.pending := by
  simp only [writeModeBlock]; (repeat' split) <;> simp 

@[simp] theorem latchTo_pending (v : Nat) (s : State) : (latchTo v s).pending = s.pending := by simp [latchTo]

@[simp] theorem turnCaches_pending (s : State) : (turnCaches s).pending = s.pending := by rfl

@[simp] theorem moveSys_pending (st : Nat) (s : State) : (moveSys st s).pending = s.pending := by simp [moveSys]

@[simp] theorem latchWork_pending (s : State) : (latchWork s).pending = s.pending := by simp [latchWork]

@[simp] theorem latchIdle_pending (s : State) : (latchIdle s).pending = s.pending := by simp [latchIdle]

end Sys2Proof.Machine
end

