-- ==== Sys2Proof/Laws/PPowerOps.lean ====
section
/-!
SUPPORT. What no function of `Machine/PowerOps.lean` does: touch the queue of the commands that wait.
-/
namespace Sys2Proof.Machine

@[simp] theorem capBoundary_pending (s : State) : (capBoundary s).pending = s.pending := by rfl

@[simp] theorem capAtGo_pending (s : State) : (capAtGo s).pending = s.pending := by simp [capAtGo]

@[simp] theorem powerEnd_pending (s : State) : (powerEnd s).pending = s.pending := by simp [powerEnd]

end Sys2Proof.Machine
end

