-- ==== Sys2Proof/Laws/PNet.lean ====
section
/-!
SUPPORT. What no function of `Machine/Net.lean` does: touch the queue of the commands that wait.
-/
namespace Sys2Proof.Machine

@[simp] theorem emit_pending (port : Nat) (item : WireItem) (s : State) : (emit port item s).pending = s.pending := by
  simp [emit]

@[simp] theorem resolve_pending (port : Nat) (f : Frame) (s : State) : (resolve port f s).pending = s.pending := by
  simp [resolve]

@[simp] theorem emitFrame_pending (port flow : Nat) (f : Frame) (s : State) : (emitFrame port flow f s).pending = s.pending := by
  simp [emitFrame]

@[simp] theorem pumpOne_pending (port k : Nat) (h : Held) (s : State) : (pumpOne port k h s).pending = s.pending := by
  simp [pumpOne]

@[simp] theorem pumpPort_pending (s : State) (port : Nat) : (pumpPort s port).pending = s.pending := by
  simp (disch := (intros; simp )) [pumpPort, foldl_pending]

@[simp] theorem enqueue_pending (want : Nat) (h : Held) (s : State) : (enqueue want h s).pending = s.pending := by rfl

@[simp] theorem handOff_pending (want : Nat) (h : Held) (s : State) : (handOff want h s).pending = s.pending := by
  simp [handOff]

@[simp] theorem moveKey_pending (s : State) (k : Nat) : (moveKey s k).pending = s.pending := by
  simp (disch := (intros; simp )) [moveKey, foldl_pending]

@[simp] theorem pumpPorts_pending (s : State) : (pumpPorts s).pending = s.pending := by
  simp (disch := (intros; simp )) [pumpPorts, foldl_pending]

@[simp] theorem resendHeld_pending (port peer cls psn : Nat) (s : State) : (resendHeld port peer cls psn s).pending = s.pending := by
  simp only [resendHeld]; (repeat' split) <;> simp 

@[simp] theorem sendSack_pending (port peer cls status : Nat) (s : State) : (sendSack port peer cls status s).pending = s.pending := by
  simp only [sendSack, handOff_pending, modRecv_pending]

@[simp] theorem sendCnp_pending (port peer cls : Nat) (s : State) : (sendCnp port peer cls s).pending = s.pending := by
  simp [sendCnp]

@[simp] theorem dropAttemptFrames_pending (s : State) : (dropAttemptFrames s).pending = s.pending := by
  simp (disch := (intros; simp )) [dropAttemptFrames, foldl_pending]

end Sys2Proof.Machine
end

