-- ==== Sys2Proof/Laws/PSend.lean ====
section
/-!
SUPPORT. What no function of `Machine/Send.lean` does: touch the queue of the commands that wait.
-/
namespace Sys2Proof.Machine

@[simp] theorem bellFrame_pending (dst : Nat) (m : BellMsg) (s : State) : (bellFrame dst m s).pending = s.pending := by
  simp [bellFrame]

@[simp] theorem bellSend_pending (dst : Nat) (m : BellMsg) (s : State) : (bellSend dst m s).pending = s.pending := by
  simp [bellSend]

@[simp] theorem sendStep_pending (dst code value : Nat) (payload : List Byte) (s : State) : (sendStep dst code value payload s).pending = s.pending := by
  simp [sendStep]

@[simp] theorem sendFail_pending (code src : Nat) (s : State) : (sendFail code src s).pending = s.pending := by
  simp [sendFail]

@[simp] theorem reportNonfinite_pending (src tensor : Nat) (s : State) : (reportNonfinite src tensor s).pending = s.pending := by
  simp [reportNonfinite]

@[simp] theorem reportPeer_pending (peer : Nat) (s : State) : (reportPeer peer s).pending = s.pending := by
  simp [reportPeer]

end Sys2Proof.Machine
end

