-- ==== Sys2Proof/Laws/POperands.lean ====
section
/-!
SUPPORT. What no function of `Machine/Operands.lean` does: touch the queue of the commands that wait.
-/
namespace Sys2Proof.Machine

@[simp] theorem updateStsAt_pending (src off : Nat) (x : Sts) (s : State) : (updateStsAt src off x s).pending = s.pending := by
  simp only [updateStsAt]; (repeat' split) <;> simp 

@[simp] theorem updateSts_pending (k : Nat) (en : Bool) (off : Nat) (x : Sts) (s : State) : (updateSts k en off x s).pending = s.pending := by
  simp [updateSts]

end Sys2Proof.Machine
end

