-- ==== Sys2Proof/Laws/PPmap.lean ====
section
/-!
SUPPORT. What no function of `Machine/Pmap.lean` does: touch the queue of the commands that wait.
-/
namespace Sys2Proof.Machine

@[simp] theorem mapWrite_pending (off : Nat) (d : List Byte) (s : State) : (mapWrite off d s).pending = s.pending := by
  simp only [mapWrite]; (repeat' split) <;> simp 

@[simp] theorem storeFree_pending (tier : Nat) (s : State) : (storeFree tier s).pending = s.pending := by
  simp [storeFree]

@[simp] theorem setFifo_pending (tier : Nat) (l : List Nat) (s : State) : (setFifo tier l s).pending = s.pending := by
  simp [setFifo]

@[simp] theorem raiseLast_pending (slot o : Nat) (s : State) : (raiseLast slot o s).pending = s.pending := by
  simp [raiseLast]

@[simp] theorem pushLog_pending (key st : Nat) (s : State) : (pushLog key st s).pending = s.pending := by
  simp [pushLog]

@[simp] theorem claimFrame_pending (f : FrameId) (s : State) : (claimFrame f s).pending = s.pending := by
  simp [claimFrame]

@[simp] theorem incCount_pending (f : FrameId) (s : State) : (incCount f s).pending = s.pending := by
  simp only [incCount]; (repeat' split) <;> simp 

@[simp] theorem forgetMove_pending (f : FrameId) (s : State) : (forgetMove f s).pending = s.pending := by rfl

@[simp] theorem decCount_pending (f : FrameId) (s : State) : (decCount f s).pending = s.pending := by
  simp only [decCount]; (repeat' split) <;> simp 

@[simp] theorem discardAhead_pending (n : Nat) (s : State) : (discardAhead n s).pending = s.pending := by
  simp [discardAhead]

@[simp] theorem dropAhead_pending (key : Nat) (s : State) : (dropAhead key s).pending = s.pending := by
  simp [dropAhead]

@[simp] theorem readAhead_pending (key last : Nat) (ahead : List (Nat × Nat)) (s : State) : (readAhead key last ahead s).2.pending = s.pending := by
  rfl

@[simp] theorem dropEntryLine_pending (key : Nat) (s : State) : (dropEntryLine key s).pending = s.pending := by
  simp (disch := (intros; simp )) [dropEntryLine, foldl_pending]

@[simp] theorem writeEntry_pending (key new : Nat) (s : State) : (writeEntry key new s).pending = s.pending := by
  simp only [writeEntry]; (repeat' split) <;> simp 

@[simp] theorem freeEntry_pending (key : Nat) (s : State) : (freeEntry key s).pending = s.pending := by
  simp [freeEntry]

@[simp] theorem carryOut_pending (d : List Byte) (s : State) : (carryOut d s).pending = s.pending := by
  simp only [carryOut]; (repeat' split) <;> simp 

@[simp] theorem takeVictims_pending (ring tier : Nat) (a0 : Nat) (a1 : State) : (takeVictims ring tier a0 a1).pending = a1.pending := by
  induction a0 generalizing a1 <;> first | rfl | (rename_i ih; simp only [takeVictims]; repeat' first | intro _ | (simp [ih]; done) | refine (foldl_pending _ ?_ _ _).trans ?_ | refine (foldl_pending_fst _ ?_ _ _).trans ?_ | refine (foldl_pending_snd _ ?_ _ _).trans ?_ | dsimp only | split | simp [ih])

@[simp] theorem refillFifo_pending (tier : Nat) (s : State) : (refillFifo tier s).pending = s.pending := by
  simp only [refillFifo]; (repeat' split) <;> simp 

@[simp] theorem allocFrame_pending (tier : Nat) (s : State) : (allocFrame tier s).2.pending = s.pending := by
  simp only [allocFrame]; (repeat' split) <;> simp 

@[simp] theorem returnFrame_pending (f : FrameId) (s : State) : (returnFrame f s).pending = s.pending := by
  simp [returnFrame]

@[simp] theorem leaveLimbo_pending (s : State) : (leaveLimbo s).pending = s.pending := by
  simp (disch := (intros; simp )) [leaveLimbo, foldl_pending]

@[simp] theorem takePin_pending (w : PinHolder) (s : State) : (takePin w s).pending = s.pending := by simp [takePin]

@[simp] theorem fenceCheck_pending (s : State) : (fenceCheck s).pending = s.pending := by
  simp (disch := (intros; simp )) [fenceCheck, foldl_pending]

@[simp] theorem dropPin_pending (w : PinHolder) (s : State) : (dropPin w s).pending = s.pending := by simp [dropPin]

@[simp] theorem retireFrame_pending (f : FrameId) (s : State) : (retireFrame f s).pending = s.pending := by
  have h : Same s (retireFrame f s) := by
    unfold retireFrame
    exact (Same.foldl _ (fun _ _ => .of (writeEntry_pending ..)) _ _).trans
      ((Same.of (claimFrame_pending ..)).trans (.pmap _ _))
  exact h.out

end Sys2Proof.Machine
end

