-- ==== Sys2Proof/Laws/PGenOps.lean ====
section
/-!
SUPPORT. What no function of `Machine/GenOps.lean` does: touch the queue of the commands that wait.
-/
namespace Sys2Proof.Machine

@[simp] theorem setUser_pending (u : Nat) (q : Option GenReq) (s : State) : (setUser u q s).pending = s.pending := by
  rfl

@[simp] theorem pushProgress_pending (d : List Byte) (s : State) : (pushProgress d s).pending = s.pending := by
  simp only [pushProgress]; (repeat' split) <;> simp 

@[simp] theorem pumpProgress_pending (s : State) : (pumpProgress s).pending = s.pending := by
  simp (disch := (intros; simp )) [pumpProgress, foldl_pending]

@[simp] theorem unitFree_pending (key : Nat) (s : State) : (unitFree key s).pending = s.pending := by simp [unitFree]

@[simp] theorem freeUser_pending (u : Nat) (s : State) : (freeUser u s).pending = s.pending := by
  simp (disch := (intros; simp )) [freeUser, foldl_pending]

@[simp] theorem startNext_pending (u : Nat) (s : State) : (startNext u s).pending = s.pending := by
  simp only [startNext]; (repeat' split) <;> simp 

@[simp] theorem startWaiting_pending (s : State) : (startWaiting s).pending = s.pending := by
  simp (disch := (intros; simp )) [startWaiting, foldl_pending]

@[simp] theorem latchModes_pending (s : State) : (latchModes s).pending = s.pending := by simp [latchModes]

@[simp] theorem endReport_pending (q : GenReq) (code : Nat) (s : State) : (endReport q code s).pending = s.pending := by
  simp [endReport]

@[simp] theorem endUser_pending (u : Nat) (code : Nat) (s : State) : (endUser u code s).pending = s.pending := by
  simp only [endUser]; (repeat' split) <;> simp 

@[simp] theorem loopBack_pending (u : Nat) (s : State) : (loopBack u s).pending = s.pending := by
  simp only [loopBack]; (repeat' split) <;> simp 

@[simp] theorem endOk_pending (u : Nat) (s : State) : (endOk u s).pending = s.pending := by
  simp only [endOk]; (repeat' split) <;> simp 

@[simp] theorem freeLoop_pending (off : Nat) (s : State) : (freeLoop off s).pending = s.pending := by
  simp only [freeLoop]; (repeat' split) <;> simp 

@[simp] theorem endAll_pending (code : Nat) (s : State) : (endAll code s).pending = s.pending := by
  simp (disch := (intros; simp )) [endAll, foldl_pending]

@[simp] theorem stopFormation_pending (cell code : Nat) (s : State) : (stopFormation cell code s).pending = s.pending := by
  simp [stopFormation]

end Sys2Proof.Machine
end

