-- ==== Sys2Proof/Laws/PStop.lean ====
section
/-!
SUPPORT. What no function of `Machine/Stop.lean` does: touch the queue of the commands that wait.
-/
namespace Sys2Proof.Machine

@[simp] theorem endWalks_pending (k i : Nat) (s : State) : (endWalks k i s).pending = s.pending := by simp [endWalks]

@[simp] theorem stopStream_pending (halt : Bool) (k i : Nat) (s : State) : (stopStream halt k i s).pending = s.pending := by
  simp only [stopStream]; (repeat' split) <;> simp 

@[simp] theorem streamFaultAt_pending (ip k i : Nat) (f : RtFault) (s : State) : (streamFaultAt ip k i f s).pending = s.pending := by
  simp [streamFaultAt]

@[simp] theorem streamFault_pending (k i : Nat) (f : RtFault) (s : State) : (streamFault k i f s).pending = s.pending := by
  simp [streamFault]

end Sys2Proof.Machine
end

