-- ==== Sys2Proof/Laws/PIssue.lean ====
section
/-!
SUPPORT. What no function of `Machine/Issue.lean` does: touch the queue of the commands that wait.
-/
namespace Sys2Proof.Machine

theorem issue_pending (u : StreamAt) (word : Bool) (f : State → State) (s : State) (hf : ∀  t, (f  t).pending = t.pending) : Keeps s (issue u word f s) := by
  simp only [issue]; (repeat' split) <;> simp [hf]

@[simp] theorem blockUnit_pending (u : StreamAt) (cause : StallCause) (s : State) : (blockUnit u cause s).pending = s.pending := by
  rfl

@[simp] theorem stepOn_pending (u : StreamAt) (s : State) : (stepOn u s).pending = s.pending := by rfl

@[simp] theorem finishCell_pending (u : StreamAt) (r : Except RtFault Cell) (s : State) : (finishCell u r s).pending = s.pending := by
  simp only [finishCell]; (repeat' split) <;> simp 

@[simp] theorem finishSts_pending (u : StreamAt) (en : Bool) (off : Nat) (r : Except RtFault (Cell × Sts)) (s : State) :
   (finishSts u en off r s).pending = s.pending := by
  unfold finishSts
  split
  · simp
  · cases r <;> simp

@[simp] theorem finishLong_pending (u : StreamAt) (en : Bool) (off : Nat) (r : Except RtFault (Cell × Sts)) (s : State) : (finishLong u en off r s).pending = s.pending := by
  simp [finishLong]

end Sys2Proof.Machine
end

