-- ==== Sys2Proof/Laws/PRemote.lean ====
section
/-!
SUPPORT. What no function of `Machine/Remote.lean` does: touch the queue of the commands that wait.
-/
namespace Sys2Proof.Machine

@[simp] theorem newXfer_pending (x : RemoteXfer) (s : State) : (newXfer x s).2.pending = s.pending := by rfl

@[simp] theorem remoteWrite_pending (what : XferFor) (peer want : Nat) (pieces : List (Nat × List Byte)) (sig : Nat × Nat × Nat) (s : State) : (remoteWrite what peer want pieces sig s).pending = s.pending := by
  simp (disch := (intros; simp )) [remoteWrite, foldl_pending]

@[simp] theorem remoteRead_pending (what : XferFor) (peer want : Nat) (pieces : List (Nat × Nat × Nat)) (s : State) : (remoteRead what peer want pieces s).pending = s.pending := by
  simp (disch := (intros; simp )) [remoteRead, foldl_pending]

@[simp] theorem xferProgress_pending (id n : Nat) (s : State) : (xferProgress id n s).pending = s.pending := by
  simp only [xferProgress]; (repeat' split) <;> simp 

end Sys2Proof.Machine
end

