-- ==== Sys2Proof/Laws/PWalks.lean ====
section
/-!
SUPPORT. What no function of `Machine/Walks.lean` does: touch the queue of the commands that wait.
-/
namespace Sys2Proof.Machine

@[simp] theorem pumpPend_pending (s : State) : (pumpPend s).pending = s.pending := by
  simp only [pumpPend]; (repeat' split) <;> simp (disch := (intros; (repeat' split) <;> simp )) [foldl_pending]

@[simp] theorem requestRecomp_pending (key : Nat) (s : State) : (requestRecomp key s).pending = s.pending := by
  simp [requestRecomp]

@[simp] theorem walkWrite_pending (w : Walk) (i addr : Nat) (hit : Bool) (s : State) : (walkWrite w i addr hit s).pending = s.pending := by
  rfl

@[simp] theorem parkWalk_pending (w : Walk) (s : State) : (parkWalk w s).pending = s.pending := by rfl

@[simp] theorem walkCopy_pending (w : Walk) (s : State) : (walkCopy w s).2.pending = s.pending := by
  simp only [walkCopy]; (repeat' split) <;> simp 

@[simp] theorem walkFails_pending (w : Walk) (s : State) : (walkFails w s).pending = s.pending := by simp [walkFails]

@[simp] theorem serveWalk_pending (w : Walk) (n : Nat) (s : State) : (serveWalk w n s).pending = s.pending := by
  have h : ∀ n w s, Same s (serveWalk w n s) := by
    intro n
    induction n with
    | zero => exact fun _ s => .rfl' s
    | succ n ih =>
      intro w s
      unfold serveWalk
      split
      · exact .rfl' s
      · have hc : Same s (walkCopy w s).2 := .of (walkCopy_pending ..)
        dsimp only
        split
        · exact (ih _ _).trans ((Same.of (walkWrite_pending ..)).trans hc)
        · exact (ih _ _).trans ((Same.of (walkWrite_pending ..)).trans hc)
        · exact (Same.of (parkWalk_pending ..)).trans hc
        · exact (Same.of (requestRecomp_pending ..)).trans ((Same.of (parkWalk_pending ..)).trans hc)
        · exact (Same.of (walkFails_pending ..)).trans hc
  exact (h n w s).out

@[simp] theorem runWalk_pending (s : State) (w : Walk) : (runWalk s w).pending = s.pending := by simp [runWalk]

@[simp] theorem modChan_pending (c : Nat) (f : Channel → Channel) (s : State) : (modChan c f s).pending = s.pending := by
  rfl

@[simp] theorem circFail_pending (c : Nat) (s : State) : (circFail c s).pending = s.pending := by simp [circFail]

@[simp] theorem ownPage_pending (c : Nat) (x : Option (Nat × Nat)) (s : State) : (ownPage c x s).pending = s.pending := by
  rfl

@[simp] theorem skipPage_pending (c : Nat) (s : State) : (skipPage c s).pending = s.pending := by simp [skipPage]

@[simp] theorem parkChan_pending (c : Nat) (s : State) : (parkChan c s).pending = s.pending := by rfl

@[simp] theorem walkOwn_pending (c : Nat) (a0 : Nat) (a1 : State) : (walkOwn c a0 a1).pending = a1.pending := by
  induction a0 generalizing a1 <;> first | rfl | (rename_i ih; simp only [walkOwn]; repeat' first | intro _ | (simp [ih]; done) | refine (foldl_pending _ ?_ _ _).trans ?_ | refine (foldl_pending_fst _ ?_ _ _).trans ?_ | refine (foldl_pending_snd _ ?_ _ _).trans ?_ | dsimp only | split | simp [ih])

@[simp] theorem runWalks_pending (s : State) : (runWalks s).pending = s.pending := by
  simp (disch := (intros; simp )) [runWalks, foldl_pending]

@[simp] theorem editReply_pending (by_ : Editor) (prev : Nat) (s : State) : (editReply by_ prev s).pending = s.pending := by
  simp only [editReply]; (repeat' split) <;> simp 

@[simp] theorem editSkip_pending (by_ : Editor) (s : State) : (editSkip by_ s).pending = s.pending := by
  simp only [editSkip]; (repeat' split) <;> simp 

@[simp] theorem editFault_pending (by_ : Editor) (key : Nat) (s : State) : (editFault by_ key s).pending = s.pending := by
  simp only [editFault]; (repeat' split) <;> simp 

@[simp] theorem endRecomp_pending (key : Nat) (s : State) : (endRecomp key s).pending = s.pending := by
  simp [endRecomp]

@[simp] theorem trySet_pending (e : Edit) (val : Nat) (s : State) : (trySet e val s).2.pending = s.pending := by
  simp only [trySet]; (repeat' split) <;> simp 

@[simp] theorem tryCow_pending (e : Edit) (s : State) : (tryCow e s).2.pending = s.pending := by
  have h : Same s (tryCow e s).2 := by
    unfold tryCow; dsimp only
    split
    · exact .of (editReply_pending ..)
    split
    all_goals
      split
      · exact (Same.of (editReply_pending ..)).trans (.of (writeEntry_pending ..))
      split
      · exact .of (editFault_pending ..)
      split
      · exact .of (allocFrame_pending ..)
      split
      · refine (Same.of (remoteRead_pending ..)).trans ((Same.pmap _ _).trans ((Same.of (writeEntry_pending ..)).trans
          ((Same.of (incCount_pending ..)).trans (.of (allocFrame_pending ..)))))
      · exact ((Same.pmap _ _).trans ((Same.of (writeEntry_pending ..)).trans
          ((Same.of (incCount_pending ..)).trans (.of (allocFrame_pending ..)))))
  exact h.out

@[simp] theorem tryFree_pending (e : Edit) (s : State) : (tryFree e s).2.pending = s.pending := by simp [tryFree]

@[simp] theorem tryEdit_pending (s : State) (e : Edit) : (tryEdit s e).pending = s.pending := by
  simp only [tryEdit]; (repeat' split) <;> simp 

@[simp] theorem pumpMap_pending (s : State) : (pumpMap s).pending = s.pending := by
  simp (disch := (intros; simp )) [pumpMap, foldl_pending]

@[simp] theorem arriveEdit_pending (e : Edit) (s : State) : (arriveEdit e s).pending = s.pending := by
  simp [arriveEdit]

@[simp] theorem mapAfterPop_pending (ring : Nat) (s : State) : (mapAfterPop ring s).pending = s.pending := by
  simp [mapAfterPop]

@[simp] theorem mapAfterPush_pending (ring : Nat) (s : State) : (mapAfterPush ring s).pending = s.pending := by
  simp [mapAfterPush]

@[simp] theorem copyPage_pending (fromTier fromFrame : Nat) (new : FrameId) (s : State) : (copyPage fromTier fromFrame new s).pending = s.pending := by
  simp [copyPage]

@[simp] theorem setCount_pending (f : FrameId) (n : Nat) (s : State) : (setCount f n s).pending = s.pending := by
  simp only [setCount]; (repeat' split) <;> simp 

@[simp] theorem cowDone_pending (c : CowJob) (s : State) : (cowDone c s).pending = s.pending := by simp [cowDone]

@[simp] theorem startReloc_pending (key : Nat) (s : State) : (startReloc key s).pending = s.pending := by
  have h : Same s (startReloc key s) := by
    unfold startReloc; dsimp only
    split
    · exact .rfl' s
    · exact (Same.pmap _ _).trans (.of (writeEntry_pending ..))
  exact h.out

@[simp] theorem relocateFrame_pending (f : FrameId) (s : State) : (relocateFrame f s).pending = s.pending := by
  simp (disch := (intros; simp )) [relocateFrame, foldl_pending]

@[simp] theorem relocCopy_pending (r : Reloc) (f : FrameId) (s : State) : (relocCopy r f s).pending = s.pending := by
  simp [relocCopy]

@[simp] theorem relocDrop_pending (r : Reloc) (s : State) : (relocDrop r s).pending = s.pending := by rfl

@[simp] theorem endReloc_pending (r : Reloc) (s : State) : (endReloc r s).pending = s.pending := by
  have h : Same s (endReloc r s) := by
    unfold endReloc; dsimp only
    split
    · exact (Same.of (pumpMap_pending _)).trans (.of (relocDrop_pending ..))
    have hr : Same s (if s.pmap.moved.any (fun m => m.1 == r.old) then s else refillFifo r.old.tier s) := by
      split
      · exact .rfl' s
      · exact .of (refillFifo_pending ..)
    split
    · exact hr
    · exact (Same.of (pumpMap_pending _)).trans ((Same.of (relocDrop_pending ..)).trans
        ((Same.of (writeEntry_pending ..)).trans ((Same.of (relocCopy_pending ..)).trans hr)))
  exact h.out

@[simp] theorem undoLog_pending (s : State) : (undoLog s).pending = s.pending := by
  have h : Same s (undoLog s) := by
    unfold undoLog
    exact (Same.pmap _ _).trans ((Same.foldl _ (fun _ _ => .of (writeEntry_pending ..)) _ _).trans
      ((Same.pmap _ _).trans (Same.foldl _ (fun _ _ => .of (cowDone_pending ..)) _ _)))
  exact h.out

end Sys2Proof.Machine
end

