-- ==== Sys2Proof/Laws/PControl.lean ====
section
/-!
SUPPORT. What no function of `Machine/Control.lean` does: touch the queue of the commands that wait.
-/
namespace Sys2Proof.Machine

theorem execNop_pending (u : StreamAt) (s : State) : Keeps s (execNop u s) := by
  unfold execNop; apply issue_pending <;> intros <;> simp 

theorem execStop_pending (u : StreamAt) (s : State) : Keeps s (execStop u s) := by
  unfold execStop; apply issue_pending <;> intros <;> simp 

theorem execLoop_pending (u : StreamAt) (count : BitVec 24) (idx : BitVec 4) (idxEn : Bool) (s : State) : Keeps s (execLoop u count idx idxEn s) := by
  unfold execLoop; apply issue_pending <;> intros <;> simp 

@[simp] theorem endlEffect_pending (u : StreamAt) (s : State) : (endlEffect u s).pending = s.pending := by
  simp only [endlEffect]; (repeat' split) <;> simp 

theorem execEndl_pending (u : StreamAt) (s : State) : Keeps s (execEndl u s) := by
  unfold execEndl; apply issue_pending <;> intros <;> simp 

theorem execCall_pending (u : StreamAt) (target : BitVec 32) (s : State) : Keeps s (execCall u target s) := by
  unfold execCall; apply issue_pending <;> intros <;> simp 

theorem execRet_pending (u : StreamAt) (s : State) : Keeps s (execRet u s) := by
  unfold execRet; apply issue_pending <;> intros <;> simp 

theorem execSli_pending (u : StreamAt) (d : BitVec 4) (file high : Bool) (imm : BitVec 32) (s : State) : Keeps s (execSli u d file high imm s) := by
  unfold execSli; apply issue_pending <;> intros <;> simp 

theorem execSalu_pending (u : StreamAt) (w : SaluWord) (s : State) : Keeps s (execSalu u w s) := by
  unfold execSalu; apply issue_pending <;> intros <;> simp 

theorem execSld_pending (u : StreamAt) (w : LdWord) (s : State) : Keeps s (execSld u w s) := by
  unfold execSld; apply issue_pending; repeat' first | intro _ | (simp ; done) | refine (foldl_pending _ ?_ _ _).trans ?_ | refine (foldl_pending_fst _ ?_ _ _).trans ?_ | refine (foldl_pending_snd _ ?_ _ _).trans ?_ | dsimp only | split | simp 

theorem execSst_pending (u : StreamAt) (w : LdWord) (s : State) : Keeps s (execSst u w s) := by
  unfold execSst; apply issue_pending <;> intros <;> simp 

@[simp] theorem semwEffect_pending (u : StreamAt) (sem n : Nat) (s : State) : (semwEffect u sem n s).pending = s.pending := by
  simp [semwEffect]

theorem execSemw_pending (u : StreamAt) (sem : BitVec 6) (n : BitVec 16) (s : State) : Keeps s (execSemw u sem n s) := by
  unfold execSemw; apply issue_pending <;> intros <;> simp 

@[simp] theorem semsEffect_pending (u : StreamAt) (sem cell n : Nat) (s : State) : (semsEffect u sem cell n s).pending = s.pending := by
  simp only [semsEffect]; (repeat' split) <;> simp 

theorem execSems_pending (u : StreamAt) (sem : BitVec 6) (cell : BitVec 10) (n : BitVec 16) (s : State) : Keeps s (execSems u sem cell n s) := by
  unfold execSems; apply issue_pending <;> intros <;> simp 

@[simp] theorem semArrive_pending (cell sem : Nat) (s : State) : (semArrive cell sem s).pending = s.pending := by
  simp only [semArrive]; (repeat' split) <;> simp 

theorem execSemSignalArrive_pending (cell sem : Nat) (s : State) : Keeps s (execSemSignalArrive cell sem s) := by
  unfold execSemSignalArrive; apply onUnit_pending <;> intros <;> simp 

@[simp] theorem rpushEffect_pending (u : StreamAt) (src ring : Nat) (s : State) : (rpushEffect u src ring s).pending = s.pending := by
  simp only [rpushEffect]; (repeat' split) <;> simp 

theorem execRpush_pending (u : StreamAt) (src : BitVec 4) (ring : BitVec 18) (s : State) : Keeps s (execRpush u src ring s) := by
  unfold execRpush; apply issue_pending <;> intros <;> simp 

@[simp] theorem rpopEffect_pending (u : StreamAt) (dst ring : Nat) (s : State) : (rpopEffect u dst ring s).pending = s.pending := by
  simp only [rpopEffect]; (repeat' split) <;> simp 

theorem execRpop_pending (u : StreamAt) (dst : BitVec 4) (ring : BitVec 18) (s : State) : Keeps s (execRpop u dst ring s) := by
  unfold execRpop; apply issue_pending <;> intros <;> simp 

@[simp] theorem ringArrive_pending (ring : Nat) (s : State) : (ringArrive ring s).pending = s.pending := by
  simp only [ringArrive]; (repeat' split) <;> simp 

theorem execRingPushArrive_pending (ring : Nat) (s : State) : Keeps s (execRingPushArrive ring s) := by
  unfold execRingPushArrive; apply onUnit_pending <;> intros <;> simp 

theorem execNcinv_pending (u : StreamAt) (s : State) : Keeps s (execNcinv u s) := by
  unfold execNcinv; apply issue_pending <;> intros <;> simp 

end Sys2Proof.Machine
end

