-- ==== Sys2Proof/Laws/PCompute.lean ====
section
/-!
SUPPORT. What no function of `Machine/Compute.lean` does: touch the queue of the commands that wait.
-/
namespace Sys2Proof.Machine

@[simp] theorem mmaEffect_pending (u : StreamAt) (p : Pred) (ta tb : Bool) (w : MmaWord) (s : State) : (mmaEffect u p ta tb w s).pending = s.pending := by
  simp [mmaEffect]

theorem execMma_pending (u : StreamAt) (p : Pred) (w : MmaWord) (s : State) : Keeps s (execMma u p w s) := by
  unfold execMma; apply issue_pending <;> intros <;> simp 

theorem execMmaTa_pending (u : StreamAt) (p : Pred) (w : MmaWord) (s : State) : Keeps s (execMmaTa u p w s) := by
  unfold execMmaTa; apply issue_pending <;> intros <;> simp 

theorem execMmaTb_pending (u : StreamAt) (p : Pred) (w : MmaWord) (s : State) : Keeps s (execMmaTb u p w s) := by
  unfold execMmaTb; apply issue_pending <;> intros <;> simp 

theorem execMmaComplete_pending (cell : Nat) (s : State) : Keeps s (execMmaComplete cell s) := by
  unfold execMmaComplete; apply onUnit_pending <;> intros <;> simp 

@[simp] theorem drainEffect_pending (u : StreamAt) (p : Pred) (w : DrainWord) (s : State) : (drainEffect u p w s).pending = s.pending := by
  simp [drainEffect]

theorem execDrain_pending (u : StreamAt) (p : Pred) (w : DrainWord) (s : State) : Keeps s (execDrain u p w s) := by
  unfold execDrain; apply issue_pending <;> intros <;> simp 

@[simp] theorem drainDone_pending (cell : Nat) (b : Bool) (s : State) : (drainDone cell b s).pending = s.pending := by
  simp only [drainDone]; (repeat' split) <;> simp 

theorem execDrainComplete_pending (cell : Nat) (bank : Bool) (s : State) : Keeps s (execDrainComplete cell bank s) := by
  unfold execDrainComplete; apply onUnit_pending <;> intros <;> simp 

theorem vop_pending (u : StreamAt) (p : Pred) (word : Bool) (f : Cell → Cell) (s : State) : Keeps s (vop u p word f s) := by
  unfold vop; apply issue_pending <;> intros <;> simp 

theorem execVld_pending (u : StreamAt) (p : Pred) (w : VmemWord) (s : State) : Keeps s (execVld u p w s) := by
  unfold execVld; apply issue_pending <;> intros <;> simp 

theorem execVst_pending (u : StreamAt) (p : Pred) (w : VmemWord) (s : State) : Keeps s (execVst u p w s) := by
  unfold execVst; apply issue_pending <;> intros <;> simp 

theorem execVbin_pending (u : StreamAt) (p : Pred) (vd va vb : BitVec 5) (ety : BitVec 2) (fn : BitVec 6) (s : State) : Keeps s (execVbin u p vd va vb ety fn s) := by
  exact vop_pending _ _ _ _ _

theorem execVfma_pending (u : StreamAt) (p : Pred) (vd va vb vc : BitVec 5) (ety : BitVec 2) (s : State) : Keeps s (execVfma u p vd va vb vc ety s) := by
  exact vop_pending _ _ _ _ _

theorem execVcmp_pending (u : StreamAt) (p : Pred) (va vb : BitVec 5) (md : BitVec 3) (half : Bool) (ety : BitVec 2) (fn : BitVec 6) (s : State) : Keeps s (execVcmp u p va vb md half ety fn s) := by
  exact vop_pending _ _ _ _ _

theorem execVsel_pending (u : StreamAt) (p : Pred) (vd va vb : BitVec 5) (ma : BitVec 3) (s : State) : Keeps s (execVsel u p vd va vb ma s) := by
  exact vop_pending _ _ _ _ _

theorem execVcvt_pending (u : StreamAt) (p : Pred) (vd va : BitVec 5) (etyD etyA : BitVec 2) (half : Bool) (s : State) : Keeps s (execVcvt u p vd va etyD etyA half s) := by
  exact vop_pending _ _ _ _ _

theorem execVbcast_pending (u : StreamAt) (p : Pred) (vd : BitVec 5) (sreg : BitVec 4) (ety : BitVec 2) (s : State) : Keeps s (execVbcast u p vd sreg ety s) := by
  exact vop_pending _ _ _ _ _

theorem execVmsk_pending (u : StreamAt) (p : Pred) (md ma mb : BitVec 3) (fn : BitVec 6) (reg : BitVec 4) (s : State) : Keeps s (execVmsk u p md ma mb fn reg s) := by
  unfold execVmsk; apply issue_pending <;> intros <;> simp 

theorem execVun_pending (u : StreamAt) (p : Pred) (vd va : BitVec 5) (ety : BitVec 2) (fn : BitVec 6) (s : State) : Keeps s (execVun u p vd va ety fn s) := by
  exact vop_pending _ _ _ _ _

theorem execVxs_pending (u : StreamAt) (p : Pred) (va : BitVec 5) (sreg : BitVec 4) (lane : BitVec 6) (s : State) : Keeps s (execVxs u p va sreg lane s) := by
  unfold execVxs; apply issue_pending <;> intros <;> simp 

theorem sopBy_pending (fin : StreamAt → Bool → Nat → Except RtFault (Cell × Sts) → State → State) (u : StreamAt) (p : Pred) (w : SopWord) (word : Bool) (f : Bool → SopWord → VecArgs → Cell → Except RtFault (Cell × Sts)) (s : State) (hfin : ∀ v0 v1 v2 v3 t, (fin v0 v1 v2 v3 t).pending = t.pending) : Keeps s (sopBy fin u p w word f s) := by
  unfold sopBy; apply issue_pending <;> intros <;> simp [hfin]

theorem sop_pending (u : StreamAt) (p : Pred) (w : SopWord) (word : Bool) (f : Bool → SopWord → VecArgs → Cell → Except RtFault (Cell × Sts)) (s : State) : Keeps s (sop u p w word f s) := by
  unfold sop; apply sopBy_pending <;> intros <;> simp 

theorem execSopElem_pending (u : StreamAt) (p : Pred) (w : SopWord) (s : State) : Keeps s (execSopElem u p w s) := by
  exact sopBy_pending _ _ _ _ _ _ _ (by intros; simp)

theorem execSopRed_pending (u : StreamAt) (p : Pred) (w : SopWord) (s : State) : Keeps s (execSopRed u p w s) := by
  exact sop_pending _ _ _ _ _ _

theorem execSopScan_pending (u : StreamAt) (p : Pred) (w : SopWord) (s : State) : Keeps s (execSopScan u p w s) := by
  exact sop_pending _ _ _ _ _ _

theorem execSopSegscan_pending (u : StreamAt) (p : Pred) (w : SopWord) (s : State) : Keeps s (execSopSegscan u p w s) := by
  exact sop_pending _ _ _ _ _ _

theorem execSopTopk_pending (u : StreamAt) (p : Pred) (w : SopWord) (s : State) : Keeps s (execSopTopk u p w s) := by
  exact sop_pending _ _ _ _ _ _

theorem execSopCvt_pending (u : StreamAt) (p : Pred) (w : SopWord) (s : State) : Keeps s (execSopCvt u p w s) := by
  exact sop_pending _ _ _ _ _ _

theorem execSopFill_pending (u : StreamAt) (p : Pred) (w : SopWord) (s : State) : Keeps s (execSopFill u p w s) := by
  exact sop_pending _ _ _ _ _ _

theorem execTab_pending (u : StreamAt) (p : Pred) (w : TabWord) (s : State) : Keeps s (execTab u p w s) := by
  unfold execTab; apply issue_pending <;> intros <;> simp 

end Sys2Proof.Machine
end

