-- ==== Sys2Proof/Laws/PTags.lean ====
section
/-!
SUPPORT. What no function of `Machine/Tags.lean` does: touch the queue of the commands that wait.
-/
namespace Sys2Proof.Machine

@[simp] theorem setTag_pending (k i tag : Nat) (st : TagSt) (s : State) : (setTag k i tag st s).pending = s.pending := by
  rfl

@[simp] theorem takeTag_pending (k i tag : Nat) (st : TagSt) (s : State) : (takeTag k i tag st s).pending = s.pending := by
  rfl

@[simp] theorem startTransfer_pending (k : Nat) (t : Transfer) (s : State) : (startTransfer k t s).pending = s.pending := by
  rfl

@[simp] theorem tagwAll_pending (k i : Nat) (s : State) : (tagwAll k i s).pending = s.pending := by simp [tagwAll]

@[simp] theorem wakeTagw_pending (k i : Nat) (s : State) : (wakeTagw k i s).pending = s.pending := by
  simp only [wakeTagw]; (repeat' split) <;> simp 

@[simp] theorem endTransfer_pending (k : Nat) (t : Transfer) (s : State) : (endTransfer k t s).pending = s.pending := by
  simp (disch := (intros; simp )) [endTransfer, foldl_pending]

@[simp] theorem suppressTag_pending (u : StreamAt) (tag : Nat) (auto : Bool) (sem amt : Nat) (cells : List Nat) (s : State) : (suppressTag u tag auto sem amt cells s).pending = s.pending := by
  simp (disch := (intros; simp )) [suppressTag, foldl_pending]

@[simp] theorem tagwEffect_pending (u : StreamAt) (tag : Nat) (all : Bool) (s : State) : (tagwEffect u tag all s).pending = s.pending := by
  simp [tagwEffect]

theorem execTagw_pending (u : StreamAt) (tag : BitVec 9) (all : Bool) (s : State) : Keeps s (execTagw u tag all s) := by
  unfold execTagw; apply issue_pending <;> intros <;> simp 

end Sys2Proof.Machine
end

