-- ==== Sys2Proof/Laws/PFaultOps.lean ====
section
/-!
SUPPORT. What no function of `Machine/FaultOps.lean` does: touch the queue of the commands that wait.
-/
namespace Sys2Proof.Machine

@[simp] theorem rewriteReport_pending (s : State) : (rewriteReport s).pending = s.pending := by rfl

@[simp] theorem raiseRetired_pending (x : Site) (action : Nat) (s : State) : (raiseRetired x action s).pending = s.pending := by
  simp [raiseRetired]

@[simp] theorem dropFrame_pending (f : FrameId) (s : State) : (dropFrame f s).pending = s.pending := by
  simp [dropFrame]

@[simp] theorem stashDrop_pending (tier off : Nat) (s : State) : (stashDrop tier off s).pending = s.pending := by
  simp [stashDrop]

@[simp] theorem rowUnrepaired_pending (ctl off : Nat) (s : State) : (rowUnrepaired ctl off s).pending = s.pending := by
  simp [rowUnrepaired]

@[simp] theorem frameUE_pending (tier off : Nat) (s : State) : (frameUE tier off s).pending = s.pending := by
  simp only [frameUE]; (repeat' split) <;> simp 

@[simp] theorem rowLasting_pending (ctl off : Nat) (ue : Bool) (s : State) : (rowLasting ctl off ue s).pending = s.pending := by
  simp only [rowLasting]; (repeat' split) <;> simp 

@[simp] theorem cellLasting_pending (k : Nat) (ue : Bool) (s : State) : (cellLasting k ue s).pending = s.pending := by
  simp (disch := (intros; simp )) [cellLasting, foldl_pending]

@[simp] theorem siteLasting_pending (x : Site) (off : Nat) (ue : Bool) (s : State) : (siteLasting x off ue s).pending = s.pending := by
  simp only [siteLasting]; (repeat' split) <;> simp 

@[simp] theorem makeLasting_pending (x : Site) (off count : Nat) (s : State) : (makeLasting x off count s).pending = s.pending := by
  simp [makeLasting]

@[simp] theorem openWindow_pending (x : Site) (s : State) : (openWindow x s).pending = s.pending := by
  simp [openWindow]

@[simp] theorem countCE_pending (x : Site) (off : Nat) (s : State) : (countCE x off s).pending = s.pending := by
  simp only [countCE]; (repeat' split) <;> simp 

@[simp] theorem countUE_pending (x : Site) (off : Nat) (s : State) : (countUE x off s).pending = s.pending := by
  simp [countUE]

@[simp] theorem memCE_pending (ctl off : Nat) (s : State) : (memCE ctl off s).pending = s.pending := by simp [memCE]

@[simp] theorem memUE_pending (ctl off kind : Nat) (s : State) : (memUE ctl off kind s).pending = s.pending := by
  simp [memUE]

@[simp] theorem lanesRetire_pending (link lanes : Nat) (s : State) : (lanesRetire link lanes s).pending = s.pending := by
  simp (disch := (intros; simp )) [lanesRetire, foldl_pending]

@[simp] theorem lanesTrained_pending (link lanes : Nat) (bad : List Nat) (s : State) : (lanesTrained link lanes bad s).pending = s.pending := by
  simp (disch := (intros; simp )) [lanesTrained, foldl_pending]

end Sys2Proof.Machine
end

