-- ==== Sys2Proof/Laws/PPageMap.lean ====
section
/-!
SUPPORT. What no function of `Machine/PageMap.lean` does: touch the queue of the commands that wait.
-/
namespace Sys2Proof.Machine

@[simp] theorem walkEffect_pending (u : StreamAt) (p : Pred) (w : WalkWord) (s : State) : (walkEffect u p w s).pending = s.pending := by
  simp only [walkEffect]; (repeat' split) <;> simp 

theorem execWalk_pending (u : StreamAt) (p : Pred) (w : WalkWord) (s : State) : Keeps s (execWalk u p w s) := by
  unfold execWalk; apply issue_pending <;> intros <;> simp 

@[simp] theorem editEffect_pending (u : StreamAt) (p : Pred) (res key : Nat) (op : EditOp) (ok : Bool) (s : State) : (editEffect u p res key op ok s).pending = s.pending := by
  simp [editEffect]

theorem execPmapSet_pending (u : StreamAt) (p : Pred) (res key val : BitVec 4) (s : State) : Keeps s (execPmapSet u p res key val s) := by
  unfold execPmapSet; apply issue_pending <;> intros <;> simp 

theorem execPmapCow_pending (u : StreamAt) (p : Pred) (res key : BitVec 4) (s : State) : Keeps s (execPmapCow u p res key s) := by
  unfold execPmapCow; apply issue_pending <;> intros <;> simp 

theorem execPmapFree_pending (u : StreamAt) (p : Pred) (res key : BitVec 4) (s : State) : Keeps s (execPmapFree u p res key s) := by
  unfold execPmapFree; apply issue_pending <;> intros <;> simp 

theorem execPmapFence_pending (u : StreamAt) (s : State) : Keeps s (execPmapFence u s) := by
  unfold execPmapFence; apply issue_pending <;> intros <;> simp 

theorem execCowCopyComplete_pending (key : Nat) (s : State) : Keeps s (execCowCopyComplete key s) := by
  simp only [execCowCopyComplete]; (repeat' split) <;> simp 

theorem execNearCacheFill_pending (cell line : Nat) (s : State) : Keeps s (execNearCacheFill cell line s) := by
  refine onUnit_pending ?_
  split <;> simp

theorem execEpochExamine_pending (s : State) : Keeps s (execEpochExamine s) := by simp [execEpochExamine]

theorem execMapReclaimExpire_pending (s : State) : Keeps s (execMapReclaimExpire s) := by
  simp only [execMapReclaimExpire]; (repeat' split) <;> simp 

theorem execAllocationCanaryExpire_pending (s : State) : Keeps s (execAllocationCanaryExpire s) := by
  simp only [execAllocationCanaryExpire]; (repeat' split) <;> simp 

theorem execCompactRelocate_pending (key : Nat) (s : State) : Keeps s (execCompactRelocate key s) := by
  simp only [execCompactRelocate]; (repeat' split) <;> simp 

end Sys2Proof.Machine
end

