-- ==== Sys2Proof/Laws/PIntakeOps.lean ====
section
/-!
SUPPORT. What no function of `Machine/IntakeOps.lean` does: touch the queue of the commands that wait.
-/
namespace Sys2Proof.Machine

@[simp] theorem pushManifest_pending (d : List Byte) (s : State) : (pushManifest d s).pending = s.pending := by
  simp only [pushManifest]; (repeat' split) <;> simp 

@[simp] theorem pumpManifest_pending (s : State) : (pumpManifest s).pending = s.pending := by
  simp (disch := (intros; simp )) [pumpManifest, foldl_pending]

@[simp] theorem pushOutcome_pending (outcome code batch : Nat) (s : State) : (pushOutcome outcome code batch s).pending = s.pending := by
  simp [pushOutcome]

@[simp] theorem handOut_pending (s : State) : (handOut s).pending = s.pending := by simp [handOut]

@[simp] theorem intakeGo_pending (s : State) : (intakeGo s).pending = s.pending := by simp [intakeGo]

@[simp] theorem intakeEnd_pending (outcome code : Nat) (s : State) : (intakeEnd outcome code s).pending = s.pending := by
  simp only [intakeEnd]; (repeat' split) <;> simp 

@[simp] theorem dropIntakeReads_pending (s : State) : (dropIntakeReads s).pending = s.pending := by rfl

@[simp] theorem intakeSwap_pending (s : State) : (intakeSwap s).pending = s.pending := by
  simp (disch := (intros; simp )) [intakeSwap, foldl_pending]

@[simp] theorem setFeeds_pending (src : Nat) (l : List Feed) (s : State) : (setFeeds src l s).pending = s.pending := by
  rfl

end Sys2Proof.Machine
end

