-- ==== Sys2Proof/Laws/PMemory.lean ====
section
/-!
SUPPORT. What no function of `Machine/Memory.lean` does: touch the queue of the commands that wait.
-/
namespace Sys2Proof.Machine

@[simp] theorem admitReq_pending (ctl : Nat) (s : State) (q : MemReq) : (admitReq ctl s q).pending = s.pending := by
  simp [admitReq]

@[simp] theorem admitWaiting_pending (ctl : Nat) (s : State) : (admitWaiting ctl s).pending = s.pending := by
  simp (disch := (intros; simp )) [admitWaiting, foldl_pending]

theorem execMemoryRequest_pending (ctl : Nat) (w : ReqWord) (s : State) : Keeps s (execMemoryRequest ctl w s) := by
  unfold execMemoryRequest; apply onUnit_pending <;> intros <;> simp 

@[simp] theorem issueReqs_pending (ctl : Nat) (l : List MemReq) (s : State) : (issueReqs ctl l s).pending = s.pending := by
  simp [issueReqs]

theorem execMcCommand_pending (ctl chan : Nat) (aged : Bool) (s : State) : Keeps s (execMcCommand ctl chan aged s) := by
  unfold execMcCommand; apply onUnit_pending <;> intros <;> (repeat' split) <;> simp 

theorem execMemoryReadComplete_pending (ctl : Nat) (result : ReadResult) (s : State) : Keeps s (execMemoryReadComplete ctl result s) := by
  unfold execMemoryReadComplete; apply onUnit_pending <;> intros <;> (repeat' split) <;> simp 

@[simp] theorem closeRow_pending (ctl chan bank : Nat) (s : State) : (closeRow ctl chan bank s).pending = s.pending := by
  rfl

theorem execRowIdleClose_pending (ctl chan bank : Nat) (s : State) : Keeps s (execRowIdleClose ctl chan bank s) := by
  unfold execRowIdleClose; apply onUnit_pending <;> intros <;> simp 

theorem execBankRefresh_pending (ctl chan bank : Nat) (s : State) : Keeps s (execBankRefresh ctl chan bank s) := by
  unfold execBankRefresh; apply onUnit_pending <;> intros <;> simp 

theorem execChannelCanaryExpire_pending (ctl chan : Nat) (s : State) : Keeps s (execChannelCanaryExpire ctl chan s) := by
  refine onUnit_pending ?_
  split; · rfl
  simp only [admitWaiting_pending]
  split <;> (try simp only [sendFail_pending]) <;> rw [foldl_pending] <;> intros <;> simp

theorem execBankQuotaExpire_pending (ctl chan bank age : Nat) (s : State) : Keeps s (execBankQuotaExpire ctl chan bank age s) := by
  unfold execBankQuotaExpire; apply onUnit_pending <;> intros <;> simp 

theorem execPatrolScrub_pending (ctl : Nat) (result : ReadResult) (s : State) : Keeps s (execPatrolScrub ctl result s) := by
  unfold execPatrolScrub; apply onUnit_pending <;> intros <;> (repeat' split) <;> simp 

theorem execRepairStart_pending (ctl : Nat) (s : State) : Keeps s (execRepairStart ctl s) := by
  unfold execRepairStart; apply onUnit_pending; repeat' first | intro _ | (simp ; done) | refine (foldl_pending _ ?_ _ _).trans ?_ | refine (foldl_pending_fst _ ?_ _ _).trans ?_ | refine (foldl_pending_snd _ ?_ _ _).trans ?_ | dsimp only | split | simp 

@[simp] theorem rowBack_pending (tier off : Nat) (s : State) : (rowBack tier off s).pending = s.pending := by
  unfold rowBack; rw [foldl_pending]; intros; split <;> simp

theorem execRepairComplete_pending (ctl : Nat) (s : State) : Keeps s (execRepairComplete ctl s) := by
  unfold execRepairComplete; apply onUnit_pending <;> intros <;> (repeat' split) <;> simp 

@[simp] theorem tally_pending (site arb r : Nat) (s : State) : (tally site arb r s).pending = s.pending := by
  simp [tally]

@[simp] theorem bankLosers_pending (site arb : Nat) (lost : Nat) (s : State) : (bankLosers site arb lost s).pending = s.pending := by
  simp [bankLosers]

theorem execArbiterGrant_pending (site arb : Nat) (present : List Nat) (s : State) : Keeps s (execArbiterGrant site arb present s) := by
  unfold execArbiterGrant; apply onUnit_pending; repeat' first | intro _ | (simp ; done) | refine (foldl_pending _ ?_ _ _).trans ?_ | refine (foldl_pending_fst _ ?_ _ _).trans ?_ | refine (foldl_pending_snd _ ?_ _ _).trans ?_ | dsimp only | split | simp 

theorem execGrantHeldCanaryExpire_pending (site arb : Nat) (s : State) : Keeps s (execGrantHeldCanaryExpire site arb s) := by
  unfold execGrantHeldCanaryExpire; apply onUnit_pending <;> intros <;> (repeat' split) <;> simp 

@[simp] theorem arbClearAt_pending (site : Nat) (s : State) : (arbClearAt site s).pending = s.pending := by rfl

@[simp] theorem lendCommit_pending (base size : Nat) (s : State) : (lendCommit base size s).pending = s.pending := by
  rfl

@[simp] theorem cmdLendSet_pending (c : CmdRef) (b n : Nat) (s : State) : (cmdLendSet c b n s).pending = s.pending := by
  simp [cmdLendSet]

theorem execLendSet_pending (id : BitVec 16) (base size : BitVec 16) (s : State) : Keeps s (execLendSet id base size s) := by
  simp [execLendSet]

@[simp] theorem zeroDeep_pending (lo hi : Nat) (s : State) : (zeroDeep lo hi s).pending = s.pending := by rfl

theorem execLendZeroingComplete_pending (s : State) : Keeps s (execLendZeroingComplete s) := by
  simp (disch := (intros; simp )) [execLendZeroingComplete, foldl_pending]

end Sys2Proof.Machine
end

