-- ==== Sys2Proof/Laws/PGate.lean ====
section
/-!
SUPPORT. What no function of `Machine/Gate.lean` does: touch the queue of the commands that wait.
-/
namespace Sys2Proof.Machine

@[simp] theorem badAccess_pending (s : State) : (badAccess s).pending = s.pending := by simp [badAccess]

@[simp] theorem hostAccess_pending (off : Nat) (f : State → State) (s : State) (hf : ∀  t, (f  t).pending = t.pending) : (hostAccess off f s).pending = s.pending := by
  simp [hostAccess, hf]

@[simp] theorem dropXfers_pending (what : XferFor) (s : State) : (dropXfers what s).pending = s.pending := by rfl

@[simp] theorem refusedXfer_pending (id addr : Nat) (s : State) : (refusedXfer id addr s).pending = s.pending := by
  simp only [refusedXfer]; (repeat' split) <;> simp 

end Sys2Proof.Machine
end

