-- ==== Sys2Proof/Laws/PReceive.lean ====
section
/-!
SUPPORT. What no function of `Machine/Receive.lean` does: touch the queue of the commands that wait.
-/
namespace Sys2Proof.Machine

@[simp] theorem stranger_pending (r : RxFrame) (reason : Nat) (s : State) : (stranger r reason s).pending = s.pending := by
  simp [stranger]

@[simp] theorem pfcRise_pending (p prio fill : Nat) (s : State) : (pfcRise p prio fill s).pending = s.pending := by
  simp [pfcRise]

@[simp] theorem pfcFall_pending (p prio fill : Nat) (s : State) : (pfcFall p prio fill s).pending = s.pending := by
  simp [pfcFall]

@[simp] theorem pfcFill_pending (p prio fill own : Nat) (s : State) : (pfcFill p prio fill own s).pending = s.pending := by
  simp [pfcFill]

@[simp] theorem learnPeer_pending (r : RxFrame) (s : State) : (learnPeer r s).pending = s.pending := by
  simp [learnPeer]

@[simp] theorem ceArrive_pending (r : RxFrame) (s : State) : (ceArrive r s).pending = s.pending := by simp [ceArrive]

@[simp] theorem accept_pending (r : RxFrame) (s : State) : (accept r s).2.pending = s.pending := by
  simp only [accept]; (repeat' split) <;> simp 

@[simp] theorem markPsn_pending (r : RxFrame) (s : State) : (markPsn r s).pending = s.pending := by rfl

@[simp] theorem ackFrame_pending (r : RxFrame) (s : State) : (ackFrame r s).pending = s.pending := by simp [ackFrame]

@[simp] theorem refuseFrame_pending (r : RxFrame) (s : State) : (refuseFrame r s).pending = s.pending := by
  simp [refuseFrame]

theorem onFrame_pending (r : RxFrame) (cls typ : Nat) (f : State → State) (s : State) (hf : ∀  t, (f  t).pending = t.pending) : Keeps s (onFrame r cls typ f s) := by
  unfold onFrame; apply onUnit_pending; dsimp only; split <;> simp [hf]

theorem onMove_pending (r : RxFrame) (typ : Nat) (f : State → State) (s : State) (hf : ∀  t, (f  t).pending = t.pending) : Keeps s (onMove r typ f s) := by
  unfold onMove; apply onFrame_pending; intros; (repeat' split) <;> simp [hf]

theorem execRead_pending (r : RxFrame) (s : State) : Keeps s (execRead r s) := by
  unfold execRead; apply onMove_pending; repeat' first | intro _ | (simp ; done) | refine (foldl_pending _ ?_ _ _).trans ?_ | refine (foldl_pending_fst _ ?_ _ _).trans ?_ | refine (foldl_pending_snd _ ?_ _ _).trans ?_ | dsimp only | split | simp 

theorem execSignal_pending (r : RxFrame) (s : State) : Keeps s (execSignal r s) := by
  unfold execSignal; apply onMove_pending <;> intros <;> simp 

@[simp] theorem freedFrame_pending (refused : Bool) (s : State) (h : Held) : (freedFrame refused s h).pending = s.pending := by
  simp only [freedFrame]; (repeat' split) <;> simp 

@[simp] theorem sackEffect_pending (r : RxFrame) (s : State) : (sackEffect r s).pending = s.pending := by
  simp (disch := (intros; simp )) [sackEffect, foldl_pending]

theorem execSack_pending (r : RxFrame) (s : State) : Keeps s (execSack r s) := by
  unfold execSack; apply onFrame_pending <;> intros <;> simp 

theorem execCnp_pending (r : RxFrame) (s : State) : Keeps s (execCnp r s) := by
  unfold execCnp; apply onFrame_pending <;> intros <;> simp 

theorem execSackDelayExpire_pending (w : FlowId) (s : State) : Keeps s (execSackDelayExpire w s) := by
  unfold execSackDelayExpire; apply onUnit_pending <;> intros <;> simp 

theorem execReorderExpire_pending (w : FlowId) (psn : Nat) (s : State) : Keeps s (execReorderExpire w psn s) := by
  unfold execReorderExpire; apply onUnit_pending <;> intros <;> (repeat' split) <;> simp 

theorem execRetxTimeout_pending (w : FlowId) (s : State) : Keeps s (execRetxTimeout w s) := by
  unfold execRetxTimeout; apply onUnit_pending; repeat' first | intro _ | (simp ; done) | refine (foldl_pending _ ?_ _ _).trans ?_ | refine (foldl_pending_fst _ ?_ _ _).trans ?_ | refine (foldl_pending_snd _ ?_ _ _).trans ?_ | dsimp only | split | simp 

theorem execRateIntervalEnd_pending (w : FlowId) (s : State) : Keeps s (execRateIntervalEnd w s) := by
  unfold execRateIntervalEnd; apply onUnit_pending <;> intros <;> simp 

end Sys2Proof.Machine
end

