-- ==== Sys2Proof/Laws/PPorts.lean ====
section
/-!
SUPPORT. What no function of `Machine/Ports.lean` does: touch the queue of the commands that wait.
-/
namespace Sys2Proof.Machine

@[simp] theorem portTo_pending (p : Nat) (st : PortSt) (s : State) : (portTo p st s).pending = s.pending := by
  simp [portTo]

@[simp] theorem portLeave_pending (p : Nat) (st : PortSt) (s : State) : (portLeave p st s).pending = s.pending := by
  simp [portLeave]

@[simp] theorem portTrain_pending (p : Nat) (s : State) : (portTrain p s).pending = s.pending := by simp [portTrain]

theorem onPort_pending (die port : Nat) (f : Nat → State → State) (s : State) (hf : ∀ v0 t, (f v0 t).pending = t.pending) : Keeps s (onPort die port f s) := by
  exact onUnit_pending (hf _ _)

@[simp] theorem portLoss_pending (p : Nat) (s : State) : (portLoss p s).pending = s.pending := by
  simp only [portLoss]; (repeat' split) <;> simp 

theorem execPcsLockLoss_pending (die port : Nat) (s : State) : Keeps s (execPcsLockLoss die port s) := by
  unfold execPcsLockLoss; apply onPort_pending <;> intros <;> simp 

theorem execFecUncorrectableBurst_pending (die port : Nat) (s : State) : Keeps s (execFecUncorrectableBurst die port s) := by
  unfold execFecUncorrectableBurst; apply onPort_pending <;> intros <;> simp 

theorem execPortDownExpire_pending (die port : Nat) (s : State) : Keeps s (execPortDownExpire die port s) := by
  unfold execPortDownExpire; apply onPort_pending <;> intros <;> simp 

@[simp] theorem portSpent_pending (p : Nat) (s : State) : (portSpent p s).pending = s.pending := by simp [portSpent]

theorem execPortLinkUp_pending (die port : Nat) (bad : List Nat) (s : State) : Keeps s (execPortLinkUp die port bad s) := by
  unfold execPortLinkUp; apply onPort_pending <;> intros <;> simp 

theorem execPortStableExpire_pending (die port : Nat) (s : State) : Keeps s (execPortStableExpire die port s) := by
  unfold execPortStableExpire; apply onPort_pending <;> intros <;> simp 

theorem execPortTrainingTimeout_pending (die port : Nat) (bad : List Nat) (s : State) : Keeps s (execPortTrainingTimeout die port bad s) := by
  unfold execPortTrainingTimeout; apply onPort_pending <;> intros <;> simp 

@[simp] theorem otherDrop_pending (p : Nat) (s : State) : (otherDrop p s).pending = s.pending := by simp [otherDrop]

theorem execNeighborSolicitation_pending (die port target src : Nat) (s : State) : Keeps s (execNeighborSolicitation die port target src s) := by
  unfold execNeighborSolicitation; apply onPort_pending <;> intros <;> simp 

theorem execNeighborAdvertisement_pending (die port : Nat) (addr mac : Nat) (solicited : Bool) (s : State) : Keeps s (execNeighborAdvertisement die port addr mac solicited s) := by
  unfold execNeighborAdvertisement; apply onPort_pending <;> intros <;> simp 

theorem execNsRetryExpire_pending (die port addr : Nat) (s : State) : Keeps s (execNsRetryExpire die port addr s) := by
  unfold execNsRetryExpire; apply onPort_pending <;> intros <;> simp 

theorem execNeighborCacheExpire_pending (die port addr : Nat) (s : State) : Keeps s (execNeighborCacheExpire die port addr s) := by
  unfold execNeighborCacheExpire; apply onPort_pending <;> intros <;> simp 

theorem execPfcFrame_pending (die port : Nat) (prio quanta : Nat) (s : State) : Keeps s (execPfcFrame die port prio quanta s) := by
  unfold execPfcFrame; apply onPort_pending <;> intros <;> simp 

theorem execPfcPauseExpire_pending (die port prio : Nat) (s : State) : Keeps s (execPfcPauseExpire die port prio s) := by
  unfold execPfcPauseExpire; apply onPort_pending <;> intros <;> simp 

theorem execLldpTimer_pending (die port : Nat) (s : State) : Keeps s (execLldpTimer die port s) := by
  unfold execLldpTimer; apply onPort_pending <;> intros <;> simp 

theorem execNonTransportFrame_pending (die port : Nat) (fcs : Bool) (a0 : Nat) (s : State) : Keeps s (execNonTransportFrame die port fcs a0 s) := by
  unfold execNonTransportFrame; apply onPort_pending <;> intros <;> simp 

@[simp] theorem portEnable_pending (p : Nat) (on : Bool) (s : State) : (portEnable p on s).pending = s.pending := by
  simp [portEnable]

@[simp] theorem portCtlApply_pending (p : Nat) (s : State) : (portCtlApply p s).pending = s.pending := by
  simp only [portCtlApply]; (repeat' split) <;> simp 

@[simp] theorem portCtlSet_pending (p v : Nat) (s : State) : (portCtlSet p v s).pending = s.pending := by
  simp [portCtlSet]

theorem execPortCtlWrite_pending (die port : Nat) (v : BitVec 64) (s : State) : Keeps s (execPortCtlWrite die port v s) := by
  simp [execPortCtlWrite]

end Sys2Proof.Machine
end

