-- ==== Sys2Proof/Laws/PBellOps.lean ====
section
/-!
SUPPORT. What no function of `Machine/BellOps.lean` does: touch the queue of the commands that wait.
-/
namespace Sys2Proof.Machine

@[simp] theorem setOp_pending (grp chan : Nat) (o : BellOp) (s : State) : (setOp grp chan o s).pending = s.pending := by
  rfl

@[simp] theorem collDivergent_pending (coll grp die : Nat) (s : State) : (collDivergent coll grp die s).pending = s.pending := by
  simp [collDivergent]

@[simp] theorem bellTo_pending (who : BellFor) (v : Nat) (s : State) : (bellTo who v s).pending = s.pending := by
  simp only [bellTo]; (repeat' split) <;> simp 

@[simp] theorem bellDeliver_pending (grp chan v : Nat) (s : State) : (bellDeliver grp chan v s).pending = s.pending := by
  simp only [bellDeliver]; (repeat' split) <;> simp (disch := (intros; (repeat' split) <;> simp )) [foldl_pending]

@[simp] theorem bellTry_pending (grp chan : Nat) (s : State) : (bellTry grp chan s).pending = s.pending := by
  simp [bellTry]

@[simp] theorem bellEnter_pending (grp chan fn operand : Nat) (who : BellFor) (s : State) : (bellEnter grp chan fn operand who s).pending = s.pending := by
  simp [bellEnter]

@[simp] theorem bellApply_pending (src : Nat) (msg : BellMsg) (ack : Bool) (stale : State → Nat → BellMsg → Bool) (f : Nat → BellMsg → State → State) (s : State) (hf : ∀ v0 v1 t, (f v0 v1 t).pending = t.pending) : (bellApply src msg ack stale f s).pending = s.pending := by
  simp [bellApply, hf]

theorem onBell_pending (m : BellIn) (p : BellMsg → Bool) (stale : State → Nat → BellMsg → Bool) (f : Nat → BellMsg → State → State) (s : State) (hf : ∀ v0 v1 t, (f v0 v1 t).pending = t.pending) : Keeps s (onBell m p stale f s) := by
  unfold onBell
  split; · simp
  split
  · dsimp only; split <;> simp [hf]
  · exact onFrame_pending _ _ _ _ _ fun t => bellApply_pending _ _ _ _ _ _ hf

theorem execBell_pending (u : StreamAt) (d x fn : BitVec 4) (group : BitVec 32) (s : State) : Keeps s (execBell u d x fn group s) := by
  unfold execBell; apply issue_pending <;> intros <;> simp 

end Sys2Proof.Machine
end

