-- ==== Sys2Proof/Laws/PUpdate.lean ====
section
/-!
SUPPORT. What no function of `Machine/Update.lean` does: touch the queue of the commands that wait.
-/
namespace Sys2Proof.Machine

@[simp] theorem modEng_pending (die : Nat) (f : StopeEng → StopeEng) (s : State) : (modEng die f s).pending = s.pending := by
  rfl

@[simp] theorem passWrite_pending (j t : Nat) (o : PassOut) (s : State) : (passWrite j t o s).pending = s.pending := by
  simp [passWrite]

@[simp] theorem addPart_pending (die j : Nat) (s : State) : (addPart die j s).pending = s.pending := by simp [addPart]

@[simp] theorem updateOne_pending  (die : Nat) (s : State) (j : Nat) : (updateOne die s j).pending = s.pending := by
  unfold updateOne; dsimp only
  split; · simp
  split <;> simp

@[simp] theorem sumUpdates_pending (s : State) : (sumUpdates s).pending = s.pending := by
  simp only [sumUpdates]; (repeat' split) <;> simp 

@[simp] theorem requestOver_pending (die : Nat) (s : State) : (requestOver die s).pending = s.pending := by
  simp only [requestOver]; (repeat' split) <;> simp 

theorem execUpdateRequest_pending (die : Nat) (s : State) : Keeps s (execUpdateRequest die s) := by
  refine onUnit_pending ?_
  split; · rfl
  split; · rfl
  simp only [requestOver_pending]; rw [foldl_pending]; · simp
  intros; simp

@[simp] theorem headerWrite_pending (die : Nat) (s : State) : (headerWrite die s).pending = s.pending := by
  simp only [headerWrite]; (repeat' split) <;> simp 

@[simp] theorem finishPasses_pending (s : State) : (finishPasses s).pending = s.pending := by
  unfold finishPasses; rw [foldl_pending]; intros; rw [foldl_pending]; intros; simp

theorem execUpdateHeaderWrite_pending (die : Nat) (s : State) : Keeps s (execUpdateHeaderWrite die s) := by
  unfold execUpdateHeaderWrite; apply onUnit_pending <;> intros <;> simp 

@[simp] theorem setTagHdr_pending (hdr tag : Nat) (s : State) : (setTagHdr hdr tag s).pending = s.pending := by rfl

@[simp] theorem startPublish_pending (die : Nat) (l : List Nat) (s : State) : (startPublish die l s).pending = s.pending := by
  simp only [startPublish]; (repeat' split) <;> simp 

@[simp] theorem publishAll_pending (s : State) : (publishAll s).pending = s.pending := by
  unfold publishAll; rw [foldl_pending]; intros; simp

theorem execPublishRequest_pending (die : Nat) (s : State) : Keeps s (execPublishRequest die s) := by
  unfold execPublishRequest; apply onUnit_pending; repeat' first | intro _ | (simp ; done) | refine (foldl_pending _ ?_ _ _).trans ?_ | refine (foldl_pending_fst _ ?_ _ _).trans ?_ | refine (foldl_pending_snd _ ?_ _ _).trans ?_ | dsimp only | split | simp 

@[simp] theorem setPubAmax_pending (j v : Nat) (s : State) : (setPubAmax j v s).pending = s.pending := by
  simp only [setPubAmax]; (repeat' split) <;> simp 

@[simp] theorem tagRun_pending (hdr : Nat) (s : State) : (tagRun hdr s).pending = s.pending := by simp [tagRun]

@[simp] theorem publishOne_pending (die j : Nat) (rest : List Nat) (s : State) : (publishOne die j rest s).pending = s.pending := by
  unfold publishOne; dsimp only
  split <;> (try simp only [setTagHdr_pending]) <;> split <;> (try split) <;> simp

@[simp] theorem restoreOver_pending (s : State) : (restoreOver s).pending = s.pending := by simp [restoreOver]

theorem execPublicationEnd_pending (die : Nat) (s : State) : Keeps s (execPublicationEnd die s) := by
  refine onUnit_pending ?_
  split; · rfl
  dsimp only; split <;> simp

@[simp] theorem addPubAmax_pending (s : State) : (addPubAmax s).pending = s.pending := by
  unfold addPubAmax; rw [foldl_pending]; intros; dsimp only; split <;> simp

end Sys2Proof.Machine
end

