-- ==== Sys2Proof/Laws/PStashOps.lean ====
section
/-!
SUPPORT. What no function of `Machine/StashOps.lean` does: touch the queue of the commands that wait.
-/
namespace Sys2Proof.Machine

@[simp] theorem modEnt_pending (i : Nat) (f : StashEnt → StashEnt) (s : State) : (modEnt i f s).pending = s.pending := by
  rfl

@[simp] theorem stashEntry_pending (key new : Nat) (s : State) : (stashEntry key new s).pending = s.pending := by
  simp [stashEntry]

@[simp] theorem stashPage_pending (key : Nat) (f : FrameId) (s : State) : (stashPage key f s).pending = s.pending := by
  simp [stashPage]

@[simp] theorem stashPut_pending (first x : Nat) (b : Byte) (s : State) : (stashPut first x b s).pending = s.pending := by
  simp only [stashPut]; (repeat' split) <;> simp 

@[simp] theorem stashSet_pending (first bit n v : Nat) (s : State) : (stashSet first bit n v s).pending = s.pending := by
  simp (disch := (intros; simp )) [stashSet, foldl_pending]

@[simp] theorem saveRaw_pending (e : StashDesc) (p : StashPart) (d : List Byte) (s : State) : (saveRaw e p d s).1.pending = s.pending := by
  simp (disch := (intros; simp )) [saveRaw, foldl_pending]

@[simp] theorem saveBlock_pending (e : StashDesc) (p : StashPart) (d : List Byte) (code : Nat) (a : State × Sts)
    (b : Nat) : (saveBlock e p d code a b).1.pending = a.1.pending := by
  unfold saveBlock
  split
  · rfl
  · simp only [stashPut_pending]
    rw [foldl_pending]; intros; simp

@[simp] theorem saveMask_pending (e : StashDesc) (p : StashPart) (d : List Byte) (a : State × Sts) (i : Nat) : (saveMask e p d a i).1.pending = a.1.pending := by
  simp [saveMask]

@[simp] theorem savePart_pending (e : StashDesc) (p : StashPart) (d : List Byte) (code : Nat) (s : State) : (savePart e p d code s).1.pending = s.pending := by
  simp only [savePart]; repeat' first | intro _ | (simp ; done) | refine (foldl_pending _ ?_ _ _).trans ?_ | refine (foldl_pending_fst _ ?_ _ _).trans ?_ | refine (foldl_pending_snd _ ?_ _ _).trans ?_ | dsimp only | split | simp 

theorem stashAlloc_pending (i : Nat) (e : StashDesc) (s t : State) (h : stashAlloc i e s = some t) :
    t.pending = s.pending := by
  simp only [stashAlloc] at h
  split at h
  · cases h
  · cases h; rw [foldl_pending]
    · simp
    · intros; simp

@[simp] theorem stashAlloc_getD_pending (i : Nat) (e : StashDesc) (s : State) :
    ((stashAlloc i e s).getD s).pending = s.pending := by
  cases h : stashAlloc i e s with
  | none => rfl
  | some t => exact stashAlloc_pending i e s t h

@[simp] theorem stashRefuse_pending (i : Nat) (e : StashDesc) (s : State) : (stashRefuse i e s).pending = s.pending := by
  simp [stashRefuse]

@[simp] theorem writeLedger_pending (layer : Nat) (s : State) : (writeLedger layer s).pending = s.pending := by
  simp only [writeLedger]; (repeat' split) <;> simp 

@[simp] theorem clearLedger_pending (s : State) : (clearLedger s).pending = s.pending := by
  simp only [clearLedger]; (repeat' split) <;> simp 

@[simp] theorem stashEmpty_pending (s : State) : (stashEmpty s).pending = s.pending := by
  simp (disch := (intros; simp )) [stashEmpty, foldl_pending]

@[simp] theorem stashRelease_pending (s : State) : (stashRelease s).pending = s.pending := by
  simp (disch := (intros; simp )) [stashRelease, foldl_pending]

@[simp] theorem stashSwap_pending (s : State) : (stashSwap s).pending = s.pending := by
  simp (disch := (intros; simp )) [stashSwap, foldl_pending]

end Sys2Proof.Machine
end

