-- ==== Sys2Proof/Laws/PStash.lean ====
section
/-!
SUPPORT. What no function of `Machine/Stash.lean` does: touch the queue of the commands that wait.
-/
namespace Sys2Proof.Machine

@[simp] theorem stashSave_pending (die : Nat) (d : List Byte) (s : State) : (stashSave die d s).pending = s.pending := by
  unfold stashSave
  dsimp only
  split; · rfl
  split
  · split; · rfl
    split
    · simp
    · rename_i t h
      have : t.pending = s.pending := by
        revert h; split
        · intro h; cases h; rfl
        · split
          · intro h; cases h
          · exact stashAlloc_pending _ _ _ _
      simp [this]
  · rfl

@[simp] theorem stashLoad_pending (d : List Byte) (s : State) : (stashLoad d s).pending = s.pending := by
  simp only [stashLoad]; (repeat' split) <;> simp 

@[simp] theorem stashCheck_pending (d : List Byte) (s : State) : (stashCheck d s).pending = s.pending := by
  simp (disch := (intros; simp )) [stashCheck, foldl_pending]

@[simp] theorem noStash_pending (die : Nat) (s : State) : (noStash die s).pending = s.pending := by simp [noStash]

theorem stashServe_pending (die op : Nat) (f : List Byte → State → State) (s : State) (hf : ∀ v0 t, (f v0 t).pending = t.pending) : Keeps s (stashServe die op f s) := by
  unfold stashServe; apply onUnit_pending <;> intros <;> (repeat' split) <;> simp [hf]

theorem execStashSave_pending (die : Nat) (s : State) : Keeps s (execStashSave die s) := by
  unfold execStashSave; apply stashServe_pending <;> intros <;> simp 

theorem execStashLoad_pending (die : Nat) (s : State) : Keeps s (execStashLoad die s) := by
  unfold execStashLoad; apply stashServe_pending <;> intros <;> simp 

theorem execStashCheck_pending (die : Nat) (s : State) : Keeps s (execStashCheck die s) := by
  unfold execStashCheck; apply stashServe_pending <;> intros <;> simp 

@[simp] theorem modGath_pending (die : Nat) (f : GatherEng → GatherEng) (s : State) : (modGath die f s).pending = s.pending := by
  rfl

@[simp] theorem versionFault_pending (die e tag found : Nat) (s : State) : (versionFault die e tag found s).pending = s.pending := by
  simp [versionFault]

@[simp] theorem gathRecord_pending (e tag : Nat) (s : State) : (gathRecord e tag s).pending = s.pending := by
  simp only [gathRecord]; (repeat' split) <;> simp 

@[simp] theorem gathDone_pending (die : Nat) (j : GatherJob) (s : State) : (gathDone die j s).pending = s.pending := by
  simp [gathDone]

@[simp] theorem gathHeader_pending (die tag len : Nat) (s : State) : (gathHeader die tag len s).1.pending = s.pending := by
  simp only [gathHeader]; (repeat' split) <;> simp 

@[simp] theorem gathLanded_pending (die len : Nat) (s : State) : (gathLanded die len s).pending = s.pending := by
  simp [gathLanded]

@[simp] theorem gathReadHdr_pending (die e : Nat) (s : State) : (gathReadHdr die e s).pending = s.pending := by
  simp [gathReadHdr]

@[simp] theorem gathRemote_pending (die : Nat) (r : State × GathNext) (e : Nat) : (gathRemote die r e).pending = r.1.pending := by
  simp only [gathRemote]; (repeat' split) <;> simp 

@[simp] theorem gathLocal_pending (die e : Nat) (s : State) : (gathLocal die e s).pending = s.pending := by
  simp only [gathLocal]; (repeat' split) <;> simp 

@[simp] theorem gathStart_pending (die e : Nat) (s : State) : (gathStart die e s).pending = s.pending := by
  simp [gathStart]

@[simp] theorem gathArrive_pending (die : Nat) (hdr : Bool) (data : List Byte) (s : State) : (gathArrive die hdr data s).pending = s.pending := by
  simp only [gathArrive]; (repeat' split) <;> simp 

theorem execGatherRequest_pending (die : Nat) (s : State) : Keeps s (execGatherRequest die s) := by
  unfold execGatherRequest; apply onUnit_pending <;> intros <;> (repeat' split) <;> simp 

theorem execGatherTagRetry_pending (die : Nat) (s : State) : Keeps s (execGatherTagRetry die s) := by
  unfold execGatherTagRetry; apply onUnit_pending <;> intros <;> (repeat' split) <;> simp 

end Sys2Proof.Machine
end

