-- ==== Sys2Proof/Laws/PCirculator.lean ====
section
/-!
SUPPORT. What no function of `Machine/Circulator.lean` does: touch the queue of the commands that wait.
-/
namespace Sys2Proof.Machine

@[simp] theorem recordPresence_pending (c : Nat) (s : State) : (recordPresence c s).pending = s.pending := by
  simp [recordPresence]

@[simp] theorem landData_pending (c t off : Nat) (d : List Byte) (s : State) : (landData c t off d s).pending = s.pending := by
  simp [landData]

@[simp] theorem sendPiece_pending (c h port off len : Nat) (s : State) : (sendPiece c h port off len s).pending = s.pending := by
  simp [sendPiece]

@[simp] theorem sendUnit_pending (c h : Nat) (s : State) (u : Nat) : (sendUnit c h s u).pending = s.pending := by
  simp (disch := (intros; simp )) [sendUnit, foldl_pending]

@[simp] theorem sendHops_pending (c : Nat) (a0 : Nat) (a1 : State) : (sendHops c a0 a1).pending = a1.pending := by
  induction a0 generalizing a1 <;> first | rfl | (rename_i ih; simp only [sendHops]; repeat' first | intro _ | (simp [ih]; done) | refine (foldl_pending _ ?_ _ _).trans ?_ | refine (foldl_pending_fst _ ?_ _ _).trans ?_ | refine (foldl_pending_snd _ ?_ _ _).trans ?_ | dsimp only | split | simp [ih])

@[simp] theorem grantCredit_pending (c : Nat) (s : State) (h : Nat) : (grantCredit c s h).pending = s.pending := by
  simp [grantCredit]

@[simp] theorem signalGrad_pending (c : Nat) (s : State) (t : Nat) : (signalGrad c s t).pending = s.pending := by
  simp [signalGrad]

@[simp] theorem nextHop_pending (c : Nat) (a0 : Nat) (a1 : State) : (nextHop c a0 a1).pending = a1.pending := by
  induction a0 generalizing a1 <;> first | rfl | (rename_i ih; simp only [nextHop]; repeat' first | intro _ | (simp [ih]; done) | refine (foldl_pending _ ?_ _ _).trans ?_ | refine (foldl_pending_fst _ ?_ _ _).trans ?_ | refine (foldl_pending_snd _ ?_ _ _).trans ?_ | dsimp only | split | simp [ih])

@[simp] theorem chanPins_pending (c : Nat) (s : State) : (chanPins c s).pending = s.pending := by
  simp (disch := (intros; simp )) [chanPins, foldl_pending]

@[simp] theorem runChan_pending (c : Nat) (s : State) : (runChan c s).pending = s.pending := by
  simp (disch := (intros; simp )) [runChan, foldl_pending]

@[simp] theorem pumpChan_pending (c : Nat) (s : State) : (pumpChan c s).pending = s.pending := by
  simp (disch := (intros; simp )) [pumpChan, foldl_pending]

@[simp] theorem tokenFail_pending (c : Nat) (d : List Byte) (s : State) : (tokenFail c d s).pending = s.pending := by
  simp [tokenFail]

@[simp] theorem popToken_pending (f : Nat) (s : State) : (popToken f s).2.pending = s.pending := by simp [popToken]

@[simp] theorem openChan_pending (c : Nat) (s : State) : (openChan c s).pending = s.pending := by
  simp (disch := (intros; simp )) [openChan, foldl_pending]

theorem execCircStart_pending (chan : Nat) (s : State) : Keeps s (execCircStart chan s) := by
  unfold execCircStart; apply onUnit_pending <;> intros <;> (repeat' split) <;> simp 

theorem execCircRelease_pending (chan : Nat) (s : State) : Keeps s (execCircRelease chan s) := by
  unfold execCircRelease; apply onUnit_pending <;> intros <;> (repeat' split) <;> simp 

theorem execGradDone_pending (chan : Nat) (s : State) : Keeps s (execGradDone chan s) := by
  unfold execGradDone; apply onUnit_pending <;> intros <;> (repeat' split) <;> simp 

theorem execCircUnitLand_pending (r : RxFrame) (s : State) : Keeps s (execCircUnitLand r s) := by
  unfold execCircUnitLand; apply onFrame_pending <;> intros <;> simp 

theorem execCircCredit_pending (chan hop : Nat) (s : State) : Keeps s (execCircCredit chan hop s) := by
  unfold execCircCredit; apply onUnit_pending <;> intros <;> simp 

@[simp] theorem deliver_pending (c f n : Nat) (s : State) : (deliver c f n s).pending = s.pending := by
  simp only [deliver]; (repeat' split) <;> simp (disch := (intros; (repeat' split) <;> simp )) [foldl_pending]

theorem execFeedDeliver_pending (feed : Nat) (s : State) : Keeps s (execFeedDeliver feed s) := by
  unfold execFeedDeliver; apply onUnit_pending <;> intros <;> simp 

@[simp] theorem circAbort_pending (s : State) : (circAbort s).pending = s.pending := by
  simp only [circAbort]; repeat' first | intro _ | (simp ; done) | refine (foldl_pending _ ?_ _ _).trans ?_ | refine (foldl_pending_fst _ ?_ _ _).trans ?_ | refine (foldl_pending_snd _ ?_ _ _).trans ?_ | dsimp only | split | simp 

@[simp] theorem circScores_pending (s : State) : (circScores s).pending = s.pending := by
  unfold circScores
  refine (foldl_pending _ (fun s c => ?_) _ _).trans ?_
  · refine (foldl_pending _ (fun s i => ?_) _ _)
    simp
  · split <;> rfl

@[simp] theorem pumpChans_pending (s : State) : (pumpChans s).pending = s.pending := by
  simp (disch := (intros; simp )) [pumpChans, foldl_pending]

@[simp] theorem circStepEnd_pending (s : State) : (circStepEnd s).pending = s.pending := by rfl

end Sys2Proof.Machine
end

