-- ==== Sys2Proof/Laws/PCollective.lean ====
section
/-!
SUPPORT. What no function of `Machine/Collective.lean` does: touch the queue of the commands that wait.
-/
namespace Sys2Proof.Machine

@[simp] theorem addDigest_pending (c : Nat) (v : Int) (s : State) : (addDigest c v s).pending = s.pending := by rfl

@[simp] theorem ownResult_pending (c : Nat) (h : CollShape) (x : Nat) (s : State) : (ownResult c h x s).pending = s.pending := by
  rfl

@[simp] theorem noteLast_pending (c : Nat) (s : State) : (noteLast c s).pending = s.pending := by rfl

@[simp] theorem sendChunk_pending (c : Nat) (h : CollShape) (s : State) (e : Nat × Nat) : (sendChunk c h s e).pending = s.pending := by
  simp (disch := (intros; simp )) [sendChunk, foldl_pending]

@[simp] theorem pumpColl_pending (c : Nat) (s : State) : (pumpColl c s).pending = s.pending := by
  simp (disch := (intros; simp )) [pumpColl, foldl_pending]

@[simp] theorem sendMore_pending (c : Nat) (l : List (Nat × Nat)) (s : State) : (sendMore c l s).pending = s.pending := by
  simp [sendMore]

@[simp] theorem ownCopy_pending (c : Nat) (h : CollShape) (s : State) : (ownCopy c h s).pending = s.pending := by
  simp (disch := (intros; simp )) [ownCopy, foldl_pending]

theorem execCollRequest_pending (die : Nat) (s : State) : Keeps s (execCollRequest die s) := by
  unfold execCollRequest; apply onUnit_pending <;> intros <;> (repeat' split) <;> simp 

@[simp] theorem landWhole_pending (c : Nat) (h : CollShape) (stage slot src x : Nat) (s : State) : (landWhole c h stage slot src x s).pending = s.pending := by
  simp [landWhole]

@[simp] theorem epochReject_pending (r : RxFrame) (s : State) : (epochReject r s).pending = s.pending := by
  simp [epochReject]

@[simp] theorem creditLand_pending (c : Nat) (f : Frame) (s : State) : (creditLand c f s).pending = s.pending := by
  simp [creditLand]

@[simp] theorem chunkLand_pending (r : RxFrame) (c : Nat) (s : State) : (chunkLand r c s).pending = s.pending := by
  simp [chunkLand]

@[simp] theorem collFrame_pending (r : RxFrame) (s : State) : (collFrame r s).pending = s.pending := by
  simp [collFrame]

theorem execCollChunkLand_pending (r : RxFrame) (s : State) : Keeps s (execCollChunkLand r s) := by
  unfold execCollChunkLand; apply onFrame_pending <;> intros <;> simp 

theorem execCollCredit_pending (r : RxFrame) (s : State) : Keeps s (execCollCredit r s) := by
  unfold execCollCredit; apply onFrame_pending <;> intros <;> simp 

@[simp] theorem releaseSlot_pending (c slot : Nat) (s : State) : (releaseSlot c slot s).pending = s.pending := by
  simp [releaseSlot]

@[simp] theorem stageDone_pending (c stage x : Nat) (s : State) : (stageDone c stage x s).pending = s.pending := by
  simp [stageDone]

theorem execCombinerToken_pending (die : Nat) (s : State) : Keeps s (execCombinerToken die s) := by
  unfold execCombinerToken; apply onUnit_pending <;> intros <;> (repeat' split) <;> simp 

theorem execCollDigestExchange_pending (coll : Nat) (s : State) : Keeps s (execCollDigestExchange coll s) := by
  unfold execCollDigestExchange; apply onUnit_pending <;> intros <;> simp 

@[simp] theorem collAbort_pending (s : State) : (collAbort s).pending = s.pending := by
  simp only [collAbort]; repeat' first | intro _ | (simp ; done) | refine (foldl_pending _ ?_ _ _).trans ?_ | refine (foldl_pending_fst _ ?_ _ _).trans ?_ | refine (foldl_pending_snd _ ?_ _ _).trans ?_ | dsimp only | split | simp 

@[simp] theorem collReset_pending (s : State) : (collReset s).pending = s.pending := by rfl

end Sys2Proof.Machine
end

