-- ==== Sys2Proof/Laws/PIntake.lean ====
section
/-!
SUPPORT. What no function of `Machine/Intake.lean` does: touch the queue of the commands that wait.
-/
namespace Sys2Proof.Machine

@[simp] theorem slotDone_pending (source id pos : Nat) (s : State) : (slotDone source id pos s).pending = s.pending := by
  simp [slotDone]

@[simp] theorem settle_pending (src : Nat) (s : State) : (settle src s).pending = s.pending := by
  simp only [settle]; (repeat' split) <;> simp 

@[simp] theorem acceptRecord_pending (src pos id : Nat) (s : State) : (acceptRecord src pos id s).pending = s.pending := by
  simp [acceptRecord]

@[simp] theorem maskSlot_pending (s : State) : (maskSlot s).pending = s.pending := by simp [maskSlot]

theorem takeRecord_pending (src : Nat) (s t : State) (h : takeRecord src s = some t) : t.pending = s.pending := by
  unfold takeRecord at h
  dsimp only at h
  split at h
  · cases h
  · cases h; simp

@[simp] theorem takeReserve_pending (s : State) : (takeReserve s).pending = s.pending := by
  unfold takeReserve
  split
  · rename_i t h; simpa using takeRecord_pending _ _ _ h
  · simp

@[simp] theorem rejectRecord_pending (src pos id cause : Nat) (s : State) : (rejectRecord src pos id cause s).pending = s.pending := by
  simp [rejectRecord]

@[simp] theorem writeWindow_pending (base w : Nat) (d : List Byte) (s : State) : (writeWindow base w d s).pending = s.pending := by
  rfl

@[simp] theorem fillTry_pending (s : State) : (fillTry s).pending = s.pending := by
  simp only [fillTry]; (repeat' split) <;> simp 

@[simp] theorem checkRecord_pending (src pos : Nat) (listed : Option Nat) (bad : Bool) (d : List Byte) (s : State) : (checkRecord src pos listed bad d s).pending = s.pending := by
  simp [checkRecord]

@[simp] theorem takeLoop_pending (ring : Nat) (s : State) : (takeLoop ring s).pending = s.pending := by
  simp [takeLoop]

@[simp] theorem takeSlot_pending (s : State) : (takeSlot s).pending = s.pending := by
  unfold takeSlot
  split; · simp
  split
  · split
    · split <;> simp
    · simp
  · split
    · rename_i t h; simpa using takeRecord_pending _ _ _ h
    · simp

theorem execIntakeRecord_pending (s : State) : Keeps s (execIntakeRecord s) := by
  simp only [execIntakeRecord]; (repeat' split) <;> simp 

@[simp] theorem intakeArrived_pending (off len : Nat) (data : List Byte) (ok : Bool) (s : State) : (intakeArrived off len data ok s).pending = s.pending := by
  simp only [intakeArrived]; (repeat' split) <;> simp 

theorem execDecodeEnd_pending (out : DecodeOut) (s : State) : Keeps s (execDecodeEnd out s) := by
  simp only [execDecodeEnd]; (repeat' split) <;> simp 

theorem execStagingWindowFreed_pending (slot bytes : Nat) (s : State) : Keeps s (execStagingWindowFreed slot bytes s) := by
  simp only [execStagingWindowFreed]; (repeat' split) <;> simp 

theorem execBatchComplete_pending (busy total : Nat) (s : State) : Keeps s (execBatchComplete busy total s) := by
  simp [execBatchComplete]

@[simp] theorem cmdIntakeFeed_pending (id queue count addr : Nat) (s : State) : (cmdIntakeFeed id queue count addr s).pending = s.pending := by
  simp [cmdIntakeFeed]

theorem execIntakeFeed_pending (id : BitVec 16) (queue : BitVec 8) (count : BitVec 32) (addr : BitVec 64) (s : State) : Keeps s (execIntakeFeed id queue count addr s) := by
  simp [execIntakeFeed]

end Sys2Proof.Machine
end

