-- ==== Sys2Proof/Laws/PSched.lean ====
section
/-!
SUPPORT. What no function of `Machine/Sched.lean` does: touch the queue of the commands that wait.
-/
namespace Sys2Proof.Machine

@[simp] theorem startStream_pending (phase k : Nat) (s : State) (d : StreamDesc) : (startStream phase k s d).pending = s.pending := by
  simp [startStream]

@[simp] theorem startPhase_pending (s : State) (phase : Nat) : (startPhase s phase).pending = s.pending := by
  unfold startPhase
  refine (foldl_pending _ (fun t e => ?_) _ _).trans rfl
  refine foldl_pending _ (fun t d => ?_) _ _
  simp

@[simp] theorem startTrigger_pending (t : Nat) (s : State) : (startTrigger t s).pending = s.pending := by
  simp (disch := (intros; simp )) [startTrigger, foldl_pending]

@[simp] theorem stopPhases_pending (l : List Nat) (s : State) : (stopPhases l s).pending = s.pending := by
  simp (disch := (intros; simp )) [stopPhases, foldl_pending]

@[simp] theorem stopAll_pending (s : State) : (stopAll s).pending = s.pending := by
  simp (disch := (intros; simp )) [stopAll, foldl_pending]

theorem execPhaseEnd_pending (phase : Nat) (s : State) : Keeps s (execPhaseEnd phase s) := by
  simp (disch := (intros; simp )) [execPhaseEnd, foldl_pending]

end Sys2Proof.Machine
end

