-- ==== Sys2Proof/Laws/PLoad.lean ====
section
/-!
SUPPORT. What no function of `Machine/Load.lean` does: touch the queue of the commands that wait.
-/
namespace Sys2Proof.Machine

@[simp] theorem loadRetire_pending (s : State) : (loadRetire s).pending = s.pending := by
  simp (disch := (intros; simp )) [loadRetire, foldl_pending]

@[simp] theorem loadCells_pending (s : State) : (loadCells s).pending = s.pending := by
  unfold loadCells
  exact foldl_pending _ (fun t k => modCell_pending ..) _ _

@[simp] theorem loadRegion_pending (s : State) (r : Region) : (loadRegion s r).pending = s.pending := by
  unfold loadRegion
  split
  · rfl
  dsimp only
  split
  · rfl
  · rfl
  · refine foldl_pending _ (fun t p => ?_) _ _
    split
    · exact modCell_pending ..
    · rfl

@[simp] theorem loadRings_pending (s : State) : (loadRings s).pending = s.pending := by rfl

@[simp] theorem loadMap_pending (s : State) : (loadMap s).pending = s.pending := by
  have h : Same s (loadMap s) := by
    unfold loadMap
    split
    · exact .rfl' s
    · refine (Same.of (setFifo_pending ..)).trans ((Same.of (setFifo_pending ..)).trans
        ((Same.foldl _ (fun t k => ?_) _ _).trans ?_))
      · split
        · exact .of (incCount_pending ..)
        · exact .rfl' t
      · split <;> rfl
  exact h.out

@[simp] theorem loadBell_pending (s : State) : (loadBell s).pending = s.pending := by rfl

@[simp] theorem loadEngines_pending (s : State) : (loadEngines s).pending = s.pending := by rfl

@[simp] theorem loadGen_pending (s : State) : (loadGen s).pending = s.pending := by simp [loadGen]

@[simp] theorem loopBuffers_pending (s : State) : (loopBuffers s).pending = s.pending := by rfl

@[simp] theorem loadPlan_pending (s : State) : (loadPlan s).pending = s.pending := by
  have h : Same s (loadPlan s) := by
    unfold loadPlan
    extract_lets first s1 s2 kept cmd s3 s4 s5 s6 s7 s8 sh s9 s10 st s11
    have h1 : Same s s1 := .of (stopAll_pending ..)
    have h2 : Same s1 s2 := by
      unfold s2; split
      · exact .rfl' _
      · exact (Same.of (intakeSwap_pending ..)).trans (.of (loadGen_pending ..))
    have h3 : Same s2 s3 := rfl
    have h6 : Same s3 s6 := (Same.foldl _ (fun _ _ => .of (loadRegion_pending ..)) _ _).trans
      ((Same.of (loadCells_pending s4)).trans (.of (loadRetire_pending s3)))
    have h7 : Same s6 s7 := Same.foldl _ (fun _ _ => .of (writeLocal_pending ..)) _ _
    have h8 : Same s7 s8 := (Same.of (loadMap_pending _)).trans
      ((Same.of (loadRings_pending _)).trans (rfl : Same s7 (readTables s7)))
    have h9 : Same s8 s9 := rfl
    have h10 : Same s9 s10 := (Same.of (loopBuffers_pending _)).trans
      ((Same.of (loadEngines_pending _)).trans (.of (stashSwap_pending _)))
    have h11 : Same s10 s11 := rfl
    refine Same.trans ?_ (h11.trans (h10.trans (h9.trans (h8.trans (h7.trans (h6.trans (h3.trans (h2.trans h1))))))))
    exact (Same.of (completeOpt_pending ..)).trans ((Same.of (startTrigger_pending ..)).trans
      ((Same.of (setSys_pending ..)).trans (.of (ncClear_pending ..))))
  exact h.out

end Sys2Proof.Machine
end

