-- ==== Sys2Proof/Laws/PQueue.lean ====
section
/-!
SUPPORT. What no function of `Machine/Queue.lean` does: touch the queue of the commands that wait.
-/
namespace Sys2Proof.Machine

@[simp] theorem dropCommands_pending (s : State) : (dropCommands s).pending = s.pending := by rfl

@[simp] theorem queueOff_pending (s : State) : (queueOff s).pending = s.pending := by rfl

@[simp] theorem queueOn_pending (s : State) : (queueOn s).pending = s.pending := by
  simp (disch := (intros; simp )) [queueOn, foldl_pending]

@[simp] theorem cmdqCfgPut_pending (v m : Nat) (s : State) : (cmdqCfgPut v m s).pending = s.pending := by
  simp [cmdqCfgPut]

@[simp] theorem cmdqBasePut_pending (v m : Nat) (s : State) : (cmdqBasePut v m s).pending = s.pending := by
  simp [cmdqBasePut]

@[simp] theorem cplqBasePut_pending (v m : Nat) (s : State) : (cplqBasePut v m s).pending = s.pending := by
  simp [cplqBasePut]

@[simp] theorem cmdqTailPut_pending (v m : Nat) (s : State) : (cmdqTailPut v m s).pending = s.pending := by
  simp [cmdqTailPut]

@[simp] theorem cplqHeadPut_pending (v m : Nat) (s : State) : (cplqHeadPut v m s).pending = s.pending := by
  simp [cplqHeadPut]

theorem execBxlCmdqCfgWrite_pending (v : BitVec 64) (s : State) : Keeps s (execBxlCmdqCfgWrite v s) := by
  simp [execBxlCmdqCfgWrite]

theorem execBxlCmdqTailWrite_pending (v : BitVec 64) (s : State) : Keeps s (execBxlCmdqTailWrite v s) := by
  simp [execBxlCmdqTailWrite]

theorem execBxlCplqHeadWrite_pending (v : BitVec 64) (s : State) : Keeps s (execBxlCplqHeadWrite v s) := by
  simp [execBxlCplqHeadWrite]

@[simp] theorem pumpBell_pending (n : Nat) (s : State) : (pumpBell n s).pending = s.pending := by simp [pumpBell]

@[simp] theorem ringArrived_pending (n idx : Nat) (data : List Byte) (ok : Bool) (s : State) : (ringArrived n idx data ok s).pending = s.pending := by
  simp [ringArrived]

@[simp] theorem dbCtlPut_pending (n v m : Nat) (s : State) : (dbCtlPut n v m s).pending = s.pending := by
  simp [dbCtlPut]

@[simp] theorem afterHostPop_pending (n : Nat) (s : State) : (afterHostPop n s).pending = s.pending := by
  simp [afterHostPop]

@[simp] theorem dbHostIdxPut_pending (n v m : Nat) (s : State) : (dbHostIdxPut n v m s).pending = s.pending := by
  simp [dbHostIdxPut]

@[simp] theorem doorbellPut_pending (addr v m : Nat) (s : State) : (doorbellPut addr v m s).pending = s.pending := by
  simp only [doorbellPut]; (repeat' split) <;> simp 

theorem execDbHostIdxWrite_pending (bell : Nat) (v : BitVec 64) (s : State) : Keeps s (execDbHostIdxWrite bell v s) := by
  unfold execDbHostIdxWrite; apply onUnit_pending <;> intros <;> simp 

theorem execIrqHoldoffExpire_pending (vector : Nat) (s : State) : Keeps s (execIrqHoldoffExpire vector s) := by
  unfold execIrqHoldoffExpire; apply onUnit_pending <;> intros <;> simp 

end Sys2Proof.Machine
end

