-- ==== Sys2Proof/Laws/PHfKey.lean ====
section
/-!
SUPPORT. What no function of `Machine/HfKey.lean` does: touch the queue of the commands that wait.
-/
namespace Sys2Proof.Machine

@[simp] theorem lockKey_pending (s : State) : (lockKey s).pending = s.pending := by simp [lockKey]

@[simp] theorem planKeyPut_pending (n v m : Nat) (s : State) : (planKeyPut n v m s).pending = s.pending := by
  simp [planKeyPut]

@[simp] theorem planKeyCtlPut_pending (v m : Nat) (s : State) : (planKeyCtlPut v m s).pending = s.pending := by
  simp [planKeyCtlPut]

theorem execPlanKeyLock_pending (s : State) : Keeps s (execPlanKeyLock s) := by simp [execPlanKeyLock]

end Sys2Proof.Machine
end

