-- ==== Sys2Proof/Laws/PPlan.lean ====
section
/-!
SUPPORT. What no function of `Machine/Plan.lean` does: touch the queue of the commands that wait.
-/
namespace Sys2Proof.Machine

@[simp] theorem planEnd_pending (c : CmdRef) (code : Nat) (s : State) : (planEnd c code s).pending = s.pending := by
  simp [planEnd]

@[simp] theorem cmdPlanStage_pending (c : CmdRef) (addr len : Nat) (s : State) : (cmdPlanStage c addr len s).pending = s.pending := by
  simp [cmdPlanStage]

theorem execPlanStage_pending (id : BitVec 16) (addr len : BitVec 64) (s : State) : Keeps s (execPlanStage id addr len s) := by
  simp [execPlanStage]

@[simp] theorem stageRefuse_pending (code : Nat) (f : Flaw) (s : State) : (stageRefuse code f s).pending = s.pending := by
  simp only [stageRefuse]; (repeat' split) <;> simp 

@[simp] theorem imageArrived_pending (off : Nat) (data : List Byte) (ok : Bool) (s : State) : (imageArrived off data ok s).pending = s.pending := by
  simp [imageArrived]

theorem execStagingComplete_pending (s : State) : Keeps s (execStagingComplete s) := by
  simp only [execStagingComplete]; (repeat' split) <;> simp 

@[simp] theorem cmdSwap_pending (c : CmdRef) (reshard : Bool) (s : State) : (cmdSwap c reshard s).pending = s.pending := by
  simp [cmdSwap]

theorem execPlanSwap_pending (id : BitVec 16) (s : State) : Keeps s (execPlanSwap id s) := by simp [execPlanSwap]

theorem execReshard_pending (id : BitVec 16) (s : State) : Keeps s (execReshard id s) := by simp [execReshard]

theorem execSwapBoundary_pending (s : State) : Keeps s (execSwapBoundary s) := by
  simp only [execSwapBoundary]; (repeat' split) <;> simp 

@[simp] theorem swapSend_pending (code value : Nat) (s : State) : (swapSend code value s).pending = s.pending := by
  simp (disch := (intros; simp )) [swapSend, foldl_pending]

@[simp] theorem swapDecide_pending (s : State) : (swapDecide s).pending = s.pending := by
  simp only [swapDecide]; (repeat' split) <;> simp 

theorem execSwapReady_pending (m : BellIn) (s : State) : Keeps s (execSwapReady m s) := by
  unfold execSwapReady; apply onBell_pending <;> intros <;> simp 

theorem execSwapWaitExpire_pending (s : State) : Keeps s (execSwapWaitExpire s) := by simp [execSwapWaitExpire]

@[simp] theorem permBarrier_pending (round : Nat) (s : State) : (permBarrier round s).pending = s.pending := by
  simp only [permBarrier]; (repeat' split) <;> simp 

@[simp] theorem permEnd_pending (s : State) : (permEnd s).pending = s.pending := by simp [permEnd]

@[simp] theorem permIssue_pending (s : State) (i : Nat) : (permIssue s i).pending = s.pending := by
  unfold permIssue
  split
  · rfl
  · dsimp only; split <;> simp

@[simp] theorem permPumpGo_pending (a0 : List Nat) (a1 : State) : (permPumpGo a0 a1).pending = a1.pending := by
  induction a0 generalizing a1 <;> first | rfl | (rename_i ih; simp only [permPumpGo]; repeat' first | intro _ | (simp [ih]; done) | refine (foldl_pending _ ?_ _ _).trans ?_ | refine (foldl_pending_fst _ ?_ _ _).trans ?_ | refine (foldl_pending_snd _ ?_ _ _).trans ?_ | dsimp only | split | simp [ih])

@[simp] theorem permPump_pending (s : State) : (permPump s).pending = s.pending := by simp [permPump]

theorem execPermute_pending (s : State) : Keeps s (execPermute s) := by simp [execPermute]

@[simp] theorem permLanded_pending (i : Nat) (s : State) : (permLanded i s).pending = s.pending := by
  simp [permLanded]

theorem execPermuteComplete_pending (s : State) : Keeps s (execPermuteComplete s) := by simp [execPermuteComplete]

@[simp] theorem swapGoEffect_pending (s : State) : (swapGoEffect s).pending = s.pending := by simp [swapGoEffect]

theorem execSwapGo_pending (m : BellIn) (s : State) : Keeps s (execSwapGo m s) := by
  unfold execSwapGo; apply onBell_pending <;> intros <;> simp 

@[simp] theorem permAbort_pending (s : State) : (permAbort s).pending = s.pending := by
  simp (disch := (intros; simp )) [permAbort, foldl_pending]

@[simp] theorem swapAbortEffect_pending (code : Nat) (s : State) : (swapAbortEffect code s).pending = s.pending := by
  simp [swapAbortEffect]

theorem execSwapAbort_pending (m : BellIn) (s : State) : Keeps s (execSwapAbort m s) := by
  unfold execSwapAbort; apply onBell_pending <;> intros <;> simp 

end Sys2Proof.Machine
end

