-- ==== Sys2Proof/Laws/PBellRows.lean ====
section
/-!
SUPPORT. What no function of `Machine/BellRows.lean` does: touch the queue of the commands that wait.
-/
namespace Sys2Proof.Machine

theorem execBellUp_pending (m : BellIn) (s : State) : Keeps s (execBellUp m s) := by
  unfold execBellUp; apply onBell_pending <;> intros <;> simp 

theorem execBellDown_pending (m : BellIn) (s : State) : Keeps s (execBellDown m s) := by
  unfold execBellDown; apply onBell_pending <;> intros <;> simp 

end Sys2Proof.Machine
end

