-- ==== Sys2Proof/Laws/PScale.lean ====
section
/-!
SUPPORT. What no function of `Machine/Scale.lean` does: touch the queue of the commands that wait.
-/
namespace Sys2Proof.Machine

@[simp] theorem zeroStatus_pending (step : Nat) (s : State) : (zeroStatus step s).pending = s.pending := by
  simp (disch := (intros; simp )) [zeroStatus, foldl_pending]

@[simp] theorem scaleCommit_pending (step : Nat) (s : State) (r : Region) : (scaleCommit step s r).pending = s.pending := by
  simp [scaleCommit]

@[simp] theorem commitScales_pending (s : State) : (commitScales s).pending = s.pending := by
  simp (disch := (intros; simp )) [commitScales, foldl_pending]

end Sys2Proof.Machine
end

