-- ==== Sys2Proof/Laws/PMaster.lean ====
section
/-!
SUPPORT. What no function of `Machine/Master.lean` does: touch the queue of the commands that wait.
-/
namespace Sys2Proof.Machine

@[simp] theorem modMaster_pending (f : Master → Master) (s : State) : (modMaster f s).pending = s.pending := by rfl

@[simp] theorem memberLost_pending (i : Nat) (s : State) : (memberLost i s).pending = s.pending := by
  simp [memberLost]

@[simp] theorem toWorkers_pending (code value : Nat) (s : State) : (toWorkers code value s).pending = s.pending := by
  simp (disch := (intros; simp )) [toWorkers, foldl_pending]

@[simp] theorem forceAbort_pending (code : Nat) (s : State) : (forceAbort code s).pending = s.pending := by
  simp [forceAbort]

@[simp] theorem decideAbort_pending (code : Nat) (s : State) : (decideAbort code s).pending = s.pending := by
  simp [decideAbort]

@[simp] theorem runOver_pending (code : Nat) (s : State) : (runOver code s).pending = s.pending := by
  simp only [runOver]; (repeat' split) <;> simp 

@[simp] theorem haltLost_pending (s : State) : (haltLost s).pending = s.pending := by simp [haltLost]

@[simp] theorem commitAcked_pending (i : Nat) (s : State) : (commitAcked i s).pending = s.pending := by
  simp [commitAcked]

@[simp] theorem raiseSlowest_pending (s : State) : (raiseSlowest s).pending = s.pending := by
  simp only [raiseSlowest]; (repeat' split) <;> simp 

@[simp] theorem commitAll_pending (s : State) : (commitAll s).pending = s.pending := by
  simp (disch := (intros; simp )) [commitAll, foldl_pending]

@[simp] theorem decideCommit_pending (s : State) : (decideCommit s).pending = s.pending := by
  simp only [decideCommit]; (repeat' split) <;> simp 

@[simp] theorem masterReady_pending (src wait : Nat) (s : State) : (masterReady src wait s).pending = s.pending := by
  simp [masterReady]

@[simp] theorem masterFail_pending (code : Nat) (s : State) : (masterFail code s).pending = s.pending := by
  simp [masterFail]

@[simp] theorem takeOver_pending (s : State) : (takeOver s).pending = s.pending := by
  simp (disch := (intros; simp )) [takeOver, foldl_pending]

@[simp] theorem probesOver_pending (s : State) : (probesOver s).pending = s.pending := by simp [probesOver]

@[simp] theorem probeAnswer_pending (i : Nat) (s : State) : (probeAnswer i s).pending = s.pending := by
  simp [probeAnswer]

@[simp] theorem probe_pending (s : State) (i : Nat) : (probe s i).pending = s.pending := by simp [probe]

@[simp] theorem probeMissing_pending (s : State) : (probeMissing s).pending = s.pending := by
  simp (disch := (intros; simp )) [probeMissing, foldl_pending]

@[simp] theorem lostReport_pending (peer : Nat) (s : State) : (lostReport peer s).pending = s.pending := by
  simp [lostReport]

end Sys2Proof.Machine
end

