-- ==== Sys2Proof/Laws/PAttempt.lean ====
section
/-!
SUPPORT. What no function of `Machine/Attempt.lean` does: touch the queue of the commands that wait.
-/
namespace Sys2Proof.Machine

@[simp] theorem putConst_pending (block : Nat) (s : State) (e : ConstEnt) : (putConst block s e).pending = s.pending := by
  simp only [putConst]; (repeat' split) <;> simp 

@[simp] theorem clearRecords_pending (s : State) : (clearRecords s).pending = s.pending := by
  simp only [clearRecords]; (repeat' split) <;> simp 

@[simp] theorem goEngines_pending (s : State) : (goEngines s).pending = s.pending := by
  simp (disch := (intros; simp )) [goEngines, foldl_pending]

@[simp] theorem goActions_pending (block : Nat) (s : State) : (goActions block s).pending = s.pending := by
  unfold goActions
  simp only [startTrigger_pending, intakeGo_pending, sumUpdates_pending, addPubAmax_pending, goEngines_pending, zeroStatus_pending]
  exact (foldl_pending _ (fun t a => by simp) _ _).trans (by simp)

@[simp] theorem goEffect_pending (step attempt block : Nat) (s : State) : (goEffect step attempt block s).pending = s.pending := by
  simp only [goEffect]; (repeat' split) <;> simp 

@[simp] theorem sendReady_pending (s : State) : (sendReady s).pending = s.pending := by simp [sendReady]

theorem execReadySend_pending (s : State) : Keeps s (execReadySend s) := by
  simp only [execReadySend]; (repeat' split) <;> simp 

@[simp] theorem attemptOver_pending (code : Nat) (s : State) : (attemptOver code s).pending = s.pending := by
  unfold attemptOver
  extract_lets s1 ge s2 s3 s4 s5
  have h2 : s2.pending = s.pending := (powerEnd_pending _).trans (by simp [s1])
  have h3 : s3.pending = s2.pending := foldl_pending _ (fun t a => by simp) _ _
  have h4 : s4.pending = s3.pending := by unfold s4; split <;> simp
  have h5 : s5.pending = s4.pending := latchModes_pending _
  split <;> simp [h5, h4, h3, h2]

@[simp] theorem abortReqsOver_pending (code : Nat) (s : State) : (abortReqsOver code s).pending = s.pending := by
  simp (disch := (intros; simp )) [abortReqsOver, foldl_pending]

@[simp] theorem updateOver_pending (s : State) : (updateOver s).pending = s.pending := by rfl

@[simp] theorem writeQPrev_pending (s : State) : (writeQPrev s).pending = s.pending := by
  simp only [writeQPrev]; (repeat' split) <;> simp 

@[simp] theorem commitEffect_pending (s : State) : (commitEffect s).pending = s.pending := by simp [commitEffect]

@[simp] theorem dropRequests_pending (f : List Byte → Nat × Nat) (s : State) (r : Nat) : (dropRequests f s r).pending = s.pending := by
  simp only [dropRequests]; (repeat' split) <;> rw [foldl_pending] <;> (intros; (repeat' split) <;> simp )

@[simp] theorem dropAllRequests_pending (s : State) : (dropAllRequests s).pending = s.pending := by
  simp (disch := (intros; simp )) [dropAllRequests, foldl_pending]

@[simp] theorem stopEngines_pending (s : State) : (stopEngines s).pending = s.pending := by
  unfold stopEngines
  exact foldl_pending _ (fun t a => by simp) _ _

@[simp] theorem abortEffect_pending (code : Nat) (s : State) : (abortEffect code s).pending = s.pending := by
  simp [abortEffect]

end Sys2Proof.Machine
end

