-- ==== Sys2Proof/Laws/PSteps.lean ====
section
/-!
SUPPORT. What no function of `Machine/Steps.lean` does: touch the queue of the commands that wait.
-/
namespace Sys2Proof.Machine

theorem onStep_pending (m : BellIn) (code : Nat) (f : Nat → BellMsg → State → State) (s : State) (hf : ∀ v0 v1 t, (f v0 v1 t).pending = t.pending) : Keeps s (onStep m code f s) := by
  unfold onStep; apply onBell_pending <;> intros <;> simp [hf]

@[simp] theorem cmdStepRun_pending (c : CmdRef) (step block : Nat) (s : State) : (cmdStepRun c step block s).pending = s.pending := by
  simp (disch := (intros; simp )) [cmdStepRun, foldl_pending]

theorem execStepRun_pending (id : BitVec 16) (step : BitVec 64) (consts : BitVec 256) (s : State) : Keeps s (execStepRun id step consts s) := by
  simp [execStepRun]

@[simp] theorem cmdAbortReq_pending (c : CmdRef) (step : Nat) (s : State) : (cmdAbortReq c step s).pending = s.pending := by
  simp [cmdAbortReq]

theorem execStepAbortReq_pending (id : BitVec 16) (step : BitVec 64) (s : State) : Keeps s (execStepAbortReq id step s) := by
  simp [execStepAbortReq]

theorem execStepGo_pending (m : BellIn) (s : State) : Keeps s (execStepGo m s) := by
  unfold execStepGo; apply onBell_pending <;> intros <;> simp 

theorem execCommit_pending (m : BellIn) (s : State) : Keeps s (execCommit m s) := by
  unfold execCommit; apply onStep_pending <;> intros <;> simp 

theorem execAbort_pending (m : BellIn) (s : State) : Keeps s (execAbort m s) := by
  unfold execAbort; apply onStep_pending <;> intros <;> simp 

theorem execReady_pending (m : BellIn) (s : State) : Keeps s (execReady m s) := by
  unfold execReady; apply onStep_pending <;> intros <;> simp 

theorem execFail_pending (m : BellIn) (s : State) : Keeps s (execFail m s) := by
  unfold execFail; apply onStep_pending <;> intros <;> simp 

theorem execProbe_pending (m : BellIn) (s : State) : Keeps s (execProbe m s) := by
  unfold execProbe; apply onStep_pending <;> intros <;> simp 

theorem execLostReport_pending (m : BellIn) (s : State) : Keeps s (execLostReport m s) := by
  unfold execLostReport; apply onStep_pending <;> intros <;> simp 

@[simp] theorem ackedStep_pending (src code : Nat) (s : State) : (ackedStep src code s).pending = s.pending := by
  simp [ackedStep]

theorem execAck_pending (m : BellIn) (s : State) : Keeps s (execAck m s) := by
  unfold execAck; apply onBell_pending <;> intros <;> (repeat' split) <;> simp 

@[simp] theorem loneAbort_pending (s : State) : (loneAbort s).pending = s.pending := by simp [loneAbort]

@[simp] theorem unanswered_pending (o : BellOut) (s : State) : (unanswered o s).pending = s.pending := by
  simp only [unanswered]; (repeat' split) <;> simp 

theorem execBellAckCanaryExpire_pending (dst kind code chan : Nat) (s : State) : Keeps s (execBellAckCanaryExpire dst kind code chan s) := by
  simp only [execBellAckCanaryExpire]; (repeat' split) <;> simp 

theorem execCommitWaitExpire_pending (s : State) : Keeps s (execCommitWaitExpire s) := by simp [execCommitWaitExpire]

theorem execAttemptCanaryExpire_pending (s : State) : Keeps s (execAttemptCanaryExpire s) := by
  simp [execAttemptCanaryExpire]

theorem execCommitRetryExpire_pending (s : State) : Keeps s (execCommitRetryExpire s) := by
  simp (disch := (intros; simp )) [execCommitRetryExpire, foldl_pending]

end Sys2Proof.Machine
end

