-- ==== Sys2Proof/Laws/PCheckpoint.lean ====
section
/-!
SUPPORT. What no function of `Machine/Checkpoint.lean` does: touch the queue of the commands that wait.
-/
namespace Sys2Proof.Machine

@[simp] theorem ckptRefuse_pending (c : CmdRef) (code : Nat) (s : State) : (ckptRefuse c code s).pending = s.pending := by
  simp [ckptRefuse]

@[simp] theorem cmdCkptWrite_pending (c : CmdRef) (step flags addr len : Nat) (s : State) : (cmdCkptWrite c step flags addr len s).pending = s.pending := by
  simp only [cmdCkptWrite]; (repeat' split) <;> simp 

theorem execCkptWrite_pending (id : BitVec 16) (step : BitVec 64) (flags : BitVec 8) (addr len : BitVec 64) (s : State) : Keeps s (execCkptWrite id step flags addr len s) := by
  simp [execCkptWrite]

@[simp] theorem sendMirror_pending (base body : Nat) (s : State) : (sendMirror base body s).pending = s.pending := by
  simp (disch := (intros; simp )) [sendMirror, foldl_pending]

@[simp] theorem ckptOver_pending (base size : Nat) (s : State) : (ckptOver base size s).pending = s.pending := by
  simp only [ckptOver]; (repeat' split) <;> simp 

@[simp] theorem ckptFinish_pending (base size : Nat) (s : State) : (ckptFinish base size s).pending = s.pending := by
  simp only [ckptFinish]; (repeat' split) <;> simp 

theorem execCkptWriteComplete_pending (s : State) : Keeps s (execCkptWriteComplete s) := by
  simp only [execCkptWriteComplete]; (repeat' split) <;> simp 

@[simp] theorem restoreFail_pending (code : Nat) (s : State) : (restoreFail code s).pending = s.pending := by
  simp [restoreFail]

@[simp] theorem restoreBody_pending (c : Nat) (rd : SlotRead) (s : State) : (restoreBody c rd s).pending = s.pending := by
  have h : ∀ l a, ((l : List Nat).foldl (fun (a : State × Nat) j =>
    let n := ckptBlock a.1 j
    (writeTier 1 (updBlock a.1 j (c % 2)) (rd a.2 n) a.1, a.2 + up64 n)) a).1.pending = a.1.pending :=
    foldl_pending_fst _ (fun p a => by simp)
  unfold restoreBody; dsimp only
  generalize hr : (rangeFrom 0 (updCount s)).foldl _ _ = r
  have hr' : r.1.pending = s.pending := by rw [← hr]; exact h _ _
  split <;> (try simp only [writeTier_pending]) <;> split <;> simp [hr']

@[simp] theorem keepSlot_pending (rd : SlotRead) (s : State) : (keepSlot rd s).pending = s.pending := by
  simp only [keepSlot]; (repeat' split) <;> simp 

@[simp] theorem restoreFrom_pending (rd : SlotRead) (s : State) : (restoreFrom rd s).pending = s.pending := by
  simp [restoreFrom]

@[simp] theorem askUnit_pending (peer unit len : Nat) (s : State) : (askUnit peer unit len s).pending = s.pending := by
  simp [askUnit]

@[simp] theorem cmdCkptRestore_pending (c : CmdRef) (step src addr : Nat) (s : State) : (cmdCkptRestore c step src addr s).pending = s.pending := by
  simp only [cmdCkptRestore]; (repeat' split) <;> simp 

theorem execCkptRestore_pending (id : BitVec 16) (step : BitVec 64) (source : BitVec 8) (addr : BitVec 64) (s : State) : Keeps s (execCkptRestore id step source addr s) := by
  simp [execCkptRestore]

@[simp] theorem askSlot_pending (off len : Nat) (s : State) : (askSlot off len s).pending = s.pending := by
  simp [askSlot]

@[simp] theorem hostSlotLanded_pending (s : State) : (hostSlotLanded s).pending = s.pending := by
  unfold hostSlotLanded; dsimp only
  split
  · split <;> simp
  · split
    · simp
    · split
      · simp
      · split
        · simp
        · exact (foldl_pending _ (fun t a => by simp) _ _).trans (by simp)

@[simp] theorem slotArrived_pending (off : Nat) (data : List Byte) (ok : Bool) (s : State) : (slotArrived off data ok s).pending = s.pending := by
  simp only [slotArrived]; (repeat' split) <;> simp 

@[simp] theorem dropReadOf_pending (unit : Nat) (s : State) : (dropReadOf unit s).pending = s.pending := by rfl

@[simp] theorem restoreHeader_pending (data : List Byte) (s : State) : (restoreHeader data s).pending = s.pending := by
  simp (disch := (intros; simp )) [restoreHeader, foldl_pending]

@[simp] theorem restoreUnit_pending (unit : Nat) (data : List Byte) (crc : Nat) (s : State) : (restoreUnit unit data crc s).pending = s.pending := by
  simp only [restoreUnit]; (repeat' split) <;> simp 

@[simp] theorem mirrorUnit_pending (r : Region) (unit : Nat) (data : List Byte) (crc : Nat) (s : State) : (mirrorUnit r unit data crc s).pending = s.pending := by
  simp only [mirrorUnit]; (repeat' split) <;> simp 

theorem execMirrorUnitReceive_pending (unit : Nat) (data : List Byte) (crc : BitVec 32) (s : State) : Keeps s (execMirrorUnitReceive unit data crc s) := by
  simp only [execMirrorUnitReceive]; (repeat' split) <;> simp 

end Sys2Proof.Machine
end

