-- ==== Sys2Proof/Laws/PCanary.lean ====
section
/-!
SUPPORT. What no function of `Machine/Canary.lean` does: touch the queue of the commands that wait.
-/
namespace Sys2Proof.Machine

@[simp] theorem peerCanary_pending (src peer : Nat) (payload : List (Nat × Nat × Nat)) (s : State) : (peerCanary src peer payload s).pending = s.pending := by
  simp [peerCanary]

@[simp] theorem channelCanary_pending (c : Nat) (s : State) : (channelCanary c s).pending = s.pending := by
  simp only [channelCanary]; (repeat' split) <;> simp 

@[simp] theorem bellCanary_pending (grp chan : Nat) (s : State) : (bellCanary grp chan s).pending = s.pending := by
  simp (disch := (intros; simp )) [bellCanary, foldl_pending]

@[simp] theorem collCanary_pending (c r : Nat) (s : State) : (collCanary c r s).pending = s.pending := by
  simp [collCanary]

@[simp] theorem walkCanary_pending (s : State) : (walkCanary s).pending = s.pending := by simp [walkCanary]

@[simp] theorem intakeCanary_pending (s : State) : (intakeCanary s).pending = s.pending := by simp [intakeCanary]

@[simp] theorem gatherCanary_pending (die : Nat) (s : State) : (gatherCanary die s).pending = s.pending := by
  simp only [gatherCanary]; (repeat' split) <;> simp 

theorem execRingStepCanaryExpire_pending (w : RingWait) (s : State) : Keeps s (execRingStepCanaryExpire w s) := by
  cases w
  case channel => exact onUnit_pending (by simp)
  case gather => exact onUnit_pending (by simp)
  all_goals simp [execRingStepCanaryExpire]

end Sys2Proof.Machine
end

