-- ==== Sys2Proof/Laws/PRemoteData.lean ====
section
/-!
SUPPORT. What no function of `Machine/RemoteData.lean` does: touch the queue of the commands that wait.
-/
namespace Sys2Proof.Machine

@[simp] theorem readLanded_pending (what : XferFor) (data : List Byte) (s : State) : (readLanded what data s).pending = s.pending := by
  simp only [readLanded]; (repeat' split) <;> simp 

@[simp] theorem nearAfter_pending (what : XferFor) (g : GAddr) (n : Nat) (s : State) : (nearAfter what g n s).pending = s.pending := by
  simp only [nearAfter]; (repeat' split) <;> simp 

@[simp] theorem responseData_pending (r : RxFrame) (id : Nat) (x : RemoteXfer) (s : State) : (responseData r id x s).pending = s.pending := by
  simp only [responseData]; (repeat' split) <;> simp 

@[simp] theorem moveData_pending (r : RxFrame) (s : State) : (moveData r s).pending = s.pending := by
  simp only [moveData]; (repeat' split) <;> simp 

theorem execMoveData_pending (r : RxFrame) (s : State) : Keeps s (execMoveData r s) := by
  unfold execMoveData; apply onMove_pending <;> intros <;> simp 

end Sys2Proof.Machine
end

