-- ==== Sys2Proof/Laws/PGenerate.lean ====
section
/-!
SUPPORT. What no function of `Machine/Generate.lean` does: touch the queue of the commands that wait.
-/
namespace Sys2Proof.Machine

@[simp] theorem submit_pending (c : CmdRef) (w : GenWord) (s : State) : (submit c w s).pending = s.pending := by
  simp [submit]

@[simp] theorem cancelRequest_pending (c : CmdRef) (request : Nat) (s : State) : (cancelRequest c request s).pending = s.pending := by
  simp only [cancelRequest]; (repeat' split) <;> simp 

@[simp] theorem cmdGenSubmit_pending (c : CmdRef) (w : GenWord) (s : State) : (cmdGenSubmit c w s).pending = s.pending := by
  simp [cmdGenSubmit]

theorem execGenSubmit_pending (id : BitVec 16) (w : GenWord) (s : State) : Keeps s (execGenSubmit id w s) := by
  simp [execGenSubmit]

theorem execGenCancel_pending (id : BitVec 16) (request : BitVec 32) (s : State) : Keeps s (execGenCancel id request s) := by
  simp [execGenCancel]

@[simp] theorem promptArrived_pending (u off : Nat) (data : List Byte) (ok : Bool) (s : State) : (promptArrived u off data ok s).pending = s.pending := by
  simp only [promptArrived]; (repeat' split) <;> simp 

@[simp] theorem scoreEntry_pending (key : Nat) (s : State) : (scoreEntry key s).pending = s.pending := by
  simp [scoreEntry]

@[simp] theorem writeScores_pending (u : Nat) (s : State) : (writeScores u s).pending = s.pending := by
  simp (disch := (intros; simp )) [writeScores, foldl_pending]

@[simp] theorem putToken_pending (u id : Nat) (q : GenReq) (s : State) : (putToken u id q s).pending = s.pending := by
  simp [putToken]

@[simp] theorem afterToken_pending (u id : Nat) (s : State) : (afterToken u id s).pending = s.pending := by
  simp only [afterToken]; (repeat' split) <;> simp 

theorem execGenToken_pending (user : Nat) (pairs : List (BitVec 32 × Nat)) (s : State) : Keeps s (execGenToken user pairs s) := by
  unfold execGenToken; apply onUnit_pending <;> intros <;> (repeat' split) <;> simp 

end Sys2Proof.Machine
end

