-- ==== Sys2Proof/Laws/PFlits.lean ====
section
/-!
SUPPORT. What no function of `Machine/Flits.lean` does: touch the queue of the commands that wait.
-/
namespace Sys2Proof.Machine

@[simp] theorem sendNak_pending (s : State) : (sendNak s).pending = s.pending := by rfl

@[simp] theorem sendIdle_pending (s : State) : (sendIdle s).pending = s.pending := by simp [sendIdle]

@[simp] theorem freeSlots_pending (vc n : Nat) (s : State) : (freeSlots vc n s).pending = s.pending := by rfl

@[simp] theorem linkTo_pending (st : LinkSt) (s : State) : (linkTo st s).pending = s.pending := by simp [linkTo]

@[simp] theorem retrain_pending (cause : Nat) (s : State) : (retrain cause s).pending = s.pending := by simp [retrain]

@[simp] theorem resendFlits_pending (s : State) : (resendFlits s).pending = s.pending := by simp [resendFlits]

@[simp] theorem takeAck_pending (c : FlitCtl) (s : State) : (takeAck c s).pending = s.pending := by simp [takeAck]

@[simp] theorem linkReset_pending (s : State) : (linkReset s).pending = s.pending := by
  simp (disch := (intros; simp )) [linkReset, foldl_pending]

theorem execBxlDownExpire_pending (s : State) : Keeps s (execBxlDownExpire s) := by simp [execBxlDownExpire]

theorem execTrainingPatternSeen_pending (lanes : List Nat) (s : State) : Keeps s (execTrainingPatternSeen lanes s) := by
  simp [execTrainingPatternSeen]

theorem execAlignDone_pending (s : State) : Keeps s (execAlignDone s) := by simp [execAlignDone]

@[simp] theorem retrainPut_pending (s : State) : (retrainPut s).pending = s.pending := by simp [retrainPut]

theorem execBxlRetrainRequest_pending (s : State) : Keeps s (execBxlRetrainRequest s) := by
  simp [execBxlRetrainRequest]

theorem execFlitReplayTimeout_pending (s : State) : Keeps s (execFlitReplayTimeout s) := by
  simp [execFlitReplayTimeout]

@[simp] theorem onFlit_pending (ftype : Nat) (bytes : List Byte) (f : FlitCtl → List Byte → State → State) (s : State) (hf : ∀ v0 v1 t, (f v0 v1 t).pending = t.pending) : (onFlit ftype bytes f s).pending = s.pending := by
  simp [onFlit, hf]

theorem execIdleFlit_pending (bytes : List Byte) (s : State) : Keeps s (execIdleFlit bytes s) := by
  simp [execIdleFlit]

theorem execNakFlit_pending (bytes : List Byte) (s : State) : Keeps s (execNakFlit bytes s) := by simp [execNakFlit]

@[simp] theorem takeData_pending (c : FlitCtl) (body : List Byte) (deliver : List Byte → State → State) (s : State) (hdeliver : ∀ v0 t, (deliver v0 t).pending = t.pending) : (takeData c body deliver s).pending = s.pending := by
  simp [takeData, hdeliver]

end Sys2Proof.Machine
end

