-- ==== Sys2Proof/Laws/PMaint.lean ====
section
/-!
SUPPORT. What no function of `Machine/Maint.lean` does: touch the queue of the commands that wait.
-/
namespace Sys2Proof.Machine

@[simp] theorem maintBegin_pending (r : MaintReq) (s : State) : (maintBegin r s).pending = s.pending := by
  simp [maintBegin]

@[simp] theorem startQueuedGo_pending (a0 : List MaintReq) (a1 : List MaintReq) (a2 : State) : (startQueuedGo a0 a1 a2).pending = a2.pending := by
  induction a0 generalizing a1 a2 <;> first | rfl | (rename_i ih; simp only [startQueuedGo]; repeat' first | intro _ | (simp [ih]; done) | refine (foldl_pending _ ?_ _ _).trans ?_ | refine (foldl_pending_fst _ ?_ _ _).trans ?_ | refine (foldl_pending_snd _ ?_ _ _).trans ?_ | dsimp only | split | simp [ih])

@[simp] theorem startQueued_pending (s : State) : (startQueued s).pending = s.pending := by simp [startQueued]

@[simp] theorem maintWait_pending (r : MaintReq) (s : State) : (maintWait r s).pending = s.pending := by
  simp [maintWait]

@[simp] theorem cmdMaintStart_pending (c : CmdRef) (activity port arg0 arg1 : Nat) (s : State) : (cmdMaintStart c activity port arg0 arg1 s).pending = s.pending := by
  simp [cmdMaintStart]

theorem execMaintStart_pending (id : BitVec 16) (w : MaintWord) (s : State) : Keeps s (execMaintStart id w s) := by
  simp [execMaintStart]

@[simp] theorem maintCtlPut_pending (v m : Nat) (s : State) : (maintCtlPut v m s).pending = s.pending := by
  simp (disch := (intros; simp )) [maintCtlPut, foldl_pending]

theorem execMaintCancel_pending (v : BitVec 64) (s : State) : Keeps s (execMaintCancel v s) := by
  simp [execMaintCancel]

@[simp] theorem workDone_pending (r : MaintReq) (code : Nat) (s : State) : (workDone r code s).pending = s.pending := by
  rfl

@[simp] theorem maintWork_pending (activity : Nat) (f : MaintReq → State → State) (s : State) (hf : ∀ v0 t, (f v0 t).pending = t.pending) : (maintWork activity f s).pending = s.pending := by
  simp only [maintWork]; (repeat' split) <;> simp [hf]

@[simp] theorem scrubPasses_pending (lo : Nat) (on : Bool) (s : State) : (scrubPasses lo on s).pending = s.pending := by
  unfold scrubPasses
  exact foldl_pending _ (fun t a => by split <;> simp) _ _

theorem execScrubHbm_pending (s : State) : Keeps s (execScrubHbm s) := by simp [execScrubHbm]

theorem execScrubDeep_pending (s : State) : Keeps s (execScrubDeep s) := by simp [execScrubDeep]

@[simp] theorem testCell_pending (k : Nat) (s : State) : (testCell k s).pending = s.pending := by simp [testCell]

theorem execScrubSram_pending (s : State) : Keeps s (execScrubSram s) := by
  simp only [execScrubSram, keeps_next]
  refine maintWork_pending _ _ _ fun r t => ?_
  split
  · simp only [workDone_pending]; exact foldl_pending _ (fun t a => by simp) _ _
  · exact foldl_pending _ (fun t a => by simp) _ _

@[simp] theorem sramEnd_pending (s : State) : (sramEnd s).pending = s.pending := by
  simp (disch := (intros; simp )) [sramEnd, foldl_pending]

@[simp] theorem freeOffsets_pending (a0 : Nat) (a1 : State) : (freeOffsets a0 a1).2.pending = a1.pending := by
  induction a0 generalizing a1 <;> first | rfl | (rename_i ih; simp only [freeOffsets]; repeat' first | intro _ | (simp [ih]; done) | refine (foldl_pending _ ?_ _ _).trans ?_ | refine (foldl_pending_fst _ ?_ _ _).trans ?_ | refine (foldl_pending_snd _ ?_ _ _).trans ?_ | dsimp only | split | simp [ih])

@[simp] theorem storeOffsets_pending (required need : List Int) (s : State) : (storeOffsets required need s).pending = s.pending := by
  simp [storeOffsets]

@[simp] theorem surveyRun_pending (lowest : List Int) (s : State) : (surveyRun lowest s).pending = s.pending := by
  simp [surveyRun]

@[simp] theorem surveyStart_pending (lowest : List Int) (s : State) : (surveyStart lowest s).pending = s.pending := by
  simp [surveyStart]

theorem execMarginSurvey_pending (lowest : List Int) (s : State) : Keeps s (execMarginSurvey lowest s) := by
  simp [execMarginSurvey]

theorem execMapCompact_pending (s : State) : Keeps s (execMapCompact s) := by
  simp only [execMapCompact, keeps_next]
  refine maintWork_pending _ _ _ fun r t => ?_
  split
  · rfl
  · split
    · simp
    · exact (foldl_pending _ (fun t a => by simp) _ _).trans rfl

theorem execLinkRetrain_pending (port : Nat) (s : State) : Keeps s (execLinkRetrain port s) := by
  unfold execLinkRetrain; apply onUnit_pending <;> intros <;> (repeat' split) <;> simp 

theorem execFwStage_pending (img : FwImage) (s : State) : Keeps s (execFwStage img s) := by simp [execFwStage]

@[simp] theorem mirrorsChecked_pending (r : MaintReq) (bad : List Bool) (code : Nat) (s : State) : (mirrorsChecked r bad code s).pending = s.pending := by
  rfl

theorem execCkptMirrorVerify_pending (s : State) : Keeps s (execCkptMirrorVerify s) := by simp [execCkptMirrorVerify]

@[simp] theorem maintRelease_pending (r : MaintReq) (s : State) : (maintRelease r s).pending = s.pending := by
  simp only [maintRelease]; (repeat' split) <;> simp 

@[simp] theorem maintFinish_pending (r : MaintReq) (code : Nat) (s : State) : (maintFinish r code s).pending = s.pending := by
  simp [maintFinish]

theorem execMaintEnd_pending (activity port : Nat) (s : State) : Keeps s (execMaintEnd activity port s) := by
  simp only [execMaintEnd]; (repeat' split) <;> simp 

@[simp] theorem firmwareArrived_pending (data : List Byte) (ok : Bool) (s : State) : (firmwareArrived data ok s).pending = s.pending := by
  simp only [firmwareArrived]; (repeat' split) <;> simp 

@[simp] theorem maintReset_pending (tell : Bool) (s : State) : (maintReset tell s).pending = s.pending := by
  simp (disch := (intros; simp )) [maintReset, foldl_pending]

end Sys2Proof.Machine
end

