-- ==== Sys2Proof/Laws/PHealth.lean ====
section
/-!
SUPPORT. What no function of `Machine/Health.lean` does: touch the queue of the commands that wait.
-/
namespace Sys2Proof.Machine

theorem execFecIntervalEnd_pending (link lane corrections replays : Nat) (s : State) : Keeps s (execFecIntervalEnd link lane corrections replays s) := by
  unfold execFecIntervalEnd; apply onUnit_pending <;> intros <;> simp 

end Sys2Proof.Machine
end

