-- ==== Sys2Proof/Laws/PHeadframe.lean ====
section
/-!
SUPPORT. What no function of `Machine/Headframe.lean` does: touch the queue of the commands that wait.
-/
namespace Sys2Proof.Machine

@[simp] theorem checkDik_pending (s : State) : (checkDik s).pending = s.pending := by simp [checkDik]

@[simp] theorem aliasOver_pending (s : State) : (aliasOver s).pending = s.pending := by rfl

@[simp] theorem certifyGo_pending (a0 : Nat) (a1 : State) : (certifyGo a0 a1).pending = a1.pending := by
  induction a0 generalizing a1 <;> first | rfl | (rename_i ih; simp only [certifyGo]; repeat' first | intro _ | (simp [ih]; done) | refine (foldl_pending _ ?_ _ _).trans ?_ | refine (foldl_pending_fst _ ?_ _ _).trans ?_ | refine (foldl_pending_snd _ ?_ _ _).trans ?_ | dsimp only | split | simp [ih])

@[simp] theorem certify_pending (s : State) : (certify s).pending = s.pending := by simp [certify]

@[simp] theorem renewAlias_pending (s : State) : (renewAlias s).pending = s.pending := by simp [renewAlias]

@[simp] theorem serveAttestGo_pending (a0 : List AttestJob) (a1 : State) : (serveAttestGo a0 a1).pending = a1.pending := by
  induction a0 generalizing a1 <;> first | rfl | (rename_i ih; simp only [serveAttestGo]; repeat' first | intro _ | (simp [ih]; done) | refine (foldl_pending _ ?_ _ _).trans ?_ | refine (foldl_pending_fst _ ?_ _ _).trans ?_ | refine (foldl_pending_snd _ ?_ _ _).trans ?_ | dsimp only | split | simp [ih])

@[simp] theorem serveAttest_pending (s : State) : (serveAttest s).pending = s.pending := by simp [serveAttest]

@[simp] theorem cmdAttest_pending (c : CmdRef) (nonce : List Byte) (addr len : Nat) (s : State) : (cmdAttest c nonce addr len s).pending = s.pending := by
  simp [cmdAttest]

theorem execAttest_pending (id : BitVec 16) (nonce : BitVec 256) (addr : BitVec 64) (len : BitVec 32) (s : State) : Keeps s (execAttest id nonce addr len s) := by
  simp [execAttest]

theorem execAttestSigned_pending (s : State) : Keeps s (execAttestSigned s) := by
  simp only [execAttestSigned]; (repeat' split) <;> simp 

theorem execAliasGenerated_pending (s : State) : Keeps s (execAliasGenerated s) := by simp [execAliasGenerated]

theorem execDikReservationWrite_pending (s : State) : Keeps s (execDikReservationWrite s) := by
  simp [execDikReservationWrite]

end Sys2Proof.Machine
end

