-- ==== Sys2Proof/Laws/PObserve.lean ====
section
/-!
SUPPORT. What no function of `Machine/Observe.lean` does: touch the queue of the commands that wait.
-/
namespace Sys2Proof.Machine

@[simp] theorem ringBasePut_pending (v m : Nat) (s : State) : (ringBasePut v m s).pending = s.pending := by rfl

@[simp] theorem raiseTrip_pending (s : State) : (raiseTrip s).pending = s.pending := by
  simp only [raiseTrip]; (repeat' split) <;> simp 

@[simp] theorem ringSizePut_pending (v m : Nat) (s : State) : (ringSizePut v m s).pending = s.pending := by
  simp [ringSizePut]

@[simp] theorem evtTailPut_pending (v m : Nat) (s : State) : (evtTailPut v m s).pending = s.pending := by
  simp [evtTailPut]

theorem execEvtRingSizeWrite_pending (v : BitVec 64) (s : State) : Keeps s (execEvtRingSizeWrite v s) := by
  simp [execEvtRingSizeWrite]

theorem execEvtTailWrite_pending (v : BitVec 64) (s : State) : Keeps s (execEvtTailWrite v s) := by
  simp [execEvtTailWrite]

theorem execEventRecordLanded_pending (s : State) : Keeps s (execEventRecordLanded s) := by
  simp [execEventRecordLanded]

@[simp] theorem clearGroups_pending (bits : Nat) (s : State) : (clearGroups bits s).pending = s.pending := by rfl

theorem execCtrClear_pending (v : BitVec 64) (s : State) : Keeps s (execCtrClear v s) := by simp [execCtrClear]

@[simp] theorem rtcPut_pending (v m : Nat) (s : State) : (rtcPut v m s).pending = s.pending := by rfl

theorem execLampRtcWrite_pending (v : BitVec 64) (s : State) : Keeps s (execLampRtcWrite v s) := by
  simp [execLampRtcWrite]

@[simp] theorem cmpPut_pending (n v m : Nat) (s : State) : (cmpPut n v m s).pending = s.pending := by rfl

@[simp] theorem cmpThrPut_pending (n v m : Nat) (s : State) : (cmpThrPut n v m s).pending = s.pending := by rfl

@[simp] theorem lampWakePut_pending (v m : Nat) (s : State) : (lampWakePut v m s).pending = s.pending := by rfl

@[simp] theorem sampleCmp_pending (n : Nat) (v : BitVec 64) (s : State) : (sampleCmp n v s).pending = s.pending := by
  simp [sampleCmp]

theorem execComparatorSample_pending (n : Nat) (v : BitVec 64) (s : State) : Keeps s (execComparatorSample n v s) := by
  unfold execComparatorSample; apply onUnit_pending <;> intros <;> simp 

@[simp] theorem sampleClock_pending (qty : Nat) (s : State) : (sampleClock qty s).pending = s.pending := by
  unfold sampleClock
  exact foldl_pending _ (fun t a => by split <;> simp) _ _

@[simp] theorem modeCtlPut_pending (v m : Nat) (s : State) : (modeCtlPut v m s).pending = s.pending := by
  simp [modeCtlPut]

theorem execModeCtlWrite_pending (v : BitVec 64) (s : State) : Keeps s (execModeCtlWrite v s) := by
  simp [execModeCtlWrite]

@[simp] theorem pwrCapPut_pending (v m : Nat) (s : State) : (pwrCapPut v m s).pending = s.pending := by
  simp [pwrCapPut]

theorem execPwrCapWrite_pending (v : BitVec 64) (s : State) : Keeps s (execPwrCapWrite v s) := by
  simp [execPwrCapWrite]

end Sys2Proof.Machine
end

