-- ==== Sys2Proof/Laws/PPowerCtl.lean ====
section
/-!
SUPPORT. What no function of `Machine/PowerCtl.lean` does: touch the queue of the commands that wait.
-/
namespace Sys2Proof.Machine

@[simp] theorem bare_pending (s : State) : (bare s).pending = s.pending := by rfl

@[simp] theorem coldStart_pending (s : State) : (coldStart s).pending = s.pending := by simp [coldStart]

@[simp] theorem warmBegin_pending (kind : ResetSt) (s : State) : (warmBegin kind s).pending = s.pending := by
  simp [warmBegin]

@[simp] theorem warmReset_pending (s : State) : (warmReset s).pending = s.pending := by simp [warmReset]

@[simp] theorem hotClear_pending (s : State) : (hotClear s).pending = s.pending := by rfl

@[simp] theorem hotBegin_pending (s : State) : (hotBegin s).pending = s.pending := by
  simp (disch := (intros; simp )) [hotBegin, foldl_pending]

@[simp] theorem hotReset_pending (s : State) : (hotReset s).pending = s.pending := by simp [hotReset]

@[simp] theorem railsOff_pending (st : Nat) (standby : Standby) (s : State) : (railsOff st standby s).pending = s.pending := by
  simp [railsOff]

@[simp] theorem tryStart_pending (s : State) : (tryStart s).pending = s.pending := by simp [tryStart]

@[simp] theorem reportThrottle_pending (cause n temp f : Nat) (s : State) : (reportThrottle cause n temp f s).pending = s.pending := by
  simp [reportThrottle]

@[simp] theorem sysCtlPut_pending (v m : Nat) (s : State) : (sysCtlPut v m s).pending = s.pending := by
  simp [sysCtlPut]

end Sys2Proof.Machine
end

