-- ==== Sys2Proof/Laws/PResets.lean ====
section
/-!
SUPPORT. What no function of `Machine/Resets.lean` does: touch the queue of the commands that wait.
-/
namespace Sys2Proof.Machine

theorem execInputRise_pending (s : State) : Keeps s (execInputRise s) := by simp [execInputRise]

theorem execStandbyEntry_pending (strap : BitVec 3) (s : State) : Keeps s (execStandbyEntry strap s) := by
  simp [execStandbyEntry]

theorem execInputStableStart_pending (s : State) : Keeps s (execInputStableStart s) := by simp [execInputStableStart]

theorem execBrownout_pending (s : State) : Keeps s (execBrownout s) := by simp [execBrownout]

theorem execInputLoss_pending (s : State) : Keeps s (execInputLoss s) := by simp [execInputLoss]

theorem execOvervoltage_pending (s : State) : Keeps s (execOvervoltage s) := by simp [execOvervoltage]

theorem execPwrEnAssert_pending (s : State) : Keeps s (execPwrEnAssert s) := by simp [execPwrEnAssert]

theorem execPwrEnDeassert_pending (s : State) : Keeps s (execPwrEnDeassert s) := by simp [execPwrEnDeassert]

theorem execResetNLow_pending (s : State) : Keeps s (execResetNLow s) := by simp [execResetNLow]

theorem execResetNRelease_pending (s : State) : Keeps s (execResetNRelease s) := by
  simp only [execResetNRelease]; (repeat' split) <;> simp 

theorem execRailsOff_pending (s : State) : Keeps s (execRailsOff s) := by simp [execRailsOff]

theorem execWarm_pending (s : State) : Keeps s (execWarm s) := by simp [execWarm]

theorem execHot_pending (s : State) : Keeps s (execHot s) := by simp [execHot]

theorem execHotResetComplete_pending (s : State) : Keeps s (execHotResetComplete s) := by simp [execHotResetComplete]

@[simp] theorem bootImage_pending (b fell : Bool) (s : State) : (bootImage b fell s).pending = s.pending := by
  simp [bootImage]

theorem execBootVerified_pending (failedA failedB : Option Nat) (s : State) : Keeps s (execBootVerified failedA failedB s) := by
  simp [execBootVerified]

theorem execRailsInRegulation_pending (s : State) : Keeps s (execRailsInRegulation s) := by
  simp [execRailsInRegulation]

theorem execRailTimeout_pending (rail : Nat) (s : State) : Keeps s (execRailTimeout rail s) := by
  simp [execRailTimeout]

theorem execSelfTestComplete_pending (badCells : List Nat) (s : State) : Keeps s (execSelfTestComplete badCells s) := by
  unfold execSelfTestComplete; apply onUnit_pending; repeat' first | intro _ | (simp ; done) | refine (foldl_pending _ ?_ _ _).trans ?_ | refine (foldl_pending_fst _ ?_ _ _).trans ?_ | refine (foldl_pending_snd _ ?_ _ _).trans ?_ | dsimp only | split | simp 

@[simp] theorem enablePorts_pending (s : State) : (enablePorts s).pending = s.pending := by simp [enablePorts]

theorem execMemoryTrainingComplete_pending (failed : List Nat) (s : State) : Keeps s (execMemoryTrainingComplete failed s) := by
  unfold execMemoryTrainingComplete; apply onUnit_pending; repeat' first | intro _ | (simp ; done) | refine (foldl_pending _ ?_ _ _).trans ?_ | refine (foldl_pending_fst _ ?_ _ _).trans ?_ | refine (foldl_pending_snd _ ?_ _ _).trans ?_ | dsimp only | split | simp 

@[simp] theorem blowFuses_pending (s : State) : (blowFuses s).pending = s.pending := by rfl

theorem execReadyReached_pending (s : State) : Keeps s (execReadyReached s) := by simp [execReadyReached]

theorem execThermtrip_pending (die temp : Nat) (s : State) : Keeps s (execThermtrip die temp s) := by
  unfold execThermtrip; apply onUnit_pending <;> intros <;> simp 

theorem execThermalSlowCheck_pending (die temp : Nat) (s : State) : Keeps s (execThermalSlowCheck die temp s) := by
  unfold execThermalSlowCheck; apply onUnit_pending <;> intros <;> simp 

theorem execThermalRecoverCheck_pending (die temp : Nat) (s : State) : Keeps s (execThermalRecoverCheck die temp s) := by
  unfold execThermalRecoverCheck; apply onUnit_pending <;> intros <;> simp 

theorem execCurrentLimit_pending (s : State) : Keeps s (execCurrentLimit s) := by
  simp (disch := (intros; simp )) [execCurrentLimit, foldl_pending]

theorem execCurrentRecoverStep_pending (ma10 : Nat) (s : State) : Keeps s (execCurrentRecoverStep ma10 s) := by
  simp [execCurrentRecoverStep]

theorem execCapRecompute_pending (mean : Nat) (s : State) : Keeps s (execCapRecompute mean s) := by
  simp [execCapRecompute]

theorem execTelemetrySample_pending (t : Telemetry) (s : State) : Keeps s (execTelemetrySample t s) := by
  unfold execTelemetrySample; apply onUnit_pending <;> intros <;> simp 

end Sys2Proof.Machine
end

