-- ==== Sys2Proof/Laws/PRegRead.lean ====
section
/-!
SUPPORT. What no function of `Machine/RegRead.lean` does: touch the queue of the commands that wait.
-/
namespace Sys2Proof.Machine

@[simp] theorem regRead_pending (off m : Nat) (s : State) : (regRead off m s).pending = s.pending := by
  simp only [regRead]; (repeat' split) <;> simp 

theorem execCellTagsRead_pending (die cell : Nat) (s : State) : Keeps s (execCellTagsRead die cell s) := by
  unfold execCellTagsRead; apply onUnit_pending <;> intros <;> simp 

end Sys2Proof.Machine
end

