-- ==== Sys2Proof/Laws/PRegWrite.lean ====
section
/-!
SUPPORT. What no function of `Machine/RegWrite.lean` does: touch the queue of the commands that wait.
-/
namespace Sys2Proof.Machine

@[simp] theorem pmapBasePut_pending (v m : Nat) (s : State) : (pmapBasePut v m s).pending = s.pending := by
  simp [pmapBasePut]

theorem execPmapBaseWrite_pending (v : BitVec 64) (s : State) : Keeps s (execPmapBaseWrite v s) := by
  simp [execPmapBaseWrite]

@[simp] theorem fencePut_pending (v m : Nat) (s : State) : (fencePut v m s).pending = s.pending := by simp [fencePut]

theorem execPmapFenceReg_pending (s : State) : Keeps s (execPmapFenceReg s) := by simp [execPmapFenceReg]

@[simp] theorem bxlCtlPut_pending (v m : Nat) (s : State) : (bxlCtlPut v m s).pending = s.pending := by
  simp [bxlCtlPut]

@[simp] theorem portPut_pending (p o v m : Nat) (s : State) : (portPut p o v m s).pending = s.pending := by
  simp only [portPut]; (repeat' split) <;> simp 

@[simp] theorem tallyPut_pending (site o v m : Nat) (s : State) : (tallyPut site o v m s).pending = s.pending := by
  simp only [tallyPut]; (repeat' split) <;> simp 

theorem execArbClear_pending (site : Nat) (s : State) : Keeps s (execArbClear site s) := by
  unfold execArbClear; apply onUnit_pending <;> intros <;> simp 

@[simp] theorem ovfPut_pending (off v m : Nat) (s : State) : (ovfPut off v m s).pending = s.pending := by rfl

@[simp] theorem pwrStatusPut_pending (v m : Nat) (s : State) : (pwrStatusPut v m s).pending = s.pending := by rfl

theorem sysPut_pending (o : Nat) (f : Nat → Nat → State → State) (h : sysPut o = some f) (v m : Nat) (s : State) :
   (f v m s).pending = s.pending := by
  unfold sysPut at h
  split at h <;> cases h <;> simp

theorem hfPut_pending (o : Nat) (f : Nat → Nat → State → State) (h : hfPut o = some f) (v m : Nat) (s : State) :
   (f v m s).pending = s.pending := by
  unfold hfPut at h
  repeat' split at h
  all_goals cases h <;> simp

theorem lampPut_pending (o : Nat) (f : Nat → Nat → State → State) (h : lampPut o = some f) (v m : Nat) (s : State) :
   (f v m s).pending = s.pending := by
  unfold lampPut at h
  split at h
  · cases h; split <;> simp
  · repeat' split at h
    all_goals cases h <;> simp

theorem bxlPut_pending (o : Nat) (f : Nat → Nat → State → State) (h : bxlPut o = some f) (v m : Nat) (s : State) :
   (f v m s).pending = s.pending := by
  unfold bxlPut at h
  split at h <;> cases h <;> simp

theorem obsPut_pending (o : Nat) (f : Nat → Nat → State → State) (h : obsPut o = some f) (v m : Nat) (s : State) :
   (f v m s).pending = s.pending := by
  unfold obsPut at h
  split at h <;> cases h <;> simp

theorem galPut_pending (g o : Nat) (f : Nat → Nat → State → State) (h : galPut g o = some f) (v m : Nat) (s : State) :
   (f v m s).pending = s.pending := by
  unfold galPut at h
  dsimp only at h
  repeat' split at h
  all_goals first | (rw [← Option.some.inj h]; simp) | nomatch h

theorem diePut_pending (site o : Nat) (f : Nat → Nat → State → State) (h : diePut site o = some f) (v m : Nat) (s : State) :
   (f v m s).pending = s.pending := by
  unfold diePut at h
  split at h
  · rw [← Option.some.inj h]; simp
  · nomatch h

theorem blockPut_pending (off : Nat) (f : Nat → Nat → State → State) (h : blockPut off = some f) (v m : Nat) (s : State) :
   (f v m s).pending = s.pending := by
  unfold blockPut at h
  split at h; · exact diePut_pending _ _ _ h _ _ _
  split at h; · exact diePut_pending _ _ _ h _ _ _
  split at h; · exact galPut_pending _ _ _ h _ _ _
  split at h; · cases h
  split at h
  · repeat' split at h
    all_goals cases h <;> simp
  split at h; · exact obsPut_pending _ _ h _ _ _
  split at h; · exact bxlPut_pending _ _ h _ _ _
  split at h; · exact lampPut_pending _ _ h _ _ _
  split at h; · exact hfPut_pending _ _ h _ _ _
  exact sysPut_pending _ _ h _ _ _

@[simp] theorem regPut_pending (off v m : Nat) (s : State) : (regPut off v m s).pending = s.pending := by
  unfold regPut
  split
  · rename_i f h; exact blockPut_pending _ _ h _ _ _
  · rfl

end Sys2Proof.Machine
end

