-- ==== Sys2Proof/Laws/PTransfer.lean ====
section
/-!
SUPPORT. What no function of `Machine/Transfer.lean` does: touch the queue of the commands that wait.
-/
namespace Sys2Proof.Machine

@[simp] theorem regsRead_pending (a0 : Nat) (a1 : Nat) (a2 : State) : (regsRead a0 a1 a2).2.pending = a2.pending := by
  induction a0 generalizing a1 a2 <;> first | rfl | (rename_i ih; simp only [regsRead]; repeat' first | intro _ | (simp [ih]; done) | refine (foldl_pending _ ?_ _ _).trans ?_ | refine (foldl_pending_fst _ ?_ _ _).trans ?_ | refine (foldl_pending_snd _ ?_ _ _).trans ?_ | dsimp only | split | simp [ih])

@[simp] theorem regsWrite_pending (d : List Byte) (off : Nat) (s : State) : (regsWrite d off s).pending = s.pending := by
  fun_induction regsWrite d off s with
  | case1 => simp_all
  | case2 => rfl

@[simp] theorem endRead_pending (g : GAddr) (len : Nat) (s : State) : (endRead g len s).2.pending = s.pending := by
  simp only [endRead]; (repeat' split) <;> simp 

@[simp] theorem endWrite_pending (k : Nat) (p : Nat × List Byte) (s : State) : (endWrite k p s).pending = s.pending := by
  simp [endWrite]

@[simp] theorem bareSignals_pending (u : StreamAt) (w : MoveWord) (m : MoveArgs) (s : State) : (bareSignals u w m s).pending = s.pending := by
  simp (disch := (intros; simp )) [bareSignals, foldl_pending]

@[simp] theorem moveOut_pending (u : StreamAt) (w : MoveWord) (m : MoveArgs) (pieces : List (Nat × List Byte)) (s : State) : (moveOut u w m pieces s).pending = s.pending := by
  simp only [moveOut]; (repeat' split) <;> simp (disch := (intros; (repeat' split) <;> simp )) [foldl_pending]

@[simp] theorem moveIn_pending (u : StreamAt) (w : MoveWord) (m : MoveArgs) (rows : List (Nat × List Nat)) (s : State) : (moveIn u w m rows s).pending = s.pending := by
  simp (disch := (intros; simp )) [moveIn, foldl_pending]

@[simp] theorem moveRead_pending (len : Nat) (l : List (Nat × List Nat)) (s : State) : (moveRead len l s).2.pending = s.pending := by
  induction l generalizing s with
  | nil => rfl
  | cons x rest ih =>
    unfold moveRead
    split <;> simp [ih]

@[simp] theorem moveStart_pending  (u : StreamAt) (w : MoveWord) (m : MoveArgs) (list : Bool) (rows : List (Nat × List Nat)) (s : State) :
   (moveStart u w m list rows s).pending = s.pending := by
  unfold moveStart; simp [moveRead_pending]

@[simp] theorem moveEffect_pending (two list : Bool) (u : StreamAt) (p : Pred) (w : MoveWord) (s : State) : (moveEffect two list u p w s).pending = s.pending := by
  simp only [moveEffect]; (repeat' split) <;> simp 

theorem execMove_pending (u : StreamAt) (p : Pred) (w : MoveWord) (s : State) : Keeps s (execMove u p w s) := by
  unfold execMove; apply issue_pending <;> intros <;> simp 

theorem execMove2_pending (u : StreamAt) (p : Pred) (w : MoveWord) (s : State) : Keeps s (execMove2 u p w s) := by
  unfold execMove2; apply issue_pending <;> intros <;> simp 

theorem execMovel_pending (u : StreamAt) (p : Pred) (w : MoveWord) (s : State) : Keeps s (execMovel u p w s) := by
  unfold execMovel; apply issue_pending <;> intros <;> simp 

theorem execTransferComplete_pending (cell stream tag : Nat) (s : State) : Keeps s (execTransferComplete cell stream tag s) := by
  unfold execTransferComplete; apply onUnit_pending; repeat' first | intro _ | (simp ; done) | refine (foldl_pending _ ?_ _ _).trans ?_ | refine (foldl_pending_fst _ ?_ _ _).trans ?_ | refine (foldl_pending_snd _ ?_ _ _).trans ?_ | dsimp only | split | simp 

end Sys2Proof.Machine
end

