-- ==== Sys2Proof/Laws/PHostLink.lean ====
section
/-!
SUPPORT. What no function of `Machine/HostLink.lean` does: touch the queue of the commands that wait.
-/
namespace Sys2Proof.Machine

@[simp] theorem hostPut_pending (space addr : Nat) (data : List Byte) (s : State) : (hostPut space addr data s).pending = s.pending := by
  simp [hostPut]

@[simp] theorem hostGet_pending (space addr n tag : Nat) (s : State) : (hostGet space addr n tag s).pending = s.pending := by
  simp [hostGet]

theorem execMwr_pending (space : BitVec 8) (addr : BitVec 64) (data : List Byte) (s : State) : Keeps s (execMwr space addr data s) := by
  simp [execMwr]

theorem execMrd_pending (space : BitVec 8) (addr : BitVec 64) (len tag : Nat) (s : State) : Keeps s (execMrd space addr len tag s) := by
  simp [execMrd]

@[simp] theorem runCommand_pending (c : CmdRef) (d : List Byte) (s : State) : (runCommand c d s).pending = s.pending := by
  simp only [runCommand]; (repeat' split) <;> simp 

@[simp] theorem cmdArrived_pending (d : List Byte) (s : State) : (cmdArrived d s).pending = s.pending := by
  simp [cmdArrived]

@[simp] theorem cmdLost_pending (s : State) : (cmdLost s).pending = s.pending := by simp [cmdLost]

@[simp] theorem readAnswered_pending (r : HostRead) (data : List Byte) (ok : Bool) (s : State) : (readAnswered r data ok s).pending = s.pending := by
  simp only [readAnswered]; (repeat' split) <;> simp 

@[simp] theorem drspTake_pending (tag flags : Nat) (data : List Byte) (s : State) : (drspTake tag flags data s).pending = s.pending := by
  simp only [drspTake]; (repeat' split) <;> simp 

theorem execDrsp_pending (tag : Nat) (flags : BitVec 8) (data : List Byte) (s : State) : Keeps s (execDrsp tag flags data s) := by
  simp [execDrsp]

@[simp] theorem cxlAnswer_pending (tag addr : Nat) (poison : Bool) (data : List Byte) (s : State) : (cxlAnswer tag addr poison data s).pending = s.pending := by
  simp [cxlAnswer]

@[simp] theorem cxlRead_pending (tag addr : Nat) (s : State) : (cxlRead tag addr s).pending = s.pending := by
  simp only [cxlRead]; (repeat' split) <;> simp 

@[simp] theorem cxlWrite_pending (tag addr : Nat) (data : List Byte) (enables : BitVec 64) (s : State) :
   (cxlWrite tag addr data enables s).pending = s.pending := by
  unfold cxlWrite
  split; · rfl
  dsimp only
  split
  · simp only [cxlAnswer_pending]
    split
    · simp
    · exact foldl_pending _ (fun t a => by split <;> simp) _ _
  · simp

theorem execCxlMemrd_pending (tag : Nat) (addr : BitVec 64) (s : State) : Keeps s (execCxlMemrd tag addr s) := by
  simp [execCxlMemrd]

theorem execCxlMemrddata_pending (tag : Nat) (addr : BitVec 64) (s : State) : Keeps s (execCxlMemrddata tag addr s) := by
  simp [execCxlMemrddata]

theorem execCxlMemwr_pending (tag : Nat) (addr : BitVec 64) (data : List Byte) (s : State) : Keeps s (execCxlMemwr tag addr data s) := by
  simp [execCxlMemwr]

theorem execCxlMemwrptl_pending (tag : Nat) (addr : BitVec 64) (data : List Byte) (enables : BitVec 64) (s : State) : Keeps s (execCxlMemwrptl tag addr data enables s) := by
  simp [execCxlMemwrptl]

theorem execCxlMemspecrd_pending (a0 : BitVec 64) (s : State) : Keeps s (execCxlMemspecrd a0 s) := by
  simp [execCxlMemspecrd]

@[simp] theorem cxlRequest_pending (opx tag addr : Nat) (data : List Byte) (s : State) : (cxlRequest opx tag addr data s).pending = s.pending := by
  simp only [cxlRequest]; (repeat' split) <;> simp 

@[simp] theorem lmsgTake_pending (data : List Byte) (s : State) : (lmsgTake data s).pending = s.pending := by
  simp [lmsgTake]

theorem execLmsg_pending (data : List Byte) (s : State) : Keeps s (execLmsg data s) := by simp [execLmsg]

@[simp] theorem resetTake_pending (opx : Nat) (s : State) : (resetTake opx s).pending = s.pending := by
  simp [resetTake]

theorem execInbandReset_pending (opx : BitVec 8) (s : State) : Keeps s (execInbandReset opx s) := by
  simp [execInbandReset]

@[simp] theorem msgTake_pending (m : HostMsg) (data : List Byte) (s : State) : (msgTake m data s).pending = s.pending := by
  simp only [msgTake]; (repeat' split) <;> simp 

@[simp] theorem msgsTake_pending (a0 : Nat) (a1 : List Byte) (a2 : State) : (msgsTake a0 a1 a2).pending = a2.pending := by
  induction a0 generalizing a1 a2 <;> first | rfl | (rename_i ih; simp only [msgsTake]; repeat' first | intro _ | (simp [ih]; done) | refine (foldl_pending _ ?_ _ _).trans ?_ | refine (foldl_pending_fst _ ?_ _ _).trans ?_ | refine (foldl_pending_snd _ ?_ _ _).trans ?_ | dsimp only | split | simp [ih])

@[simp] theorem slotsTake_pending (body : List Byte) (s : State) : (slotsTake body s).pending = s.pending := by
  simp [slotsTake]

theorem execDataFlit_pending (bytes : List Byte) (s : State) : Keeps s (execDataFlit bytes s) := by
  simp [execDataFlit]

@[simp] theorem linkDown_pending (s : State) : (linkDown s).pending = s.pending := by
  simp (disch := (intros; simp )) [linkDown, foldl_pending]

theorem execBxlDetectExpire_pending (s : State) : Keeps s (execBxlDetectExpire s) := by simp [execBxlDetectExpire]

theorem execLanesEqualised_pending (bad : List Nat) (s : State) : Keeps s (execLanesEqualised bad s) := by
  simp [execLanesEqualised]

theorem execBxlTrainTimeout_pending (s : State) : Keeps s (execBxlTrainTimeout s) := by simp [execBxlTrainTimeout]

theorem execBxlAlignTimeout_pending (s : State) : Keeps s (execBxlAlignTimeout s) := by simp [execBxlAlignTimeout]

theorem execBxlLockLoss_pending (s : State) : Keeps s (execBxlLockLoss s) := by
  simp only [execBxlLockLoss]; (repeat' split) <;> simp 

end Sys2Proof.Machine
end

