-- ==== Sys2Proof/Laws/PSideband.lean ====
section
/-!
SUPPORT. What no function of `Machine/Sideband.lean` does: touch the queue of the commands that wait.
-/
namespace Sys2Proof.Machine

@[simp] theorem sideAnswer_pending (v : Nat) (s : State) : (sideAnswer v s).pending = s.pending := by rfl

theorem execStatusWord_pending (s : State) : Keeps s (execStatusWord s) := by simp [execStatusWord]

theorem execReadVin_pending (s : State) : Keeps s (execReadVin s) := by simp [execReadVin]

theorem execReadIin_pending (s : State) : Keeps s (execReadIin s) := by simp [execReadIin]

theorem execReadPin_pending (s : State) : Keeps s (execReadPin s) := by simp [execReadPin]

theorem execReadTemperature1_pending (s : State) : Keeps s (execReadTemperature1 s) := by simp [execReadTemperature1]

theorem execReadTemperature2_pending (s : State) : Keeps s (execReadTemperature2 s) := by simp [execReadTemperature2]

theorem execMfrRegAddr_pending (w : Option (BitVec 32)) (s : State) : Keeps s (execMfrRegAddr w s) := by
  simp only [execMfrRegAddr]; (repeat' split) <;> simp 

@[simp] theorem sideRefused_pending (r : Bool) (s : State) : (sideRefused r s).pending = s.pending := by rfl

theorem execMfrRegDataRead_pending (s : State) : Keeps s (execMfrRegDataRead s) := by simp [execMfrRegDataRead]

theorem execMfrRegDataWrite_pending (v : BitVec 64) (s : State) : Keeps s (execMfrRegDataWrite v s) := by
  simp [execMfrRegDataWrite]

theorem execMfrAlertCause_pending (s : State) : Keeps s (execMfrAlertCause s) := by simp [execMfrAlertCause]

theorem execMfrPwrCap_pending (w : Option (BitVec 16)) (s : State) : Keeps s (execMfrPwrCap w s) := by
  simp only [execMfrPwrCap]; (repeat' split) <;> simp 

theorem execDynamicAddressAssign_pending (addr : Nat) (s : State) : Keeps s (execDynamicAddressAssign addr s) := by
  simp [execDynamicAddressAssign]

theorem execRstdaa_pending (s : State) : Keeps s (execRstdaa s) := by simp [execRstdaa]

theorem execJtagAccess_pending (op : JtagOp) (s : State) : Keeps s (execJtagAccess op s) := by
  simp only [execJtagAccess]; (repeat' split) <;> simp 

end Sys2Proof.Machine
end

