-- ==== Sys2Proof/Laws/PTick.lean ====
section
/-!
SUPPORT. What no function of `Machine/Tick.lean` does: touch the queue of the commands that wait.
-/
namespace Sys2Proof.Machine

@[simp] theorem tickCell_pending (n : Nat) (s : State) (k : Nat) : (tickCell n s k).pending = s.pending := by
  simp (disch := (intros; simp )) [tickCell, foldl_pending]

@[simp] theorem tickMc_pending (s : State) (ctl : Nat) : (tickMc s ctl).pending = s.pending := by simp [tickMc]

@[simp] theorem tickGal_pending (n g : Nat) (cause : Option StallCause) (busy : Bool) (s : State) : (tickGal n g cause busy s).pending = s.pending := by
  simp only [tickGal]; (repeat' split) <;> simp 

@[simp] theorem addWait_pending (n : Nat) (s : State) : (addWait n s).pending = s.pending := by simp [addWait]

@[simp] theorem tickHop_pending (n : Nat) (s : State) (g : Nat) : (tickHop n s g).pending = s.pending := by
  simp [tickHop]

@[simp] theorem tickColl_pending (n : Nat) (s : State) (g : Nat) : (tickColl n s g).pending = s.pending := by
  simp [tickColl]

@[simp] theorem tickGather_pending (n : Nat) (s : State) (g : Nat) : (tickGather n s g).pending = s.pending := by
  simp [tickGather]

@[simp] theorem tickBell_pending (n : Nat) (s : State) : (tickBell n s).pending = s.pending := by simp [tickBell]

@[simp] theorem tickEgress_pending (n : Nat) (s : State) (p : Nat) : (tickEgress n s p).pending = s.pending := by
  simp [tickEgress]

@[simp] theorem tickBuffers_pending (s : State) : (tickBuffers s).pending = s.pending := by
  unfold tickBuffers
  exact foldl_pending _ (fun t p => foldl_pending _ (fun t a => by split <;> simp) _ _) _ _

@[simp] theorem tickDecoder_pending (n : Nat) (s : State) : (tickDecoder n s).pending = s.pending := by
  simp only [tickDecoder]; (repeat' split) <;> simp 

@[simp] theorem tickEngine_pending (s : State) (d : Nat) : (tickEngine s d).pending = s.pending := by
  simp only [tickEngine]; (repeat' split) <;> simp 

@[simp] theorem crystalEdge_pending (s : State) : (crystalEdge s).pending = s.pending := by simp [crystalEdge]

@[simp] theorem tickCrystal_pending (s : State) : (tickCrystal s).pending = s.pending := by simp [tickCrystal]

@[simp] theorem tickLamp_pending (s : State) : (tickLamp s).pending = s.pending := by simp [tickLamp]

@[simp] theorem cellError_pending (k bank row : Nat) (ue : Bool) (s : State) : (cellError k bank row ue s).pending = s.pending := by
  simp only [cellError]; (repeat' split) <;> simp 

@[simp] theorem dieError_pending (site block : Nat) (ue : Bool) (s : State) : (dieError site block ue s).pending = s.pending := by
  simp [dieError]

@[simp] theorem tickErrors_pending (s : State) : (tickErrors s).pending = s.pending := by
  simp only [tickErrors]; (repeat' split) <;> simp 

@[simp] theorem tickWaits_pending (s : State) : (tickWaits s).pending = s.pending := by
  simp (disch := (intros; simp )) [tickWaits, foldl_pending]

@[simp] theorem idle_pending (s : State) : (idle s).pending = s.pending := by simp [idle]

end Sys2Proof.Machine
end

