-- ==== Sys2Proof/Laws/Report.lean ====
section
/-!
SUPPORT. Counting, raising an event, completing a command and talking to the host change nothing but
counters, overflow bits, the event block and the host link.
-/
namespace Sys2Proof.Machine

theorem OnlyReport.refl (s : State) : OnlyReport s s := rfl

theorem OnlyReport.trans {s t u : State} (h : OnlyReport s t) (g : OnlyReport t u) : OnlyReport s u := by
  unfold OnlyReport at *
  rw [h] at g
  exact g

/-- Nothing but the reports changed in a fold of steps that change nothing else. -/
theorem OnlyReport.foldl {α : Type} (f : State → α → State) (h : ∀ s a, OnlyReport s (f s a)) :
    ∀ (l : List α) (s : State), OnlyReport s (l.foldl f s)
  | [], s => .refl s
  | a :: l, s => (h s a).trans (OnlyReport.foldl f h l (f s a))

theorem report_bxl (s : State) (b : Bxl) : OnlyReport s { s with bxl := b } := rfl
theorem report_obs (s : State) (o : Obs) : OnlyReport s { s with obs := o } := rfl
theorem report_ctr (s : State) (c : Table Nat) : OnlyReport s { s with ctr := c } := rfl

theorem report_setOvf (reg bit group : Nat) (s : State) : OnlyReport s (setOvf reg bit group s).1 := by
  unfold setOvf; dsimp only; split <;> rfl

theorem report_bumpCore (off n : Nat) (s : State) : OnlyReport s (bumpCore off n s).1 := by
  unfold bumpCore; dsimp only
  split
  · rfl
  · split
    · rfl
    · split
      · exact (report_ctr _ _).trans (report_setOvf _ _ _ _)
      · rfl

theorem report_pumpCore (s : State) : OnlyReport s (pumpCore s).1 := rfl

theorem report_raiseRaw (src code flags : Nat) (fields : List (Nat × Nat × Nat)) (s : State) :
    OnlyReport s (raiseRaw src code flags fields s).1 := by
  unfold raiseRaw; dsimp only; split <;> rfl

theorem report_raiseSaturated (off : Nat) (s : State) : OnlyReport s (raiseSaturated off s) := by
  unfold raiseSaturated
  split
  · rfl
  · dsimp only
    exact iteInduction (motive := fun u => OnlyReport s u)
      (fun _ => (report_raiseRaw _ _ _ _ _).trans (report_bumpCore _ _ _)) (fun _ => report_raiseRaw _ _ _ _ _)

theorem report_countLost (s : State) : OnlyReport s (countLost s) := by
  unfold countLost; dsimp only
  split
  · exact (report_bumpCore _ _ _).trans (report_raiseSaturated _ _)
  · exact report_bumpCore _ _ _

theorem report_raiseQ (src code flags : Nat) (fields : List (Nat × Nat × Nat)) (s : State) :
    OnlyReport s (raiseQ src code flags fields s) := by
  unfold raiseQ; dsimp only
  split
  · exact (report_raiseRaw _ _ _ _ _).trans (report_countLost _)
  · exact report_raiseRaw _ _ _ _ _

/-- Counting (R472). -/
theorem report_bump (off n : Nat) (s : State) : OnlyReport s (bump off n s) := by
  unfold bump; dsimp only
  split
  · exact (report_bumpCore _ _ _).trans (report_raiseSaturated _ _)
  · exact report_bumpCore _ _ _

theorem report_pumpLink (s : State) : OnlyReport s (pumpLink s) := (report_pumpCore s).trans (report_bump _ _ _)

/-- Sending a message to the host (R438). -/
theorem report_sendMsg (m : HostMsg) (s : State) : OnlyReport s (sendMsg m s) :=
  (report_bxl s _).trans (report_pumpLink _)

/-- Writing host memory. -/
theorem report_hostWrite (addr : Nat) (data : List Byte) (s : State) : OnlyReport s (hostWrite addr data s) :=
  OnlyReport.foldl _ (fun _ _ => report_sendMsg _ _) _ _

theorem report_issueRead (s : State) : OnlyReport s (issueRead s) := by
  unfold issueRead
  split
  · exact (report_bxl s _).trans (report_sendMsg _ _)
  · rfl

theorem report_hostRead (what : ReadFor) (addr len : Nat) (s : State) : OnlyReport s (hostRead what addr len s) :=
  (report_bxl s _).trans (report_issueRead _)

/-- Reading host memory. -/
theorem report_hostReadRange (f : Nat → ReadFor) (addr len : Nat) (s : State) :
    OnlyReport s (hostReadRange f addr len s) := by
  unfold hostReadRange; dsimp only
  split
  · rfl
  · exact OnlyReport.foldl _ (fun _ _ => report_hostRead _ _ _ _) _ _

theorem report_dropReads (gone : ReadFor → Bool) (s : State) : OnlyReport s (dropReads gone s) := rfl

/-- An interrupt message (R451). -/
theorem report_irq (v : Nat) (s : State) : OnlyReport s (irq v s) := by
  unfold irq
  split
  · rfl
  · exact (report_bxl s _).trans (report_sendMsg _ _)

theorem report_pumpEventsGo : ∀ (l : List Event) (s : State), OnlyReport s (pumpEventsGo l s)
  | [], s => .refl s
  | e :: es, s => by
    unfold pumpEventsGo; dsimp only
    split
    · exact ((report_obs s _).trans (report_hostWrite _ _ _)).trans (report_pumpEventsGo es _)
    · rfl

theorem report_raiseF (src code flags : Nat) (fields : List (Nat × Nat × Nat)) (s : State) :
    OnlyReport s (raiseF src code flags fields s) := (report_raiseQ _ _ _ _ _).trans (report_pumpEventsGo _ _)

/-- Raising an event (R477 to R482). -/
theorem report_raise (src code : Nat) (fields : List (Nat × Nat × Nat)) (s : State) :
    OnlyReport s (raise src code fields s) := report_raiseF _ _ _ _ _

theorem report_pumpCplGo : ∀ (l : List Completion) (s : State), OnlyReport s (pumpCplGo l s)
  | [], s => .refl s
  | c :: cs, s => by
    unfold pumpCplGo; dsimp only
    split
    · exact ((((report_bxl s _).trans (report_hostWrite _ _ _)).trans (report_bxl _ _)).trans (report_irq _ _)).trans
        (report_pumpCplGo cs _)
    · rfl

theorem report_pumpCmds (s : State) : OnlyReport s (pumpCmds s) := by
  unfold pumpCmds; dsimp only
  split
  · exact (report_bxl s _).trans (report_hostRead _ _ _ _)
  · rfl

theorem report_pumpCpl (s : State) : OnlyReport s (pumpCpl s) := report_pumpCplGo _ s

/-- Posting a completion (R443 to R446). -/
theorem report_post (c : Completion) (s : State) : OnlyReport s (post c s) := by
  unfold post
  refine iteInduction (motive := fun u => OnlyReport s u) (fun _ => ?_) (fun _ => rfl)
  exact ((report_bxl s _).trans (report_pumpCpl _)).trans (report_pumpCmds _)

theorem report_complete (cmd : CmdRef) (code : Nat) (s : State) : OnlyReport s (complete cmd code s) := report_post _ _

theorem report_completeR (cmd : CmdRef) (code result : Nat) (s : State) : OnlyReport s (completeR cmd code result s) :=
  report_post _ _

theorem report_completeOpt (cmd : Option CmdRef) (code : Nat) (s : State) : OnlyReport s (completeOpt cmd code s) := by
  unfold completeOpt
  split
  · exact report_complete _ _ _
  · rfl

/-! What a part of the state outside the reports reads as afterwards. -/

theorem OnlyReport.pending {s t : State} (h : OnlyReport s t) : t.pending = s.pending := by rw [h]
theorem OnlyReport.hbm {s t : State} (h : OnlyReport s t) : t.hbm = s.hbm := by rw [h]
theorem OnlyReport.deep {s t : State} (h : OnlyReport s t) : t.deep = s.deep := by rw [h]
theorem OnlyReport.bad {s t : State} (h : OnlyReport s t) : t.bad = s.bad := by rw [h]
theorem OnlyReport.cells {s t : State} (h : OnlyReport s t) : t.cells = s.cells := by rw [h]
theorem OnlyReport.rings {s t : State} (h : OnlyReport s t) : t.rings = s.rings := by rw [h]
theorem OnlyReport.sigs {s t : State} (h : OnlyReport s t) : t.sigs = s.sigs := by rw [h]
theorem OnlyReport.pushes {s t : State} (h : OnlyReport s t) : t.pushes = s.pushes := by rw [h]
theorem OnlyReport.plan {s t : State} (h : OnlyReport s t) : t.plan = s.plan := by rw [h]
theorem OnlyReport.pmap {s t : State} (h : OnlyReport s t) : t.pmap = s.pmap := by rw [h]
theorem OnlyReport.circ {s t : State} (h : OnlyReport s t) : t.circ = s.circ := by rw [h]
theorem OnlyReport.stash {s t : State} (h : OnlyReport s t) : t.stash = s.stash := by rw [h]
theorem OnlyReport.gather {s t : State} (h : OnlyReport s t) : t.gather = s.gather := by rw [h]
theorem OnlyReport.update {s t : State} (h : OnlyReport s t) : t.update = s.update := by rw [h]
theorem OnlyReport.steps {s t : State} (h : OnlyReport s t) : t.steps = s.steps := by rw [h]
theorem OnlyReport.ckpt {s t : State} (h : OnlyReport s t) : t.ckpt = s.ckpt := by rw [h]
theorem OnlyReport.ports {s t : State} (h : OnlyReport s t) : t.ports = s.ports := by rw [h]
theorem OnlyReport.sends {s t : State} (h : OnlyReport s t) : t.sends = s.sends := by rw [h]
theorem OnlyReport.recvs {s t : State} (h : OnlyReport s t) : t.recvs = s.recvs := by rw [h]
theorem OnlyReport.xfers {s t : State} (h : OnlyReport s t) : t.xfers = s.xfers := by rw [h]
theorem OnlyReport.nextXfer {s t : State} (h : OnlyReport s t) : t.nextXfer = s.nextXfer := by rw [h]
theorem OnlyReport.bell {s t : State} (h : OnlyReport s t) : t.bell = s.bell := by rw [h]
theorem OnlyReport.colls {s t : State} (h : OnlyReport s t) : t.colls = s.colls := by rw [h]
theorem OnlyReport.collEngs {s t : State} (h : OnlyReport s t) : t.collEngs = s.collEngs := by rw [h]
theorem OnlyReport.mcs {s t : State} (h : OnlyReport s t) : t.mcs = s.mcs := by rw [h]
theorem OnlyReport.arbs {s t : State} (h : OnlyReport s t) : t.arbs = s.arbs := by rw [h]
theorem OnlyReport.arbWins {s t : State} (h : OnlyReport s t) : t.arbWins = s.arbWins := by rw [h]
theorem OnlyReport.lend {s t : State} (h : OnlyReport s t) : t.lend = s.lend := by rw [h]
theorem OnlyReport.intake {s t : State} (h : OnlyReport s t) : t.intake = s.intake := by rw [h]
theorem OnlyReport.gen {s t : State} (h : OnlyReport s t) : t.gen = s.gen := by rw [h]
theorem OnlyReport.bells {s t : State} (h : OnlyReport s t) : t.bells = s.bells := by rw [h]
theorem OnlyReport.modes {s t : State} (h : OnlyReport s t) : t.modes = s.modes := by rw [h]
theorem OnlyReport.lamp {s t : State} (h : OnlyReport s t) : t.lamp = s.lamp := by rw [h]
theorem OnlyReport.faults {s t : State} (h : OnlyReport s t) : t.faults = s.faults := by rw [h]
theorem OnlyReport.hf {s t : State} (h : OnlyReport s t) : t.hf = s.hf := by rw [h]
theorem OnlyReport.pwr {s t : State} (h : OnlyReport s t) : t.pwr = s.pwr := by rw [h]
theorem OnlyReport.side {s t : State} (h : OnlyReport s t) : t.side = s.side := by rw [h]
theorem OnlyReport.wire {s t : State} (h : OnlyReport s t) : t.wire = s.wire := by rw [h]
theorem OnlyReport.free {s t : State} (h : OnlyReport s t) : t.free = s.free := by rw [h]

@[simp] theorem bump_hbm (off n : Nat) (s : State) : (bump off n s).hbm = s.hbm := (report_bump _ _ _).hbm
@[simp] theorem bump_deep (off n : Nat) (s : State) : (bump off n s).deep = s.deep := (report_bump _ _ _).deep
@[simp] theorem bump_bad (off n : Nat) (s : State) : (bump off n s).bad = s.bad := (report_bump _ _ _).bad
@[simp] theorem bump_cells (off n : Nat) (s : State) : (bump off n s).cells = s.cells := (report_bump _ _ _).cells
@[simp] theorem bump_rings (off n : Nat) (s : State) : (bump off n s).rings = s.rings := (report_bump _ _ _).rings
@[simp] theorem bump_sigs (off n : Nat) (s : State) : (bump off n s).sigs = s.sigs := (report_bump _ _ _).sigs
@[simp] theorem bump_pushes (off n : Nat) (s : State) : (bump off n s).pushes = s.pushes := (report_bump _ _ _).pushes
@[simp] theorem bump_plan (off n : Nat) (s : State) : (bump off n s).plan = s.plan := (report_bump _ _ _).plan
@[simp] theorem bump_pmap (off n : Nat) (s : State) : (bump off n s).pmap = s.pmap := (report_bump _ _ _).pmap
@[simp] theorem bump_circ (off n : Nat) (s : State) : (bump off n s).circ = s.circ := (report_bump _ _ _).circ
@[simp] theorem bump_stash (off n : Nat) (s : State) : (bump off n s).stash = s.stash := (report_bump _ _ _).stash
@[simp] theorem bump_gather (off n : Nat) (s : State) : (bump off n s).gather = s.gather := (report_bump _ _ _).gather
@[simp] theorem bump_update (off n : Nat) (s : State) : (bump off n s).update = s.update := (report_bump _ _ _).update
@[simp] theorem bump_steps (off n : Nat) (s : State) : (bump off n s).steps = s.steps := (report_bump _ _ _).steps
@[simp] theorem bump_ckpt (off n : Nat) (s : State) : (bump off n s).ckpt = s.ckpt := (report_bump _ _ _).ckpt
@[simp] theorem bump_ports (off n : Nat) (s : State) : (bump off n s).ports = s.ports := (report_bump _ _ _).ports
@[simp] theorem bump_sends (off n : Nat) (s : State) : (bump off n s).sends = s.sends := (report_bump _ _ _).sends
@[simp] theorem bump_recvs (off n : Nat) (s : State) : (bump off n s).recvs = s.recvs := (report_bump _ _ _).recvs
@[simp] theorem bump_xfers (off n : Nat) (s : State) : (bump off n s).xfers = s.xfers := (report_bump _ _ _).xfers
@[simp] theorem bump_nextXfer (off n : Nat) (s : State) : (bump off n s).nextXfer = s.nextXfer := (report_bump _ _ _).nextXfer
@[simp] theorem bump_bell (off n : Nat) (s : State) : (bump off n s).bell = s.bell := (report_bump _ _ _).bell
@[simp] theorem bump_colls (off n : Nat) (s : State) : (bump off n s).colls = s.colls := (report_bump _ _ _).colls
@[simp] theorem bump_collEngs (off n : Nat) (s : State) : (bump off n s).collEngs = s.collEngs := (report_bump _ _ _).collEngs
@[simp] theorem bump_mcs (off n : Nat) (s : State) : (bump off n s).mcs = s.mcs := (report_bump _ _ _).mcs
@[simp] theorem bump_arbs (off n : Nat) (s : State) : (bump off n s).arbs = s.arbs := (report_bump _ _ _).arbs
@[simp] theorem bump_arbWins (off n : Nat) (s : State) : (bump off n s).arbWins = s.arbWins := (report_bump _ _ _).arbWins
@[simp] theorem bump_lend (off n : Nat) (s : State) : (bump off n s).lend = s.lend := (report_bump _ _ _).lend
@[simp] theorem bump_intake (off n : Nat) (s : State) : (bump off n s).intake = s.intake := (report_bump _ _ _).intake
@[simp] theorem bump_gen (off n : Nat) (s : State) : (bump off n s).gen = s.gen := (report_bump _ _ _).gen
@[simp] theorem bump_bells (off n : Nat) (s : State) : (bump off n s).bells = s.bells := (report_bump _ _ _).bells
@[simp] theorem bump_modes (off n : Nat) (s : State) : (bump off n s).modes = s.modes := (report_bump _ _ _).modes
@[simp] theorem bump_lamp (off n : Nat) (s : State) : (bump off n s).lamp = s.lamp := (report_bump _ _ _).lamp
@[simp] theorem bump_faults (off n : Nat) (s : State) : (bump off n s).faults = s.faults := (report_bump _ _ _).faults
@[simp] theorem bump_hf (off n : Nat) (s : State) : (bump off n s).hf = s.hf := (report_bump _ _ _).hf
@[simp] theorem bump_pwr (off n : Nat) (s : State) : (bump off n s).pwr = s.pwr := (report_bump _ _ _).pwr
@[simp] theorem bump_side (off n : Nat) (s : State) : (bump off n s).side = s.side := (report_bump _ _ _).side
@[simp] theorem bump_wire (off n : Nat) (s : State) : (bump off n s).wire = s.wire := (report_bump _ _ _).wire
@[simp] theorem bump_free (off n : Nat) (s : State) : (bump off n s).free = s.free := (report_bump _ _ _).free

@[simp] theorem raise_hbm (src code : Nat) (fields : List (Nat × Nat × Nat)) (s : State) : (raise src code fields s).hbm = s.hbm := (report_raise _ _ _ _).hbm
@[simp] theorem raise_deep (src code : Nat) (fields : List (Nat × Nat × Nat)) (s : State) : (raise src code fields s).deep = s.deep := (report_raise _ _ _ _).deep
@[simp] theorem raise_bad (src code : Nat) (fields : List (Nat × Nat × Nat)) (s : State) : (raise src code fields s).bad = s.bad := (report_raise _ _ _ _).bad
@[simp] theorem raise_cells (src code : Nat) (fields : List (Nat × Nat × Nat)) (s : State) : (raise src code fields s).cells = s.cells := (report_raise _ _ _ _).cells
@[simp] theorem raise_rings (src code : Nat) (fields : List (Nat × Nat × Nat)) (s : State) : (raise src code fields s).rings = s.rings := (report_raise _ _ _ _).rings
@[simp] theorem raise_sigs (src code : Nat) (fields : List (Nat × Nat × Nat)) (s : State) : (raise src code fields s).sigs = s.sigs := (report_raise _ _ _ _).sigs
@[simp] theorem raise_pushes (src code : Nat) (fields : List (Nat × Nat × Nat)) (s : State) : (raise src code fields s).pushes = s.pushes := (report_raise _ _ _ _).pushes
@[simp] theorem raise_plan (src code : Nat) (fields : List (Nat × Nat × Nat)) (s : State) : (raise src code fields s).plan = s.plan := (report_raise _ _ _ _).plan
@[simp] theorem raise_pmap (src code : Nat) (fields : List (Nat × Nat × Nat)) (s : State) : (raise src code fields s).pmap = s.pmap := (report_raise _ _ _ _).pmap
@[simp] theorem raise_circ (src code : Nat) (fields : List (Nat × Nat × Nat)) (s : State) : (raise src code fields s).circ = s.circ := (report_raise _ _ _ _).circ
@[simp] theorem raise_stash (src code : Nat) (fields : List (Nat × Nat × Nat)) (s : State) : (raise src code fields s).stash = s.stash := (report_raise _ _ _ _).stash
@[simp] theorem raise_gather (src code : Nat) (fields : List (Nat × Nat × Nat)) (s : State) : (raise src code fields s).gather = s.gather := (report_raise _ _ _ _).gather
@[simp] theorem raise_update (src code : Nat) (fields : List (Nat × Nat × Nat)) (s : State) : (raise src code fields s).update = s.update := (report_raise _ _ _ _).update
@[simp] theorem raise_steps (src code : Nat) (fields : List (Nat × Nat × Nat)) (s : State) : (raise src code fields s).steps = s.steps := (report_raise _ _ _ _).steps
@[simp] theorem raise_ckpt (src code : Nat) (fields : List (Nat × Nat × Nat)) (s : State) : (raise src code fields s).ckpt = s.ckpt := (report_raise _ _ _ _).ckpt
@[simp] theorem raise_ports (src code : Nat) (fields : List (Nat × Nat × Nat)) (s : State) : (raise src code fields s).ports = s.ports := (report_raise _ _ _ _).ports
@[simp] theorem raise_sends (src code : Nat) (fields : List (Nat × Nat × Nat)) (s : State) : (raise src code fields s).sends = s.sends := (report_raise _ _ _ _).sends
@[simp] theorem raise_recvs (src code : Nat) (fields : List (Nat × Nat × Nat)) (s : State) : (raise src code fields s).recvs = s.recvs := (report_raise _ _ _ _).recvs
@[simp] theorem raise_xfers (src code : Nat) (fields : List (Nat × Nat × Nat)) (s : State) : (raise src code fields s).xfers = s.xfers := (report_raise _ _ _ _).xfers
@[simp] theorem raise_nextXfer (src code : Nat) (fields : List (Nat × Nat × Nat)) (s : State) : (raise src code fields s).nextXfer = s.nextXfer := (report_raise _ _ _ _).nextXfer
@[simp] theorem raise_bell (src code : Nat) (fields : List (Nat × Nat × Nat)) (s : State) : (raise src code fields s).bell = s.bell := (report_raise _ _ _ _).bell
@[simp] theorem raise_colls (src code : Nat) (fields : List (Nat × Nat × Nat)) (s : State) : (raise src code fields s).colls = s.colls := (report_raise _ _ _ _).colls
@[simp] theorem raise_collEngs (src code : Nat) (fields : List (Nat × Nat × Nat)) (s : State) : (raise src code fields s).collEngs = s.collEngs := (report_raise _ _ _ _).collEngs
@[simp] theorem raise_mcs (src code : Nat) (fields : List (Nat × Nat × Nat)) (s : State) : (raise src code fields s).mcs = s.mcs := (report_raise _ _ _ _).mcs
@[simp] theorem raise_arbs (src code : Nat) (fields : List (Nat × Nat × Nat)) (s : State) : (raise src code fields s).arbs = s.arbs := (report_raise _ _ _ _).arbs
@[simp] theorem raise_arbWins (src code : Nat) (fields : List (Nat × Nat × Nat)) (s : State) : (raise src code fields s).arbWins = s.arbWins := (report_raise _ _ _ _).arbWins
@[simp] theorem raise_lend (src code : Nat) (fields : List (Nat × Nat × Nat)) (s : State) : (raise src code fields s).lend = s.lend := (report_raise _ _ _ _).lend
@[simp] theorem raise_intake (src code : Nat) (fields : List (Nat × Nat × Nat)) (s : State) : (raise src code fields s).intake = s.intake := (report_raise _ _ _ _).intake
@[simp] theorem raise_gen (src code : Nat) (fields : List (Nat × Nat × Nat)) (s : State) : (raise src code fields s).gen = s.gen := (report_raise _ _ _ _).gen
@[simp] theorem raise_bells (src code : Nat) (fields : List (Nat × Nat × Nat)) (s : State) : (raise src code fields s).bells = s.bells := (report_raise _ _ _ _).bells
@[simp] theorem raise_modes (src code : Nat) (fields : List (Nat × Nat × Nat)) (s : State) : (raise src code fields s).modes = s.modes := (report_raise _ _ _ _).modes
@[simp] theorem raise_lamp (src code : Nat) (fields : List (Nat × Nat × Nat)) (s : State) : (raise src code fields s).lamp = s.lamp := (report_raise _ _ _ _).lamp
@[simp] theorem raise_faults (src code : Nat) (fields : List (Nat × Nat × Nat)) (s : State) : (raise src code fields s).faults = s.faults := (report_raise _ _ _ _).faults
@[simp] theorem raise_hf (src code : Nat) (fields : List (Nat × Nat × Nat)) (s : State) : (raise src code fields s).hf = s.hf := (report_raise _ _ _ _).hf
@[simp] theorem raise_pwr (src code : Nat) (fields : List (Nat × Nat × Nat)) (s : State) : (raise src code fields s).pwr = s.pwr := (report_raise _ _ _ _).pwr
@[simp] theorem raise_side (src code : Nat) (fields : List (Nat × Nat × Nat)) (s : State) : (raise src code fields s).side = s.side := (report_raise _ _ _ _).side
@[simp] theorem raise_wire (src code : Nat) (fields : List (Nat × Nat × Nat)) (s : State) : (raise src code fields s).wire = s.wire := (report_raise _ _ _ _).wire
@[simp] theorem raise_free (src code : Nat) (fields : List (Nat × Nat × Nat)) (s : State) : (raise src code fields s).free = s.free := (report_raise _ _ _ _).free

@[simp] theorem complete_hbm (cmd : CmdRef) (code : Nat) (s : State) : (complete cmd code s).hbm = s.hbm := (report_complete _ _ _).hbm
@[simp] theorem complete_deep (cmd : CmdRef) (code : Nat) (s : State) : (complete cmd code s).deep = s.deep := (report_complete _ _ _).deep
@[simp] theorem complete_bad (cmd : CmdRef) (code : Nat) (s : State) : (complete cmd code s).bad = s.bad := (report_complete _ _ _).bad
@[simp] theorem complete_cells (cmd : CmdRef) (code : Nat) (s : State) : (complete cmd code s).cells = s.cells := (report_complete _ _ _).cells
@[simp] theorem complete_rings (cmd : CmdRef) (code : Nat) (s : State) : (complete cmd code s).rings = s.rings := (report_complete _ _ _).rings
@[simp] theorem complete_sigs (cmd : CmdRef) (code : Nat) (s : State) : (complete cmd code s).sigs = s.sigs := (report_complete _ _ _).sigs
@[simp] theorem complete_pushes (cmd : CmdRef) (code : Nat) (s : State) : (complete cmd code s).pushes = s.pushes := (report_complete _ _ _).pushes
@[simp] theorem complete_plan (cmd : CmdRef) (code : Nat) (s : State) : (complete cmd code s).plan = s.plan := (report_complete _ _ _).plan
@[simp] theorem complete_pmap (cmd : CmdRef) (code : Nat) (s : State) : (complete cmd code s).pmap = s.pmap := (report_complete _ _ _).pmap
@[simp] theorem complete_circ (cmd : CmdRef) (code : Nat) (s : State) : (complete cmd code s).circ = s.circ := (report_complete _ _ _).circ
@[simp] theorem complete_stash (cmd : CmdRef) (code : Nat) (s : State) : (complete cmd code s).stash = s.stash := (report_complete _ _ _).stash
@[simp] theorem complete_gather (cmd : CmdRef) (code : Nat) (s : State) : (complete cmd code s).gather = s.gather := (report_complete _ _ _).gather
@[simp] theorem complete_update (cmd : CmdRef) (code : Nat) (s : State) : (complete cmd code s).update = s.update := (report_complete _ _ _).update
@[simp] theorem complete_steps (cmd : CmdRef) (code : Nat) (s : State) : (complete cmd code s).steps = s.steps := (report_complete _ _ _).steps
@[simp] theorem complete_ckpt (cmd : CmdRef) (code : Nat) (s : State) : (complete cmd code s).ckpt = s.ckpt := (report_complete _ _ _).ckpt
@[simp] theorem complete_ports (cmd : CmdRef) (code : Nat) (s : State) : (complete cmd code s).ports = s.ports := (report_complete _ _ _).ports
@[simp] theorem complete_sends (cmd : CmdRef) (code : Nat) (s : State) : (complete cmd code s).sends = s.sends := (report_complete _ _ _).sends
@[simp] theorem complete_recvs (cmd : CmdRef) (code : Nat) (s : State) : (complete cmd code s).recvs = s.recvs := (report_complete _ _ _).recvs
@[simp] theorem complete_xfers (cmd : CmdRef) (code : Nat) (s : State) : (complete cmd code s).xfers = s.xfers := (report_complete _ _ _).xfers
@[simp] theorem complete_nextXfer (cmd : CmdRef) (code : Nat) (s : State) : (complete cmd code s).nextXfer = s.nextXfer := (report_complete _ _ _).nextXfer
@[simp] theorem complete_bell (cmd : CmdRef) (code : Nat) (s : State) : (complete cmd code s).bell = s.bell := (report_complete _ _ _).bell
@[simp] theorem complete_colls (cmd : CmdRef) (code : Nat) (s : State) : (complete cmd code s).colls = s.colls := (report_complete _ _ _).colls
@[simp] theorem complete_collEngs (cmd : CmdRef) (code : Nat) (s : State) : (complete cmd code s).collEngs = s.collEngs := (report_complete _ _ _).collEngs
@[simp] theorem complete_mcs (cmd : CmdRef) (code : Nat) (s : State) : (complete cmd code s).mcs = s.mcs := (report_complete _ _ _).mcs
@[simp] theorem complete_arbs (cmd : CmdRef) (code : Nat) (s : State) : (complete cmd code s).arbs = s.arbs := (report_complete _ _ _).arbs
@[simp] theorem complete_arbWins (cmd : CmdRef) (code : Nat) (s : State) : (complete cmd code s).arbWins = s.arbWins := (report_complete _ _ _).arbWins
@[simp] theorem complete_lend (cmd : CmdRef) (code : Nat) (s : State) : (complete cmd code s).lend = s.lend := (report_complete _ _ _).lend
@[simp] theorem complete_intake (cmd : CmdRef) (code : Nat) (s : State) : (complete cmd code s).intake = s.intake := (report_complete _ _ _).intake
@[simp] theorem complete_gen (cmd : CmdRef) (code : Nat) (s : State) : (complete cmd code s).gen = s.gen := (report_complete _ _ _).gen
@[simp] theorem complete_bells (cmd : CmdRef) (code : Nat) (s : State) : (complete cmd code s).bells = s.bells := (report_complete _ _ _).bells
@[simp] theorem complete_modes (cmd : CmdRef) (code : Nat) (s : State) : (complete cmd code s).modes = s.modes := (report_complete _ _ _).modes
@[simp] theorem complete_lamp (cmd : CmdRef) (code : Nat) (s : State) : (complete cmd code s).lamp = s.lamp := (report_complete _ _ _).lamp
@[simp] theorem complete_faults (cmd : CmdRef) (code : Nat) (s : State) : (complete cmd code s).faults = s.faults := (report_complete _ _ _).faults
@[simp] theorem complete_hf (cmd : CmdRef) (code : Nat) (s : State) : (complete cmd code s).hf = s.hf := (report_complete _ _ _).hf
@[simp] theorem complete_pwr (cmd : CmdRef) (code : Nat) (s : State) : (complete cmd code s).pwr = s.pwr := (report_complete _ _ _).pwr
@[simp] theorem complete_side (cmd : CmdRef) (code : Nat) (s : State) : (complete cmd code s).side = s.side := (report_complete _ _ _).side
@[simp] theorem complete_wire (cmd : CmdRef) (code : Nat) (s : State) : (complete cmd code s).wire = s.wire := (report_complete _ _ _).wire
@[simp] theorem complete_free (cmd : CmdRef) (code : Nat) (s : State) : (complete cmd code s).free = s.free := (report_complete _ _ _).free

@[simp] theorem irq_hbm (v : Nat) (s : State) : (irq v s).hbm = s.hbm := (report_irq _ _).hbm
@[simp] theorem irq_deep (v : Nat) (s : State) : (irq v s).deep = s.deep := (report_irq _ _).deep
@[simp] theorem irq_bad (v : Nat) (s : State) : (irq v s).bad = s.bad := (report_irq _ _).bad
@[simp] theorem irq_cells (v : Nat) (s : State) : (irq v s).cells = s.cells := (report_irq _ _).cells
@[simp] theorem irq_rings (v : Nat) (s : State) : (irq v s).rings = s.rings := (report_irq _ _).rings
@[simp] theorem irq_sigs (v : Nat) (s : State) : (irq v s).sigs = s.sigs := (report_irq _ _).sigs
@[simp] theorem irq_pushes (v : Nat) (s : State) : (irq v s).pushes = s.pushes := (report_irq _ _).pushes
@[simp] theorem irq_plan (v : Nat) (s : State) : (irq v s).plan = s.plan := (report_irq _ _).plan
@[simp] theorem irq_pmap (v : Nat) (s : State) : (irq v s).pmap = s.pmap := (report_irq _ _).pmap
@[simp] theorem irq_circ (v : Nat) (s : State) : (irq v s).circ = s.circ := (report_irq _ _).circ
@[simp] theorem irq_stash (v : Nat) (s : State) : (irq v s).stash = s.stash := (report_irq _ _).stash
@[simp] theorem irq_gather (v : Nat) (s : State) : (irq v s).gather = s.gather := (report_irq _ _).gather
@[simp] theorem irq_update (v : Nat) (s : State) : (irq v s).update = s.update := (report_irq _ _).update
@[simp] theorem irq_steps (v : Nat) (s : State) : (irq v s).steps = s.steps := (report_irq _ _).steps
@[simp] theorem irq_ckpt (v : Nat) (s : State) : (irq v s).ckpt = s.ckpt := (report_irq _ _).ckpt
@[simp] theorem irq_ports (v : Nat) (s : State) : (irq v s).ports = s.ports := (report_irq _ _).ports
@[simp] theorem irq_sends (v : Nat) (s : State) : (irq v s).sends = s.sends := (report_irq _ _).sends
@[simp] theorem irq_recvs (v : Nat) (s : State) : (irq v s).recvs = s.recvs := (report_irq _ _).recvs
@[simp] theorem irq_xfers (v : Nat) (s : State) : (irq v s).xfers = s.xfers := (report_irq _ _).xfers
@[simp] theorem irq_nextXfer (v : Nat) (s : State) : (irq v s).nextXfer = s.nextXfer := (report_irq _ _).nextXfer
@[simp] theorem irq_bell (v : Nat) (s : State) : (irq v s).bell = s.bell := (report_irq _ _).bell
@[simp] theorem irq_colls (v : Nat) (s : State) : (irq v s).colls = s.colls := (report_irq _ _).colls
@[simp] theorem irq_collEngs (v : Nat) (s : State) : (irq v s).collEngs = s.collEngs := (report_irq _ _).collEngs
@[simp] theorem irq_mcs (v : Nat) (s : State) : (irq v s).mcs = s.mcs := (report_irq _ _).mcs
@[simp] theorem irq_arbs (v : Nat) (s : State) : (irq v s).arbs = s.arbs := (report_irq _ _).arbs
@[simp] theorem irq_arbWins (v : Nat) (s : State) : (irq v s).arbWins = s.arbWins := (report_irq _ _).arbWins
@[simp] theorem irq_lend (v : Nat) (s : State) : (irq v s).lend = s.lend := (report_irq _ _).lend
@[simp] theorem irq_intake (v : Nat) (s : State) : (irq v s).intake = s.intake := (report_irq _ _).intake
@[simp] theorem irq_gen (v : Nat) (s : State) : (irq v s).gen = s.gen := (report_irq _ _).gen
@[simp] theorem irq_bells (v : Nat) (s : State) : (irq v s).bells = s.bells := (report_irq _ _).bells
@[simp] theorem irq_modes (v : Nat) (s : State) : (irq v s).modes = s.modes := (report_irq _ _).modes
@[simp] theorem irq_lamp (v : Nat) (s : State) : (irq v s).lamp = s.lamp := (report_irq _ _).lamp
@[simp] theorem irq_faults (v : Nat) (s : State) : (irq v s).faults = s.faults := (report_irq _ _).faults
@[simp] theorem irq_hf (v : Nat) (s : State) : (irq v s).hf = s.hf := (report_irq _ _).hf
@[simp] theorem irq_pwr (v : Nat) (s : State) : (irq v s).pwr = s.pwr := (report_irq _ _).pwr
@[simp] theorem irq_side (v : Nat) (s : State) : (irq v s).side = s.side := (report_irq _ _).side
@[simp] theorem irq_wire (v : Nat) (s : State) : (irq v s).wire = s.wire := (report_irq _ _).wire
@[simp] theorem irq_free (v : Nat) (s : State) : (irq v s).free = s.free := (report_irq _ _).free

@[simp] theorem hostWrite_hbm (addr : Nat) (data : List Byte) (s : State) : (hostWrite addr data s).hbm = s.hbm := (report_hostWrite _ _ _).hbm
@[simp] theorem hostWrite_deep (addr : Nat) (data : List Byte) (s : State) : (hostWrite addr data s).deep = s.deep := (report_hostWrite _ _ _).deep
@[simp] theorem hostWrite_bad (addr : Nat) (data : List Byte) (s : State) : (hostWrite addr data s).bad = s.bad := (report_hostWrite _ _ _).bad
@[simp] theorem hostWrite_cells (addr : Nat) (data : List Byte) (s : State) : (hostWrite addr data s).cells = s.cells := (report_hostWrite _ _ _).cells
@[simp] theorem hostWrite_rings (addr : Nat) (data : List Byte) (s : State) : (hostWrite addr data s).rings = s.rings := (report_hostWrite _ _ _).rings
@[simp] theorem hostWrite_sigs (addr : Nat) (data : List Byte) (s : State) : (hostWrite addr data s).sigs = s.sigs := (report_hostWrite _ _ _).sigs
@[simp] theorem hostWrite_pushes (addr : Nat) (data : List Byte) (s : State) : (hostWrite addr data s).pushes = s.pushes := (report_hostWrite _ _ _).pushes
@[simp] theorem hostWrite_plan (addr : Nat) (data : List Byte) (s : State) : (hostWrite addr data s).plan = s.plan := (report_hostWrite _ _ _).plan
@[simp] theorem hostWrite_pmap (addr : Nat) (data : List Byte) (s : State) : (hostWrite addr data s).pmap = s.pmap := (report_hostWrite _ _ _).pmap
@[simp] theorem hostWrite_circ (addr : Nat) (data : List Byte) (s : State) : (hostWrite addr data s).circ = s.circ := (report_hostWrite _ _ _).circ
@[simp] theorem hostWrite_stash (addr : Nat) (data : List Byte) (s : State) : (hostWrite addr data s).stash = s.stash := (report_hostWrite _ _ _).stash
@[simp] theorem hostWrite_gather (addr : Nat) (data : List Byte) (s : State) : (hostWrite addr data s).gather = s.gather := (report_hostWrite _ _ _).gather
@[simp] theorem hostWrite_update (addr : Nat) (data : List Byte) (s : State) : (hostWrite addr data s).update = s.update := (report_hostWrite _ _ _).update
@[simp] theorem hostWrite_steps (addr : Nat) (data : List Byte) (s : State) : (hostWrite addr data s).steps = s.steps := (report_hostWrite _ _ _).steps
@[simp] theorem hostWrite_ckpt (addr : Nat) (data : List Byte) (s : State) : (hostWrite addr data s).ckpt = s.ckpt := (report_hostWrite _ _ _).ckpt
@[simp] theorem hostWrite_ports (addr : Nat) (data : List Byte) (s : State) : (hostWrite addr data s).ports = s.ports := (report_hostWrite _ _ _).ports
@[simp] theorem hostWrite_sends (addr : Nat) (data : List Byte) (s : State) : (hostWrite addr data s).sends = s.sends := (report_hostWrite _ _ _).sends
@[simp] theorem hostWrite_recvs (addr : Nat) (data : List Byte) (s : State) : (hostWrite addr data s).recvs = s.recvs := (report_hostWrite _ _ _).recvs
@[simp] theorem hostWrite_xfers (addr : Nat) (data : List Byte) (s : State) : (hostWrite addr data s).xfers = s.xfers := (report_hostWrite _ _ _).xfers
@[simp] theorem hostWrite_nextXfer (addr : Nat) (data : List Byte) (s : State) : (hostWrite addr data s).nextXfer = s.nextXfer := (report_hostWrite _ _ _).nextXfer
@[simp] theorem hostWrite_bell (addr : Nat) (data : List Byte) (s : State) : (hostWrite addr data s).bell = s.bell := (report_hostWrite _ _ _).bell
@[simp] theorem hostWrite_colls (addr : Nat) (data : List Byte) (s : State) : (hostWrite addr data s).colls = s.colls := (report_hostWrite _ _ _).colls
@[simp] theorem hostWrite_collEngs (addr : Nat) (data : List Byte) (s : State) : (hostWrite addr data s).collEngs = s.collEngs := (report_hostWrite _ _ _).collEngs
@[simp] theorem hostWrite_mcs (addr : Nat) (data : List Byte) (s : State) : (hostWrite addr data s).mcs = s.mcs := (report_hostWrite _ _ _).mcs
@[simp] theorem hostWrite_arbs (addr : Nat) (data : List Byte) (s : State) : (hostWrite addr data s).arbs = s.arbs := (report_hostWrite _ _ _).arbs
@[simp] theorem hostWrite_arbWins (addr : Nat) (data : List Byte) (s : State) : (hostWrite addr data s).arbWins = s.arbWins := (report_hostWrite _ _ _).arbWins
@[simp] theorem hostWrite_lend (addr : Nat) (data : List Byte) (s : State) : (hostWrite addr data s).lend = s.lend := (report_hostWrite _ _ _).lend
@[simp] theorem hostWrite_intake (addr : Nat) (data : List Byte) (s : State) : (hostWrite addr data s).intake = s.intake := (report_hostWrite _ _ _).intake
@[simp] theorem hostWrite_gen (addr : Nat) (data : List Byte) (s : State) : (hostWrite addr data s).gen = s.gen := (report_hostWrite _ _ _).gen
@[simp] theorem hostWrite_bells (addr : Nat) (data : List Byte) (s : State) : (hostWrite addr data s).bells = s.bells := (report_hostWrite _ _ _).bells
@[simp] theorem hostWrite_modes (addr : Nat) (data : List Byte) (s : State) : (hostWrite addr data s).modes = s.modes := (report_hostWrite _ _ _).modes
@[simp] theorem hostWrite_lamp (addr : Nat) (data : List Byte) (s : State) : (hostWrite addr data s).lamp = s.lamp := (report_hostWrite _ _ _).lamp
@[simp] theorem hostWrite_faults (addr : Nat) (data : List Byte) (s : State) : (hostWrite addr data s).faults = s.faults := (report_hostWrite _ _ _).faults
@[simp] theorem hostWrite_hf (addr : Nat) (data : List Byte) (s : State) : (hostWrite addr data s).hf = s.hf := (report_hostWrite _ _ _).hf
@[simp] theorem hostWrite_pwr (addr : Nat) (data : List Byte) (s : State) : (hostWrite addr data s).pwr = s.pwr := (report_hostWrite _ _ _).pwr
@[simp] theorem hostWrite_side (addr : Nat) (data : List Byte) (s : State) : (hostWrite addr data s).side = s.side := (report_hostWrite _ _ _).side
@[simp] theorem hostWrite_wire (addr : Nat) (data : List Byte) (s : State) : (hostWrite addr data s).wire = s.wire := (report_hostWrite _ _ _).wire
@[simp] theorem hostWrite_free (addr : Nat) (data : List Byte) (s : State) : (hostWrite addr data s).free = s.free := (report_hostWrite _ _ _).free

end Sys2Proof.Machine
end

