-- ==== Sys2Proof/Tests/Slice0.lean ====
section
/-!
SUPPORT. The model's own tests: ill-formed commands that the check refuses, small computations whose results
the spec or a public standard gives, and for each obligation with hypotheses states that meet them.
-/
namespace Sys2Proof.Tests
open Sys2Proof Sys2Proof.Machine
set_option Elab.async false

/-! ## Ill-formed commands -/

/-- Stream 0 of cell 0. -/
def u0 : StreamAt := ⟨0, 0⟩
/-- A stream of a cell that no die has. -/
def uBad : StreamAt := ⟨100, 0⟩
def noPred : Pred := {}
def mv : MoveWord := ⟨0, 0, 0, 1, false, 0, 1, 0⟩
def mm : MmaWord := ⟨0, 1, false, true, true, 1, 1, 0, 0, 0⟩
def dr : DrainWord := ⟨0, 0, false, 0, 0, false, 0, 1, false, 0, false, 0, false, false, 0, false⟩
def vm : VmemWord := ⟨0, 0, false, 0, false, 0, 0, 3, 0, 0, false, false⟩
def sw : SopWord := ⟨0, 1, 2, 0, 0, false, 0, 0, 0, 0, false, 0, false, false, false⟩
def tb : TabWord := ⟨0, 1, 0, 0, 0, 0, 0, false, false, 0, 0, 0, false, 0, 0, false⟩
def wk : WalkWord := ⟨0, 0, 1, 1, false, 0, 1⟩
/-- A frame at a port of Gallery die 4, which the module does not have. -/
def rxBad : RxFrame := { die := 4, port := 0, f := { typ := 0, cls := 0 } }
/-- A frame of class and type at port 0 of Gallery die 0. -/
def rxOf (cls typ : Nat) : RxFrame := { die := 0, port := 0, f := { typ := typ, cls := cls } }

/-- Stream words that do not decode, and streams of cells that do not exist (R58, R118, R149). -/
theorem test_wf_refuses_stream_words : ([.nop uBad, .stop uBad, .loop u0 0 0 true, .loop uBad 1 3 false, .endl uBad, .call uBad 0,
    .ret uBad, .sli uBad 0 false false 0, .salu u0 ⟨0, false, 0, 0, false, false, 12, 0⟩, .salu u0 ⟨0, false, 0, 0, false, false, 0, 5⟩,
    .sld uBad ⟨0, false, 0, 0⟩, .sst uBad ⟨0, false, 0, 0⟩, .semw u0 0 0, .sems u0 0 0 0, .rpush uBad 0 0, .rpop uBad 0 0,
    .ncinv uBad, .tagw uBad 3 true, .move u0 noPred { mv with dst2 := 1 }, .move2 uBad noPred mv, .movel u0 noPred { mv with dst2 := 1 },
    .vld u0 noPred { vm with fmt := 15 }, .vst u0 noPred { vm with orient := true, ety := 1 }, .vbin u0 noPred 0 0 0 0 10,
    .vfma uBad noPred 0 0 0 0 0, .vcmp u0 noPred 0 0 0 false 0 7, .vcmp u0 noPred 0 0 0 true 0 0, .vsel uBad noPred 0 0 0 0,
    .vcvt u0 noPred 0 0 0 0 true, .vbcast uBad noPred 0 0 0, .vmsk u0 noPred 0 0 0 10 0, .vun u0 noPred 0 0 3 2, .vun u0 noPred 0 0 0 5,
    .vxs uBad noPred 0 0 0, .sopElem u0 noPred { sw with fn := 9 }, .sopElem u0 noPred { sw with fmtX := 15 },
    .sopRed u0 noPred { sw with fn := 4 }, .sopScan u0 noPred { sw with fn := 3 }, .sopSegscan u0 noPred { sw with fn := 3 },
    .sopTopk u0 noPred { sw with fn := 1 }, .sopScan u0 noPred { sw with outmask := true, dRef := 15 }, .sopElem u0 noPred { sw with fn := 6, xRef := 15 }, .sems u0 0 768 1,
    .walk u0 noPred { wk with list := 15 }, .sopCvt u0 noPred { sw with fn := 1 }, .sopFill u0 noPred { sw with n := 15 },
    .tab u0 noPred { tb with mode := 3 }, .tab u0 noPred { tb with fmtD := 5 }, .walk uBad noPred wk, .pmapSet u0 noPred 0 0 1,
    .pmapCow uBad noPred 0 0, .pmapFree uBad noPred 0 0, .pmapFence uBad, .bell u0 0 0 9 0,
    .vbin u0 { men := false, mreg := 1 } 0 0 0 0 0, .mma u0 noPred { mm with fmtA := 15 }, .mmaTa u0 noPred { mm with fmtA := 15 },
    .mmaTb u0 noPred { mm with fmtB := 15 }, .drain u0 noPred { dr with fmt := 15 }] : List Instr).all (fun i => !i.wf) = true := by
  decide +kernel

/-- Commands that name a unit the module does not have (R10, R58, R112, R113, R337). -/
theorem test_wf_refuses_absent_units : ([.semSignalArrive 100 0, .semSignalArrive 0 64, .ringPushArrive 262144, .transferComplete 0 64 0,
    .transferComplete 0 0 512, .mmaComplete 100, .drainComplete 100 false, .nearCacheFill 0 (2 ^ 42), .nearCacheFill 0 (2 ^ 40),
    .swapReady (.frame rxBad), .swapGo (.frame rxBad), .swapAbort (.frame (rxOf 0 1)), .stepGo (.frame (rxOf 1 0)), .ready (.frame rxBad),
    .fail (.frame rxBad), .commit (.frame rxBad), .abort (.frame rxBad), .ack (.frame rxBad), .probe (.frame rxBad),
    .lostReport (.frame rxBad), .bellUp (.frame rxBad), .bellDown (.frame rxBad), .collRequest 4, .collChunkLand (rxOf 1 0),
    .combinerToken 4, .collCredit (rxOf 2 1), .collDigestExchange 4096, .circStart 64, .circRelease 64, .gradDone 64,
    .circUnitLand (rxOf 2 0), .circCredit 64 1, .feedDeliver 1024, .ringStepCanaryExpire (.channel 64), .ringStepCanaryExpire (.gather 4),
    .stashSave 8, .stashLoad 8, .stashCheck 8, .gatherRequest 4, .gatherTagRetry 4, .updateRequest 8, .updateHeaderWrite 8,
    .publishRequest 8, .publicationEnd 8, .moveData (rxOf 3 1), .read (rxOf 3 0), .signal (rxOf 3 0), .sack (rxOf 3 0), .cnp (rxOf 3 0),
    .sackDelayExpire ⟨4, 0, 0, 0⟩, .reorderExpire ⟨0, 1, 0, 0⟩ 0, .retxTimeout ⟨4, 0, 0, 0⟩, .rateIntervalEnd ⟨4, 0, 0, 0⟩,
    .neighborSolicitation 0 1 0 0, .neighborAdvertisement 4 0 0 0 true, .nsRetryExpire 4 0 0, .neighborCacheExpire 4 0 0, .pfcFrame 4 0 0 0,
    .pfcPauseExpire 4 0 0, .lldpTimer 4 0, .pcsLockLoss 4 0, .fecUncorrectableBurst 4 0, .portDownExpire 4 0, .portLinkUp 4 0 [],
    .portStableExpire 4 0, .portTrainingTimeout 4 0 [], .fecIntervalEnd 200 0 0 0, .fecIntervalEnd 0 256 0 0, .dataFlit [], .idleFlit [],
    .nakFlit [], .irqHoldoffExpire 64, .dbHostIdxWrite 16384 0, .arbClear 99, .arbiterGrant 99 0 [], .grantHeldCanaryExpire 99 0,
    .cellTagsRead 8 0, .cellTagsRead 0 100, .portCtlWrite 0 1 0, .comparatorSample 8 0, .linkRetrain 7, .genToken 12 [],
    .memoryRequest 32 ⟨0, 0, 64, false, false⟩, .memoryRequest 0 ⟨0, 2 ^ 37, 64, false, false⟩, .mcCommand 32 0 false, .mcCommand 0 99 false,
    .memoryReadComplete 32 .clean, .rowIdleClose 32 0 0, .channelCanaryExpire 0 99, .bankQuotaExpire 32 0 0 0, .patrolScrub 32 .clean,
    .repairStart 32, .repairComplete 32, .memoryTrainingComplete [32], .thermtrip 20 0, .thermalSlowCheck 20 0, .thermalRecoverCheck 20 0,
    .selfTestComplete [100], .bankRefresh 32 0 0, .telemetrySample ⟨0, 0, 0, 0, [(20, 0)], 0⟩, .nonTransportFrame 4 0 true 0] :
    List Instr).all (fun i => !i.wf) = true := by
  decide +kernel

/-- Well-formed commands that the same checks accept. -/
theorem test_wf_accepts : ([.nop u0, .loop u0 1 0 false, .salu u0 ⟨0, false, 0, 0, false, false, 8, 5⟩, .move u0 noPred mv, .mma u0 noPred mm,
    .drain u0 noPred dr, .vld u0 noPred vm, .sopElem u0 noPred sw, .tab u0 noPred tb, .walk u0 noPred wk, .swapReady .own,
    .collChunkLand (rxOf 2 0), .nearCacheFill 0 0, .memoryRequest 0 ⟨0, 0, 64, false, false⟩, .arbiterGrant 0 0 [0], .readyReached] :
    List Instr).all (fun i => i.wf) = true := by
  decide +kernel

/-- The second statement of the commands that stop: its hypotheses are met on both sides. -/
theorem witness_ill_formed : Instr.streamAt (.nop uBad) = some uBad ∧ cellOk uBad.cell = false ∧
    Instr.streamAt (.semw u0 0 0) = some u0 ∧ cellOk u0.cell = true ∧ Instr.wf (.semw u0 0 0) = false ∧
    Instr.streamAt (.rpush u0 0 7) = some u0 ∧ (getRing {} 7).alloc = false := by
  decide +kernel


/-! ## Witnesses: streams -/

theorem ok_of {α : Type} {e : Except RtFault α} (h : e.toBool = true) : ∃ d, e = .ok d := by
  cases e with
  | ok d => exact ⟨d, rfl⟩
  | error => cases h

def strm : Stream := { running := true }
/-- A module whose only listed cell is cell 0. -/
def inCell (c : Cell) : State := { cells := [(0, c)] }
/-- The same with one running stream. -/
def inStream (t : Stream) : State := inCell { streams := [(0, t)] }
def s0 : State := inStream strm

theorem issues_s0 : Issues s0 u0 := ⟨rfl, rfl⟩

/-- A queue of one command, and the step that takes it. -/
theorem witness_queue : QueueWithin [.nop u0, .rstdaa] { pending := [.rstdaa] } ∧
    step { pending := [.rstdaa] } = .next {} := ⟨⟨[.nop u0], rfl⟩, rfl⟩

theorem witness_well_formed : Instr.wf (.rpush u0 0 7) = true ∧
    (getRing { rings := [(7, { alloc := true })] } 7).alloc = true ∧ Instr.wf .readyReached = true := by decide +kernel

theorem witness_control : Issues s0 u0 ∧ (3 : BitVec 24) ≠ 0 ∧
    (Issues (inStream { strm with loops := [⟨5, 2, 0, none⟩] }) u0 ∧ 0 + 1 < 2) ∧
    (Issues (inStream { strm with loops := [⟨5, 2, 1, some 3⟩] }) u0 ∧ 2 ≤ 1 + 1) ∧
    (Issues (inStream { strm with calls := [7] }) u0 ∧ (streamOf (inStream { strm with calls := [7] }) u0).calls = 7 :: []) := by
  unfold Issues; decide +kernel

/-- Addresses 0 and the last 8 bytes of the scratchpad, and a place in an operand cache. -/
theorem witness_loads_and_stores : Issues s0 u0 ∧
    (∀ wr : Bool, ldPlace s0 (getCell s0 0) ⟨1, false, 0, 0⟩ (getA (streamOf s0 u0) 0) wr = .ok (0, 0)) ∧
    (∀ wr : Bool, ldPlace s0 (getCell s0 0) ⟨1, false, 0, 0x1FFFF8⟩ (getA (streamOf s0 u0) 0) wr = .ok (0, 0x1FFFF8)) ∧
    (⟨0, false, 0, 0, false, false, 11, 0⟩ : SaluWord).fn.toNat ≤ 11 := by
  refine ⟨issues_s0, ?_, ?_, by decide⟩ <;> intro wr <;> cases wr <;> rfl

theorem witness_stop : Issues s0 u0 ∧ (∀ p ∈ s0.pmap.pins, p.who ≠ .stream 0 0) ∧ s0.pmap.fenceStreams = [] :=
  ⟨issues_s0, (by intro p h; cases h), rfl⟩

/-- Semaphore 2 holds 5: a wait for 5 goes on, a wait for 6 blocks. -/
def semSt : State := inCell { streams := [(0, strm)], sems := [(2, 5)] }
theorem witness_semaphore_wait : Issues semSt u0 ∧ (5 : BitVec 16).toNat ≤ tget 0 (getCell semSt 0).sems 2 ∧
    tget 0 (getCell semSt 0).sems 2 < (6 : BitVec 16).toNat := by
  unfold Issues; decide +kernel

/-- Logical cell 3 is mapped to physical cell 0; the arrival takes the semaphore to 65,535. -/
def sigSt : State := { inCell { streams := [(0, strm)], sems := [(1, 65530)], logical := 3 } with sigs := [⟨1, 1, 2⟩, ⟨0, 1, 5⟩] }
theorem witness_signals : Issues sigSt u0 ∧ physOf sigSt (3 : BitVec 10).toNat = some 0 ∧ cellOk 0 = true ∧
    sigSt.sigs = [⟨1, 1, 2⟩] ++ ⟨0, 1, 5⟩ :: [] ∧ (∀ g ∈ [(⟨1, 1, 2⟩ : Sig)], ¬(g.cell = 0 ∧ g.sem = 1)) ∧
    (getCell sigSt 0).semQ = [] ∧ tget 0 (getCell sigSt 0).sems 1 + 5 ≤ 65535 := by
  unfold Issues; decide +kernel

/-- Ring 7 has two places of 8 bytes; f entries are in it and one more is on its way. -/
def ringSt (f : Nat) : State :=
  { s0 with rings := [(7, { alloc := true, depthLog := 1, entryLog := 3, tail := f, flying := 0 })], pushes := [⟨7, 0, 0, [1#8]⟩] }
theorem witness_rings : Issues (ringSt 0) u0 ∧ (ringSt 0).pmap.edits = [] ∧ (ringSt 0).pmap.pendWait = [] ∧
    (getRing (ringSt 0) 7).kind ≠ 3 ∧ (getRing (ringSt 0) 7).popQ = [] ∧ (getRing (ringSt 0) 7).pushQ = [] ∧
    (getRing (ringSt 0) 7).alloc = true ∧
    (∀ wr : Bool, entryPlace (ringSt 0) (getCell (ringSt 0) 0) 0 (getRing (ringSt 0) 7).entry wr = .ok 0) ∧
    (getRing (ringSt 2) 7).full = true ∧ (getRing (ringSt 1) 7).full = false ∧ (getRing (ringSt 0) 7).len = 0 ∧
    (getRing (ringSt 1) 7).len ≠ 0 ∧ (ringSt 0).pushes = ⟨7, 0, 0, [1#8]⟩ :: [] := by
  refine ⟨⟨rfl, rfl⟩, rfl, rfl, by decide, rfl, rfl, rfl, ?_, by decide +kernel, by decide +kernel, by decide +kernel, by decide +kernel, rfl⟩
  intro wr; cases wr <;> rfl

theorem witness_tags : Issues s0 u0 ∧ tagOf (streamOf s0 u0) 4 ≠ .busy ∧
    tagOf (streamOf (inStream { strm with tags := [(4, .busy)] }) u0) 4 = .busy := by
  unfold Issues; decide +kernel

/-- The array holds an MMA of bank 0 that closes it. -/
def mmaSt : State := inCell { streams := [(0, strm)], array := some (false, true), acc0 := { st := .filling } }
theorem witness_matrix : Issues s0 u0 ∧ predOk noPred = true ∧ mmaOk false false mm = true ∧ mmaOk true false mm = true ∧
    mmaOk false true mm = true ∧ (getBank (getCell s0 0) false).st ≠ .draining ∧ (getCell s0 0).array = none ∧
    (∃ d, mmaCell (opMode s0 (getCell s0 0)) true false false mm (aReg s0 u0 mm.aRef) (aReg s0 u0 mm.bRef) (getCell s0 0) = .ok d) ∧
    (takesEffect (getCell mmaSt 0) noPred = true ∧ (getCell mmaSt 0).array.isSome = true) ∧
    takesEffect (getCell s0 0) { men := true } = false ∧
    (cellOk 0 = true ∧ (getCell mmaSt 0).array = some (false, true) ∧ (getBank (getCell mmaSt 0) false).st = .filling) ∧
    drainOk dr = true ∧ dr.amt ≠ 0 ∧ getDrain (getCell s0 0) dr.bank = none ∧ dr.stsEn = false ∧
    (∃ x, drainCell (opMode s0 (getCell s0 0)) dr (aReg s0 u0 dr.dst) (aReg s0 u0 dr.aux) (aReg s0 u0 dr.mask)
      (sReg s0 u0 dr.scale) (sReg s0 u0 dr.diag) (getCell s0 0) = .ok x) ∧
    (getDrain (getCell (inCell { drain0 := some ⟨0, 1, 1⟩, acc0 := { st := .draining } }) 0) false = some ⟨0, 1, 1⟩) := by
  refine ⟨issues_s0, by decide, by decide, by decide, by decide, by decide, rfl, ok_of (by decide +kernel), ⟨rfl, rfl⟩, by decide +kernel,
    ⟨rfl, rfl, rfl⟩, by decide, by decide, rfl, rfl, ok_of (by decide +kernel), rfl⟩

/-- A bank of 1 by 2 elements. -/
def bankSt : State := inCell { streams := [(0, strm)], acc0 := { st := .closed, extM := 1, extN := 2 } }
theorem witness_drain_places : (∃ x, drainCell false dr 0 64 0 0 0 (getCell bankSt 0) = .ok x) ∧
    (∃ x, drainCell false { dr with rowmaxEn := true } 0 64 0 0 0 (getCell bankSt 0) = .ok x) ∧
    (∃ r, decodeRef dr.fmt.toNat 0 = .ok r) ∧ (∃ r, decodeRef 0 64 = .ok r) :=
  ⟨ok_of (by decide +kernel), ok_of (by decide +kernel), ok_of rfl, ok_of rfl⟩

theorem witness_vector : Issues s0 u0 ∧ predOk noPred = true ∧ (0 : BitVec 6).toNat ≤ 9 ∧ (4 : BitVec 6).toNat ≤ 4 ∧
    laneOn (getCell s0 0) noPred 63 = true ∧ laneOn (getCell s0 0) { men := true } 0 = false ∧
    predMask (getCell s0 0) { men := true } = 0#64 ∧ vm.fmt ≠ 0xF ∧
    (∃ d, vldCell (opMode s0 (getCell s0 0)) noPred vm 0 0 (getCell s0 0) = .ok d) ∧ (∃ x, vstCell (opMode s0 (getCell s0 0)) noPred vm 0 0 (getCell s0 0) = .ok x) ∧
    vm.stsEn = false ∧ (∃ r, decodeRef vm.fmt.toNat 0 = .ok r)  := by
  exact ⟨issues_s0, rfl, by decide, by decide, by decide +kernel, by decide +kernel, by decide +kernel, by decide,
    ok_of (by decide +kernel), ok_of (by decide +kernel), rfl, ok_of rfl⟩

/-- Two elements at address 0 to address 64, with a mask output. -/
def va : VecArgs := { n := 2, d := 64, x := 0, y := 0, d2 := 128, x2 := 0, mask := 0, thr := 0, fill := 0 }
def cellS : Cell := { streams := [(0, strm)] }
theorem witness_stream_unit : (∃ x, sopElemCell false sw va cellS = .ok x) ∧ (∃ x, sopCvtCell false sw va cellS = .ok x) ∧
    (∃ x, sopFillCell false sw va cellS = .ok x) ∧ (∃ x, sopScanCell false false { sw with outmask := true } va cellS = .ok x) ∧
    (∃ x, sopRedCell false sw va cellS = .ok x) ∧ (∃ x, sopRedCell false { sw with fn := 2 } va cellS = .ok x) ∧
    (∃ x, sopTopkCell false sw va cellS = .ok x) ∧ (∃ r, decodeRef 0 64 = .ok r) ∧
    (∃ x, tabCell false { tb with rowsumEn := true } { n := 2, d := 64, x := 0, y := 0, mask := 0, rowsum := 128 }
      { cellS with slots := [(0, { valid := true })] } = .ok x) ∧
    checkSts false 0 = .ok () ∧ takesEffect cellS { men := true } = false ∧ takesEffect cellS noPred = true ∧
    sw.fmtX ≠ 0xF ∧ sw.fmtD ≠ 0xF ∧ blockLen sw.fmtD.toNat = 0 ∧ blockLen 7 ≠ 0 ∧ sw.n ≠ 15 ∧ tb.mode ≠ 3 := by
  exact ⟨ok_of (by decide +kernel), ok_of (by decide +kernel), ok_of (by decide +kernel), ok_of (by decide +kernel),
    ok_of (by decide +kernel), ok_of (by decide +kernel), ok_of (by decide +kernel), ok_of rfl, ok_of (by decide +kernel), rfl,
    by decide +kernel, by decide +kernel, by decide, by decide, by decide, by decide, by decide, by decide⟩

/-- One key walked into address 0, its mask at address 8; every entry of the map is INVALID. -/
def walkSt : State := inStream { strm with s := [(1, 1#64)], a := [(1, 8#64)] }
theorem witness_walk : Issues walkSt u0 ∧ canTake (getCell walkSt 0) 0 wk.tag.toNat = true ∧
    takesEffect (getCell walkSt 0) { men := true } = false ∧ takesEffect (getCell walkSt 0) noPred = true ∧
    sReg walkSt u0 wk.key % 2 ^ 24 + sReg walkSt u0 wk.n ≤ walkSt.pmap.entries ∧
    (∃ r, decodeRef 0 (aReg walkSt u0 wk.list) = .ok r) ∧ (∃ r, decodeRef 0 (aNext walkSt u0 wk.list) = .ok r) ∧
    checkSpace false (getCell walkSt 0) 0 0 8 true = .ok () ∧ checkSpace false (getCell walkSt 0) 0 8 1 true = .ok () ∧
    peState (pentry walkSt 0) = 0 := by
  exact ⟨⟨rfl, rfl⟩, by decide +kernel, by decide +kernel, by decide +kernel, by decide +kernel, ok_of rfl, ok_of rfl,
    by decide +kernel, by decide +kernel, by decide +kernel⟩

/-! ## Witnesses: the map, transfers, plans and messages -/

/-- Little-endian fields (offset, bytes, value) written at a base. -/
def put (b : Nat) (l : List (Nat × Nat × Nat)) (m : Memory) : Memory := l.foldl (fun m x => mwriteNum m (b + x.1) x.2.1 x.2.2) m

/-- A plan image of two workers at a slot: section t lies at offset t × 0x1000; this member has set index 0 and
is master; group 5 holds both members and group 6 this one. -/
def img (slot : Bool) (extra : List (Nat × Nat × Nat)) : Memory :=
  put (slotBase slot) (((rangeFrom 1 10).map fun t => (256 + 64 * (t - 1) + 8, 8, 0x1000 * t)) ++
    [(28, 2, 2), (0x9000 + 12, 2, 2), (0x9020 + 16, 1, 0x10), (0x9070 + 16, 1, 0x11),
      (0x90C0, 4, 5), (0x90C6, 2, 2), (0x90C8, 4, 0x400), (0x90D0, 4, 6), (0x90D6, 2, 1), (0x90D8, 4, 0x410),
      (0x9402, 2, 1)] ++ extra) []

/-- Region entries of MEMMAP: number, tier, kind, base, length. -/
def regions (l : List (Nat × Nat × Nat × Nat × Nat)) : List (Nat × Nat × Nat) :=
  (0x6000, 4, l.length) :: (l.zip (rangeFrom 0 l.length)).flatMap fun x =>
    let o := 0x6010 + 64 * x.2
    [(o, 4, x.1.1), (o + 4, 1, x.1.2.1), (o + 5, 1, x.1.2.2.1), (o + 8, 8, x.1.2.2.2.1), (o + 16, 8, x.1.2.2.2.2)]

/-- The module under an active plan, with port 0 of Gallery die 0 UP. -/
def planned (extra : List (Nat × Nat × Nat)) : State :=
  { deep := img false extra, plan := { active := true }, pwr := { state := stPlanned }, ports := [(0, { st := .up })] }

def entryCow : Nat := 1 <<< 28 + 1 <<< 25 + 1 <<< 40 + 1 <<< 64
/-- Entry 0 of the map is RESIDENT with COW in HBM frame 1, which it alone names. -/
def cowSt : State := { planned (regions [(1, 0, 3, 0x200000, 16), (2, 0, 4, 0, 0x100000)]) with
  hbm := put 0 [(0, 16, entryCow), (0x200002, 2, 1)] [], cells := [(0, { streams := [(0, strm)] })] }

theorem witness_map_edits : Issues s0 u0 ∧ s0.pmap.edits = [] ∧ s0.pmap.walks = [] ∧ s0.pmap.pendWait = [] ∧ s0.pmap.fenceStreams = [] ∧
    s0.pmap.pend = [] ∧ sReg s0 u0 0 % 2 ^ 24 < s0.pmap.entries ∧ peState (pentry s0 0) ≠ 4 ∧ setOk 0 = true ∧ peNames 0 = none ∧
    peNames (pentry s0 0) = none ∧ logs s0 (pentry s0 0) 0 = false := by
  refine ⟨issues_s0, rfl, rfl, rfl, rfl, rfl, ?_⟩
  decide +kernel

theorem witness_copy_on_write : Issues cowSt u0 ∧ peState (pentry cowSt 0) = 1 ∧ bitAt (pentry cowSt 0) 25 = true ∧
    peNames (pentry cowSt 0) = some ⟨1, 1⟩ ∧ frameCount cowSt ⟨1, 1⟩ = 1 ∧ sReg cowSt u0 0 % 2 ^ 24 < cowSt.pmap.entries ∧
    cowSt.pmap.edits = [] := by
  unfold Issues; decide +kernel

/-- A stream pinned at epoch 0 while the epoch is 1, an edit, a copy and a relocation that wait. -/
def houseSt : State := { s0 with
  pwr := { state := stPlanned }, modes := { inForce := 1 }
  pmap := { epoch := 1, pins := [⟨.stream 0 1, 0, 0⟩], limbo := [(⟨1, 2⟩, 0)], edits := [⟨3, .set 0, .unit, 0⟩]
            cows := [⟨4, 0, 0, 0, ⟨1, 1⟩, .unit, 0, 0⟩], relocs := [⟨5, 0, 0, ⟨1, 1⟩, 0⟩] } }
theorem witness_housekeeping : Issues s0 u0 ∧ fenceDone s0 (fenceSnap s0) = true ∧ Issues houseSt u0 ∧
    fenceDone houseSt (fenceSnap houseSt) = false ∧ cellOk 0 = true ∧ opMode houseSt (getCell houseSt 0) = false ∧ 0 < 2 ^ 41 ∧
    hbmOk (128 * 0) 128 = true ∧ (∃ p ∈ houseSt.pmap.pins, p.epoch < houseSt.pmap.epoch) ∧ (∀ p ∈ s0.pmap.pins, s0.pmap.epoch ≤ p.epoch) ∧
    houseSt.pmap.pins = ⟨.stream 0 1, 0, 0⟩ :: [] ∧ houseSt.pmap.limbo ≠ [] ∧ houseSt.pmap.reclaimRaised = false ∧
    editTier houseSt ⟨3, .set 0, .unit, 0⟩ = some 0 ∧ workload houseSt ≠ 2 ∧ xfersLeft houseSt (.cow 4) = 0 ∧
    houseSt.pmap.epoch < 0 + 2 ∧ 0 + 2 ≤ ({ epoch := 2 } : PMap).epoch := by
  unfold Issues; decide +kernel

/-- Two rows of 8 bytes from address 0 of HBM, by the shape in S2. -/
def moveSt : State := inStream { strm with s := [(2, BitVec.ofNat 64 (2 <<< 32 + 8)), (3, BitVec.ofNat 64 (8 <<< 32 + 16))], a := [(0, 0x100#64), (1, 0x40#64)] }
def mv2 : MoveWord := { mv with src := 1, shape := 2 }
theorem witness_transfers : Issues moveSt u0 ∧ mv2.shape.toNat % 2 = 0 ∧ mv2.dst2 = 0 ∧ canTake (getCell moveSt 0) 0 mv2.tag.toNat = true ∧
    canTake (getCell (inStream { strm with tags := [(1, .busy)] }) 0) 0 mv2.tag.toNat = false ∧
    takesEffect (getCell moveSt 0) noPred = true ∧ takesEffect (getCell moveSt 0) { men := true } = false ∧
    (moveArgs moveSt u0 mv2 false).rows = 2 ∧ (moveArgs moveSt u0 mv2 false).len = 8 ∧ (moveArgs moveSt u0 mv2 true).rows = 2 ∧
    (∀ d ∈ (moveArgs moveSt u0 mv2 true).dsts, isRemote moveSt (gaddr d).mod = false) ∧
    (∀ two list : Bool, (moveRows moveSt u0 (moveArgs moveSt u0 mv2 two) list).toBool = true) ∧
    (∀ a ∈ [0x40, 0x48, 0x100, 0x110], isLocal moveSt (gaddr a).mod = true ∧ (gaddr a).tier ≤ 1) := by
  unfold Issues; decide +kernel

/-- A transfer that has all its parts, one that waits for another module, and one piece for HBM. -/
def xf : Transfer := { stream := 0, tag := 1, auto := false, sem := 0, amt := 1, pieces := [(0x100, [1#8, 2#8])], cells := [0], cause := .operand }
def xferSt : State := inCell { streams := [(0, { strm with tags := [(1, .busy)] })], xfers := [xf] }
def xferWaits : State := { xferSt with xfers := [(0, some ⟨.stream 0 0 1, true, 1, 8, 0, 0, 0, 0, false⟩)] }
theorem witness_completion : cellOk 0 = true ∧ ((getCell s0 0).xfers.find? (fun x => x.stream == 0 && x.tag == 1)) = none ∧
    (getCell xferSt 0).xfers.find? (fun x => x.stream == 0 && x.tag == 1) = some xf ∧ transferDue xferSt 0 xf = true ∧
    transferDue xferWaits 0 xf = false ∧ (∀ p ∈ xf.pieces, (gaddr p.1).tier ≤ 1) ∧ (getStream (getCell xferSt 0) 0).wait = none ∧
    xf.amt ≠ 0 := by
  decide +kernel

/-- A message from this member to itself, before others. -/
def selfSt (s : State) (m : BellMsg) : State := { s with bell := { s.bell with selfQ := [(0, m)] } }
theorem ownFront (s : State) (m : BellMsg) : OwnFront (selfSt s m) 0 m { s with bell := { s.bell with selfQ := [] } } := ⟨[], rfl, rfl⟩
def live (extra : List (Nat × Nat × Nat)) : State := { planned extra with steps := { live := true, phase := .running, step := 1, attempt := 2 } }
def stepM (code : Nat) : BellMsg := { kind := 3, code := code, group := 2, seq := 1 }
theorem witness_self_messages :
    (∀ c ∈ [1, 2, 4, 5, 6], (stepM c).kind = 3 ∧ (stepM c).group = (live []).steps.attempt ∧ (stepM c).seq = (live []).steps.step % 2 ^ 32) ∧
    ({ stepM 1 with group := 3 } : BellMsg).group ≠ (live []).steps.attempt ∧
    (0 ≠ (live [(0x9008, 2, 0), (26, 2, 1)]).me ∧ 0 = imgMaster (live [(26, 2, 1)]) (live [(26, 2, 1)]).act ∧ (live [(26, 2, 1)]).steps.live = true) ∧
    (live []).steps.live = true ∧ goStale (planned []) 0 (stepM 0) = false ∧
    (let s := { planned [] with plan := { active := true, staged := .staged } }
     swapHeld s = true ∧ stagedMaster s = true ∧ ({ kind := 4, code := 0, value := 3 } : BellMsg).value % 65536 ≠ 0 ∧ s.plan.firstFail = none) ∧
    (getOp (planned []) 5 0).seq ≠ 1 ∧
    (let s := { planned [] with bell := { ops := [(bellKey 5 0, { seq := 4, active := true })] } }
     (getOp s 5 0).seq = 4 ∧ 1 ∈ bellChildren (bellGroup s 5 0) (rankIn (bellGroup s 5 0) s.me) ∧ 1 ∉ (getOp s 5 0).heard ∧ (getOp s 5 0).active = true) ∧
    (let s := { planned [] with bell := { ops := [(bellKey 5 0, { seq := 4 })] } }
     (getOp s 5 0).active = false ∧ 1 ∈ bellChildren (bellGroup s 5 0) (rankIn (bellGroup s 5 0) s.me)) ∧
    (let s := { planned [(26, 2, 1)] with bell := { ops := [(bellKey 5 0, { seq := 4, active := true, upSent := true })] } }
     (getOp s 5 0).upSent = true ∧ 0 = bellParent (bellGroup s 5 0) (rankIn (bellGroup s 5 0) s.me)) := by
  decide +kernel

theorem witness_self_abort : (abortEffect 0 { live [] with bell := {} }).steps.master.active = false := by decide +kernel

/-- A frame from member 1 to this member, at the spine port of Gallery die 0. -/
def rxSend (f : Frame) : RxFrame := { die := 0, port := 0, srcAddr := 0x11, dstAddr := 0x10, crc := frameCrc f, f := f }
def rxFrom (cls typ : Nat) (area payload : List Byte) : RxFrame :=
  rxSend { typ := typ, cls := cls, src := 1, area := area, payload := payload }
/-- The class area of a step message of the running pair. -/
def stepArea (code : Nat) : List Byte := toBytes 1 3 ++ toBytes 1 code ++ toBytes 2 0 ++ toBytes 4 2 ++ toBytes 4 1 ++ toBytes 8 0
theorem witness_bell_frames : (accept (rxFrom 0 0 (stepArea 1) []) (live [])).1 = true ∧ (bellOf (rxFrom 0 0 (stepArea 1) []).f).kind = 3 ∧
    ((1, bellOf (rxFrom 0 0 (stepArea 1) []).f) ∈ (accept (rxFrom 0 0 (stepArea 1) [])
      { live [] with bell := { seen := [(1, bellOf (rxFrom 0 0 (stepArea 1) []).f)] } }).2.bell.seen) ∧
    (1, bellOf (rxFrom 0 0 (stepArea 1) []).f) ∉ (accept (rxFrom 0 0 (stepArea 1) []) (live [])).2.bell.seen ∧
    (∀ c ∈ [1, 2, 4, 5], stepStale (accept (rxFrom 0 0 (stepArea c) []) (live [])).2 1 (bellOf (rxFrom 0 0 (stepArea c) []).f) = false ∧
      (accept (rxFrom 0 0 (stepArea c) []) (live [])).1 = true) ∧
    goStale (accept (rxFrom 0 0 (stepArea 0) []) (planned [])).2 1 (bellOf (rxFrom 0 0 (stepArea 0) []).f) = false := by
  decide +kernel

/-- ACK of a PROBE of the running pair, and of an UP. -/
def ackArea (kind code g q : Nat) : List Byte := toBytes 1 2 ++ toBytes 1 kind ++ toBytes 1 code ++ toBytes 1 0 ++ toBytes 4 g ++ toBytes 4 q ++ toBytes 8 0
def outSt (m : BellMsg) : State := { live [] with bell := { out := [⟨1, m, 0⟩] } }
theorem witness_bell_acks :
    (accept (rxFrom 0 0 (ackArea 3 5 2 1) []) (outSt (stepM 5))).1 = true ∧
    (accept (rxFrom 0 0 (ackArea 3 5 2 1) []) (outSt (stepM 5))).2.bell.out.find? (acks 1 (bellOf (rxFrom 0 0 (ackArea 3 5 2 1) []).f)) = some ⟨1, stepM 5, 0⟩ ∧
    stepStale (outSt (stepM 5)) 1 (stepM 5) = false ∧
    (accept (rxFrom 0 0 (ackArea 0 0 5 4) []) (outSt { kind := 0, code := 0, group := 5, seq := 4 })).2.bell.out.find?
      (acks 1 (bellOf (rxFrom 0 0 (ackArea 0 0 5 4) []).f)) = some ⟨1, { kind := 0, code := 0, group := 5, seq := 4 }, 0⟩ := by
  decide +kernel

theorem witness_bell_instruction : Issues s0 u0 ∧ (8 : BitVec 4).toNat ≤ 8 ∧
    (let s := { planned [] with plan := { active := true, phases := [1] } }
     1 ∈ s.plan.phases ∧ phaseRuns s 1 = false ∧ 2 ∉ s.plan.phases) := by
  unfold Issues; decide +kernel

/-! ## Witnesses: plan, steps, checkpoints -/

theorem witness_plan_stage : (4096 : BitVec 64).toNat % 4096 = 0 ∧ (0x80000000 : BitVec 64).toNat ≤ 0x80000000 ∧
    ({ pwr := { state := stReady } } : State).pwr.state ∈ [stReady, stPlanned, stRunning, stHalted, stRecovery] ∧
    ({ pwr := { state := stReady } } : State).plan.staged ≠ .staging ∧ ({ pwr := { state := stReady } } : State).plan.swap = .idle ∧
    ({ pwr := { state := stOff } } : State).pwr.state ∉ [stReady, stPlanned, stRunning, stHalted, stRecovery] ∧
    ((1 : BitVec 64).toNat % 4096 ≠ 0 ∧ 0x80000000 < (0x80000001 : BitVec 64).toNat) := by
  decide +kernel

/-- An image that names a new epoch in the staged slot, after which RESHARD may follow. -/
def stagedSt (flags epoch : Nat) : State :=
  { deep := img true [(20, 4, flags), (40, 8, epoch)], pwr := { state := stPlanned }, plan := { staged := .staged }, ports := [(0, { st := .up })] }
theorem witness_plan_events :
    (let s : State := { plan := { staged := .staging } }
     s.plan.staged = .staging ∧ s.plan.stageGot = s.plan.stageLen) ∧
    (let s := stagedSt 2 1
     s.plan.staged = .staged ∧ s.plan.swap = .idle ∧ planState s = true ∧ s.pwr.state = stPlanned ∧ bitAt (imgFlags s s.stg) 1 = true ∧
     imgEpoch s s.stg = s.steps.epoch + 1) ∧
    (let s := { stagedSt 0 0 with plan := { staged := .staged, swap := .boundary } }
     s.plan.swap = .boundary ∧ atBoundary s = true) ∧
    (let s := { stagedSt 0 0 with plan := { staged := .staged, swap := .waitGo } }
     s.plan.swap = .waitGo ∧ stagedMaster s = true ∧ s.plan.permuting = false) ∧
    (let s := { stagedSt 0 0 with plan := { staged := .staged, permuting := true, barrier := 1 } }
     s.plan.permuting = true ∧ s.plan.barrier = 1 ∧ s.plan.permWait = [] ∧ s.plan.permLeft = [] ∧
     (permGroup s = none)) := by
  decide +kernel

def bellWait : BellOut := ⟨1, stepM 5, 7⟩
theorem witness_steps :
    (let s := planned [(0x8000 + 48, 1, 7)]
     s.plan.active = true ∧ imgMaster s s.act = s.me ∧ s.steps.acting = false ∧ s.steps.lostHalt = false ∧ inRecovery s = false ∧
     s.steps.master.active = false ∧ s.plan.swap = .idle ∧ s.modes.running = [] ∧ s.pwr.state ≠ stHalted ∧ s.steps.live = false ∧
     s.steps.phase = .idle ∧ (1 : BitVec 64).toNat = s.steps.committed + 1 ∧ rowOk s 1 0 = true ∧ s.plan.peerBad = false ∧
     planSupports s (goModes s) = true ∧ imgWorkers s s.act = [0, 1]) ∧
    ((1 : BitVec 64).toNat = (live []).steps.committed + 1 ∧ (live []).steps.live = true ∧
     (live []).steps.master.decision ≠ some .commit) ∧
    (readyBut s0 = false ∧ readyBut (live []) = true ∧ nextGlobal (live []) = none ∧
     (∀ n ∈ (live []).steps.scaleAsked, tget 0 (live []).steps.scaleDone n ≠ 0)) ∧
    (let s : State := { steps := { master := { waitArmed := true } } }
     s.steps.master.waitArmed = true) ∧
    (let s : State := { bell := { out := [bellWait] } }
     s.bell.out = bellWait :: [] ∧ bellWait.resends < 8 ∧ s.plan.active = false) ∧
    (let s := { planned [] with steps := { master := { active := true, commitSent := true } } }
     s.steps.master.active = true ∧ s.steps.master.commitSent = true ∧ 0 ∉ s.steps.master.acked ∧ s.me = 0 ∧ s.steps.acting = false ∧
     (liveWorkers s).filter (fun i => decide (i ∉ s.steps.master.acked) && i != s.me) = [1]) := by
  decide +kernel

def ckptSt : State := planned (regions [(1, 1, 8, 0, 0x100000), (2, 1, 9, 0x200000, 0x100000)])
theorem witness_checkpoint :
    (imgKind ckptSt ckptSt.act 8).isSome = true ∧ (imgKind ckptSt ckptSt.act 9).isSome = true ∧
    ckptSt.pwr.state ∈ [stPlanned, stRunning, stHalted] ∧ ckptSt.plan.active = true ∧ ckptSt.steps.committed = (0 : BitVec 64).toNat ∧
    ckptSt.ckpt.cmd = none ∧ ckptSt.steps.phase = .idle ∧ ckptSt.steps.live = false ∧ ckptSt.ckpt.st ≠ .restoring ∧
    (let s := { ckptSt with ckpt := { st := .writing } }
     s.ckpt.st = .writing ∧ s.ckpt.mirror = false) ∧
    (let s := { ckptSt with ckpt := { st := .restoring, source := 1 } }
     s.ckpt.st = .restoring ∧ s.ckpt.source = 1 ∧ s.ckpt.publishing = false) ∧
    (s0.pwr.state ≠ stPlanned ∧ s0.pwr.state ≠ stHalted) := by
  decide +kernel

/-! ## Witnesses: engines behind rings -/

/-- A ring of two places of 16 bytes that holds one entry. -/
def ringOf (d : List (Nat × Nat × Nat)) : Ring := { alloc := true, kind := 1, depthLog := 1, entryLog := 4, tail := 1, mem := put 0 d [] }
/-- The running module with configuration region n at 0x1000 of HBM, and ring 9. -/
def engSt (n : Nat) (tab ring : List (Nat × Nat × Nat)) : State :=
  readTables { live (regions [(0xFFFFFF00 + n, 0, 3, 0x1000, 0x1000)]) with hbm := put 0x1000 tab [], rings := [(9, ringOf ring)] }

/-- Collective 0 of both members and collective 1 of this one alone. -/
def collSt : State := engSt 5 [(0, 4, 2), (4, 4, 4096), (16, 4, 9), (68, 1, 1), (71, 1, 1), (72, 4, 5), (96, 8, 8192), (112, 4, 9),
  (132, 1, 1), (133, 1, 1), (136, 4, 6), (160, 8, 4096)] []
/-- The class area of a chunk of collective 0 in an attempt and step. -/
def collArea (attempt step : Nat) : List Byte := toBytes 4 0 ++ toBytes 4 0 ++ toBytes 4 attempt ++ toBytes 4 step ++ toBytes 4 0
theorem witness_collectives :
    (reqRing collSt 0 = some 9 ∧ (getRing collSt 9).len ≠ 0 ∧
     (let x := enginePop 9 collSt
      numAt x.1 0 4 < collCount x.2 ∧ (getColl x.2 (numAt x.1 0 4)).started = false)) ∧
    (let s := { collSt with colls := [(0, { started := true })] }
     let x := enginePop 9 s
     reqRing s 0 = some 9 ∧ (getRing s 9).len ≠ 0 ∧ numAt x.1 0 4 < collCount x.2 ∧ (getColl x.2 (numAt x.1 0 4)).started = true) ∧
    (∀ x ∈ [(2, 1, 0), (3, 1, 0), (2, 2, 0), (2, 1, 5)], let r := rxFrom 2 0 (collArea x.1 x.2.1) []
     portOk r.die r.port = true ∧ r.f.cls = 2 ∧ r.f.typ = 0 ∧ (accept (rxSend { r.f with epoch := x.2.2 }) collSt).1 = true ∧
     fld r.f 44 4 % 4096 < collCount (ackFrame r (accept r collSt).2)) ∧
    (let r := rxFrom 2 0 (collArea 2 1) []
     let a := ackFrame r (accept r collSt).2
     r.f.epoch = a.steps.epoch ∧ fld r.f 52 4 = a.steps.attempt ∧ fld r.f 56 4 = a.steps.step % 2 ^ 32 ∧ inAttempt a = true) ∧
    (let r := rxFrom 2 0 (collArea 3 1) []
     let a := ackFrame r (accept r collSt).2
     fld r.f 52 4 ≠ a.steps.attempt ∧ tget 0 a.ctr (galBase r.die + 0x40028) + 1 < 2 ^ 64 - 1) ∧
    ((rangeFrom 0 (collCount collSt)).find? (fun c =>
      collDie collSt c == 0 && decide (collNum collSt c 4 1 ≤ 1) && decide (0 < (getRing collSt (collNum collSt c 48 4)).len)) = some 0 ∧
      numAt (enginePop (collNum collSt 0 48 4) collSt).1 0 1 = 0) ∧
    (let s := { collSt with colls := [(1, { active := true, started := true })] }
     1 < collCount s ∧ (getColl s 1).asked = false ∧ resultsLanded s 1 = true ∧ inAttempt s = true ∧
     (getOp s (collNum s 1 8 4) 3).active = false) := by
  decide +kernel

/-- Channel 0 over both members with one feed group of logical cell 3, two tokens a block. -/
def circSt (back : Nat) (tok : List (Nat × Nat × Nat)) : State := engSt 0 [(0, 2, 1), (2, 2, 1), (33, 1, back), (36, 4, 5), (44, 4, 128),
  (74, 2, 1), (76, 2, 64), (78, 2, 64), (100, 4, 0x200), (104, 2, 1), (108, 4, 9), (140, 2, 2), (0x200, 2, 3)] tok
def openSt (back : Nat) (tok : List (Nat × Nat × Nat)) (ch : Channel) : State := { circSt back tok with circ := { chans := [(0, { ch with isOpen := true })] } }
def unitArea : List Byte := toBytes 1 0 ++ toBytes 3 0 ++ toBytes 4 1 ++ toBytes 4 2 ++ toBytes 4 1 ++ toBytes 4 0
theorem witness_circulator :
    (let s := circSt 0 [(0, 1, 1)]
     0 < circCount s ∧ (chanFeeds s 0).head? = some 0 ∧ (headToken s 0).map (tokenIs · 1 0) = some true) ∧
    (let s := circSt 0 []
     (chanFeeds s 0).find? (isRelease s 0) = some 0 ∧ releaseOk s 0 0 (popToken 0 s).1 = false) ∧
    (let s := openSt 0 [(8, 2, 3)] { delivered := [(0, 1)] }
     (chanFeeds s 0).find? (isRelease s 0) = some 0 ∧ releaseOk s 0 0 (popToken 0 s).1 = true) ∧
    (let s := openSt 1 [(0, 1, 2)] {}
     (chanFeeds s 0).find? (fun f => (headToken s f).any fun d => tokenIs d 2 0) = some 0 ∧ (getChan s 0).isOpen = true ∧
     chanBack s 0 = true ∧ numAt (popToken 0 s).1 4 4 = (getChan s 0).gradDone.length ∧ numAt (popToken 0 s).1 4 4 < chanR s 0) ∧
    (let s := circSt 1 [(0, 1, 2)]
     (chanFeeds s 0).find? (fun f => (headToken s f).any fun d => tokenIs d 2 0) = some 0 ∧ (getChan s 0).isOpen = false) ∧
    (let r := rxFrom 1 0 unitArea []
     let s := openSt 0 [] { granted := [1] }
     portOk r.die r.port = true ∧ r.f.cls = 1 ∧ r.f.typ = 0 ∧ (accept r s).1 = true ∧ openReceive (ackFrame r (accept r s).2) r.f = true ∧
     (accept r (circSt 0 [])).1 = true ∧ openReceive (ackFrame r (accept r (circSt 0 [])).2) r.f = false) ∧
    (let s := openSt 0 [] { hop := 1 }
     1 < chanR s 0 ∧ 1 ∉ (getChan s 0).credit ∧ 0 < feedCount s ∧ (chanPeer s 0).isSome = true) ∧
    ({ s0 with pmap := { walks := [⟨0, 0, 1, 0, 8, 0, 1, 0, 0, []⟩] } } : State).pmap.walks ≠ [] := by
  decide +kernel

theorem witness_stash_gather_update :
    (∀ k ∈ [0, 1, 2], let s := engSt 2 [(32, 4, 9)] [(0, 1, k)]
      (ringHead s (stashRing s 0)).isSome = true ∧ (ringHead s (stashRing s 0)).map (fun x => numAt x.2 0 1) = some k) ∧
    (let s := { engSt 2 [(32, 4, 9)] [(0, 1, 2)] with modes := { inForce := 1 } }
     workload (enginePop 9 s).2 ≠ 0 ∧ engineOk (enginePop 9 s).2 (numAt (enginePop 9 s).1 8 8) 16 = true ∧
     (ringHead s (stashRing s 0)).isSome = true) ∧
    (let s := engSt 3 [(0, 4, 1), (16, 4, 9)] []
     (ringHead s (gathRing s 0)).isSome = true ∧ (getGath s 0).job = none ∧
     (ringHead s (gathRing s 0)).map (fun x => decide (numAt x.2 4 4 < gathCount (enginePop x.1 s).2)) = some true) ∧
    (let s := { engSt 3 [(0, 4, 1), (16, 4, 9)] [] with gather := { engs := [(0, { job := some ⟨0, 0, 0, 0, 0, 0⟩ })] } }
     (getGath s 0).job = some ⟨0, 0, 0, 0, 0, 0⟩ ∧ xfersLeft s (.gatherHdr 0) = 0) ∧
    (let s := engSt 4 [(0, 4, 1), (16, 4, 9)] [(4, 4, 1)]
     (ringHead s (updRing s 0)).map (fun x => numAt x.2 8 1) = some 0 ∧ (getEng s 0).signal = none ∧ ckptHolds s = false) ∧
    (let s := engSt 4 [(0, 4, 1), (16, 4, 9)] [(4, 4, 1), (8, 1, 1)]
     let b := (enginePop 9 s).2
     (ringHead s (updRing s 0)).map (fun x => numAt x.2 8 1) = some 1 ∧ (getEng s 0).publishing = [] ∧
     publishable (bump (stopeBase 0 + 0x10010) ((rangeFrom 0 1).filter fun j => decide (updCount b ≤ j) || updNum b j 7 1 != 0).length b) 0
       (rangeFrom 0 1) ≠ [] ∧ publishable b 0 (rangeFrom 0 0) = []) ∧
    (let s := { engSt 4 [(0, 4, 1), (16, 4, 9)] [(8, 1, 1)] with update := { engs := [(0, { headers := [⟨0, 0⟩], publishing := [0, 1] })] } }
     (ringHead s (updRing s 0)).map (fun x => numAt x.2 8 1) = some 1 ∧ (getEng s 0).publishing = 0 :: 1 :: [] ∧
     (getEng s 0).headers = ⟨0, 0⟩ :: [] ∧ (getEng s0 0).headers = []) := by
  decide +kernel

/-! ## Witnesses: the fabric -/

/-- The class area of a MOVE frame. -/
def moveAreaOf (addr : Nat) : List Byte := toBytes 8 addr ++ toBytes 8 0 ++ toBytes 4 0
theorem witness_remote_frames :
    (∀ t ∈ [0, 3, 4], ∀ addr ∈ [0, 3 <<< 48], ∀ e ∈ [0, 1], let r := rxFrom 3 t (moveAreaOf addr) (toBytes 4 8)
      portOk r.die r.port = true ∧ r.f.cls = 3 ∧ r.f.typ = t ∧ (accept (rxSend { r.f with epoch := e }) (live [])).1 = true) ∧
    (gaddr (fld (rxFrom 3 0 (moveAreaOf (3 <<< 48)) []).f 44 8)).tier = 3 ∧ (gaddr (fld (rxFrom 3 0 (moveAreaOf 0) []).f 44 8)).tier ≠ 3 ∧
    (accept (rxFrom 3 0 (moveAreaOf 0) []) (live [])).2.steps.epoch = 0 ∧
    (let r := rxFrom 3 3 (moveAreaOf 0) (toBytes 4 65536)
     0 < numAt r.f.payload 0 4 ∧ numAt r.f.payload 0 4 ≤ 65536 ∧ rxAddrOk (accept r (live [])).2 (fld r.f 44 8) (numAt r.f.payload 0 4) = true) ∧
    (let r := rxFrom 3 3 (moveAreaOf 0) (toBytes 4 65537)
     65536 < numAt r.f.payload 0 4 ∧ (accept r (live [])).1 = true) := by
  decide +kernel

def fl : FlowId := ⟨0, 0, 1, 1⟩
def heldF (n : Nat) : Held := { frame := { typ := 0, cls := 1, psn := n } }
theorem witness_flows :
    (∀ t ∈ [1, 2], let r := rxFrom 1 t (List.replicate 20 0#8) []
      portOk r.die r.port = true ∧ r.f.typ = t ∧ (accept r (live [])).1 = true) ∧
    flowOk fl = true ∧ flowOk ⟨3, 1, 1, 3⟩ = true ∧
    (let s : State := { sends := [(flowIdKey fl, { unacked := [heldF 4], cnps := 2 })] }
     let c := getSend s (flowIdKey fl)
     c.unacked.find? (fun h => h.frame.psn == 4) = some (heldF 4) ∧ c.unacked ≠ [] ∧ 0 < c.cnps) ∧
    (getSend s0 (flowIdKey fl)).unacked = [] ∧ (getSend s0 (flowIdKey fl)).cnps = 0 := by
  decide +kernel

def portSt (p : Nat) (q : Port) : State := { ports := [(p, q)] }
theorem witness_neighbours :
    portOk 0 0 = true ∧ portOk 3 1 = true ∧ portUp s0 0 = false ∧
    (let s := portSt 0 { st := .up, nbrs := [(5, ⟨none, 3⟩), (6, ⟨none, 1⟩), (7, ⟨some 9, 0⟩)], ctl := { vlanEn := true, pfcEn := 4 } }
     portUp s 0 = true ∧ tget {} (getPort s 0).nbrs 5 = ⟨none, 3⟩ ∧ tget {} (getPort s 0).nbrs 6 = ⟨none, 1⟩ ∧
     tget {} (getPort s 0).nbrs 6 ≠ {} ∧ (tget {} (getPort s 0).nbrs 7).mac ≠ none ∧ pfcOn s 0 2 = true ∧ pfcOn s 0 1 = false) := by
  decide +kernel

theorem witness_port_states :
    (getPort (portSt 3 { st := .up }) 3).st = .up ∧ (portOk 1 1 = true ∧ 2 * 1 + 1 = 3) ∧
    ((getPort (portSt 3 { st := .down }) 3).st = .down ∧ badHalves (portSt 3 { st := .down }) (portLink 3) 8 ≠ 3) ∧
    ((getPort (portSt 3 { st := .training }) 3).st = .training ∧ (getPort (portSt 3 { st := .training }) 3).linkUp = false) ∧
    ((getPort (portSt 3 { st := .training, linkUp := true }) 3).st = .training ∧
     (getPort (portSt 3 { st := .training, linkUp := true }) 3).linkUp = true) := by
  decide +kernel

/-! ## Witnesses: the host link and the register map -/

/-- The module in READY with an ACTIVE link. -/
def linkSt (b : Bxl) : State := { bxl := { b with st := .active }, pwr := { state := stReady, pwrGood := true } }
/-- A flit with nothing in its slots: TYPE in its control word, its CRC-32C and its six check bytes. -/
def flitOf (tail : List Byte) : List Byte := List.replicate 240 0#8 ++ tail
def dataF : List Byte := flitOf [0#8, 0#8, 0#8, 0#8, 0#8, 0#8, 0x13#8, 0xA8#8, 0x01#8, 0xF7#8, 0x7D#8, 0x99#8, 0xE5#8, 0x4D#8, 0x03#8, 0x02#8]
def idleF : List Byte := flitOf [0#8, 0#8, 0#8, 1#8, 0#8, 0#8, 0x6D#8, 0x3A#8, 0x40#8, 0x52#8, 0xE7#8, 0xD9#8, 0x4E#8, 0x74#8, 0xC0#8, 0x80#8]
def nakF : List Byte := flitOf [0#8, 0#8, 0#8, 2#8, 0#8, 0#8, 0x1E#8, 0xFA#8, 0x6E#8, 0xB8#8, 0x91#8, 0x35#8, 0x13#8, 0xE9#8, 0xB2#8, 0xDC#8]

def z48 : List Byte := List.replicate 48 0#8
theorem crc_zeros_0 : z48.foldl crcByte 0xFFFFFFFF#32 = 0xD773C546#32 := by decide +kernel
theorem crc_zeros_1 : z48.foldl crcByte 0xD773C546#32 = 0xAE0DFB54#32 := by decide +kernel
theorem crc_zeros_2 : z48.foldl crcByte 0xAE0DFB54#32 = 0x93E4DE9A#32 := by decide +kernel
theorem crc_zeros_3 : z48.foldl crcByte 0x93E4DE9A#32 = 0x8BCA87CF#32 := by decide +kernel
theorem crc_zeros_4 : z48.foldl crcByte 0x8BCA87CF#32 = 0x56CC8D06#32 := by decide +kernel
theorem crc_zeros : (List.replicate 240 0#8).foldl crcByte 0xFFFFFFFF#32 = 0x56CC8D06#32 := by
  have h : List.replicate 240 (0#8) = z48 ++ (z48 ++ (z48 ++ (z48 ++ z48))) := by decide +kernel
  rw [h, List.foldl_append, List.foldl_append, List.foldl_append, List.foldl_append, crc_zeros_0, crc_zeros_1, crc_zeros_2, crc_zeros_3,
    crc_zeros_4]
theorem flit_head (u t : List Byte) (hu : u.length = 6) : (flitOf (u ++ t)).take 246 = List.replicate 240 0#8 ++ u := by
  unfold flitOf
  rw [← List.append_assoc]
  exact List.take_left' (by rw [List.length_append, List.length_replicate, hu])
theorem flit_good (a b c d e f : Byte) (t : List Byte)
    (h : numAt t 0 4 = (~~~([a, b, c, d, e, f].foldl crcByte 0x56CC8D06#32)).toNat) :
    flitGood (flitOf (a :: b :: c :: d :: e :: f :: t)) = true := by
  have h1 : (flitOf (a :: b :: c :: d :: e :: f :: t)).take 246 = List.replicate 240 0#8 ++ [a, b, c, d, e, f] :=
    flit_head [a, b, c, d, e, f] t rfl
  have h2 : numAt (flitOf (a :: b :: c :: d :: e :: f :: t)) 246 4 = numAt t 0 4 := rfl
  unfold flitGood crc32c
  rw [h1, h2, List.foldl_append, crc_zeros, h]
  exact beq_self_eq_true _

theorem witness_flits :
    (∀ x ∈ [(dataF, 0), (idleF, 1), (nakF, 2)], correctFlit (sliceBytes x.1 0 256) = (x.1, false) ∧
      (flitCtl x.1).ftype = x.2 ∧ (flitCtl x.1).fseq = 0) ∧
    (flitGood dataF = true ∧ flitGood idleF = true ∧ flitGood nakF = true) ∧
    (∀ b ∈ [({} : Bxl), { expect := 1 }, { expect := 1, discarding := true }],
      let a := takeAck (flitCtl dataF) (bump (bxlBase + 0x120) 0 (linkSt b))
      (linkSt b).bxl.st = .active ∧ a.bxl.expect = b.expect ∧ a.bxl.discarding = b.discarding) ∧
    s0.bxl.st ≠ .active := by
  refine ⟨?_, ⟨?_, ?_, ?_⟩, ?_, ?_⟩
  · decide +kernel
  · exact flit_good _ _ _ _ _ _ _ (by decide +kernel)
  · exact flit_good _ _ _ _ _ _ _ (by decide +kernel)
  · exact flit_good _ _ _ _ _ _ _ (by decide +kernel)
  · decide +kernel
  · decide +kernel

/-- The same flit with a CRC of zeros, which its check bytes do not correct to a good one (R434). -/
theorem witness_bad_flit : flitGood (flitOf (List.replicate 16 0#8)) = false := by
  have h1 : (flitOf (List.replicate 16 0#8)).take 246 = List.replicate 240 0#8 ++ [0#8, 0#8, 0#8, 0#8, 0#8, 0#8] :=
    flit_head [0#8, 0#8, 0#8, 0#8, 0#8, 0#8] (List.replicate 10 0#8) rfl
  unfold flitGood crc32c
  rw [h1, List.foldl_append, crc_zeros]
  decide +kernel
theorem witness_bad_flit_word : correctFlit (sliceBytes (flitOf (List.replicate 16 0#8)) 0 256) = (flitOf (List.replicate 16 0#8), false) := by
  decide +kernel

theorem witness_host_link_states :
    (let s : State := { pwr := { state := stReady } }
     s.bxl.st = .down ∧ linkPowered s = true ∧ badHalves s hostLinkNo 8 ≠ 3) ∧
    (let s : State := { bxl := { st := .detect } }
     s.bxl.st = .detect ∧ halfSeen s [0, 1, 2, 3] 0 = true ∧ halfSeen s [0, 1, 2, 3] 1 = false ∧ halfSeen s [4, 5, 6, 7] 1 = true) ∧
    (let s : State := { bxl := { st := .train } }
     let out := fun bad h => bitAt (badHalves (lanesTrained hostLinkNo 8 bad s) hostLinkNo 8) h || (rangeFrom (4 * h) 4).any fun l => decide (l ∈ bad)
     s.bxl.st = .train ∧ out [0, 7] 0 = true ∧ out [0, 7] 1 = true ∧ out [0] 1 = false) ∧
    (({ bxl := { st := .align } } : State).bxl.st = .align) ∧
    (({} : State).bxl.st ≠ .active ∧ ({} : State).bxl.st ≠ .align) ∧
    ((linkSt {}).bxl.st = .active ∧ served (linkSt {}) (bxlBase + 0x08) = true) := by
  decide +kernel

theorem witness_host_accesses :
    (∀ x ∈ [(0, 0x800, 8), (0, 0x804, 4), (1, 0x40, 8)], barOk x.1 x.2.1 x.2.2 = true ∧ barServed (linkSt {}) x.1 x.2.1 = true) ∧
    (barOk 0 0x802 4 && barServed (linkSt {}) 0 0x802) = false ∧
    (tget none (linkSt {}).bxl.reads 3 = none ∧
     tget none (linkSt { reads := [(3, some ⟨.command, 0, 64⟩)] }).bxl.reads 3 = some ⟨.command, 0, 64⟩) ∧
    (portOk 3 1 = true ∧ siteOk 67 = true ∧ ¬(({} : State).bxl.st = .active)) ∧
    (let s := { linkSt {} with pwr := { state := stBoot } }
     s.bxl.st = .active ∧ served s 0x200 = false) := by
  decide +kernel

/-- A lend range of 1 GiB at the start of the deep tier; lines 0 and the last one are inside it. -/
def lendSt : State := { linkSt {} with lend := { on := true, size := 1 } }
theorem witness_lent_memory : lendSt.bxl.st = .active ∧ lendSt.lend.on = true ∧ (0 : BitVec 64).toNat / 64 * 64 < lendSt.lend.size * 2 ^ 30 ∧
    (0x3FFFFFFF : BitVec 64).toNat / 64 * 64 < lendSt.lend.size * 2 ^ 30 ∧
    lendSt.lend.size * 2 ^ 30 ≤ (0x40000000 : BitVec 64).toNat / 64 * 64 ∧ (linkSt {}).lend.on = false := by
  decide +kernel

theorem witness_cell_tags : (let s := { linkSt {} with cells := [(0, { tagsPeak := 512 })] }
    HostReady s (cellBase (128 * 0 + 0) + 0x10) ∧ (getCell s (128 * 0 + 0)).tagsPeak ≤ 512) ∧
    HostReady (linkSt {}) (cellBase (128 * 7 + 99) + 0x10) := by
  unfold HostReady; decide +kernel

def queueSt : State := linkSt { enable := true, cmdqLog := 4, cplqLog := 4, irqHeld := [0], irqWait := [0], cplTail := 1 }
theorem witness_queue_registers :
    HostReady (linkSt {}) (bxlBase + 0x18) ∧ HostReady (linkSt {}) (bxlBase + 0x20) ∧ HostReady (linkSt {}) (bxlBase + 0x38) ∧
    (∀ v ∈ [0x10404, 0x10C0C], (linkSt {}).bxl.enable = false ∧ bitAt v 16 = true ∧ fieldOf v 3 0 ∈ rangeFrom 4 9 ∧
      fieldOf v 11 8 ∈ rangeFrom 4 9) ∧
    (HostReady queueSt (bxlBase + 0x18) ∧ queueSt.bxl.enable = true ∧ bitAt 0 16 = false) ∧
    ((16 + 2 ^ 32 - queueSt.bxl.cmdHead) % 2 ^ 32 ≤ 2 ^ queueSt.bxl.cmdqLog ∧ 2 ^ queueSt.bxl.cmdqLog < (17 + 2 ^ 32 - queueSt.bxl.cmdHead) % 2 ^ 32) ∧
    (0 ∈ queueSt.bxl.irqHeld ∧ 0 ∈ queueSt.bxl.irqWait ∧
     irqCause (modBxl (fun b => { b with irqHeld := b.irqHeld.filter (· != 0), irqWait := b.irqWait.filter (· != 0) }) queueSt) 0 = true) ∧
    (0 ∈ (linkSt { irqHeld := [0] }).bxl.irqHeld ∧ 0 ∉ (linkSt { irqHeld := [0] }).bxl.irqWait) := by
  unfold HostReady; decide +kernel

theorem witness_counter_clear : HostReady (linkSt {}) (obsBase + 0x108) ∧
    (∀ site ∈ [0, 7, 32, 39, 64, 67], siteOk site = true ∧ HostReady (linkSt {}) (arbClearOff site)) ∧
    bitAt 1 (groupOf 0x3000000) = true ∧ bitAt 1 (groupOf 0x2000000) = false := by
  unfold HostReady; decide +kernel

def ringSt2 : State := { linkSt {} with obs := { ringLog := 6, head := 70, landing := 1 } }
def cmpSt (c : Comparator) : State := { linkSt {} with lamp := { cmps := [(0, c)] } }
theorem witness_control_registers :
    (∀ off ∈ [obsBase + 0x08, obsBase + 0x18, hfBase + 0x40, pmapBase + 0x18, pmapBase, 0x200, 0x800, lampBase, portBase (2 * 3 + 1) + 8],
      HostReady (linkSt {}) off) ∧
    (∀ v ∈ [6, 20], 6 ≤ v % 32 ∧ v % 32 ≤ 20) ∧
    (HostReady ringSt2 (obsBase + 0x18) ∧ ringSt2.obs.ringLog ≠ 0 ∧ (70 + 2 ^ 32 - 6) % 2 ^ 32 ≤ 2 ^ ringSt2.obs.ringLog ∧
     2 ^ ringSt2.obs.ringLog < (70 + 2 ^ 32 - 5) % 2 ^ 32 ∧ ringSt2.obs.landing ≠ 0) ∧
    ((linkSt {}).plan.active = false ∧ (planned []).plan.active = true) ∧
    (let s := { linkSt {} with steps := { phase := .running } }
     HostReady s 0x800 ∧ inAttempt s = true ∧ s.pwr.cap < 8192) ∧
    (let s := cmpSt { enable := true, qty := 2 }
     let c := tget {} s.lamp.cmps 0
     c.enable = true ∧ s.pwr.state ≠ stOff ∧ c.thr.sle (cmpValue s c 0) = true ∧ c.dir = false ∧ c.fired = false ∧ s.pwr.pwrGood = true ∧
     c.thr.sle (cmpValue s c (-1)) = false) ∧
    ((tget {} s0.lamp.cmps 7).enable = false) := by
  unfold HostReady; decide +kernel

/-! ## Witnesses: maintenance, memory, lending -/

def maintReq (a : Nat) : MaintReq := { cmd := ⟨1, 0x40⟩, activity := a }
/-- An image whose header passes *Boot checks*: version 1, key slot 0, SVN 0 and one empty stage at 16,384. -/
def goodImage : FwImage := ⟨16384, toBytes 4 0x5746474E ++ toBytes 2 1 ++ toBytes 11 0 ++ toBytes 7 1 ++ toBytes 104 16384 ++ toBytes 384 16384, none⟩
def maintSt (r : MaintReq) : State := { linkSt {} with modes := { running := [r] } }
theorem witness_maintenance :
    ((linkSt {}).pwr.state ≠ stFault ∧ 7 < (8 : BitVec 8).toNat ∧ (3 : BitVec 8).toNat ≤ 3 ∧ HostReady (linkSt {}) 0x300) ∧
    (∀ a ∈ [0, 1, 2, 3, 4, 6, 7], maintJob (maintSt (maintReq a)) a = some (maintReq a)) ∧
    (maintSt (maintReq 2)).cells = [] ∧ (maintSt (maintReq 3)).pwr.state ≠ stMemtrain ∧ (maintSt (maintReq 4)).pmap.relocs = [] ∧
    ((maintReq 6).arg1 ≤ (maintSt (maintReq 6)).modes.fwGot ∧ fwCode (maintSt (maintReq 6)) ⟨0, [], some 2⟩ ≠ cOk ∧ fwCode (maintSt (maintReq 6)) goodImage = cOk) ∧
    badMirrors (maintSt (maintReq 7)) (maintReq 7) = [] ∧
    (maintSt { maintReq 5 with port := 6 }).modes.running.find? (fun r => r.activity == 5 && r.port == 6 && r.done.isNone) =
      some { maintReq 5 with port := 6 } ∧
    (maintSt { maintReq 5 with port := 6, done := some cOk }).modes.running.find? (fun r => r.activity == 5 && (5 != 5 || r.port == 6) &&
      mayEnd (maintSt { maintReq 5 with port := 6, done := some cOk }) r) = some { maintReq 5 with port := 6, done := some cOk } ∧
    (linkExists 27 = true ∧ 255 < if 27 < 28 then 256 else 8) ∧ (linkExists 40 = true ∧ 7 < if 40 < 28 then 256 else 8) := by
  unfold HostReady; decide +kernel

def req (off : Nat) : MemReq := { requester := 0, off := off, len := 64, write := false, fill := false, attempt := false }
def mcSt (m : Mc) : State := { mcs := [(0, m), (16, m)] }
theorem witness_memory_controllers :
    (let w : ReqWord := ⟨131, 0x900000000 - 1024, 1024, false, false⟩
     w.requester < ctlRequesters 0 ∧ w.off + w.len ≤ stackBytes 0 ∧ 64 ≤ w.len ∧ w.len ≤ 1024 ∧ w.off % 1024 + w.len ≤ 1024 ∧ w.fill = false) ∧
    (63 < ctlChans 0 ∧ chooseReq (mcSt {}) 0 63 false = none) ∧
    (let s := mcSt { pool := [req 0] }
     chooseReq s 0 0 false = some (req 0) ∧ rowOpen (getMc s 0) 0 (req 0) = false) ∧
    (let s := mcSt { pool := [req 0], openRows := [(0, 1)] }
     chooseReq s 0 0 true = some (req 0) ∧ rowOpen (getMc s 0) 0 (req 0) = true) ∧
    (let s := mcSt { issued := [req 0] }
     (getMc s 0).issued = req 0 :: [] ∧ ((getMc s 0).issued.filter fun q => chanOf 0 q.off == 0) = req 0 :: []) ∧
    (bankOk 0 63 47 = true ∧ bankOk 31 15 63 = true) ∧
    (let s := mcSt { pool := List.replicate 128 (req 0) }
     (getMc s 0).quotaRaised = false ∧ 128 ≤ ((getMc s 0).pool.filter fun q => bankOf 0 q.off == 0 * 64 + 0).length) := by
  decide +kernel

theorem witness_scrubs :
    (getMc (mcSt {}) 0).trained = false ∧ (getMc (mcSt { trained := true }) 0).trained = true ∧ (getMc (mcSt {}) 0).repairQ = [] ∧
    (let m := getMc (mcSt { repairQ := [0x100000] }) 16
     m.repairQ = 0x100000 :: [] ∧ m.repairing = none ∧ inAttempt (mcSt { repairQ := [0x100000] }) = false ∧
     tget 0 m.used (bankOf 16 0x100000) < bankSpares 16 (bankOf 16 0x100000)) ∧
    ((getMc (mcSt { repairing := some 0 }) 0).repairing = some 0) ∧
    (0 < arbReqs 0 0 ∧ 0 < arbReqs 67 0x201 ∧ ∀ r ∈ [0, 131], r < arbReqs 0 0) ∧
    (let s : State := { arbs := [(arbKey 32 0, { holder := some 2 })] }
     (tget {} s.arbs (arbKey 32 0)).holder = some 2 ∧ arbCell 32 0 2 = none ∧ 0 < arbReqs 32 0) ∧
    (tget {} s0.arbs (arbKey 0 0)).holder = none := by
  decide +kernel

def zeroing : State := { linkSt {} with lend := { on := true, base := 0, size := 2, zeroing := true, newBase := 1, newSize := 2 } }
theorem witness_lending :
    ((linkSt {}).pwr.state ≠ stFault ∧ 512 < (513 : BitVec 16).toNat ∧ (512 : BitVec 16).toNat ≤ 512) ∧
    ((linkSt { hdm := true }).bxl.hdm = true ∧ zeroing.lend.zeroing = true) ∧
    ((linkSt {}).bxl.hdm = false ∧ (linkSt {}).lend.zeroing = false ∧ 0 < (1 : BitVec 16).toNat ∧
     lendConflict (take 1 0x50 (linkSt {})).2 1020 1 = true ∧ lendConflict (take 1 0x50 (linkSt {})).2 0 1 = false) ∧
    (zeroing.lend.newBase ≤ 2 ∧ 2 < zeroing.lend.newBase + zeroing.lend.newSize ∧ ¬(zeroing.lend.base ≤ 2 ∧ 2 < zeroing.lend.base + zeroing.lend.size)) ∧
    (({ pwr := { state := stFault } } : State).pwr.state = stFault) ∧
    (let s : State := { hf := { signing := true, jobs := [⟨⟨1, 0x60⟩, [], 0, 2048⟩], aliasLeaf := 1023 } }
     s.hf.signing = true ∧ s.hf.jobs = ⟨⟨1, 0x60⟩, [], 0, 2048⟩ :: [] ∧ s.hf.aliasLeaf < 1024) ∧
    (s0.hf.signing = false ∧ ({ hf := { wait := some .alias_ } } : State).hf.wait = some .alias_) ∧
    (let s : State := { hf := { wait := some .reserve }, pwr := { state := stReady } }
     s.hf.wait = some .reserve ∧ hfRuns s = true) := by
  decide +kernel

/-- The intake builds a batch of one slot. -/
def intakeSt (i : Intake) : State := { engSt 7 [(0, 4, 1)] [] with intake := i }
def genQ : GenReq := { cmd := ⟨1, 0x80⟩, request := 1, greedy := true, loopback := false, k := 1, promptLen := 0, maxNew := 4, invTemp := 0, topP := 0,
                       seed := 0, stream := 0, stopId := 0, promptAddr := 0, outAddr := 0 }
theorem witness_intake_and_generation :
    (1 < (2 : BitVec 8).toNat ∧ (0 : BitVec 32) = 0 ∧ 65536 < (65537 : BitVec 32).toNat) ∧
    ((1 : BitVec 8).toNat ≤ 1 ∧ (65536 : BitVec 32) ≠ 0 ∧ (65536 : BitVec 32).toNat ≤ 65536) ∧
    (building (handOut s0) = false ∧ building (handOut (intakeSt {})) = true ∧ (handOut (intakeSt {})).intake.work = .idle) ∧
    (let s := intakeSt { work := .reading false 0 0 24 [] 24 false }
     building (handOut s) = true ∧ (handOut s).intake.work = .reading false 0 0 24 [] 24 false) ∧
    (let s := intakeSt { work := .decoding 0 0 0 0 2 }
     s.intake.work = .decoding 0 0 0 0 2 ∧ [1#8].length < 2 ∧ 2 < [1#8, 2#8, 3#8].length ∧ [1#8, 2#8].length = 2 ∧ intakeTab s ≠ none) ∧
    (let s := intakeSt { slot := 1 }
     intakeTab s ≠ none ∧ s.intake.built = false ∧ s.intake.slot = slotCount s ∧ s.intake.manifest = []) ∧
    (let s : State := { gen := { users := [(11, some genQ)] }, modes := { inForce := 2 } }
     getUser s 11 = some genQ ∧ tokenRuns s genQ = true ∧ drawToken genQ (nextPos genQ) [] = none ∧
     drawToken genQ (nextPos genQ) [(0x3F800000, 7)] = some 7) := by
  decide +kernel

/-! ## Witnesses: power and the sideband -/

def pw (p : Power) : State := { pwr := p }
theorem witness_supply :
    ((pw { state := stOff }).pwr.state = stOff ∧ (pw { state := stOff }).pwr.inputOk = true ∧ (pw {}).pwr.state ≠ stOff) ∧
    ((pw { pwrEn := false }).pwr.pwrEn = false ∧ (pw { pwrEn := false }).pwr.lowAt = none ∧ (pw {}).pwr.pwrEn = true) ∧
    HostReady (linkSt {}) 0x18 ∧ ((pw { reset := .hot }).pwr.reset = .hot ∧ inRecovery (pw { reset := .hot }) = false) := by
  unfold HostReady; decide +kernel

def bootSt (h : Headframe) (good : Bool) : State := { hf := h, pwr := { pwrGood := good } }
theorem witness_start_up :
    (booting (bootSt {} false) = true ∧ (bootSt {} false).hf.bootOk = false) ∧
    (let ok := fun (x : Bool) => if x then (none : Option Nat) = none else some 3 = none
     ¬ok false ∧ ok true) ∧
    (booting (bootSt { bootOk := true } false) = true ∧ (bootSt { bootOk := true } false).pwr.pwrGood = false) ∧
    ((bootSt { bootOk := true } true).pwr.pwrGood = true ∧ ∀ k ∈ [0, 99, 128 * 7 + 99], cellOk k = true) ∧
    (let s := pw { state := stMemtrain }
     s.pwr.state = stMemtrain ∧ s.pwr.reset = .cold ∧ s.mcs = []) ∧
    ((pw { state := stMemtrain, reset := .warm }).pwr.reset ≠ .cold ∧ (pw { state := stMemtrain, surveyed := true }).pwr.surveyed = true) := by
  decide +kernel

theorem witness_throttling :
    ((linkSt {}).pwr.pwrGood = true ∧ 105 * 16 ≤ 1680 ∧ 1679 < 105 * 16 ∧ 1648 ≤ 103 * 16 ∧ 103 * 16 < 1649) ∧
    (inAttempt (linkSt {}) = false ∧ inAttempt { linkSt {} with steps := { phase := .running } } = true) ∧
    (let s := pw { curLimit := true }
     s.pwr.curLimit = true ∧ ∀ d ∈ rangeFrom 0 8, s.pwr.fCap ≤ 64 - tget 0 s.pwr.fCur d + 1) ∧
    (∀ d ∈ [((19 : Nat), (0 : BitVec 16))], d.1 < 20) ∧
    (started (linkSt {}) = true ∧ (linkSt {}).pwr.railFault = false) := by
  decide +kernel

theorem witness_sideband :
    ((linkSt {}).pwr.state ≠ stOff ∧ (pw { state := stOff }).pwr.state = stOff) ∧
    (sideReads (linkSt {}) (linkSt {}).side.regAddr = true ∧ sideReads { linkSt {} with side := { regAddr := 2 ^ 26 } } (2 ^ 26) = false) ∧
    (sideWrites (linkSt {}) 0x800 = true ∧ sideWrites (linkSt {}) 0x808 = false) ∧
    ((4800 : BitVec 16).toNat ≤ 4800 ∧ 127 < 128) := by
  decide +kernel

/-- The event queue with n records in it. -/
def evtSt (n : Nat) : State := { obs := { queue := List.replicate n ⟨0x0101, 0, 0, 0, 0, 0, []⟩ } }
theorem evt_len (n : Nat) : (evtSt n).obs.queue.length = n := List.length_replicate
theorem witness_events : (evtSt 0).obs.ringLog = 0 ∧ (evtSt 0).obs.queue.length ≤ 4032 ∧
    ((evtSt 4032).obs.queue.length ≤ 4032 ∧ (evtSt 4095).obs.queue.length < 4096 ∧ 2 ≤ severity 0x0401) ∧
    (evtSt 4096).obs.queue.length = 4096 ∧ (evtSt 0).pwr.state ≠ stReady := by
  simp only [evt_len]
  decide

/-! ## Witnesses: what stands beside them -/

/-- An earlier MMA of stream 0 still reads the first 128 bytes of the scratchpad; one of bank 0 is in the array. -/
def readSt : State := inCell { streams := [(0, { strm with s := [(1, 5#64)] })], array := some (false, true), reading := [⟨0, 0, 0, 128⟩] }
def stOf (r : Except RtFault (Cell × Sts)) : Cell := match r with | .ok x => x.1 | .error _ => {}
theorem witness_overwrites : Issues readSt u0 ∧
    ldPlace readSt (getCell readSt 0) ⟨1, false, 0, 0⟩ (getA (streamOf readSt u0) 0) true = .ok (0, 0) ∧
    overtakes u0 (getCell readSt 0) (spaceWrite 0 0 (toBytes 8 (getReg false (streamOf readSt u0) 1)) (getCell readSt 0)) = true ∧
    overtakes u0 (getCell readSt 0) (spaceWrite 0 0x80 (toBytes 8 (getReg false (streamOf readSt u0) 1)) (getCell readSt 0)) = false ∧
    (∀ f ∈ [0, 1], let w := { sw with fn := 2, fmtX := 0, fmtD := 0 }
     (sopElemCell false w { va with d := 0, fill := f } (getCell readSt 0)).toBool = true) ∧
    (sopFillCell false sw { va with d := 0, fill := 1 } (getCell readSt 0)).toBool = true ∧
    overtakes u0 (getCell readSt 0) (stOf (sopFillCell false sw { va with d := 0, fill := 1 } (getCell readSt 0))) = true ∧
    overtakes u0 (getCell s0 0) (stOf (sopFillCell false sw va (getCell s0 0))) = false := by
  unfold Issues; decide +kernel

theorem witness_signals_saturate : sigSt.sigs.find? (fun g => g.cell == 0 && g.sem == 1) = some ⟨0, 1, 5⟩ ∧ (1 : Nat) < 64 := by
  decide +kernel

/-- Ring 245,760 is a host ring whose doorbell is disabled. -/
theorem witness_rings_held : ringHeld (ringSt 0) 7 = none ∧ (ringSt 0).pushes.find? (fun p => p.ring == 7) = some ⟨7, 0, 0, [1#8]⟩ ∧
    s0.pushes.find? (fun p => p.ring == 7) = none ∧
    (let s := { s0 with rings := [(245760, { alloc := true, kind := 3, depthLog := 1, entryLog := 3, base := 0x1000 })] }
     (getRing s 245760).kind = 3 ∧ (getBell s (245760 - 245760)).enable = false ∧ (getBell s 0).shadow = 0 ∧ (getBell s 0).irqEn = false ∧
     ringHeld s 245760 = none ∧ (getRing s 245760).alloc = true) := by
  decide +kernel

theorem witness_all_tags : noneBusy (streamOf s0 u0) = true ∧
    noneBusy (streamOf (inStream { strm with tags := [(4, .busy)] }) u0) = false := by
  decide +kernel

/-- Drains that wait for the drain path and for the array, one with a status word, and ends of nothing. -/
theorem witness_drains_wait :
    (getDrain (getCell (inCell { drain0 := some ⟨0, 1, 1⟩ }) 0) false).isSome = true ∧ (getCell mmaSt 0).array = some (dr.bank, true) ∧
    takesEffect (getCell bankSt 0) noPred = true ∧ getDrain (getCell bankSt 0) dr.bank = none ∧ (getCell bankSt 0).array = none ∧
    (∀ en : Bool, checkSts en 64 = .ok ()) ∧ overtakes u0 (getCell bankSt 0) (stOf (drainCell false dr 0 64 0 0 0 (getCell bankSt 0))) = false ∧
    takesEffect (getCell mmaSt 0) { men := true } = false ∧ (getCell mmaSt 0).array ≠ some (true, true) ∧
    (getCell s0 0).array = none ∧ getDrain (getCell s0 0) true = none := by
  refine ⟨by decide +kernel, by decide +kernel, by decide +kernel, by decide +kernel, by decide +kernel, ?_, by decide +kernel,
    by decide +kernel, by decide +kernel, by decide +kernel, by decide +kernel⟩
  intro en; cases en <;> rfl

theorem witness_masks : (∀ ld : Bool, (vmskMem s0 u0 noPred 1 2 ld 0).toBool = true ∧
      overtakes u0 (getCell s0 0) (match vmskMem s0 u0 noPred 1 2 ld 0 with | .ok d => d | .error _ => {}) = false) ∧
    ((5 : BitVec 6).toNat ≤ 9 ∧ (5 : BitVec 6) ≠ 6 ∧ (5 : BitVec 6) ≠ 7) ∧
    (checkSts true (sReg s0 u0 0) = .ok () ∧ takesEffect (getCell s0 0) noPred = true ∧
      overtakes u0 (getCell s0 0) (stOf (vstCell false noPred { vm with stsEn := true } 0 0 (getCell s0 0))) = false ∧
      (vstCell false noPred { vm with stsEn := true } 0 0 (getCell s0 0)).toBool = true) := by
  refine ⟨?_, by decide, rfl, by decide +kernel, by decide +kernel, by decide +kernel⟩
  intro ld; cases ld <;> decide +kernel

theorem witness_map_walks_and_edits :
    (getCell walkSt 0).near.find? (fun l => l.line == nearNo 0 (walkSt.pmap.base + 16 * 0)) = none ∧ mapCfg s0 = none ∧
    s0.circ.chans = [] ∧ takesEffect (getCell s0 0) noPred = true ∧ takesEffect (getCell s0 0) { men := true } = false ∧
    (∀ r, mapCfg cowSt = some r → cowSt.pmap.base + 16 * cowSt.pmap.entries ≤ r.base + 64) ∧ cowSt.pmap.walks = [] ∧
    cowSt.pmap.pendWait = [] ∧ cowSt.pmap.fenceStreams = [] ∧ cowSt.pmap.pend = [] ∧ cowSt.circ.chans = [] := by
  have h : mapCfg cowSt = none := by decide +kernel
  refine ⟨by decide +kernel, by decide +kernel, rfl, by decide +kernel, by decide +kernel, ?_, rfl, rfl, rfl, rfl, rfl⟩
  intro r hr; rw [h] at hr; cases hr

theorem witness_housekeeping_ends :
    (let s := { inCell { near := [⟨0, [1#8]⟩] } with pwr := { state := stPlanned }, modes := { inForce := 1 } }
     (∀ l ∈ (getCell s 0).near, l.line = 0) ∧ (∀ l ∈ (getCell s 0).near, l.line ≠ 1) ∧ opMode s (getCell s 0) = false ∧ deepOk 0 128 = true) ∧
    houseSt.pmap.edits.find? (fun e => (editTier houseSt e).isSome) = some ⟨3, .set 0, .unit, 0⟩ ∧ s0.pmap.edits = [] ∧
    workload ({ houseSt with modes := { inForce := 2 } } : State) = 2 ∧
    s0.pmap.cows.find? (fun c => c.key == 4) = none ∧ houseSt.pmap.cows.find? (fun c => c.key == 4) = some ⟨4, 0, 0, 0, ⟨1, 1⟩, .unit, 0, 0⟩ ∧
    xfersLeft { houseSt with xfers := [(0, some ⟨.cow 4, true, 1, 8, 0, 0, 0, 0, false⟩)] } (.cow 4) ≠ 0 ∧
    houseSt.pmap.relocs.find? (fun x => x.key == 5) = some ⟨5, 0, 0, ⟨1, 1⟩, 0⟩ := by
  decide +kernel

/-- A request of cell 0 waits at the controller of the first HBM stack of its die. -/
theorem witness_quota : quotaHeld moveSt u0 (moveArgs moveSt u0 mv2 false) = false ∧
    quotaHeld { moveSt with mcs := [(0, { waiting := [{ requester := 0, off := 0, len := 64, write := false, fill := false, attempt := false }] })] }
      u0 (moveArgs moveSt u0 mv2 false) = true ∧
    (moveArgs s0 u0 mv2 false).rows = 0 := by
  decide +kernel

/-- The state in which an own message has its effect. -/
theorem ownArrives (s : State) (m : BellMsg) :
    BellArrives .own (selfSt s m) 0 m { s with bell := { s.bell with selfQ := [] } } { s with bell := { s.bell with selfQ := [] } } :=
  ⟨⟨[], rfl, rfl⟩, rfl⟩
/-- A frame with a message of the running pair, which arrives and is new. -/
theorem frameArrives : let r := rxFrom 0 0 (stepArea 6) []
    ∃ a b, BellArrives (.frame r) (live []) 1 (bellOf r.f) a b ∧ stepStale a 1 (bellOf r.f) = false ∧ (bellOf r.f).kind = 3 := by
  refine ⟨_, _, ⟨?_, ?_, ?_, ?_, rfl, ?_, rfl, ?_, ?_, rfl⟩, ?_, ?_⟩ <;> decide +kernel

theorem witness_messages_arrive :
    (∀ c ∈ [1, 2, 3, 4, 5, 6], stepStale (live []) 0 (stepM c) = false ∧ stepStale (live []) 0 { stepM c with group := 3 } = true) ∧
    ((planned []).steps.live = false ∧ (live []).steps.live = true) ∧
    (swapHeld (planned []) = false ∧ (let s := { planned [] with plan := { active := true, staged := .staged } }
     swapHeld s = true ∧ stagedMaster s = true)) ∧
    (let s := { planned [] with bell := { ops := [(bellKey 5 0, { seq := 4, active := true })] } }
     seqBehind 3 (getOp s 5 0).seq = true ∧ seqBehind 4 (getOp s 5 0).seq = false ∧ seqBehind 5 (getOp s 5 0).seq = false ∧
     5 = nextOp (getOp s 5 0) ∧ 4 ≠ nextOp (getOp s 5 0) ∧ 6 ≠ nextOp (getOp s 5 0) ∧ 6 ≠ (getOp s 5 0).seq ∧
     1 ∈ bellChildren (bellGroup s 5 0) (rankIn (bellGroup s 5 0) s.me) ∧ 0 ∉ bellChildren (bellGroup s 5 0) (rankIn (bellGroup s 5 0) s.me) ∧
     1 ∉ (getOp s 5 0).heard) ∧
    (let s := { planned [] with bell := { ops := [(bellKey 5 0, { seq := 4, active := true, heard := [1] })] } }
     1 ∈ (getOp s 5 0).heard ∧ 4 = (getOp s 5 0).seq) := by
  decide +kernel

theorem witness_acks_that_find_nothing :
    (let r := rxFrom 0 0 (ackArea 3 5 3 1) []
     (accept r (outSt (stepM 5))).1 = true ∧ (bellOf r.f).kind = 2 ∧ (bellOf r.f).code = 3 ∧
     stepStale (accept r (outSt (stepM 5))).2 1 (bellOf r.f) = true) ∧
    (let r := rxFrom 0 0 (ackArea 3 5 2 1) []
     stepStale (accept r (live [])).2 1 (bellOf r.f) = false ∧ (accept r (live [])).2.bell.out.find? (acks 1 (bellOf r.f)) = none) ∧
    (bellOf (rxFrom 0 0 (ackArea 0 0 5 4) []).f).code ≠ 3 ∧
    (let s := { planned [] with plan := { active := true, phases := [1] }, cells := [(0, { streams := [(0, { running := true, startedBy := some 1 })] })] }
     1 ∈ s.plan.phases ∧ phaseRuns s 1 = true) := by
  decide +kernel

theorem witness_steps_that_wait :
    (let s : State := { plan := { swap := .idle } }
     s.plan.swap ≠ .waitGo ∧ s.steps.master.waitArmed = false ∧ s.steps.master.active = false) ∧
    (let s := { live [] with steps := { (live []).steps with scaleAsked := [3] } }
     readyBut s = true ∧ nextGlobal s = none ∧ 3 ∈ s.steps.scaleAsked ∧ tget 0 s.steps.scaleDone 3 = 0) ∧
    (∀ active : Bool, let s := { live (regions [(1, 0, 0, 0x1000, 64)] ++ [(0x90C4, 1, 3)]) with
                      hbm := put 0 [(6, 1, 2)] [], bell := { ops := [(bellKey 5 1, { active := active })] } }
     readyBut s = true ∧ (nextGlobal s).isSome = true ∧ wholeGroup s s.act = some 5 ∧ (getOp s 5 1).active = active) ∧
    (let s : State := { bell := { out := [bellWait] } }
     let mine := fun (dst : Nat) (o : BellOut) => o.dst == dst && o.msg.kind == 3 && o.msg.code == 5 && o.msg.chan == 0
     s.bell.out.find? (mine 1) = some bellWait ∧ s.bell.out.find? (mine 2) = none ∧ bellWait.resends < 8 ∧ ¬8 < 8) ∧
    (let s := { planned [] with steps := { master := { active := true, commitSent := true, acked := [1] } } }
     (liveWorkers s).filter (fun i => decide (i ∉ s.steps.master.acked) && i != s.me) = []) := by
  refine ⟨by decide +kernel, by decide +kernel, ?_, by decide +kernel, by decide +kernel⟩
  intro a; cases a <;> decide +kernel

/-- Eight workers, so that this one has a buddy. -/
theorem witness_checkpoints_that_wait :
    (let s := planned ((28, 2, 8) :: (0x9170, 1, 0x12) :: regions [(1, 1, 8, 0, 0x100000), (2, 1, 9, 0x200000, 0x100000)])
     hasBuddy s = true ∧ (imgKind s s.act 8).isSome = true ∧ s.ckpt.cmd = none ∧ (3 : BitVec 8).toNat < 4 ∧
     slotBytes (ownBody s) ≤ (0x10000000 : BitVec 64).toNat) ∧
    (∀ x ∈ [CkptSt.mirroring, .exporting], ({ ckptSt with ckpt := { st := x } } : State).ckpt.st = x) ∧
    localSlots ckptSt 5 = [] ∧
    (let s := { ckptSt with ckpt := { st := .restoring, source := 1 } }
     s.ckpt.st = .restoring ∧ s.ckpt.source = 1 ∧ s.ckpt.publishing = false) ∧
    (ckptSt.ckpt.st ≠ .restoring ∧ (imgKind ckptSt ckptSt.act 9).isSome = true) := by
  decide +kernel

/-- A combiner's token that ends chunk 0 of stage 0 of collective 0, which this member reduces in its quad. -/
theorem witness_stage_tokens :
    (let s := engSt 5 [(0, 4, 1), (4, 4, 4096), (16, 4, 9), (68, 1, 0), (71, 1, 1), (72, 4, 5), (96, 8, 8192), (112, 4, 9)] [(0, 1, 1)]
     let x := enginePop 9 s
     (rangeFrom 0 (collCount s)).find? (fun c =>
       collDie s c == 0 && decide (collNum s c 4 1 ≤ 1) && decide (0 < (getRing s (collNum s c 48 4)).len)) = some 0 ∧
     numAt x.1 0 1 = 1 ∧ (numAt x.1 1 1, numAt x.1 4 4) ∈ collDones (collShape x.2 0) ∧ (getColl x.2 0).done = []) ∧
    (let s := { collSt with colls := [(0, { active := true, started := true })] }
     waitsOn s 0 1 = true ∧ waitsOn s 0 0 = false) := by
  decide +kernel

theorem witness_canaries :
    (let s := { planned [] with bell := { ops := [(bellKey 5 0, { seq := 4, active := true })] } }
     (getOp s 5 0).active = true ∧ (getOp s 5 0).upSent = false) ∧
    (let s := { live [] with intake := { starved := true } }
     s.intake.starved = true ∧ inAttempt s = true) ∧
    (let s := { engSt 3 [(0, 4, 1), (16, 4, 9), (38, 1, 1)] [] with gather := { engs := [(0, { job := some ⟨0, 0, 0, 0, 0, 0⟩ })] } }
     (getGath s 0).job = some ⟨0, 0, 0, 0, 0, 0⟩ ∧ gathNum s 0 6 1 ≠ 0) ∧
    chanPeer (openSt 0 [] { hop := 1 }) 0 = some (1, 1) ∧ chanPeer (openSt 0 [] { hop := 1, expired := [(1, 1)] }) 0 = none ∧
    ((getEng s0 7).publishing = []) ∧
    (let s : State := { update := { engs := [(0, { publishing := [0] })] } }
     (getEng s 0).publishing = [0]) := by
  decide +kernel

/-- Reads in flight, one that answers and one that a store of another kind holds. -/
theorem witness_responses :
    (let r := rxSend { (rxFrom 3 0 (moveAreaOf 0) []).f with resp := true }
     (accept r (live [])).1 = true ∧ r.f.resp = true ∧ r.f.typ = 0 ∧ getXfer (accept r (live [])).2 (fld r.f 60 4) = none) ∧
    (∀ w : Bool, let r := rxSend { (rxFrom 3 0 (moveAreaOf 0) []).f with resp := true }
     let s := { live [] with xfers := [(0, some ⟨.cow 4, w, 1, 8, 0, 0, 0, 0, false⟩)] }
     (accept r s).1 = true ∧ getXfer (accept r s).2 (fld r.f 60 4) = some ⟨.cow 4, w, 1, 8, 0, 0, 0, 0, false⟩) := by
  refine ⟨by decide +kernel, ?_⟩
  intro w; cases w <;> decide +kernel

/-- A page-map plan with one page of HBM as its frame pool. -/
def poolSt : State := { planned (regions [(2, 0, 4, 0, 0x100000)]) with modes := { running := [{ maintReq 4 with arg1 := 0x1000 }] } }
theorem witness_maintenance_that_waits :
    (poolSt.plan.active = true ∧ (compactRange poolSt 0 0x1000).isSome = true ∧ (6 : BitVec 8).toNat ≤ 6 ∧ 0 ≤ 23 * 2 ^ 20) ∧
    (let s := { maintSt (maintReq 4) with pmap := { relocs := [⟨5, 0, 0, ⟨1, 1⟩, 0⟩] } }
     maintJob s 4 = some (maintReq 4) ∧ s.pmap.relocs ≠ []) ∧
    (let s := { maintSt (maintReq 2) with cells := [(0, { scratchHeld := true })] }
     maintJob s 2 = some (maintReq 2) ∧ (∃ e ∈ s.cells, e.2.scratchHeld = true)) ∧
    (let s : State := { pwr := { state := stMemtrain } }
     s.pwr.reset = .cold ∧ s.pwr.state = stMemtrain ∧ s.pwr.surveyed = false) ∧
    (∀ a ∈ [0, 1, 2, 4, 7], maintJob s0 a = none) ∧
    (({ maintReq 7 with done := some 3 } : MaintReq).activity = 7 ∧ endCode s0 { maintReq 7 with done := some 3 } = cOk) := by
  decide +kernel

theorem witness_requests_and_holders :
    (let w : ReqWord := ⟨0, 0, 128, false, true⟩
     w.requester < ctlRequesters 0 ∧ w.off + w.len ≤ stackBytes 0 ∧ w.off % 1024 + w.len ≤ 1024 ∧ w.len = 128 ∧ w.write = false ∧ w.fill = true) ∧
    (let s : State := { arbs := [(arbKey 0 0x405, { holder := some 0 })] }
     (tget {} s.arbs (arbKey 0 0x405)).holder = some 0 ∧ (arbCell 0 0x405 0).isSome = true ∧ 0 < arbReqs 0 0x405) ∧
    (∀ off ∈ [0, 0x40, 0x1000], (getMc (mcSt { repairing := some off }) 31).repairing = none) := by
  decide +kernel

theorem witness_pins_and_resets :
    (let s := pw { pwrEn := false, lowAt := some 0 }
     s.pwr.pwrEn = false ∧ ¬(enableLow ≤ s.lamp.tick - 0)) ∧
    (let s : State := { pwr := { pwrEn := false, lowAt := some 0 }, lamp := { tick := enableLow } }
     s.pwr.pwrEn = false ∧ enableLow ≤ s.lamp.tick - 0) ∧
    (let s : State := { pwr := { reset := .hot }, modes := { inForce := 65536 } }
     s.pwr.reset = .hot ∧ inRecovery s = true) ∧
    (let s := intakeSt { work := .decoding 0 0 0 2 2 }
     s.intake.work = .decoding 0 0 0 2 2 ∧ s.intake.slot = 0) := by
  decide +kernel

/-- A valid mirror slot of one unit, with a CRC table of one entry and the digest of that table. -/
def mirrorSt (crc digest : Nat) : State := let s := planned (regions [(2, 1, 9, 0, 0x100000)])
  { s with
    deep := put 0 [(0, 4, 0x4B43474E), (4, 2, 1), (40, 8, 1), (52, 4, 1), (64, 32, digest), (4096, 4, crc)] s.deep
    modes := { running := [{ maintReq 7 with arg0 := 1 }] } }
def mirror0 : State := mirrorSt 0 97059820081331784324977155127059063595800157770958902037719491459317415977652
def mirror1 : State := mirrorSt 1 98256555360481845552021171665929346114151961346755120996468730747441104948770
theorem mirrors_valid : mirrorValid mirror0 false = true ∧ mirrorValid mirror1 false = true := by decide +kernel
theorem mirror_units : badUnits (deepSlot mirror0 0) ≠ [] ∨ badUnits (deepSlot mirror1 0) ≠ [] := by
  have h0 : hdrNum (deepSlot mirror0 0) 40 8 = 1 ∧ hdrNum (deepSlot mirror0 0) 52 4 = 1 ∧ hdrNum (deepSlot mirror0 0) 4096 4 = 0 ∧
      hdrNum (deepSlot mirror1 0) 40 8 = 1 ∧ hdrNum (deepSlot mirror1 0) 52 4 = 1 ∧ hdrNum (deepSlot mirror1 0) 4096 4 = 1 ∧
      deepSlot mirror0 0 (bodyStart 1) 1 = deepSlot mirror1 0 (bodyStart 1) 1 := by decide +kernel
  obtain ⟨a, b, c, d, e, f, g⟩ := h0
  have hu : slotUnit (deepSlot mirror0 0) 1 0 = slotUnit (deepSlot mirror1 0) 1 0 := by
    unfold slotUnit; simp [g]
  have r : rangeFrom 0 1 = [0] := by decide
  unfold badUnits
  simp only [a, b, d, e, r, hu, List.filter_cons, List.filter_nil, c, f, Nat.mul_zero, Nat.add_zero]
  by_cases h : (crc32c (slotUnit (deepSlot mirror1 0) 1 0)).toNat = 0
  · right; simp [h]
  · left; simp [h]
/-- One of the two disagrees with its table: no byte string has two CRCs. -/
theorem witness_bad_mirror : (maintJob mirror0 7 = some { maintReq 7 with arg0 := 1 } ∧ maintJob mirror1 7 = some { maintReq 7 with arg0 := 1 }) ∧
    (badMirrors mirror0 { maintReq 7 with arg0 := 1 } ≠ [] ∨ badMirrors mirror1 { maintReq 7 with arg0 := 1 } ≠ []) := by
  have k : (∀ s ∈ [mirror0, mirror1], (if s.plan.active then imgKind s s.act 9 else none).map (slotAt · false) = some 0) := by decide +kernel
  have q : ∀ s ∈ [mirror0, mirror1], mirrorValid s false = true → badUnits (deepSlot s 0) ≠ [] →
      badMirrors s { maintReq 7 with arg0 := 1 } ≠ [] := by
    intro s hs hv hb
    have hk := k s hs
    unfold badMirrors
    split
    · rename_i e; rw [e] at hk; cases hk
    · rename_i m e; rw [e] at hk
      have hm : slotAt m false = 0 := Option.some.inj hk
      have hbit : bitAt 1 (bit01 false) = true := by decide
      simp [List.filter_cons, hm, hv, hb, hbit]
  refine ⟨by decide +kernel, ?_⟩
  rcases mirror_units with h | h
  · exact .inl (q _ (by simp) mirrors_valid.1 h)
  · exact .inr (q _ (by simp) mirrors_valid.2 h)

/-! ## Worked examples of the spec, and values of public standards -/

/-- The check value of CRC-32C, a public standard. -/
theorem test_crc32c : crc32c ([0x31, 0x32, 0x33, 0x34, 0x35, 0x36, 0x37, 0x38, 0x39] : List Byte) = 0xE3069283#32 := by decide +kernel

/-- The global address of 01_module_overview.md: logical cell 517 of module 200, byte 0x1_8000. -/
theorem test_global_address : mkGaddr 200 2 (517 * 2 ^ 21 + 0x18000) = 0x0322000040A18000 ∧
    gaddr 0x0322000040A18000 = ⟨200, 2, 517 * 2 ^ 21 + 0x18000⟩ := by decide +kernel

/-- The register addresses of 22_register_map.md. -/
theorem test_register_addresses : cellBase (128 * 3 + 45) + 0x108 = 0x363D108 ∧ mkGaddr 37 3 0x363D108 = 0x009700000363D108 ∧
    portBase (2 * 2) + 8 = 0x1810008 ∧ bellRing 300 = 246060 ∧ 300 * 64 + 0x10 = 0x4B10 := by decide +kernel

/-- The route of 04_plan_image.md from Gallery 0 to Gallery 2. -/
theorem test_route : followHops 0x40 [0x12, 6, 0x16] = some 0x42 := by decide +kernel

/-- The thresholds of 03_numerics.md: 464 becomes 448 in E4M3, and what lies above it a NaN, or 448 with SATFINITE. -/
theorem test_e4m3_limit : (convElem 3 false 0 (.ofInt 464)).1 = 0x7E ∧ (convElem 3 false 0 (.ofInt 465)).1 = 0x7F ∧
    convElem 3 true 0 (.ofInt 465) = (0x7E, { Sts.seen (.ofInt 465) with saturated := true }) ∧
    (convElem 4 true 0 (.ofInt 61440)).1 = 0x7B ∧ (convElem 2 false 0 (.ofInt 65520)).1 = 0x7C00 := by decide +kernel

/-- The scale history of 03_numerics.md: 37.5 gives exponent 2 with MARGIN 1, and after 150 it is 0. -/
theorem test_scale_history : scaleExp 3 1 5 [0x42160000] = 2 ∧ scaleExp 3 1 5 [0x42160000, 0x43160000] = 0 ∧ scaleExp 3 1 5 [] = 5 := by
  decide +kernel

/-- The shares of 14_intake.md: 177 after a batch at 0.97 from 192, then 183 after one at 0.80. -/
theorem test_intake_share : shareNext 0x3F7851EC 192 = 177 ∧ shareNext 0x3F4CCCCD 177 = 183 := by decide +kernel

/-- The requests of 17_modes.md: a survey is blocked by the scrub that runs, a retrain by the survey that waits. -/
theorem test_maintenance_order :
    ((blockers (maintSt (maintReq 0)) [] (maintReq 3)).map (·.activity)).head? = some 0 ∧
    ((blockers (maintSt (maintReq 0)) [maintReq 3] (maintReq 5)).map (·.activity)).head? = some 3 ∧
    blockers (maintSt (maintReq 0)) [] (maintReq 5) = [] := by decide +kernel

/-- A sum that wraps: all ones and 1 give 0 in the destination that is also a source (R153). -/
theorem test_salu_wraps :
    (match exec (.salu u0 ⟨1, false, 1, 2, false, false, 0, 0⟩) (inStream { strm with s := [(1, BitVec.allOnes 64), (2, 1#64)] }) with
      | .next t => (getS (streamOf t u0) 1, getS (streamOf t u0) 2)
      | _ => (7, 7)) = (0, 1) := by decide +kernel

/-- SST stores its eight bytes with the least significant first (R17, R153). -/
theorem test_store_order :
    (match exec (.sst u0 ⟨1, false, 0, 0x40⟩) (inStream { strm with s := [(1, 0x0102030405060708#64)] }) with
      | .next t => mread (getCell t 0).scratch 0x40 8
      | _ => []) = [8, 7, 6, 5, 4, 3, 2, 1] := by decide +kernel

/-- A step without a command is one period of the Lamp room's tick source. -/
theorem test_idle_step : step {} = .next (idle {}) := rfl

end Sys2Proof.Tests
end

/-! ## Remote transfers: what serves a MOVE frame -/

namespace Sys2Proof.Machine

/-- A MOVE frame of the given type that arrives at a port of the module and passes the acceptance checks
(R323). -/
structure MoveAccepted (r : RxFrame) (typ : Nat) (s : State) : Prop where
  port : portOk r.die r.port = true
  cls : r.f.cls = 3
  typ : r.f.typ = typ
  delivered : (accept r s).1 = true

theorem onFrame_of_accepted {r : RxFrame} {cls typ : Nat} {f : State → State} {s : State}
    (hport : portOk r.die r.port = true) (hcls : r.f.cls = cls) (htyp : r.f.typ = typ) (hacc : (accept r s).1 = true) :
    onFrame r cls typ f s = .next (f (accept r s).2) := by
  simp [onFrame, onUnit, hport, hcls, htyp, hacc]

section
variable {r : RxFrame} {typ : Nat} {f : State → State} {s : State}

/-- R23: a store or a read of tier 3 is dropped before its epoch is looked at. -/
theorem onMove_of_tier3 (h : MoveAccepted r typ s) (hop : typ = 0 ∨ typ = 3) (htier : (gaddr (fld r.f 44 8)).tier = 3) :
    onMove r typ f s = .next (bump (portBase (rxPort r) + 0x130) 1 (accept r s).2) := by
  rw [onMove, onFrame_of_accepted h.port h.cls h.typ h.delivered, if_pos ⟨hop, htier⟩]

/-- R325: a frame of another layout epoch is acknowledged and discarded. -/
theorem onMove_of_other_epoch (h : MoveAccepted r typ s) (htier : (gaddr (fld r.f 44 8)).tier ≠ 3)
    (hepoch : r.f.epoch ≠ (accept r s).2.steps.epoch) :
    onMove r typ f s = .next (ackFrame r (bump (portBase (rxPort r) + 0x138) 1 (accept r s).2)) := by
  rw [onMove, onFrame_of_accepted h.port h.cls h.typ h.delivered, if_neg (htier ·.2), if_pos hepoch]

theorem onMove_of_served (h : MoveAccepted r typ s) (htier : (gaddr (fld r.f 44 8)).tier ≠ 3)
    (hepoch : r.f.epoch = (accept r s).2.steps.epoch) : onMove r typ f s = .next (f (accept r s).2) := by
  rw [onMove, onFrame_of_accepted h.port h.cls h.typ h.delivered, if_neg (htier ·.2), if_neg (not_not.mpr hepoch)]

end

theorem exec_moveData (r : RxFrame) (s : State) : exec (.moveData r) s = onMove r 0 (moveData r) s := rfl

theorem exec_read (r : RxFrame) (s : State) : exec (.read r) s = execRead r s := rfl

theorem exec_signal (r : RxFrame) (s : State) : exec (.signal r) s = execSignal r s := rfl

/-- The three commands share the gate of tier and epoch, and differ in what they do behind it. -/
theorem exec_moveFrame {r : RxFrame} {x : Instr × Nat} (hx : x ∈ [(Instr.moveData r, 0), (.read r, 3), (.signal r, 4)]) :
    ∃ f : State → State, ∀ s, exec x.1 s = onMove r x.2 f s := by
  simp only [List.mem_cons, List.not_mem_nil, or_false] at hx
  obtain rfl | rfl | rfl := hx
  · exact ⟨_, exec_moveData r⟩
  · exact ⟨_, exec_read r⟩
  · exact ⟨_, exec_signal r⟩

/-! ### What DATA does -/

section
variable {r : RxFrame}

theorem moveData_of_store (hresp : r.f.resp = false) (s : State) :
    moveData r s = if rxAddrOk s (fld r.f 44 8) r.f.payload.length = true
      then ackFrame r (writeLocal (gaddr (fld r.f 44 8)) r.f.payload s) else refuseFrame r s := by
  simp [moveData, hresp]

theorem moveData_of_no_read {s : State} (hresp : r.f.resp = true) (hx : getXfer s (fld r.f 60 4) = none) :
    moveData r s = ackFrame r s := by
  simp [moveData, hresp, hx]

theorem moveData_of_answer {s : State} {x : RemoteXfer} (hresp : r.f.resp = true) (hx : getXfer s (fld r.f 60 4) = some x) :
    moveData r s = if x.write = true then ackFrame r s else responseData r (fld r.f 60 4) x s := by
  simp [moveData, hresp, hx]

end

/-! ### What READ and SIGNAL do behind the gate -/

/-- The DATA frames that answer a READ of n bytes: parts of at most 8,192 B, each with the address that the
READ gave, moved on by the part's offset, and with its XFER (R334). -/
def readAnswer (r : RxFrame) (n : Nat) (s : State) : List Frame :=
  (parts 8192 n).map fun q =>
    { mkFrame s false r.f.src 0 3 (moveArea (fld r.f 52 8 + q.1) 0 (fld r.f 60 4))
        (((readLocal s (gaddr (fld r.f 44 8)) n).drop q.1).take q.2) with resp := true }

section
variable {r : RxFrame} {s : State}

theorem execRead_of_refused (h : MoveAccepted r 3 s) (htier : (gaddr (fld r.f 44 8)).tier ≠ 3)
    (hepoch : r.f.epoch = (accept r s).2.steps.epoch)
    (hbad : numAt r.f.payload 0 4 = 0 ∨ 65536 < numAt r.f.payload 0 4 ∨
      rxAddrOk (accept r s).2 (fld r.f 44 8) (numAt r.f.payload 0 4) = false) :
    execRead r s = .next (refuseFrame r (accept r s).2) := by
  rw [execRead, onMove_of_served h htier hepoch]
  exact congrArg _ (if_pos (by simpa using hbad))

theorem execRead_of_served (h : MoveAccepted r 3 s) (htier : (gaddr (fld r.f 44 8)).tier ≠ 3)
    (hepoch : r.f.epoch = (accept r s).2.steps.epoch) (hpos : 0 < numAt r.f.payload 0 4) (hmax : numAt r.f.payload 0 4 ≤ 65536)
    (hok : rxAddrOk (accept r s).2 (fld r.f 44 8) (numAt r.f.payload 0 4) = true) :
    execRead r s = .next ((readAnswer r (numAt r.f.payload 0 4) (accept r s).2).foldl
      (fun s f => handOff (rxPort r) { frame := f } s) (ackFrame r (accept r s).2)) := by
  rw [execRead, onMove_of_served h htier hepoch]
  exact congrArg _ (if_neg (by simp [hok]; omega))

theorem execSignal_of_served (h : MoveAccepted r 4 s) (htier : (gaddr (fld r.f 44 8)).tier ≠ 3)
    (hepoch : r.f.epoch = (accept r s).2.steps.epoch) :
    execSignal r s = .next (ackFrame r
      (signalLogical (fld r.f 52 2) (fld r.f 54 1 % 64) (fld r.f 55 1 % 16) (accept r s).2)) :=
  onMove_of_served h htier hepoch

end

/-- Settles O34: the gate of tier and epoch for the three commands at once, then each command's own branches. -/
theorem remoteFramesAreServed : Obligations.RemoteFramesAreServed := by
  unfold Obligations.RemoteFramesAreServed
  intro s r hport hcls hacc
  have accepted {typ : Nat} (htyp : r.f.typ = typ) : MoveAccepted r typ s := ⟨hport, hcls, htyp, hacc⟩
  refine ⟨fun x hx htyp htier => ?tier3, fun htier hepoch x hx htyp => ?epoch, fun htier hepoch =>
    ⟨fun htyp hresp => ?store, fun htyp hresp => ⟨fun hx => ?noRead, fun x hx => ?answer⟩,
      fun htyp hbad => ?refused, fun htyp hpos hmax hok => ?served, fun htyp => ?signal⟩⟩
  case tier3 =>
    have hop : x.2 = 0 ∨ x.2 = 3 := by
      simp only [List.mem_cons, List.not_mem_nil, or_false] at hx
      exact hx.imp (congrArg Prod.snd) (congrArg Prod.snd)
    obtain ⟨f, hf⟩ := exec_moveFrame (r := r) (List.mem_append_left [(Instr.signal r, 4)] hx)
    exact ⟨_, (hf s).trans (onMove_of_tier3 (accepted htyp) hop htier), rfl⟩
  case epoch =>
    obtain ⟨f, hf⟩ := exec_moveFrame hx
    exact ⟨_, (hf s).trans (onMove_of_other_epoch (accepted htyp) htier hepoch), rfl⟩
  case store => exact ⟨_, onMove_of_served (accepted htyp) htier hepoch, moveData_of_store hresp _⟩
  case noRead => exact ⟨_, onMove_of_served (accepted htyp) htier hepoch, moveData_of_no_read hresp hx⟩
  case answer => exact ⟨_, onMove_of_served (accepted htyp) htier hepoch, moveData_of_answer hresp hx⟩
  case refused => exact ⟨_, execRead_of_refused (accepted htyp) htier hepoch hbad, rfl⟩
  case served => exact ⟨_, execRead_of_served (accepted htyp) htier hepoch hpos hmax hok, rfl⟩
  case signal => exact ⟨_, execSignal_of_served (accepted htyp) htier hepoch, rfl⟩

end Sys2Proof.Machine

/-! ## Cells and streams: what an instruction leaves behind -/

namespace Sys2Proof.Machine

theorem tdel_of_forall_ne {α : Type} {k : Nat} : ∀ {t : Table α}, (∀ e ∈ t, e.1 ≠ k) → tdel t k = t
  | [], _ => rfl
  | e :: t, h => by
    obtain ⟨he, ht⟩ := List.forall_mem_cons.1 h
    rw [tdel, if_neg he, tdel_of_forall_ne ht]

theorem tdel_tins {α : Type} {k : Nat} (v : α) : ∀ {t : Table α}, (∀ e ∈ t, e.1 ≠ k) → tdel (tins t k v) k = t
  | [], _ => by simp [tins, tdel]
  | e :: t, h => by
    obtain ⟨he, ht⟩ := List.forall_mem_cons.1 h
    by_cases hlt : e.1 < k
    · rw [tins, if_pos hlt, tdel, if_neg he, tdel_tins v ht]
    · rw [tins, if_neg hlt, tdel, if_pos rfl, tdel_of_forall_ne h]

/-- The last of two writes of one key is the one that counts, in any table. -/
@[simp] theorem tset_tset {α : Type} [DecidableEq α] (d : α) (t : Table α) (k : Nat) (v w : α) :
    tset d (tset d t k v) k w = tset d t k w := by
  have hdel : tdel (tset d t k v) k = tdel t k := by
    unfold tset
    split
    · exact tdel_of_forall_ne mem_tdel_ne
    · exact tdel_tins v mem_tdel_ne
  simp only [tset, hdel] at *

@[simp] theorem modCell_modCell (k : Nat) (f g : Cell → Cell) (s : State) :
    modCell k f (modCell k g s) = modCell k (fun c => f (g c)) s := by
  simp [modCell, tmod]

theorem modCell_congr {k : Nat} {f g : Cell → Cell} {s : State} (h : f (getCell s k) = g (getCell s k)) :
    modCell k f s = modCell k g s := by
  simp only [getCell] at h
  simp only [modCell, tmod, h]

section
variable (u : StreamAt) (s : State)

theorem onlyStream_stepOn : OnlyStream u s (stepOn u s) := onlyStream_modStream ..

theorem onlyStream_blockUnit (cause : StallCause) : OnlyStream u s (blockUnit u cause s) := onlyStream_modStream ..

@[simp] theorem streamOf_modStream (f : Stream → Stream) :
    streamOf (modStream u.cell u.stream.toNat f s) u = f (streamOf s u) := getStream_modStream ..

@[simp] theorem streamOf_stepOn : streamOf (stepOn u s) u = (streamOf s u).next := streamOf_modStream ..

@[simp] theorem streamOf_blockUnit (cause : StallCause) :
    streamOf (blockUnit u cause s) u = { streamOf s u with wait := some .unit, cause := cause } :=
      streamOf_modStream ..

/-- Of its cell an instruction that goes on changes its stream alone. -/
theorem getCell_stepOn :
    getCell (stepOn u s) u.cell = { getCell s u.cell with streams := (getCell (stepOn u s) u.cell).streams } :=
  (onlyStream_stepOn u s).2.1

theorem getCell_stepOn_modCell (f : Cell → Cell) :
    getCell (stepOn u (modCell u.cell f s)) u.cell =
      { f (getCell s u.cell) with streams := (getCell (stepOn u (modCell u.cell f s)) u.cell).streams } := by
  conv_lhs => rw [getCell_stepOn, getCell_modCell]

theorem onlyCell_stepOn_modCell (f : Cell → Cell) : OnlyCell u.cell s (stepOn u (modCell u.cell f s)) :=
  (onlyCell_modCell ..).trans (onlyStream_stepOn ..).1

variable {u s}

theorem streamOf_modCell {f : Cell → Cell} (h : (f (getCell s u.cell)).streams = (getCell s u.cell).streams) :
    streamOf (modCell u.cell f s) u = streamOf s u := by
  simp [streamOf, getStream, h]

/-- An instruction that changes its cell, but no stream of it, leaves its stream on the next word. -/
theorem streamOf_stepOn_modCell {f : Cell → Cell} (h : (f (getCell s u.cell)).streams = (getCell s u.cell).streams) :
    streamOf (stepOn u (modCell u.cell f s)) u = (streamOf s u).next := by
  rw [streamOf_stepOn, streamOf_modCell h]

end

end Sys2Proof.Machine

/-! ## Semaphores -/

namespace Sys2Proof.Machine

section
variable {s : State} {u : StreamAt} {sem n : Nat}

theorem semwEffect_of_le (h : n ≤ tget 0 (getCell s u.cell).sems sem) :
    semwEffect u sem n s = stepOn u (modCell u.cell
      (fun c => { c with sems := tset 0 c.sems sem (tget 0 c.sems sem - n) }) s) := if_pos h

theorem semwEffect_of_lt (h : tget 0 (getCell s u.cell).sems sem < n) :
    semwEffect u sem n s = modStream u.cell u.stream.toNat
      (fun t => { t with wait := some (.sem sem n), cause := semCause s u.cell sem })
      (modCell u.cell (fun c => { c with semQ := c.semQ ++ [u.stream.toNat] }) s) := if_neg (by omega)

end

/-- Settles O8: the two cases of the semaphore's value, each with what it changes of the cell. -/
theorem semaphoreWaitTakesItsAmountOrBlocks : Obligations.SemaphoreWaitTakesItsAmountOrBlocks := by
  unfold Obligations.SemaphoreWaitTakesItsAmountOrBlocks
  intro s u sem n hs hn
  refine runs_issue hs (by simpa using hn) ?_
  by_cases hle : n.toNat ≤ tget 0 (getCell s u.cell).sems sem.toNat
  case pos =>
    rw [semwEffect_of_le hle]
    have hcell := getCell_stepOn_modCell u s (fun c =>
      { c with sems := tset 0 c.sems sem.toNat (tget 0 c.sems sem.toNat - n.toNat) })
    refine ⟨onlyCell_stepOn_modCell .., fun q hq => ?_, fun _ => ⟨?_, streamOf_stepOn_modCell rfl, ?_⟩,
      fun hlt => absurd hle (by omega)⟩
    · rw [hcell]; exact tget_tset_ne _ _ _ hq
    · rw [hcell]; exact tget_tset_same ..
    · rw [hcell]
  case neg =>
    rw [semwEffect_of_lt (by omega)]
    refine ⟨(onlyCell_modCell ..).trans (onlyStream_modStream ..).1, fun q hq => ?_, fun hle' => absurd hle' hle,
      fun _ => ?_⟩
    · rw [(onlyStream_modStream ..).2.1, getCell_modCell]
    · rw [streamOf_modStream, streamOf_modCell rfl, (onlyStream_modStream ..).2.1, getCell_modCell]
      exact ⟨rfl, rfl, rfl, rfl, rfl⟩

section
variable {s : State} {u : StreamAt} {cell sem amt : Nat}

theorem signalSem_eq (h : amt ≠ 0) : signalSem cell sem amt s = { s with sigs := s.sigs ++ [⟨cell, sem, amt⟩] } :=
  if_neg h

theorem semsEffect_own : semsEffect u sem 0x3FF amt s = stepOn u (signalSem u.cell sem amt s) := if_pos rfl

theorem semsEffect_of_physOf {k : Nat} (hcell : cell ≠ 0x3FF) (h : physOf s cell = some k) :
    semsEffect u sem cell amt s = stepOn u (signalSem k sem amt s) := by
  rw [semsEffect, if_neg hcell, h]

theorem semArrive_of_find {g : Sig} (h : s.sigs.find? (fun g => g.cell == cell && g.sem == sem) = some g) :
    semArrive cell sem s = semAdd cell sem g.amt { s with sigs := s.sigs.erase g } := by
  rw [semArrive, h]

/-- A signal that overflows nothing and that no stream waits for is added, and that is all. -/
theorem semAdd_of_idle (hq : (getCell s cell).semQ = []) (h : tget 0 (getCell s cell).sems sem + amt ≤ 65535) :
    semAdd cell sem amt s =
      modCell cell (fun c => { c with sems := tset 0 c.sems sem (tget 0 (getCell s cell).sems sem + amt) }) s := by
  simp only [semAdd, if_neg (Nat.not_lt.2 h), Nat.min_eq_left h, Bool.false_eq_true, if_false, getCell_modCell, hq,
    serveSemGo]

end

/-- The oldest signal that answers a search is the one that the search finds, and taking it off takes off that one. -/
theorem find_erase_of_oldest {p : Sig → Bool} {g : Sig} {before after : List Sig} (hg : p g = true)
    (hbefore : ∀ x ∈ before, p x = false) :
    (before ++ g :: after).find? p = some g ∧ (before ++ g :: after).erase g = before ++ after := by
  have hmem : g ∉ before := fun h => by simp [hbefore g h] at hg
  refine ⟨?_, ?_⟩
  · rw [List.find?_append, List.find?_eq_none.2 (by simpa using hbefore), List.find?_cons_of_pos hg]; rfl
  · rw [List.erase_append_right _ hmem, List.erase_cons_head]

/-- Settles O9: SEMS by the cell that it names, the arrival by the signal that the search finds. -/
theorem signalLeavesAndArrives : Obligations.SignalLeavesAndArrives := by
  unfold Obligations.SignalLeavesAndArrives
  refine ⟨fun s u sem cell n k hs hn hk => ?sent, fun s cell sem amt before after hcell hsem hsigs hbefore hq hsum => ?oldest,
    fun s cell sem g hcell hsem hfind => ⟨_, if_pos (by simp [hcell, hsem]), semArrive_of_find hfind⟩⟩
  case sent =>
    have hamt : n.toNat ≠ 0 := by simpa [← BitVec.toNat_inj] using hn
    rw [← signalSem_eq hamt]
    obtain ⟨rfl, rfl⟩ | ⟨hlt, hphys⟩ := hk
    · exact runs_issue hs (by simpa [semsCellOk] using hn) semsEffect_own
    · exact runs_issue hs (by simpa [semsCellOk, hlt] using hn) (semsEffect_of_physOf (by omega) hphys)
  case oldest =>
    obtain ⟨hfind, herase⟩ := find_erase_of_oldest (p := fun g => g.cell == cell && g.sem == sem)
      (g := ⟨cell, sem, amt⟩)
      (after := after) (by simp) (by simpa using hbefore)
    rw [← hsigs] at hfind herase
    have harrive : semArrive cell sem s = modCell cell
        (fun c => { c with sems := tset 0 c.sems sem (tget 0 (getCell s cell).sems sem + amt) })
        { s with sigs := before ++ after } := by
      rw [semArrive_of_find hfind, herase]; exact semAdd_of_idle hq hsum
    refine ⟨_, if_pos (by simp [hcell, hsem]), ?_⟩
    rw [harrive]
    refine ⟨rfl, ?_, fun q hq => ?_, fun k hk => getCell_modCell_ne _ _ hk, rfl⟩
    · rw [getCell_modCell]; exact tget_tset_same ..
    · rw [getCell_modCell]; exact tget_tset_ne _ _ _ hq

end Sys2Proof.Machine

/-! ## Rings -/

namespace Sys2Proof.Machine

@[simp] theorem getRing_modRing (r : Nat) (f : Ring → Ring) (s : State) :
    getRing (modRing r f s) r = f (getRing s r) :=
  tget_tmod_same ..

@[simp] theorem getRing_modStream (k i : Nat) (f : Stream → Stream) (s : State) (r : Nat) :
    getRing (modStream k i f s) r = getRing s r := rfl

section
variable {s : State} {u : StreamAt} {reg ring a : Nat}

theorem rpushEffect_of_full (hplace : entryPlace s (getCell s u.cell) (getA (streamOf s u) reg)
    (getRing s ring).entry false = .ok a)
    (hheld : ringHeld s ring = none) (hfull : (getRing s ring).full = true) :
    rpushEffect u reg ring s = modStream u.cell u.stream.toNat
      (fun q => { q with wait := some (.push ring reg), cause := .ring })
      (modRing ring (fun g => { g with pushQ := queueIn s (u.cell, u.stream.toNat) g.pushQ }) s) := by
  simp only [rpushEffect, hplace, hheld, hfull, if_true]

theorem rpushEffect_of_room (hplace : entryPlace s (getCell s u.cell) (getA (streamOf s u) reg)
    (getRing s ring).entry false = .ok a)
    (hheld : ringHeld s ring = none) (hfull : (getRing s ring).full = false) :
    rpushEffect u reg ring s = mapAfterPush ring (ringServe ring (stepOn u (pushEntry ring u.cell u.stream.toNat
      (spaceRead (getCell s u.cell) (refSpace (getA (streamOf s u) reg)) a (getRing s ring).entry) s))) := by
  simp only [rpushEffect, hplace, hheld, hfull, Bool.false_eq_true, if_false]

theorem rpopEffect_of_empty (hplace : entryPlace s (getCell s u.cell) (getA (streamOf s u) reg)
    (getRing s ring).entry true = .ok a)
    (hheld : ringHeld s ring = none) (hempty : (getRing s ring).len = 0) :
    rpopEffect u reg ring s = modStream u.cell u.stream.toNat
      (fun q => { q with wait := some (.pop ring reg), cause := if isLandRing s ring then .collective else .ring })
      (modRing ring (fun g => { g with popQ := queueIn s (u.cell, u.stream.toNat) g.popQ }) s) := by
  simp only [rpopEffect, hplace, hheld, hempty, if_true]

theorem rpopEffect_of_entry (hplace : entryPlace s (getCell s u.cell) (getA (streamOf s u) reg)
    (getRing s ring).entry true = .ok a)
    (hheld : ringHeld s ring = none) (hsome : (getRing s ring).len ≠ 0) :
    rpopEffect u reg ring s = mapAfterPop ring (ringServe ring (stepOn u
      (modCell u.cell (spaceWrite (refSpace (getA (streamOf s u) reg)) a (ringTake ring s).1)
        (ringTake ring s).2))) := by
  simp only [rpopEffect, hplace, hheld, hsome, if_false]

theorem ringArrive_of_none (h : s.pushes.find? (fun p => p.ring == ring) = none) : ringArrive ring s = s := by
  rw [ringArrive, h]

/-- A push that lands leaves the ring's storage where it is (R57). -/
theorem ringHeld_afterFlight (p : PushFlight) :
    ringHeld (modRing ring (fun g => { g with flying := g.flying - 1 }) { s with pushes := s.pushes.erase p }) ring =
      ringHeld s ring := by
  simp only [ringHeld, getRing_modRing]; rfl

theorem ringArrive_of_find {p : PushFlight} (h : s.pushes.find? (fun p => p.ring == ring) = some p)
    (hheld : ringHeld s ring = none) :
    ringArrive ring s = mapAfterPush ring (ringServe ring (ringLand ring p.data
      (modRing ring (fun g => { g with flying := g.flying - 1 }) { s with pushes := s.pushes.erase p }))) := by
  simp only [ringArrive, h, ringHeld_afterFlight, hheld]

end

/-! A ring that no stream waits for, and whose doorbell stays silent. -/

/-- A ring of a readable scratchpad that no stream and no part of the page map waits for, and whose
doorbell, where it is a host ring, copies nothing out and tells the host nothing (R51, R57, R450). -/
structure QuietRing (s : State) (r : Nat) : Prop where
  edits : s.pmap.edits = []
  pend : s.pmap.pendWait = []
  held : ringHeld s r = none
  bell : (getRing s r).kind = 3 → (getBell s (r - 245760)).enable = false ∧ (getBell s (r - 245760)).shadow = 0 ∧
    (getBell s (r - 245760)).irqEn = false
  popQ : (getRing s r).popQ = []
  pushQ : (getRing s r).pushQ = []

/-- Storing the bytes of an entry of a ring: of the ring its memory may change, and no doorbell,
push, stream or part of the page map does. -/
structure EntryStored (r : Nat) (s t : State) : Prop where
  ring : ∃ m, getRing t r = { getRing s r with mem := m }
  bells : t.bells = s.bells
  pmap : t.pmap = s.pmap
  pushes : t.pushes = s.pushes
  streams : ∀ k, (getCell t k).streams = (getCell s k).streams

theorem streams_modCell {f : Cell → Cell} (h : ∀ c, (f c).streams = c.streams) (k j : Nat) (s : State) :
    (getCell (modCell k f s) j).streams = (getCell s j).streams := by
  by_cases hj : j = k
  · rw [hj, getCell_modCell, h]
  · rw [getCell_modCell_ne _ _ hj]

theorem entryStored_ringWrite (r idx : Nat) (d : List Byte) (s : State) : EntryStored r s (ringWrite r idx d s) := by
  unfold ringWrite
  dsimp only
  split
  case h_1 =>
    split
    · refine ⟨⟨_, rfl⟩, rfl, rfl, rfl, fun j => ?_⟩
      apply streams_modCell
      exact fun _ => rfl
    · exact ⟨⟨_, rfl⟩, rfl, rfl, rfl, fun _ => rfl⟩
  case h_2 => exact ⟨⟨_, rfl⟩, rfl, rfl, rfl, fun _ => rfl⟩
  case h_3 => exact ⟨⟨_, getRing_modRing ..⟩, rfl, rfl, rfl, fun _ => rfl⟩

section
variable {s : State} {r : Nat}

theorem ringServe_of_no_queue (hpop : (getRing s r).popQ = []) (hpush : (getRing s r).pushQ = []) :
    ringServe r s = s := by
  simp [ringServe, hpop, hpush, ringServeGo]

theorem mapAfterPush_of_no_edit (h : s.pmap.edits = []) : mapAfterPush r s = s := if_neg fun hc => hc.2 h

theorem mapAfterPop_of_no_wait (h : s.pmap.pendWait = []) : mapAfterPop r s = s := by
  unfold mapAfterPop pumpPend
  rw [h]
  split
  · split <;> rfl
  · rfl

theorem copyOut_of_disabled (h : (getBell s (r - 245760)).enable = false) : copyOut r s = s := by
  unfold copyOut
  cases (getRing s r).depth with
  | zero => rfl
  | succ n => simp [copyOutGo, h]

theorem noteHostPop_of_silent (hshadow : (getBell s (r - 245760)).shadow = 0)
    (hirq : (getBell s (r - 245760)).irqEn = false) :
    getRing (noteHostPop r s) r = getRing s r ∧ (noteHostPop r s).pmap = s.pmap ∧
      (noteHostPop r s).cells = s.cells := by
  simp [noteHostPop, hshadow, hirq, getRing]

theorem ringLand_of_disabled (d : List Byte) (h : (getRing s r).kind = 3 → (getBell s (r - 245760)).enable = false) :
    ringLand r d s = modRing r (fun g => { g with tail := g.tail + 1 }) (ringWrite r (getRing s r).tail d s) := by
  have hstored := entryStored_ringWrite r (getRing s r).tail d s
  obtain ⟨m, hring⟩ := hstored.ring
  unfold ringLand
  dsimp only
  split
  case isTrue hk =>
    rw [getRing_modRing, hring] at hk
    refine copyOut_of_disabled ?_
    rw [getBell, modRing_bells, hstored.bells]
    exact h hk
  case isFalse => rfl

/-- Taking the oldest entry of a ring whose doorbell is silent frees its place, and no stream changes. -/
theorem ringTake_keeps (h : (getRing s r).kind = 3 → (getBell s (r - 245760)).shadow = 0 ∧
    (getBell s (r - 245760)).irqEn = false) :
    getRing (ringTake r s).2 r = { getRing s r with head := (getRing s r).head + 1 } ∧
      (ringTake r s).2.pmap = s.pmap ∧ (ringTake r s).2.cells = s.cells := by
  have hring := getRing_modRing r (fun g => { g with head := g.head + 1 }) s
  unfold ringTake
  dsimp only
  split
  case isTrue hk =>
    obtain ⟨hshadow, hirq⟩ := h hk
    obtain ⟨hrings, hmap, hcells⟩ := noteHostPop_of_silent
      (s := modRing r (fun g => { g with head := g.head + 1 }) s) hshadow hirq
    exact ⟨hrings.trans hring, hmap, hcells⟩
  case isFalse => exact ⟨hring, rfl, rfl⟩

/-- After a push, a quiet ring that still has no queue leaves the state as the push left it. -/
theorem QuietRing.afterPush (h : QuietRing s r) {t : State} (hmap : t.pmap = s.pmap) (hpop : (getRing t r).popQ = [])
    (hpush : (getRing t r).pushQ = []) : mapAfterPush r (ringServe r t) = t := by
  rw [ringServe_of_no_queue hpop hpush, mapAfterPush_of_no_edit (hmap ▸ h.edits)]

theorem QuietRing.afterPop (h : QuietRing s r) {t : State} (hmap : t.pmap = s.pmap) (hpop : (getRing t r).popQ = [])
    (hpush : (getRing t r).pushQ = []) : mapAfterPop r (ringServe r t) = t := by
  rw [ringServe_of_no_queue hpop hpush, mapAfterPop_of_no_wait (hmap ▸ h.pend)]

theorem queueIn_nil (x : Nat × Nat) : queueIn s x [] = [x] := rfl

/-- An entry that lands in a ring whose doorbell is off becomes its newest, and no stream changes. -/
theorem ringLand_keeps (d : List Byte) (h : (getRing s r).kind = 3 → (getBell s (r - 245760)).enable = false) :
    (∃ m, getRing (ringLand r d s) r = { getRing s r with tail := (getRing s r).tail + 1, mem := m }) ∧
      (ringLand r d s).pmap = s.pmap ∧ (ringLand r d s).pushes = s.pushes ∧
      ∀ k, (getCell (ringLand r d s) k).streams = (getCell s k).streams := by
  have hstored := entryStored_ringWrite r (getRing s r).tail d s
  obtain ⟨m, hring⟩ := hstored.ring
  rw [ringLand_of_disabled d h]
  refine ⟨⟨m, ?_⟩, hstored.pmap, hstored.pushes, hstored.streams⟩
  rw [getRing_modRing, hring]

end

section
variable {s : State} {u : StreamAt} {reg ring a : Nat}

/-- RPUSH to a quiet ring with room: the ring's own cell stores at once, any other cell sends. -/
theorem rpush_quiet_room (hq : QuietRing s ring)
    (hplace : entryPlace s (getCell s u.cell) (getA (streamOf s u) reg) (getRing s ring).entry false = .ok a)
    (hfull : (getRing s ring).full = false) :
    let t := rpushEffect u reg ring s
    streamOf t u = (streamOf s u).next ∧
      ((getRing s ring).kind = 0 ∧ physOf s (ring / 256) = some u.cell →
        (getRing t ring).tail = (getRing s ring).tail + 1) ∧
      (¬((getRing s ring).kind = 0 ∧ physOf s (ring / 256) = some u.cell) →
        (getRing t ring).flying = (getRing s ring).flying + 1 ∧
        t.pushes = s.pushes ++ [⟨ring, u.cell, u.stream.toNat,
          spaceRead (getCell s u.cell) (refSpace (getA (streamOf s u) reg)) a (getRing s ring).entry⟩]) := by
  dsimp only
  rw [rpushEffect_of_room hplace hq.held hfull]
  generalize spaceRead (getCell s u.cell) (refSpace (getA (streamOf s u) reg)) a (getRing s ring).entry = d
  by_cases hown : (getRing s ring).kind = 0 ∧ physOf s (ring / 256) = some u.cell
  case pos =>
    obtain ⟨⟨m, hring⟩, hmap, -, hstr⟩ := ringLand_keeps d fun hk => (hq.bell hk).1
    rw [pushEntry, if_pos hown, hq.afterPush (t := stepOn u (ringLand ring d s)) hmap
      ((congrArg Ring.popQ hring).trans hq.popQ) ((congrArg Ring.pushQ hring).trans hq.pushQ)]
    refine ⟨?_, fun _ => congrArg Ring.tail hring, fun hn => absurd hown hn⟩
    rw [streamOf_stepOn, streamOf, streamOf, getStream, getStream, hstr]
  case neg =>
    let sent := modRing ring (fun g => { g with flying := g.flying + 1 })
      { s with pushes := s.pushes ++ [⟨ring, u.cell, u.stream.toNat, d⟩] }
    have hring : getRing sent ring = { getRing s ring with flying := (getRing s ring).flying + 1 } :=
      getRing_modRing ..
    rw [pushEntry, if_neg hown, hq.afterPush (t := stepOn u sent) rfl
      ((congrArg Ring.popQ hring).trans hq.popQ) ((congrArg Ring.pushQ hring).trans hq.pushQ)]
    exact ⟨streamOf_stepOn .., fun h => absurd h hown, fun _ => ⟨congrArg Ring.flying hring, rfl⟩⟩

/-- The oldest push on its way to a quiet ring becomes the ring's newest entry. -/
theorem ringArrive_quiet {p : PushFlight} {rest : List PushFlight} (hq : QuietRing s ring)
    (hpush : s.pushes = p :: rest)
    (hp : p.ring = ring) :
    (ringArrive ring s).pushes = rest ∧ (getRing (ringArrive ring s) ring).tail = (getRing s ring).tail + 1 ∧
      (getRing (ringArrive ring s) ring).flying = (getRing s ring).flying - 1 := by
  have hfind : s.pushes.find? (fun p => p.ring == ring) = some p := by simp [hpush, hp]
  have hring := getRing_modRing ring (fun g => { g with flying := g.flying - 1 })
    { s with pushes := s.pushes.erase p }
  obtain ⟨⟨m, hland⟩, hmap, hpushes, -⟩ := ringLand_keeps (r := ring)
    (s := modRing ring (fun g => { g with flying := g.flying - 1 }) { s with pushes := s.pushes.erase p }) p.data
    fun hk => (hq.bell ((congrArg Ring.kind hring).symm.trans hk)).1
  rw [hring] at hland
  rw [ringArrive_of_find hfind hq.held, hq.afterPush hmap ((congrArg Ring.popQ hland).trans hq.popQ)
    ((congrArg Ring.pushQ hland).trans hq.pushQ)]
  refine ⟨hpushes.trans ?_, congrArg Ring.tail hland, congrArg Ring.flying hland⟩
  show s.pushes.erase p = rest
  rw [hpush, List.erase_cons_head]

theorem spaceWrite_streams (space a : Nat) (d : List Byte) (c : Cell) :
    (spaceWrite space a d c).streams = c.streams := by
  unfold spaceWrite; split <;> rfl

/-- RPOP of a quiet ring with an entry frees the oldest place. -/
theorem rpop_quiet_entry (hq : QuietRing s ring)
    (hplace : entryPlace s (getCell s u.cell) (getA (streamOf s u) reg) (getRing s ring).entry true = .ok a)
    (hsome : (getRing s ring).len ≠ 0) :
    streamOf (rpopEffect u reg ring s) u = (streamOf s u).next ∧
      (getRing (rpopEffect u reg ring s) ring).head = (getRing s ring).head + 1 := by
  obtain ⟨hring, hmap, hcells⟩ := ringTake_keeps fun hk => (hq.bell hk).2
  rw [rpopEffect_of_entry hplace hq.held hsome, hq.afterPop
    (t := stepOn u (modCell u.cell _ (ringTake ring s).2)) hmap
    ((congrArg Ring.popQ hring).trans hq.popQ) ((congrArg Ring.pushQ hring).trans hq.pushQ)]
  refine ⟨?_, congrArg Ring.head hring⟩
  rw [streamOf_stepOn_modCell (spaceWrite_streams ..), streamOf, streamOf, getCell, getCell, hcells]

end

/-- Settles O10: the four commands' own branches, then the same for a ring that nothing waits for. -/
theorem pushAndPopMoveOneEntry : Obligations.PushAndPopMoveOneEntry := by
  unfold Obligations.PushAndPopMoveOneEntry
  refine ⟨fun s u reg ring a hs halloc hheld => ⟨fun hplace => ?push, fun hplace => ?pop⟩,
    fun s r hr => ⟨fun hnone => ?noFlight, fun p hp hheld => ?flight⟩,
    fun s hedits hpend r hheld hbell hpopQ hpushQ => ?quiet⟩
  case push => exact runs_issue hs halloc ⟨rpushEffect_of_full hplace hheld, rpushEffect_of_room hplace hheld⟩
  case pop => exact runs_issue hs halloc ⟨rpopEffect_of_empty hplace hheld, rpopEffect_of_entry hplace hheld⟩
  case noFlight => exact runs_onUnit (by simpa using hr) (ringArrive_of_none hnone)
  case flight => exact runs_onUnit (by simpa using hr) (ringArrive_of_find hp hheld)
  case quiet =>
    have hq : QuietRing s r := ⟨hedits, hpend, hheld, hbell, hpopQ, hpushQ⟩
    refine ⟨fun u src ring a hr hs halloc hplace => ?quietPush, fun p rest hr hpush hp => ?quietArrive,
      fun u dst ring a hr hs halloc hplace => ?quietPop⟩
    case quietPush =>
      subst hr
      refine runs_issue hs halloc ⟨fun hfull => ?_, rpush_quiet_room hq hplace⟩
      rw [rpushEffect_of_full hplace hheld hfull, streamOf_modStream]
      refine ⟨rfl, rfl, ?_⟩
      rw [getRing_modStream, getRing_modRing, hpushQ, queueIn_nil]
    case quietArrive => exact runs_onUnit (by simpa using hr) (ringArrive_quiet hq hpush hp)
    case quietPop =>
      subst hr
      refine runs_issue hs halloc ⟨fun hempty => ?_, rpop_quiet_entry hq hplace⟩
      rw [rpopEffect_of_empty hplace hheld hempty, streamOf_modStream]
      refine ⟨rfl, rfl, ?_⟩
      rw [getRing_modStream, getRing_modRing, hpopQ, queueIn_nil]

end Sys2Proof.Machine

/-! ## How an instruction that changed its cell ends -/

namespace Sys2Proof.Machine

/-- The new cell holds the bytes of the old one in every space. -/
def SameMemory (c d : Cell) : Prop := d.scratch = c.scratch ∧ d.tiles = c.tiles ∧ d.opcache = c.opcache

section
variable {s : State} {u : StreamAt} {c d e : Cell}

theorem SameMemory.spaceRead (h : SameMemory c d) (space a n : Nat) :
    spaceRead d space a n = spaceRead c space a n := by
  obtain ⟨hscratch, htiles, hop⟩ := h
  simp only [Machine.spaceRead, hscratch, htiles, hop]

theorem SameMemory.spaceByte (h : SameMemory c d) (space b : Nat) : spaceByte d space b = spaceByte c space b := by
  obtain ⟨hscratch, htiles, hop⟩ := h
  simp only [Machine.spaceByte, hscratch, htiles, hop]

/-- Only bytes decide what an instruction overtakes (R171). -/
theorem SameMemory.overtakes (h : SameMemory c d) : overtakes u e d = overtakes u e c := by
  simp only [Machine.overtakes, h.spaceRead]

theorem overtakes_of_sameMemory (h : SameMemory c d) : overtakes u c d = false := by
  simp [overtakes, h.spaceRead]

theorem finishCell_of_ok (h : overtakes u (getCell s u.cell) d = false) :
    finishCell u (.ok d) s = stepOn u (modCell u.cell (fun _ => d) s) := by
  simp [finishCell, h]

theorem finishSts_of_overtakes {en : Bool} {off : Nat} {x : Cell × Sts} (hsts : checkSts en off = .ok ())
    (h : overtakes u (getCell s u.cell) x.1 = true) : finishSts u en off (.ok x) s = blockUnit u .arbiter s := by
  simp [finishSts, hsts, h]

theorem finishSts_of_ok {en : Bool} {off : Nat} {x : Cell × Sts} (hsts : checkSts en off = .ok ())
    (h : overtakes u (getCell s u.cell) x.1 = false) :
    finishSts u en off (.ok x) s = stepOn u (updateSts u.cell en off x.2 (modCell u.cell (fun _ => x.1) s)) := by
  simp [finishSts, hsts, h]

@[simp] theorem checkSts_false (off : Nat) : checkSts false off = .ok () := rfl

@[simp] theorem updateSts_false (k off : Nat) (x : Sts) (s : State) : updateSts k false off x s = s := rfl

/-- An instruction that gave its cell a new value, with the streams of the old one, and went on. -/
theorem finished_keeps (h : d.streams = (getCell s u.cell).streams) :
    let t := stepOn u (modCell u.cell (fun _ => d) s)
    OnlyCell u.cell s t ∧ streamOf t u = (streamOf s u).next ∧ ∃ str, getCell t u.cell = { d with streams := str } :=
  ⟨onlyCell_stepOn_modCell .., streamOf_stepOn_modCell h, _, getCell_stepOn_modCell ..⟩

end

end Sys2Proof.Machine

/-! ## The matrix array and the drain path -/

namespace Sys2Proof.Machine

section
variable (c : Cell) (b : Bool)

@[simp] theorem getBank_setBank (x : Bank) : getBank (setBank b x c) b = x := by cases b <;> rfl

@[simp] theorem getBank_setBank_not (x : Bank) : getBank (setBank b x c) (!b) = getBank c (!b) := by cases b <;> rfl

@[simp] theorem getBank_setDrain (d : Option DrainJob) (q : Bool) : getBank (setDrain b d c) q = getBank c q := by
  cases b <;> cases q <;> rfl

@[simp] theorem getDrain_setDrain (d : Option DrainJob) : getDrain (setDrain b d c) b = d := by cases b <;> rfl

@[simp] theorem getDrain_setBank (x : Bank) (q : Bool) : getDrain (setBank b x c) q = getDrain c q := by
  cases b <;> cases q <;> rfl

@[simp] theorem setBank_array (x : Bank) : (setBank b x c).array = c.array := by cases b <;> rfl

@[simp] theorem setBank_reading (x : Bank) : (setBank b x c).reading = c.reading := by cases b <;> rfl

@[simp] theorem setBank_streams (x : Bank) : (setBank b x c).streams = c.streams := by cases b <;> rfl

@[simp] theorem setDrain_streams (d : Option DrainJob) : (setDrain b d c).streams = c.streams := by cases b <;> rfl

theorem sameMemory_setBank (x : Bank) : SameMemory c (setBank b x c) := by cases b <;> exact ⟨rfl, rfl, rfl⟩

theorem sameMemory_setDrain (d : Option DrainJob) : SameMemory c (setDrain b d c) := by
  cases b <;> exact ⟨rfl, rfl, rfl⟩

end

theorem SameMemory.trans {c d e : Cell} (h : SameMemory c d) (g : SameMemory d e) : SameMemory c e :=
  ⟨g.1.trans h.1, g.2.1.trans h.2.1, g.2.2.trans h.2.2⟩

theorem openBank_st (zs : Bool) (m n k : Nat) (b : Bank) : (openBank zs m n k b).st = .filling := by
  unfold openBank; split <;> rfl

/-- An MMA that takes effect fills its bank, and touches nothing else of its cell (R30, R162). -/
theorem mmaCell_of_on {op ta tb : Bool} {w : MmaWord} {aRef bRef : Nat} {c d : Cell}
    (h : mmaCell op true ta tb w aRef bRef c = .ok d) : ∃ x : Bank, x.st = .filling ∧ d = setBank w.bank x c := by
  obtain ⟨ra, -, h⟩ := ok_bind h
  obtain ⟨rb, -, h⟩ := ok_bind h
  obtain ⟨-, -, h⟩ := ok_bind h
  obtain ⟨-, -, h⟩ := ok_bind h
  refine ⟨_, ?_, (Except.ok.inj h).symm⟩
  exact openBank_st ..

/-- A suppressed MMA only opens its chain at zero, and only with a zero start (R32, R151). -/
theorem mmaCell_of_off {op ta tb : Bool} {w : MmaWord} {aRef bRef : Nat} {c d : Cell}
    (h : mmaCell op false ta tb w aRef bRef c = .ok d) :
    d = if w.zs then setBank w.bank (openBank true (w.m1.toNat + 1) (w.n1.toNat + 1) 0 (getBank c w.bank)) c else c :=
  (Except.ok.inj h).symm

/-- The cell after an MMA: the array is taken where it takes effect, and a suppressed one carries out
its close flag. -/
def mmaAfter (u : StreamAt) (on ta tb : Bool) (w : MmaWord) (aRef bRef : Nat) (d : Cell) : Cell :=
  if on then { d with array := some (w.bank, w.close), reading := mmaReads u.stream.toNat ta tb w aRef bRef }
  else if w.close then setBank w.bank { getBank d w.bank with st := .closed } d else d

/-- The bank of a suppressed MMA: a zero start opens its chain, and the close flag closes it (R32, R151). -/
def suppressedBank (w : MmaWord) (b : Bank) : Bank :=
  let b := if w.zs then openBank true (w.m1.toNat + 1) (w.n1.toNat + 1) 0 b else b
  if w.close then { b with st := .closed } else b

theorem suppressedBank_st (w : MmaWord) (b : Bank) :
    (suppressedBank w b).st = if w.close then .closed else if w.zs then .filling else b.st := by
  unfold suppressedBank
  cases w.close <;> cases w.zs <;> rfl

theorem suppressedBank_of_none {w : MmaWord} (b : Bank) (hzs : w.zs = false) (hclose : w.close = false) :
    suppressedBank w b = b := by
  simp [suppressedBank, hzs, hclose]

section
variable {s : State} {u : StreamAt} {p : Pred} {ta tb : Bool} {w : MmaWord}

/-- An MMA that must wait for the array or for its bank waits for a unit (R31, R47). -/
theorem mmaEffect_waits (h : (getBank (getCell s u.cell) w.bank).st = .draining ∨
    takesEffect (getCell s u.cell) p = true ∧ (getCell s u.cell).array.isSome) :
    ∃ cause, mmaEffect u p ta tb w s = blockUnit u cause s := by
  unfold mmaEffect
  dsimp only
  split
  case isTrue => exact ⟨_, rfl⟩
  case isFalse hfree =>
    obtain hdrain | ⟨hon, harray⟩ := h
    · exact ⟨_, if_pos hdrain⟩
    · exact absurd ⟨harray, .inl hon⟩ hfree

variable {d : Cell}

theorem sameMemory_mmaAfter {on : Bool} {aRef bRef : Nat} : SameMemory d (mmaAfter u on ta tb w aRef bRef d) := by
  unfold mmaAfter
  split
  · exact ⟨rfl, rfl, rfl⟩
  · split
    · exact sameMemory_setBank ..
    · exact ⟨rfl, rfl, rfl⟩

/-- An MMA whose bank and array are free goes on with its cell changed. -/
theorem mmaEffect_runs (hbank : (getBank (getCell s u.cell) w.bank).st ≠ .draining)
    (harray : takesEffect (getCell s u.cell) p = true → (getCell s u.cell).array = none)
    (hown : ∀ close, (getCell s u.cell).array ≠ some (w.bank, close))
    (hd : mmaCell (opMode s (getCell s u.cell)) (takesEffect (getCell s u.cell) p) ta tb w (aReg s u w.aRef)
      (aReg s u w.bRef)
      (getCell s u.cell) = .ok d) (hmem : SameMemory (getCell s u.cell) d) :
    mmaEffect u p ta tb w s = stepOn u (modCell u.cell
      (fun _ => mmaAfter u (takesEffect (getCell s u.cell) p) ta tb w (aReg s u w.aRef) (aReg s u w.bRef) d) s) := by
  have hfree : ¬((getCell s u.cell).array.isSome ∧
      (takesEffect (getCell s u.cell) p ∨ (getCell s u.cell).array.map (·.1) = some w.bank)) := by
    rintro ⟨hsome, hon | hbank⟩
    · simp [harray hon] at hsome
    · obtain ⟨⟨b, close⟩, hx, rfl⟩ := Option.map_eq_some_iff.1 hbank
      exact hown close hx
  unfold mmaEffect
  dsimp only
  rw [if_neg hfree, if_neg hbank, hd]
  exact finishCell_of_ok (overtakes_of_sameMemory (hmem.trans sameMemory_mmaAfter))

end

section
variable {u : StreamAt} {ta tb : Bool} {w : MmaWord} {aRef bRef : Nat} {c d : Cell} {op : Bool}

/-- What an MMA that takes effect leaves of its cell: its bank fills under the array (R30, R162). -/
theorem mmaAfter_of_on (hd : mmaCell op true ta tb w aRef bRef c = .ok d) :
    SameMemory c d ∧ ∃ x : Bank, x.st = .filling ∧ mmaAfter u true ta tb w aRef bRef d = { setBank w.bank x c with
      array := some (w.bank, w.close), reading := mmaReads u.stream.toNat ta tb w aRef bRef } := by
  obtain ⟨x, hx, rfl⟩ := mmaCell_of_on hd
  exact ⟨sameMemory_setBank .., x, hx, rfl⟩

/-- What a suppressed MMA leaves of its cell: its bank as its flags give it, and all else (R32, R151). -/
theorem mmaAfter_of_off (hd : mmaCell op false ta tb w aRef bRef c = .ok d) :
    SameMemory c d ∧
      mmaAfter u false ta tb w aRef bRef d = setBank w.bank (suppressedBank w (getBank c w.bank)) c := by
  obtain rfl := mmaCell_of_off hd
  unfold mmaAfter suppressedBank
  cases w.zs <;> cases w.close <;> cases w.bank
  all_goals exact ⟨⟨rfl, rfl, rfl⟩, rfl⟩

end

/-- The three MMA commands share one effect. -/
theorem exec_mma {s : State} {u : StreamAt} {p : Pred} {w : MmaWord} {ta tb : Bool} {c : Instr} {P : State → Prop}
    (hc : c = .mma u p w ∧ ta = false ∧ tb = false ∨ c = .mmaTa u p w ∧ ta = true ∧ tb = false ∨
      c = .mmaTb u p w ∧ ta = false ∧ tb = true) (hs : Issues s u) (hp : predOk p = true) (hw : mmaOk ta tb w = true)
    (h : P (mmaEffect u p ta tb w s)) : RunsTo (exec c s) P := by
  have hword : (predOk p && mmaOk ta tb w) = true := by rw [hp, hw]; rfl
  obtain ⟨rfl, rfl, rfl⟩ | ⟨rfl, rfl, rfl⟩ | ⟨rfl, rfl, rfl⟩ := hc
  all_goals exact runs_issue hs hword h

theorem mmaDone_of_some {c : Cell} {b close : Bool} (h : c.array = some (b, close)) :
    mmaDone c = if close ∧ (getBank c b).st = .filling
      then setBank b { getBank c b with st := .closed } { c with array := none, reading := [] }
      else { c with array := none, reading := [] } := by
  rw [mmaDone, h]; rfl

section
variable {s : State} {u : StreamAt} {p : Pred} {w : DrainWord}

theorem drainEffect_of_suppressed (h : takesEffect (getCell s u.cell) p = false) :
    drainEffect u p w s = stepOn u (signalSem u.cell w.sem.toNat w.amt.toNat s) := by
  simp [drainEffect, h]

theorem drainEffect_of_path (h : takesEffect (getCell s u.cell) p = true)
    (hpath : (getDrain (getCell s u.cell) w.bank).isSome) :
    drainEffect u p w s = blockUnit u .arbiter s := by
  simp [drainEffect, h, hpath]

theorem drainEffect_of_array {close : Bool} (h : takesEffect (getCell s u.cell) p = true)
    (hpath : getDrain (getCell s u.cell) w.bank = none) (harray : (getCell s u.cell).array = some (w.bank, close)) :
    drainEffect u p w s = blockUnit u .acc s := by
  simp [drainEffect, h, hpath, harray]

/-- The cell after a DRAIN: its bank drains under the job. -/
def drainAfter (u : StreamAt) (w : DrainWord) (c : Cell) : Cell :=
  setDrain w.bank (some ⟨u.stream.toNat, w.sem.toNat, w.amt.toNat⟩)
    (setBank w.bank { getBank c w.bank with st := .draining } c)

theorem sameMemory_drainAfter (c : Cell) : SameMemory c (drainAfter u w c) :=
  (sameMemory_setBank ..).trans (sameMemory_setDrain ..)

theorem drainEffect_of_free {x : Cell × Sts} (h : takesEffect (getCell s u.cell) p = true)
    (hpath : getDrain (getCell s u.cell) w.bank = none)
    (harray : ∀ close, (getCell s u.cell).array ≠ some (w.bank, close))
    (hx : drainCell (opMode s (getCell s u.cell)) w (aReg s u w.dst) (aReg s u w.aux) (aReg s u w.mask)
      (sReg s u w.scale)
      (sReg s u w.diag) (getCell s u.cell) = .ok x) :
    drainEffect u p w s = finishSts u w.stsEn (sReg s u w.sts) (.ok (drainAfter u w x.1, x.2)) s := by
  have hfree : (getCell s u.cell).array.map (·.1) ≠ some w.bank := fun hm => by
    obtain ⟨⟨b, close⟩, hx, rfl⟩ := Option.map_eq_some_iff.1 hm
    exact harray close hx
  simp only [drainEffect, h, hpath, hfree, hx]
  rfl

end

theorem signalSem_eq_append (k sem amt : Nat) (s : State) :
    signalSem k sem amt s = { s with sigs := s.sigs ++ if amt = 0 then [] else [⟨k, sem, amt⟩] } := by
  unfold signalSem
  split <;> simp

/-! What a drain leaves of its cell: bytes of its memories change, and nothing else. -/

theorem onlyMemory_writeBits (space bit n v : Nat) (c : Cell) : OnlyMemory c (writeBits space bit n v c) := by
  unfold writeBits spaceWrite
  dsimp only
  split <;> rfl

theorem onlyMemory_foldl {α β : Type} {f : Cell × β → α → Cell × β} (h : ∀ q a, OnlyMemory q.1 (f q a).1) :
    ∀ (l : List α) (q : Cell × β), OnlyMemory q.1 (l.foldl f q).1
  | [], q => onlyMemory_refl q.1
  | a :: l, q => (h q a).trans (onlyMemory_foldl h l _)

theorem onlyMemory_putElems (r : Ref) (code : Nat) (satf : Bool) (rowLen : Nat) (l : List (Nat × Nat × Num))
    (q : Cell × Sts) :
    OnlyMemory q.1 (l.foldl (putElem r code satf rowLen) q).1 :=
  onlyMemory_foldl (fun _ _ => onlyMemory_writeBits ..) l q

theorem OnlyMemory.streams {c d : Cell} (h : OnlyMemory c d) : d.streams = c.streams := by rw [h]

/-- What answers a cell answers one in which only bytes of the memories differ from c. -/
def AnswersMemory (c : Cell) (r : Except RtFault (Cell × Sts)) : Prop := ∀ x, r = .ok x → OnlyMemory c x.1

theorem AnswersMemory.bind {α : Type} {c : Cell} {m : Except RtFault α} {f : α → Except RtFault (Cell × Sts)}
    (h : ∀ a, m = .ok a → AnswersMemory c (f a)) : AnswersMemory c (m >>= f) := fun x hx =>
  let ⟨a, ha, hf⟩ := ok_bind hx
  h a ha x hf

theorem answersMemory_ok {c : Cell} {x : Cell × Sts} (h : OnlyMemory c x.1) : AnswersMemory c (.ok x) := fun _ hx =>
  Except.ok.inj hx ▸ h

/-- The elements that a drain stores, and the masked ones after them (R163). -/
theorem onlyMemory_drainStore {op : Bool} {r : Ref} {code n : Nat} {satf : Bool}
    {live dead : List (Nat × Nat × Num)} {c : Cell}
    {x : Cell × Sts} (hr : r.space ≤ 2) (hx : store op r code satf n live c = .ok x) :
    OnlyMemory c (dead.foldl (putElem r code false n) (x.1, {})).1 :=
  (store_keeps hr hx).1.trans (onlyMemory_putElems ..)

theorem drainCell_onlyMemory {op : Bool} {w : DrainWord} {dst aux maskRef mult delta : Nat} {c : Cell}
    {x : Cell × Sts}
    (h : drainCell op w dst aux maskRef mult delta c = .ok x) : OnlyMemory c x.1 := by
  revert x h
  show AnswersMemory c _
  unfold drainCell
  dsimp only
  refine .bind fun rd hrd => ?_
  have hrd := decodeRef_space hrd
  split
  case isTrue =>
    refine .bind fun ra hra => ?_
    have hra := decodeRef_space hra
    split
    case isTrue => exact .bind fun _ _ => .bind fun _ _ => .bind fun _ _ => .bind fun _ hx => .bind fun _ hy =>
      answersMemory_ok ((onlyMemory_drainStore hrd hx).trans (store_keeps hra hy).1)
    case isFalse => exact .bind fun _ _ => .bind fun _ _ => .bind fun _ hx => .bind fun _ hy =>
      answersMemory_ok ((onlyMemory_drainStore hrd hx).trans (store_keeps hra hy).1)
  case isFalse =>
    refine .bind fun _ _ => ?_
    split
    case isTrue => exact .bind fun _ _ => .bind fun _ _ => .bind fun _ _ => .bind fun _ hx =>
      answersMemory_ok (onlyMemory_drainStore hrd hx)
    case isFalse => exact .bind fun _ _ => .bind fun _ _ => .bind fun _ hx =>
      answersMemory_ok (onlyMemory_drainStore hrd hx)

/-- The end of an MMA: the array is free, its bank closed where the MMA says so, and the other bank
as it was (R30). -/
theorem mmaDone_keeps {c : Cell} {b close : Bool} (h : c.array = some (b, close)) :
    (mmaDone c).array = none ∧ (close = true → (getBank c b).st = .filling → (getBank (mmaDone c) b).st = .closed) ∧
      (close = false → getBank (mmaDone c) b = getBank c b) ∧ getBank (mmaDone c) (!b) = getBank c (!b) := by
  rw [mmaDone_of_some h]
  split
  case isTrue hc =>
    refine ⟨setBank_array .., fun _ _ => by rw [getBank_setBank], fun hn => ?_, getBank_setBank_not ..⟩
    simp [hn] at hc
  case isFalse hc => exact ⟨rfl, fun hclose hst => absurd ⟨hclose, hst⟩ hc, fun _ => rfl, rfl⟩

/-- The end of a drain: its bank is closed and free, and its signal leaves (R32). -/
theorem drainDone_of_some {k : Nat} {b : Bool} {s : State} {d : DrainJob} (h : getDrain (getCell s k) b = some d) :
    drainDone k b s = signalSem k d.sem d.amt (modCell k
      (fun c => setBank b { getBank c b with st := .closed } (setDrain b none c)) s) := by
  simp only [drainDone, h]

section
variable {s : State} {u : StreamAt} {w : MmaWord}

/-- Of a cell only the array and one bank changed, and the place of a stream. -/
def OnlyArrayAndBank (b : Bool) (c d : Cell) : Prop :=
  d = { c with
    streams := d.streams, array := d.array, reading := d.reading
    acc0 := if b then c.acc0 else d.acc0
    acc1 := if b then d.acc1 else c.acc1 }

/-- An MMA that takes effect went on: it is in the array, and its bank fills (R30, R162). -/
theorem stepOn_inArray_keeps {x : Bank} (reads : List Reading) (hx : x.st = .filling) :
    let t := stepOn u (modCell u.cell (fun _ => { setBank w.bank x (getCell s u.cell) with
      array := some (w.bank, w.close), reading := reads }) s)
    OnlyCell u.cell s t ∧ streamOf t u = (streamOf s u).next ∧ (getCell t u.cell).array = some (w.bank, w.close) ∧
      (getBank (getCell t u.cell) w.bank).st = .filling ∧
      OnlyArrayAndBank w.bank (getCell s u.cell) (getCell t u.cell) := by
  obtain ⟨hcell, hstream, str, hget⟩ := finished_keeps (s := s) (u := u)
    (d := { setBank w.bank x (getCell s u.cell) with array := some (w.bank, w.close), reading := reads })
      (setBank_streams ..)
  dsimp only
  rw [hget]
  refine ⟨hcell, hstream, rfl, (congrArg Bank.st (getBank_setBank ..)).trans hx, ?_⟩
  cases w.bank <;> rfl

/-- A suppressed MMA went on: its bank is as its flags give it, and the array as it was (R32, R151). -/
theorem stepOn_suppressed_keeps (x : Bank) :
    let t := stepOn u (modCell u.cell (fun _ => setBank w.bank x (getCell s u.cell)) s)
    OnlyCell u.cell s t ∧ streamOf t u = (streamOf s u).next ∧ (getCell t u.cell).array = (getCell s u.cell).array ∧
      (getCell t u.cell).reading = (getCell s u.cell).reading ∧ getBank (getCell t u.cell) w.bank = x ∧
      OnlyArrayAndBank w.bank (getCell s u.cell) (getCell t u.cell) := by
  obtain ⟨hcell, hstream, str, hget⟩ := finished_keeps (s := s) (u := u)
    (d := setBank w.bank x (getCell s u.cell)) (setBank_streams ..)
  dsimp only
  rw [hget]
  refine ⟨hcell, hstream, setBank_array .., setBank_reading .., getBank_setBank .., ?_⟩
  cases w.bank <;> rfl

/-- A DRAIN went on: its bank drains under its job, and the cell's memories hold what it stored (R31, R163). -/
theorem stepOn_drainAfter_keeps {w : DrainWord} {c : Cell} (h : OnlyMemory (getCell s u.cell) c) :
    let t := stepOn u (modCell u.cell (fun _ => drainAfter u w c) s)
    OnlyCell u.cell s t ∧ streamOf t u = (streamOf s u).next ∧ (getBank (getCell t u.cell) w.bank).st = .draining ∧
      getDrain (getCell t u.cell) w.bank = some ⟨u.stream.toNat, w.sem.toNat, w.amt.toNat⟩ ∧
      ∀ space b, spaceByte (getCell t u.cell) space b = spaceByte c space b := by
  obtain ⟨hcell, hstream, str, hget⟩ := finished_keeps (s := s) (u := u) (d := drainAfter u w c)
    (((setDrain_streams ..).trans (setBank_streams ..)).trans h.streams)
  dsimp only
  rw [hget]
  refine ⟨hcell, hstream, ?_, ?_, fun space b => (sameMemory_drainAfter c).spaceByte space b⟩
  · exact congrArg Bank.st ((getBank_setDrain ..).trans (getBank_setBank ..))
  · exact getDrain_setDrain ..

end

/-- Settles O12: the MMA by whether it waits and whether it takes effect, the DRAIN by its branches, then
their ends. -/
theorem matrixInstructionsUseTheArrayAndTheBank : Obligations.MatrixInstructionsUseTheArrayAndTheBank := by
  unfold Obligations.MatrixInstructionsUseTheArrayAndTheBank
  refine ⟨fun s u p w ta tb c hs hc hp hw => ⟨fun hwait => ?waits, fun d hbank harray hown hd => ?runs⟩,
    fun s cell bank close hcell harray => ?mmaEnds,
    fun s u p w hs hp hw => ?drain, fun s cell bank d hcell hd => ?drainEnds,
    fun s cell bank hcell => ⟨fun hnone => ?noMma, fun hnone => ?noDrain⟩⟩
  case waits =>
    obtain ⟨cause, heq⟩ := mmaEffect_waits (u := u) (ta := ta) (tb := tb) hwait
    refine exec_mma hc hs hp hw ?_
    rw [heq, streamOf_blockUnit]
    exact ⟨onlyStream_blockUnit .., rfl, rfl⟩
  case runs =>
    refine exec_mma hc hs hp hw ?_
    cases hon : takesEffect (getCell s u.cell) p
    case true =>
      rw [hon] at hd
      obtain ⟨hmem, x, hst, hafter⟩ := mmaAfter_of_on (u := u) hd
      rw [mmaEffect_runs hbank harray hown (hon ▸ hd) hmem, hon, hafter]
      obtain ⟨hcell, hstream, hin, hfill, hframe⟩ := stepOn_inArray_keeps (s := s) (u := u) (w := w) _ hst
      exact ⟨hcell, hstream, fun _ => ⟨hin, hfill⟩, nofun, hframe⟩
    case false =>
      rw [hon] at hd
      obtain ⟨hmem, hafter⟩ := mmaAfter_of_off (u := u) hd
      rw [mmaEffect_runs hbank harray hown (hon ▸ hd) hmem, hon, hafter]
      obtain ⟨hcell, hstream, hin, hreads, hown, hframe⟩ := stepOn_suppressed_keeps (s := s) (u := u) (w := w)
        (suppressedBank w (getBank (getCell s u.cell) w.bank))
      refine ⟨hcell, hstream, nofun, fun _ => ⟨hin, hreads, ?_, fun hzs hclose => ?_⟩, hframe⟩
      · rw [hown, suppressedBank_st]
      · rw [hown, suppressedBank_of_none _ hzs hclose]
  case mmaEnds =>
    refine runs_onUnit hcell ⟨onlyCell_modCell .., ?_⟩
    rw [getCell_modCell]
    exact mmaDone_keeps harray
  case drain =>
    have hword : (predOk p && drainOk w) = true := by rw [hp, hw]; rfl
    refine ⟨fun hoff => runs_issue hs hword ?_, fun hon hpath => runs_issue hs hword (drainEffect_of_path hon hpath),
      fun close hon hpath harray => runs_issue hs hword (drainEffect_of_array hon hpath harray),
      fun x hon hpath harray hsts hx => runs_issue hs hword ?_,
      fun x hon hpath harray hen hx hover => runs_issue hs hword ?_⟩
    · rw [drainEffect_of_suppressed hoff, signalSem_eq_append]
      simp only [← BitVec.toNat_inj]
      rfl
    · rw [drainEffect_of_free hon hpath harray hx]
      exact ⟨fun hover => finishSts_of_overtakes hsts hover, fun hover => finishSts_of_ok hsts hover⟩
    · rw [drainEffect_of_free hon hpath harray hx, hen,
        finishSts_of_ok (checkSts_false _) ((sameMemory_drainAfter x.1).overtakes.trans hover), updateSts_false]
      exact stepOn_drainAfter_keeps (drainCell_onlyMemory hx)
  case drainEnds =>
    refine runs_onUnit hcell ?_
    rw [drainDone_of_some hd, signalSem_eq_append]
    have hget := getCell_modCell cell (fun c => setBank bank { getBank c bank with st := .closed }
      (setDrain bank none c)) s
    refine ⟨?_, ?_, rfl, rfl⟩
    · exact (congrArg (fun c => (getBank c bank).st) hget).trans (congrArg Bank.st (getBank_setBank ..))
    · exact (congrArg (getDrain · bank) hget).trans ((getDrain_setBank ..).trans (getDrain_setDrain ..))
  case noMma =>
    refine runs_onUnit hcell (modCell_congr ?_)
    rw [mmaDone, hnone]; rfl
  case noDrain =>
    refine runs_onUnit hcell ?_
    simp only [drainDone, hnone]

end Sys2Proof.Machine

/-! ## Vector registers -/

namespace Sys2Proof.Machine

/-- Of a cell only lanes of one vector register changed, and of those only the ones that take part (R43, R150). -/
structure WritesLanes (on : Nat → Bool) (vd : Nat) (c d : Cell) : Prop where
  frame : d = { c with v := d.v }
  lanes : ∀ r lane, lane < 64 → (r ≠ vd ∨ on lane = false) →
    tget 0#32 d.v (64 * r + lane) = tget 0#32 c.v (64 * r + lane)

section
variable {on : Nat → Bool} {vd ety : Nat} {c d e : Cell}

theorem WritesLanes.refl (on : Nat → Bool) (vd : Nat) (c : Cell) : WritesLanes on vd c c := ⟨rfl, fun _ _ _ _ => rfl⟩

theorem WritesLanes.trans (h : WritesLanes on vd c d) (g : WritesLanes on vd d e) : WritesLanes on vd c e :=
  ⟨by rw [g.frame, h.frame], fun r lane hl hr => (g.lanes r lane hl hr).trans (h.lanes r lane hl hr)⟩

theorem WritesLanes.sameMemory (h : WritesLanes on vd c d) : SameMemory c d := by
  rw [h.frame]; exact ⟨rfl, rfl, rfl⟩

theorem WritesLanes.streams (h : WritesLanes on vd c d) : d.streams = c.streams := by rw [h.frame]

theorem WritesLanes.foldl {α : Type} {f : Cell → α → Cell} :
    ∀ {l : List α} {c : Cell}, (∀ a ∈ l, ∀ d, WritesLanes on vd d (f d a)) → WritesLanes on vd c (l.foldl f c)
  | [], c, _ => .refl on vd c
  | _ :: _, c, h =>
    let ⟨ha, hl⟩ := List.forall_mem_cons.1 h
    (ha c).trans (WritesLanes.foldl hl)

theorem writesLanes_vset {i : Nat} (x : Nat) (hi : laneOf ety i < 64) (hon : on (laneOf ety i) = true) :
    WritesLanes on vd c (vset vd ety i x c) := by
  refine ⟨rfl, fun r lane hlane hr => tget_tset_ne _ _ _ fun hkey => ?_⟩
  have hr' : r = vd := by omega
  have hlane' : lane = laneOf ety i := by omega
  obtain hne | hoff := hr
  · exact hne hr'
  · rw [hlane', hon] at hoff; cases hoff

theorem laneOf_lt {i : Nat} (h : i < elemsOf ety) : laneOf ety i < 64 := by
  unfold elemsOf at h
  unfold laneOf
  split <;> simp_all
  omega

theorem lt_of_mem_rangeFrom {n i : Nat} (h : i ∈ rangeFrom 0 n) : i < n := by
  have := (mem_rangeFrom n 0 i).1 h
  omega

theorem writesLanes_lanesWrite (p : Pred) (vd ety : Nat) (f : Nat → Nat) (c : Cell) :
    WritesLanes (laneOn c p) vd c (lanesWrite p vd ety f c) :=
  .foldl fun _ hi _ =>
    let ⟨hmem, hon⟩ := List.mem_filter.1 hi
    writesLanes_vset _ (laneOf_lt (lt_of_mem_rangeFrom hmem)) hon

theorem writesLanes_lanesPut (p : Pred) {l : List (Nat × Nat)} (hl : ∀ x ∈ l, laneOf ety x.1 < 64) (c : Cell) :
    WritesLanes (laneOn c p) vd c (lanesPut p vd ety l c) :=
  .foldl fun x hx _ =>
    let ⟨hmem, hon⟩ := List.mem_filter.1 hx
    writesLanes_vset _ (hl x hmem) hon

/-- VCVT writes elements that its register has. -/
theorem laneOf_cvtElems {etyD etyA va : Nat} {half : Bool} :
    ∀ x ∈ cvtElems c etyD etyA va half, laneOf etyD x.1 < 64 := by
  intro x hx
  unfold cvtElems at hx
  dsimp only at hx
  split at hx
  · obtain ⟨i, hi, rfl⟩ := List.mem_map.1 hx
    exact laneOf_lt (lt_of_mem_rangeFrom hi)
  · split at hx
    all_goals
      rename_i h16
      obtain ⟨i, hi, rfl⟩ := List.mem_map.1 hx
      have := lt_of_mem_rangeFrom hi
      simp only [laneOf, h16, Bool.false_eq_true, if_true, if_false]
    · split <;> omega
    · omega

/-! The values that 32-bit elements get. -/

theorem vget_eq_of_32 (h16 : is16 ety = false) (v i : Nat) : vget c v ety i = (tget 0#32 c.v (64 * v + i)).toNat := by
  simp [vget, laneOf, h16]

theorem vget_lt_of_32 (h16 : is16 ety = false) (v i : Nat) : vget c v ety i < 2 ^ 32 := by
  rw [vget_eq_of_32 h16]; exact BitVec.isLt _

theorem vget_vset_of_32 (h16 : is16 ety = false) (i j x : Nat) :
    vget (vset vd ety j x c) vd ety i = if i = j then x % 2 ^ 32 else vget c vd ety i := by
  rw [vget_eq_of_32 h16, vget_eq_of_32 h16]
  simp only [vset, laneOf, h16, Bool.false_eq_true, if_false, tget_tset, Nat.add_left_cancel_iff]
  split <;> simp

theorem vget_foldl_of_32 (h16 : is16 ety = false) (f : Nat → Nat) (i : Nat) : ∀ (l : List Nat) (c : Cell),
    vget (l.foldl (fun d i => vset vd ety i (f i) d) c) vd ety i = if i ∈ l then f i % 2 ^ 32 else vget c vd ety i
  | [], _ => by simp
  | j :: l, c => by
    rw [List.foldl_cons, vget_foldl_of_32 h16 f i l, vget_vset_of_32 h16]
    by_cases hl : i ∈ l
    · simp [hl]
    · by_cases hj : i = j <;> simp [hl, hj]

/-- A lane that takes part in a write of 32-bit elements holds what was written. -/
theorem vget_lanesWrite_of_32 {p : Pred} (h16 : is16 ety = false) (f : Nat → Nat) {lane : Nat} (hlane : lane < 64)
    (hon : laneOn c p lane = true) : vget (lanesWrite p vd ety f c) vd ety lane = f lane % 2 ^ 32 := by
  have hmem : lane ∈ rangeFrom 0 (elemsOf ety) := by
    rw [mem_rangeFrom]; simp only [elemsOf, h16, Bool.false_eq_true, if_false]; omega
  rw [lanesWrite, vget_foldl_of_32 h16, if_pos (List.mem_filter.2 ⟨hmem, by simpa [laneOf, h16] using hon⟩)]

end

section
variable {s : State} {u : StreamAt} {p : Pred} {word : Bool} {f : Cell → Cell} {vd : Nat}

/-- A VOP that writes lanes of one register completes, and leaves all else. -/
theorem runs_vop (hs : Issues s u) (hp : predOk p = true) (hw : word = true)
    (h : WritesLanes (laneOn (getCell s u.cell) p) vd (getCell s u.cell) (f (getCell s u.cell))) :
    RunsTo (vop u p word f s) fun t => OnlyCell u.cell s t ∧ streamOf t u = (streamOf s u).next ∧
      getCell t u.cell = { getCell s u.cell with streams := (getCell t u.cell).streams, v := (getCell t u.cell).v } ∧
      ∀ r lane, lane < 64 → (r ≠ vd ∨ laneOn (getCell s u.cell) p lane = false) →
        tget 0#32 (getCell t u.cell).v (64 * r + lane) = tget 0#32 (getCell s u.cell).v (64 * r + lane) := by
  refine runs_issue hs (by rw [hp, hw]; rfl) ⟨onlyCell_stepOn_modCell .., streamOf_stepOn_modCell h.streams, ?_, ?_⟩
  all_goals rw [getCell_stepOn_modCell]
  · rw [h.frame]
  · exact h.lanes

/-- What a VOP leaves in its register is what it leaves in the cell. -/
theorem runs_vop_vget (hs : Issues s u) (hp : predOk p = true) (hw : word = true) {P : (Nat → Nat → Nat → Nat) → Prop}
    (h : P (vget (f (getCell s u.cell)))) : RunsTo (vop u p word f s) fun t => P (vget (getCell t u.cell)) := by
  refine runs_issue hs (by rw [hp, hw]; rfl) ?_
  rw [getCell_stepOn_modCell]
  exact h

end

/-- Settles O14: every one of these instructions writes lanes of its register; VSEL and VBCAST also by value. -/
theorem vectorInstructionsChangeOnlyRegisters : Obligations.VectorInstructionsChangeOnlyRegisters := by
  unfold Obligations.VectorInstructionsChangeOnlyRegisters
  intro s u p hs hp
  refine ⟨fun vd va vb ety fn hfn => ?vbin, fun vd va vb vc ety => ?vfma, fun vd va etyD etyA half hhalf => ?vcvt,
    fun vd va ety fn hfn hint => ?vun, fun vd va vb ma => ⟨?vsel, ?vselValue⟩,
    fun vd sreg ety => ⟨?vbcast, fun hety => ?vbcastValue⟩⟩
  case vbin => exact runs_vop hs hp (by simpa using hfn) (writesLanes_lanesWrite ..)
  case vfma => exact runs_vop hs hp rfl (writesLanes_lanesWrite ..)
  case vcvt => exact runs_vop hs hp (by simpa using hhalf) (writesLanes_lanesPut p laneOf_cvtElems _)
  case vun => exact runs_vop hs hp (by simpa [hfn, or_iff_not_imp_left] using hint) (writesLanes_lanesWrite ..)
  case vsel => exact runs_vop hs hp rfl (writesLanes_lanesWrite ..)
  case vselValue =>
    refine runs_vop_vget hs hp rfl (P := fun g => ∀ lane, lane < 64 → laneOn (getCell s u.cell) p lane = true →
      g vd.toNat 0 lane = if (tget 0#64 (getCell s u.cell).m ma.toNat).getLsbD lane then
        vget (getCell s u.cell) va.toNat 0 lane else vget (getCell s u.cell) vb.toNat 0 lane) fun lane hlane hon => ?_
    rw [vget_lanesWrite_of_32 rfl _ hlane hon, Nat.mod_eq_of_lt]
    split <;> exact vget_lt_of_32 rfl ..
  case vbcast => exact runs_vop hs hp rfl (writesLanes_lanesWrite ..)
  case vbcastValue =>
    subst hety
    refine runs_vop_vget hs hp rfl (P := fun g => ∀ lane, lane < 64 → laneOn (getCell s u.cell) p lane = true →
      g vd.toNat 3 lane = sReg s u sreg % 2 ^ 32) fun lane hlane hon => ?_
    exact (vget_lanesWrite_of_32 rfl _ hlane hon).trans (Nat.mod_mod ..)

end Sys2Proof.Machine

/-! ## Mask registers -/

namespace Sys2Proof.Machine

/-- The sum of the bits lo, lo + 1, … that a function sets, on top of a number below bit lo, has the bits of both. -/
theorem testBit_foldl_rangeFrom (f : Nat → Bool) (lane : Nat) : ∀ (n lo a : Nat), a < 2 ^ lo →
    ((rangeFrom lo n).foldl (fun a i => a + if f i then 2 ^ i else 0) a).testBit lane =
      if lane < lo then a.testBit lane else decide (lane < lo + n) && f lane
  | 0, lo, a, ha => by
    rw [rangeFrom, List.foldl_nil]
    split
    · rfl
    · rw [Nat.testBit_lt_two_pow (ha.trans_le (Nat.pow_le_pow_right two_pos (by omega))),
        decide_eq_false (by omega), Bool.false_and]
  | n + 1, lo, a, ha => by
    have hnext : a + (if f lo then 2 ^ lo else 0) < 2 ^ (lo + 1) := by
      have : (if f lo then 2 ^ lo else 0) ≤ 2 ^ lo := by split <;> omega
      rw [pow_succ]; omega
    rw [rangeFrom, List.foldl_cons, testBit_foldl_rangeFrom f lane n (lo + 1) _ hnext,
      show lo + 1 + n = lo + (n + 1) by omega]
    obtain hlt | rfl | hgt := Nat.lt_trichotomy lane lo
    · rw [if_pos (by omega), if_pos hlt]
      split
      · rw [Nat.add_comm, Nat.testBit_two_pow_add_gt hlt]
      · rfl
    · rw [if_pos (Nat.lt_succ_self lane), if_neg (Nat.lt_irrefl lane), decide_eq_true (by omega), Bool.true_and]
      have hbit := Nat.testBit_lt_two_pow ha
      cases hf : f lane
      · simpa using hbit
      · rw [if_pos rfl, Nat.add_comm, Nat.testBit_two_pow_add_eq, hbit]; rfl
    · rw [if_neg (by omega), if_neg (by omega)]

theorem maskWord_getLsbD (f : Nat → Bool) {lane : Nat} (h : lane < 64) : (maskWord f).getLsbD lane = f lane := by
  simp only [maskWord, BitVec.getLsbD_ofNat, testBit_foldl_rangeFrom f lane 64 0 0 (by norm_num), h]
  simp

theorem mergeMask_getLsbD (on new old : Word) {lane : Nat} (h : lane < 64) :
    (mergeMask on new old).getLsbD lane = if on.getLsbD lane then new.getLsbD lane else old.getLsbD lane := by
  cases hon : on.getLsbD lane <;> simp [mergeMask, hon, h, -BitVec.getLsbD_eq_getElem]

/-- The functions of VMSK in one lane: AND, OR, XOR, ANDN and NOT (R165). -/
def maskFnBit (fn : Nat) (a b : Bool) : Bool :=
  match fn with
  | 0 => a && b
  | 1 => a || b
  | 2 => a ^^ b
  | 3 => a && !b
  | _ => !a

theorem maskFn_getLsbD {fn : Nat} (hfn : fn ≤ 4) (a b : Word) (n : Nat) {lane : Nat} (h : lane < 64) :
    (maskFn fn a b n).getLsbD lane = maskFnBit fn (a.getLsbD lane) (b.getLsbD lane) := by
  interval_cases fn <;> simp [maskFn, maskFnBit, h]

section
variable {s : State} {u : StreamAt} {p : Pred}

/-- An instruction that writes one mask register and goes on. -/
theorem stepOn_setM (md : Nat) (W : Cell → Word) :
    let t := stepOn u (modCell u.cell (fun c => setM md (W c) c) s)
    OnlyCell u.cell s t ∧ streamOf t u = (streamOf s u).next ∧
      getCell t u.cell = { getCell s u.cell with streams := (getCell t u.cell).streams, m := (getCell t u.cell).m } ∧
      (∀ q, q ≠ md → tget 0#64 (getCell t u.cell).m q = tget 0#64 (getCell s u.cell).m q) ∧
      tget 0#64 (getCell t u.cell).m md = W (getCell s u.cell) := by
  refine ⟨onlyCell_stepOn_modCell .., streamOf_stepOn_modCell rfl, ?_, fun q hq => ?_, ?_⟩
  all_goals rw [getCell_stepOn_modCell]
  · rfl
  · exact tget_tset_ne _ _ _ hq
  · exact tget_tset_same ..

/-- The mask that VMSK gives its register, but for LD and ST. -/
def vmskWord (p : Pred) (md ma mb fn n : Nat) (c : Cell) : Word :=
  mergeMask (predMask c p) (maskFn fn (tget 0#64 c.m ma) (tget 0#64 c.m mb) n) (tget 0#64 c.m md)

theorem runs_vmsk (hs : Issues s u) (hp : predOk p = true) {md ma mb : BitVec 3} {fn : BitVec 6} {reg : BitVec 4}
    (hfn : fn.toNat ≤ 9) (hld : fn ≠ 6) (hst : fn ≠ 7) {P : State → Prop}
    (h : P (stepOn u (modCell u.cell (fun c => setM md.toNat
      (vmskWord p md.toNat ma.toNat mb.toNat fn.toNat (sReg s u reg % 2 ^ 32) c) c) s))) :
    RunsTo (exec (.vmsk u p md ma mb fn reg) s) P := by
  have hword : (predOk p && decide (fn.toNat ≤ 9)) = true := by rw [hp, decide_eq_true hfn]; rfl
  show RunsTo (execVmsk ..) _
  refine runs_issue hs hword ?_
  rw [if_neg (not_or.2 ⟨hld, hst⟩)]
  exact h

theorem runs_vmskMem (hs : Issues s u) (hp : predOk p = true) {md ma mb : BitVec 3} {reg : BitVec 4} {ld : Bool}
    {d : Cell}
    (hd : vmskMem s u p md.toNat ma.toNat ld (aReg s u reg) = .ok d)
    (hover : overtakes u (getCell s u.cell) d = false) :
    RunsTo (exec (.vmsk u p md ma mb (if ld then 6 else 7) reg) s) fun t =>
      t = stepOn u (modCell u.cell (fun _ => d) s) := by
  have hword : (predOk p && decide ((if ld then 6 else 7 : BitVec 6).toNat ≤ 9)) = true := by
    rw [hp]; cases ld <;> rfl
  show RunsTo (execVmsk ..) _
  refine runs_issue hs hword ?_
  rw [← finishCell_of_ok hover, ← hd]
  cases ld <;> rfl

theorem runs_vcmp (hs : Issues s u) (hp : predOk p = true) {va vb : BitVec 5} {md : BitVec 3} {half : Bool}
    {ety : BitVec 2}
    {fn : BitVec 6} (hfn : fn.toNat ≤ 6) (hhalf : half = false ∨ is16 ety.toNat = true) {P : State → Prop}
    (h : P (stepOn u (modCell u.cell (fun c => setM md.toNat
      (maskWord fun i => laneOn c p i && cmpOp ety.toNat fn.toNat
      (vget c va.toNat ety.toNat (if is16 ety.toNat then 2 * i + bit01 half else i))
      (vget c vb.toNat ety.toNat (if is16 ety.toNat then 2 * i + bit01 half else i))) c) s))) :
    RunsTo (exec (.vcmp u p va vb md half ety fn) s) P := by
  have hword : (predOk p && (decide (fn.toNat ≤ 6) && (!half || is16 ety.toNat))) = true := by
    simpa [hp, hfn] using hhalf
  show RunsTo (vop ..) _
  exact runs_issue hs hword h

end

/-- Settles O15: the words that VCMP and VMSK write, taken lane by lane. -/
theorem maskInstructionsChangeOneMask : Obligations.MaskInstructionsChangeOneMask := by
  unfold Obligations.MaskInstructionsChangeOneMask
  intro s u p hs hp
  refine ⟨fun va vb md half ety fn hfn hhalf => runs_vcmp hs hp hfn hhalf ?vcmp, fun md ma mb fn reg hfn => ?vmsk,
    fun md ma mb reg ld d hd hover => runs_vmskMem hs hp hd hover,
    fun md ma mb fn reg hfn hld hst => runs_vmsk hs hp hfn hld hst rfl, fun va sreg lane => ?vxs⟩
  case vcmp =>
    obtain ⟨hcell, hstream, hframe, hother, hmask⟩ := stepOn_setM (s := s) (u := u) md.toNat _
    exact ⟨hcell, hstream, hframe, hother, fun lane hlane => by rw [hmask, maskWord_getLsbD _ hlane]⟩
  case vmsk =>
    have hne (k : BitVec 6) (hk : 4 < k.toNat) : fn ≠ k := fun h => by rw [h] at hfn; omega
    refine runs_vmsk hs hp (by omega) (hne 6 (by decide)) (hne 7 (by decide)) ?_
    obtain ⟨hcell, hstream, hframe, hother, hmask⟩ := stepOn_setM (s := s) (u := u) md.toNat
      (vmskWord p md.toNat ma.toNat mb.toNat fn.toNat (sReg s u reg % 2 ^ 32))
    refine ⟨hcell, hstream, hframe, hother, fun lane hlane => ?_⟩
    rw [hmask, vmskWord, mergeMask_getLsbD _ _ _ hlane, maskFn_getLsbD hfn _ _ _ hlane]
    rfl
  case vxs =>
    show RunsTo (execVxs ..) _
    refine runs_issue hs hp ?_
    dsimp only
    split
    · exact ⟨(onlyStream_setReg false ..).trans (onlyStream_stepOn ..), streamOf_setReg false ..⟩
    · exact ⟨onlyStream_stepOn .., streamOf_stepOn ..⟩

end Sys2Proof.Machine

/-! ## Vector loads and stores -/

namespace Sys2Proof.Machine

section
variable {s : State} {u : StreamAt} {p : Pred} {w : VmemWord} {op : Bool} {ref idx : Nat} {c d : Cell}

theorem livePlaces_of_no_lane (h : predMask c p = 0#64) (idx : Nat) : livePlaces c p w idx = [] :=
  List.filter_eq_nil_iff.2 fun _ _ => by simp [laneOn, h]

theorem takesEffect_of_no_lane (h : predMask c p = 0#64) : takesEffect c p = false := by
  simp [takesEffect, h]

/-- The element numbers of VLD and VST lie in their register; a column holds 32-bit elements (R166). -/
theorem laneOf_vmemPlaces (h : w.orient = true → is16 w.ety.toNat = false) :
    ∀ e ∈ vmemPlaces w idx, laneOf w.ety.toNat e.1 < 64 := by
  intro e he
  unfold vmemPlaces at he
  dsimp only at he
  split at he
  all_goals
    rename_i ho
    obtain ⟨i, hi, rfl⟩ := List.mem_map.1 he
    have hlt := lt_of_mem_rangeFrom hi
  · simpa [laneOf, h ho] using hlt
  · exact laneOf_lt hlt

theorem vldCell_of_no_lane (h : predMask c p = 0#64) : vldCell op p w ref idx c = .ok c := by
  simp [vldCell, livePlaces_of_no_lane h]

theorem vstCell_of_no_lane (h : predMask c p = 0#64) : vstCell op p w ref idx c = .ok (c, {}) := by
  simp [vstCell, livePlaces_of_no_lane h]

/-- VLD writes lanes of its register. -/
theorem writesLanes_vldCell (horient : w.orient = true → is16 w.ety.toNat = false)
    (h : vldCell op p w ref idx c = .ok d) : WritesLanes (laneOn c p) w.v.toNat c d := by
  unfold vldCell at h
  dsimp only at h
  split at h
  · cases h; exact .refl ..
  · obtain ⟨r, -, h⟩ := ok_bind h
    obtain ⟨-, -, h⟩ := ok_bind h
    cases h
    exact .foldl fun e he _ =>
      let ⟨hmem, hon⟩ := List.mem_filter.1 he
      writesLanes_vset _ (laneOf_vmemPlaces horient e hmem) hon

/-- The places of a write are those of its elements, whatever their values. -/
theorem writePlaces_congr {α : Type} (code : Nat) (f g : α → Nat × Nat × Num)
    (h : ∀ a, (f a).1 = (g a).1 ∧ (f a).2.1 = (g a).2.1) (l : List α) :
    writePlaces code (l.map f) = writePlaces code (l.map g) := by
  simp [writePlaces, touched, List.foldl_map, Function.comp_def, (h _).1, (h _).2]

/-- VST changes only elements at its places. -/
theorem vstCell_keeps {x : Cell × Sts} {r : Ref} (hr : decodeRef w.fmt.toNat ref = .ok r)
    (h : vstCell op p w ref idx c = .ok x) :
    KeepsOutside (InElems r w.fmt.toNat 128
      (writePlaces w.fmt.toNat ((livePlaces c p w idx).map fun e => (e.2.1, e.2.2, Num.inf true)))) c x.1 := by
  unfold vstCell at h
  dsimp only at h
  split at h
  · cases h; exact .refl ..
  · obtain ⟨r', hr', h⟩ := ok_bind h
    cases hr.symm.trans hr'
    have hplaces := writePlaces_congr w.fmt.toNat (fun e : Nat × Nat × Nat => (e.2.1, e.2.2, Num.inf true))
      (fun e => (e.2.1, e.2.2, etyVal w.ety.toNat (vget c w.v.toNat w.ety.toNat e.1))) (fun _ => ⟨rfl, rfl⟩)
        (livePlaces c p w idx)
    rw [hplaces]
    exact store_keeps (decodeRef_space hr) h

/-- Giving a cell the value that it has changes nothing but the stream's place. -/
theorem stepOn_modCell_self : stepOn u (modCell u.cell (fun _ => getCell s u.cell) s) = stepOn u s := by
  simp only [stepOn, advance, modStream, modCell_modCell]
  exact modCell_congr rfl

theorem finishLong_of_ok {off : Nat} {x : Cell × Sts} (h : overtakes u (getCell s u.cell) x.1 = false) :
    finishLong u false off (.ok x) s = stepOn u (modCell u.cell (fun _ => x.1) s) := by
  rw [show finishLong u false off (.ok x) s = finishSts u false off (.ok x) s from rfl,
    finishSts_of_ok (checkSts_false off) h, updateSts_false]

/-- The word of a VLD or VST that decodes. -/
theorem vmemWord_decodes (hp : predOk p = true) (horient : w.orient = true → is16 w.ety.toNat = false)
    (hfmt : w.fmt ≠ 0xF) :
    (predOk p && !(w.orient && is16 w.ety.toNat) && w.fmt != 0xF) = true := by
  have hfmt' : (w.fmt != 0xF) = true := bne_iff_ne.2 hfmt
  rw [hp, hfmt']
  cases ho : w.orient
  · rfl
  · rw [horient ho]; rfl

theorem runs_vld {P : State → Prop} (hs : Issues s u)
    (hword : (predOk p && !(w.orient && is16 w.ety.toNat) && w.fmt != 0xF) = true)
    (hd : vldCell (opMode s (getCell s u.cell)) p w (aReg s u w.ref) (sReg s u w.idx) (getCell s u.cell) = .ok d)
    (hover : overtakes u (getCell s u.cell) d = false) (h : P (stepOn u (modCell u.cell (fun _ => d) s))) :
    RunsTo (exec (.vld u p w) s) P := by
  show RunsTo (execVld ..) P
  rw [← finishCell_of_ok hover, ← hd] at h
  exact runs_issue hs hword h

theorem runs_vst {P : State → Prop} {x : Cell × Sts} (hs : Issues s u)
    (hword : (predOk p && !(w.orient && is16 w.ety.toNat) && w.fmt != 0xF) = true)
    (hx : vstCell (opMode s (getCell s u.cell)) p w (aReg s u w.ref) (sReg s u w.idx) (getCell s u.cell) = .ok x)
    (h : P (finishLong u (w.stsEn && takesEffect (getCell s u.cell) p) (sReg s u w.sts) (.ok x) s)) :
    RunsTo (exec (.vst u p w) s) P := by
  show RunsTo (execVst ..) P
  rw [← hx] at h
  exact runs_issue hs hword h

end

/-- Settles O16: the lanes that VLD writes and the places that VST stores to. -/
theorem vectorLoadsAndStoresTouchTheirLanes : Obligations.VectorLoadsAndStoresTouchTheirLanes := by
  unfold Obligations.VectorLoadsAndStoresTouchTheirLanes
  intro s u p w hs hp horient hfmt
  have hword := vmemWord_decodes hp horient hfmt
  have hself : overtakes u (getCell s u.cell) (getCell s u.cell) = false := overtakes_of_sameMemory ⟨rfl, rfl, rfl⟩
  refine ⟨fun hnone => ?vldNone, fun hnone => ?vstNone, fun d hd => ?vld, fun x r hen hr hx hover => ?vst,
    fun x hen heff hsts hx hover => ?vstSts⟩
  case vldNone => exact runs_vld hs hword (vldCell_of_no_lane hnone) hself stepOn_modCell_self
  case vstNone =>
    refine runs_vst hs hword (vstCell_of_no_lane hnone) ?_
    rw [takesEffect_of_no_lane hnone, Bool.and_false, finishLong_of_ok hself, stepOn_modCell_self]
  case vld =>
    have hlanes := writesLanes_vldCell horient hd
    refine runs_vld hs hword hd (overtakes_of_sameMemory hlanes.sameMemory)
      ⟨onlyCell_stepOn_modCell .., streamOf_stepOn_modCell hlanes.streams, ?_, ?_⟩
    all_goals rw [getCell_stepOn_modCell]
    · rw [hlanes.frame]
    · exact hlanes.lanes
  case vst =>
    have hkeeps := vstCell_keeps hr hx
    refine runs_vst hs hword hx ?_
    rw [hen, Bool.false_and, finishLong_of_ok hover]
    exact ⟨onlyCell_stepOn_modCell .., streamOf_stepOn_modCell hkeeps.1.streams,
      by rw [getCell_stepOn_modCell], hkeeps⟩
  case vstSts =>
    refine runs_vst hs hword hx ⟨Config.freeBool s.free, ?_⟩
    rw [hen, heff]
    exact finishSts_of_ok (x := longSum true s x) hsts hover

end Sys2Proof.Machine

/-! ## The start of a transfer -/

namespace Sys2Proof.Machine

/-- A fold whose steps change nothing. -/
theorem foldl_eq_of_forall_mem {α β : Type} {f : β → α → β} {l : List α} {b : β} (h : ∀ a ∈ l, f b a = b) :
    l.foldl f b = b :=
  List.foldlRecOn (motive := (· = b)) l f rfl fun _ hb a ha => by rw [hb, h a ha]

section
variable {s : State} {u : StreamAt} {p : Pred} {w : MoveWord} {m : MoveArgs} {two list : Bool}
  {rows : List (Nat × List Nat)}
  {k : Nat} {x : Transfer}

/-- The three commands that move rows share one effect. -/
theorem runs_move {x : Instr × Bool × Bool} {P : State → Prop}
    (hx : x ∈ [(Instr.move u p w, false, false), (Instr.move2 u p w, true, false), (Instr.movel u p w, false, true)])
    (hs : Issues s u) (hp : predOk p = true) (hshape : w.shape.toNat % 2 = 0) (hdst : x.2.1 = false → w.dst2 = 0)
    (h : P (moveEffect x.2.1 x.2.2 u p w s)) : RunsTo (exec x.1 s) P := by
  have hword {two : Bool} (htwo : two = false → w.dst2 = 0) : moveOk two p w = true := by
    cases two
    · simp [moveOk, hp, hshape, htwo rfl]
    · simp [moveOk, hp, hshape]
  simp only [List.mem_cons, List.not_mem_nil, or_false] at hx
  obtain rfl | rfl | rfl := hx
  · show RunsTo (execMove ..) P
    exact runs_issue hs (hword hdst) h
  · show RunsTo (execMove2 ..) P
    exact runs_issue hs (hword hdst) h
  · show RunsTo (execMovel ..) P
    exact runs_issue hs (hword hdst) h

theorem moveEffect_of_blocked (h : canTake (getCell s u.cell) u.stream.toNat w.tag.toNat = false ∨
    quotaHeld s u (moveArgs s u w two) = true) :
    moveEffect two list u p w s = blockUnit u (moveCause s u (moveArgs s u w two) list) s :=
  if_pos (by simpa using h)

theorem moveEffect_of_suppressed (htag : canTake (getCell s u.cell) u.stream.toNat w.tag.toNat = true)
    (hquota : quotaHeld s u (moveArgs s u w two) = false)
    (h : takesEffect (getCell s u.cell) p = false ∨ (moveArgs s u w two).rows = 0 ∨ (moveArgs s u w two).len = 0) :
    moveEffect two list u p w s = suppressTag u w.tag.toNat w.auto w.sem.toNat w.amt.toNat
      (moveCells s u.cell (moveArgs s u w two)) (bareSignals u w (moveArgs s u w two) s) :=
  (if_neg (by simp [htag, hquota])).trans (if_pos (by simpa [or_assoc] using h))

theorem moveEffect_of_rows (htag : canTake (getCell s u.cell) u.stream.toNat w.tag.toNat = true)
    (hquota : quotaHeld s u (moveArgs s u w two) = false) (heff : takesEffect (getCell s u.cell) p = true)
    (hrows : (moveArgs s u w two).rows ≠ 0) (hlen : (moveArgs s u w two).len ≠ 0)
    (h : moveRows s u (moveArgs s u w two) list = .ok rows) :
    moveEffect two list u p w s = moveStart u w (moveArgs s u w two) list rows s := by
  refine ((if_neg (by simp [htag, hquota])).trans (if_neg (by simp [heff, hrows, hlen]))).trans ?_
  rw [h]

theorem bareSignals_of_no_remote (h : ∀ d ∈ m.dsts, isRemote s (gaddr d).mod = false) : bareSignals u w m s = s :=
  foldl_eq_of_forall_mem fun d hd => by simp [h d hd]

theorem isRemote_of_isLocal {n : Nat} (h : isLocal s n = true) : isRemote s n = false := by
  simp only [isLocal, beq_iff_eq] at h
  simp [isRemote, h]

section
variable {t : State}

theorem OnlyCells.me (h : OnlyCells s t) : t.me = s.me := by unfold OnlyCells at h; rw [h]; rfl

theorem OnlyCells.hbm (h : OnlyCells s t) : t.hbm = s.hbm := by unfold OnlyCells at h; rw [h]

theorem OnlyCells.deep (h : OnlyCells s t) : t.deep = s.deep := by unfold OnlyCells at h; rw [h]

theorem OnlyCell.isLocal (h : OnlyCell k s t) (n : Nat) : isLocal t n = isLocal s n := by
  rw [Machine.isLocal, h.1.me]; rfl

end

theorem endRead_of_memory {a len : Nat} (h : (gaddr a).tier ≤ 1) :
    endRead (gaddr a) len s = (readLocal s (gaddr a) len, s) :=
  if_neg (by omega)

theorem moveRead_of_local (len : Nat) : ∀ {rows : List (Nat × List Nat)},
    (∀ r ∈ rows, isLocal s (gaddr r.1).mod = true ∧ (gaddr r.1).tier ≤ 1) →
    moveRead len rows s = (rows.flatMap fun r => r.2.map fun d => (d, readLocal s (gaddr r.1) len), s)
  | [], _ => rfl
  | r :: rows, h => by
    obtain ⟨⟨hlocal, htier⟩, hrest⟩ := List.forall_mem_cons.1 h
    simp only [moveRead, hlocal, if_true, endRead_of_memory htier, moveRead_of_local len hrest, List.flatMap_cons]

theorem moveOut_of_local {pieces : List (Nat × List Byte)} (h : ∀ q ∈ pieces, isRemote s (gaddr q.1).mod = false) :
    moveOut u w m pieces s = s := by
  have hfar : pieces.filter (fun q => isRemote s (gaddr q.1).mod) = [] :=
    List.filter_eq_nil_iff.2 fun q hq => by simp [h q hq]
  simp [moveOut, hfar]

theorem moveIn_of_local (h : ∀ r ∈ rows, isRemote s (gaddr r.1).mod = false) : moveIn u w m rows s = s :=
  foldl_eq_of_forall_mem fun r hr => by simp [h r hr]

/-! What a transfer that starts changes. -/

theorem onlyCell_startTransfer : OnlyCell k s (startTransfer k x s) := by
  simp only [startTransfer, takeTag, setTag, modStream, modCell_modCell]
  exact onlyCell_modCell ..

theorem streamOf_startTransfer (hx : x.stream = u.stream.toNat) : streamOf (startTransfer u.cell x s) u =
    { streamOf s u with tags := tset .free (streamOf s u).tags x.tag .busy } := by
  simp only [startTransfer, takeTag, setTag, hx]
  rw [streamOf_modCell rfl, streamOf_modCell rfl, streamOf_modStream]

theorem streamOf_stepOn_startTransfer (hx : x.stream = u.stream.toNat) :
    streamOf (stepOn u (startTransfer u.cell x s)) u =
    { (streamOf s u).next with tags := tset .free (streamOf s u).tags x.tag .busy } := by
  rw [streamOf_stepOn, streamOf_startTransfer hx]; rfl

theorem xfers_startTransfer : (getCell (startTransfer k x s) k).xfers = (getCell s k).xfers ++ [x] := by
  simp [startTransfer, takeTag, setTag, modStream]

theorem xfers_stepOn_startTransfer :
    (getCell (stepOn u (startTransfer u.cell x s)) u.cell).xfers = (getCell s u.cell).xfers ++ [x] := by
  rw [getCell_stepOn]
  show (getCell (startTransfer u.cell x s) u.cell).xfers = _
  exact xfers_startTransfer

theorem onlyCell_stepOn_startTransfer : OnlyCell u.cell s (stepOn u (startTransfer u.cell x s)) :=
  onlyCell_startTransfer.trans (onlyStream_stepOn ..).1

/-- The transfer that rows of this module's memory become: their bytes as read, each with its destinations. -/
def readTransfer (u : StreamAt) (w : MoveWord) (m : MoveArgs) (list : Bool) (rows : List (Nat × List Nat))
    (s : State) : Transfer :=
  { stream := u.stream.toNat, tag := w.tag.toNat, auto := w.auto, sem := w.sem.toNat, amt := w.amt.toNat
    pieces := rows.flatMap fun r => r.2.map fun d => (d, readLocal s (gaddr r.1) m.len)
    cells := moveCells s u.cell m, ip := (streamOf s u).ip, cause := moveCause s u m list }

/-- Rows of this module's memory: their bytes are read, and the transfer starts. -/
theorem moveStart_of_local
    (h : ∀ r ∈ rows, ∀ a ∈ r.1 :: r.2, isLocal s (gaddr a).mod = true ∧ (gaddr a).tier ≤ 1) :
    moveStart u w m list rows s = stepOn u (startTransfer u.cell (readTransfer u w m list rows s) s) := by
  have hsrc (r) (hr : r ∈ rows) : isLocal s (gaddr r.1).mod = true ∧ (gaddr r.1).tier ≤ 1 :=
    h r hr _ List.mem_cons_self
  have hpieces (q : Nat × List Byte)
      (hq : q ∈ rows.flatMap fun r => r.2.map fun d => (d, readLocal s (gaddr r.1) m.len)) :
      isLocal s (gaddr q.1).mod = true := by
    obtain ⟨r, hr, hq⟩ := List.mem_flatMap.1 hq
    obtain ⟨d, hd, rfl⟩ := List.mem_map.1 hq
    exact (h r hr d (List.mem_cons_of_mem _ hd)).1
  have hkeep := List.filter_eq_self (p := fun q : Nat × List Byte => isLocal s (gaddr q.1).mod).2 hpieces
  simp only [moveStart, moveRead_of_local m.len hsrc, hkeep]
  refine (congrArg (moveIn u w m rows) (moveOut_of_local ?_)).trans (moveIn_of_local ?_)
  · exact fun q hq => isRemote_of_isLocal ((onlyCell_stepOn_startTransfer.isLocal _).trans (hpieces q hq))
  · exact fun r hr => isRemote_of_isLocal ((onlyCell_stepOn_startTransfer.isLocal _).trans (hsrc r hr).1)

end

/-- Settles O22: the branches of the shared effect. -/
theorem transfersStartUnderTheirTag : Obligations.TransfersStartUnderTheirTag := by
  unfold Obligations.TransfersStartUnderTheirTag
  intro s u p w hs hp hshape x hx
  dsimp only
  intro hdst
  refine ⟨fun hblocked => ?blocked,
    fun htag hquota => ⟨fun hnone => ?suppressed, fun heff hrows hlen rows hok => ?starts⟩,
    fun htag hquota hnone hlocal => ?suppressedHere, fun htag hquota heff hrows hlen rows hok hlocal => ?memory⟩
  all_goals refine runs_move hx hs hp hshape hdst ?_
  case blocked =>
    rw [moveEffect_of_blocked hblocked]
    exact ⟨onlyStream_blockUnit .., streamOf_blockUnit ..⟩
  case suppressed => exact moveEffect_of_suppressed htag hquota hnone
  case starts => exact moveEffect_of_rows htag hquota heff hrows hlen hok
  case suppressedHere =>
    rw [moveEffect_of_suppressed htag hquota hnone, bareSignals_of_no_remote hlocal]
  case memory =>
    rw [moveEffect_of_rows htag hquota heff hrows hlen hok, moveStart_of_local hlocal]
    have hcell := onlyCell_stepOn_startTransfer (s := s) (u := u)
      (x := readTransfer u w (moveArgs s u w x.2.1) x.2.2 rows s)
    refine ⟨hcell.1.hbm, hcell.1.deep, hcell, ?_, ?_, ?_⟩
    · rw [streamOf_stepOn_startTransfer rfl]
      exact tget_tset_same TagSt.free (streamOf s u).tags w.tag.toNat TagSt.busy
    · rw [streamOf_stepOn_startTransfer rfl]
    · rw [xfers_stepOn_startTransfer]; rfl

end Sys2Proof.Machine

/-! ## The completion of a transfer -/

namespace Sys2Proof.Machine

/-- The bytes of HBM and of the deep tier and the signals on their way are the same. -/
structure SameTiers (s t : State) : Prop where
  hbm : t.hbm = s.hbm
  deep : t.deep = s.deep
  sigs : t.sigs = s.sigs

section
variable {s t v : State} {k i n : Nat} {x : Transfer} {p : Nat × List Byte}

theorem SameTiers.refl (s : State) : SameTiers s s := ⟨rfl, rfl, rfl⟩

theorem SameTiers.trans (h : SameTiers s t) (g : SameTiers t v) : SameTiers s v :=
  ⟨g.hbm.trans h.hbm, g.deep.trans h.deep, g.sigs.trans h.sigs⟩

theorem SameTiers.foldl {α : Type} {f : State → α → State} (h : ∀ s a, SameTiers s (f s a)) :
    ∀ (l : List α) (s : State), SameTiers s (l.foldl f s)
  | [], s => .refl s
  | a :: l, s => (h s a).trans (SameTiers.foldl h l (f s a))

theorem sameTiers_modCell (k : Nat) (f : Cell → Cell) (s : State) : SameTiers s (modCell k f s) := ⟨rfl, rfl, rfl⟩

theorem sameTiers_modStream (k i : Nat) (f : Stream → Stream) (s : State) : SameTiers s (modStream k i f s) :=
  sameTiers_modCell ..

theorem sameTiers_advance (k i : Nat) (s : State) : SameTiers s (advance k i s) := sameTiers_modStream ..

theorem sameTiers_fenceCheck (s : State) : SameTiers s (fenceCheck s) := by
  unfold fenceCheck
  dsimp only
  refine .trans ?_ (.foldl (fun _ _ => sameTiers_advance ..) _ _)
  exact ⟨rfl, rfl, rfl⟩

theorem sameTiers_dropPin (w : PinHolder) (s : State) : SameTiers s (dropPin w s) := by
  unfold dropPin
  refine .trans ?_ (sameTiers_fenceCheck _)
  exact ⟨rfl, rfl, rfl⟩

theorem sameTiers_tagwAll (k i : Nat) (s : State) : SameTiers s (tagwAll k i s) := by
  unfold tagwAll
  exact ((sameTiers_modStream ..).trans (sameTiers_advance ..)).trans (sameTiers_dropPin ..)

theorem sameTiers_wakeTagw (k i : Nat) (s : State) : SameTiers s (wakeTagw k i s) := by
  unfold wakeTagw
  dsimp only
  split
  · split
    · exact .refl s
    · exact (sameTiers_modStream ..).trans (sameTiers_advance ..)
  · split
    · exact sameTiers_tagwAll ..
    · exact .refl s
  · exact .refl s

theorem wakeTagw_of_no_wait (h : (getStream (getCell s k) i).wait = none) : wakeTagw k i s = s := by
  simp [wakeTagw, h]

/-! The signals of an ended transfer. -/

theorem foldl_signalSem_eq {sem amt : Nat} (h : amt ≠ 0) : ∀ (l : List Nat) (s : State),
    l.foldl (fun s c => signalSem c sem amt s) s = { s with sigs := s.sigs ++ l.map fun c => ⟨c, sem, amt⟩ }
  | [], s => by simp
  | c :: l, s => by
    rw [List.foldl_cons, foldl_signalSem_eq h l, signalSem_eq h]
    simp

/-- Whatever its amount, a signal that leaves changes nothing but the signals on their way. -/
theorem foldl_signalSem_only (sem amt : Nat) (l : List Nat) (s : State) :
    ∃ g, l.foldl (fun s c => signalSem c sem amt s) s = { s with sigs := g } := by
  by_cases h : amt = 0
  · exact ⟨s.sigs, foldl_eq_of_forall_mem fun c _ => if_pos h⟩
  · exact ⟨_, foldl_signalSem_eq h l s⟩

/-! What the end of a transfer leaves. -/

/-- The state in which the tag of an ended transfer is set: its signals have left. -/
def signalled (k : Nat) (x : Transfer) (s : State) : State :=
  x.cells.foldl (fun s c => signalSem c x.sem x.amt s) (modCell k (fun c => { c with xfers := c.xfers.erase x }) s)

theorem signalled_only (k : Nat) (x : Transfer) (s : State) :
    (signalled k x s).hbm = s.hbm ∧ (signalled k x s).deep = s.deep ∧
    (signalled k x s).cells = (modCell k (fun c => { c with xfers := c.xfers.erase x }) s).cells := by
  obtain ⟨g, hg⟩ := foldl_signalSem_only x.sem x.amt x.cells
    (modCell k (fun c => { c with xfers := c.xfers.erase x }) s)
  rw [signalled, hg]
  exact ⟨rfl, rfl, rfl⟩

theorem streams_signalled (k : Nat) (x : Transfer) (s : State) :
    (getCell (signalled k x s) k).streams = (getCell s k).streams := by
  obtain ⟨-, -, hcells⟩ := signalled_only k x s
  rw [getCell, hcells]
  exact streams_modCell (by exact fun _ => rfl) k k s

theorem sameTiers_endTransfer (k : Nat) (x : Transfer) (s : State) :
    SameTiers (signalled k x s) (endTransfer k x s) :=
  (sameTiers_modStream ..).trans (sameTiers_wakeTagw ..)

theorem endTransfer_hbm : (endTransfer k x s).hbm = s.hbm :=
  (sameTiers_endTransfer k x s).hbm.trans (signalled_only k x s).1

theorem endTransfer_deep : (endTransfer k x s).deep = s.deep :=
  (sameTiers_endTransfer k x s).deep.trans (signalled_only k x s).2.1

theorem endTransfer_sigs (h : x.amt ≠ 0) :
    (endTransfer k x s).sigs = s.sigs ++ x.cells.map fun c => ⟨c, x.sem, x.amt⟩ := by
  rw [(sameTiers_endTransfer k x s).sigs, signalled, foldl_signalSem_eq h]
  rfl

/-- With no stream in TAGW the tag stays done, or free with AUTO. -/
theorem endTransfer_tag (h : (getStream (getCell s k) x.stream).wait = none) :
    tagOf (getStream (getCell (endTransfer k x s) k) x.stream) x.tag = if x.auto then .free else .done := by
  have hset := getStream_modStream k x.stream
    (fun t => { t with tags := tset .free t.tags x.tag (if x.auto then .free else .done) }) (signalled k x s)
  have hwait : (getStream (getCell (signalled k x s) k) x.stream).wait = none := by
    rwa [getStream, streams_signalled]
  have hwait' : (getStream (getCell (setTag k x.stream x.tag (if x.auto then .free else .done) (signalled k x s)) k)
      x.stream).wait = none := by
    rw [setTag, hset]; exact hwait
  have hend : endTransfer k x s = setTag k x.stream x.tag (if x.auto then .free else .done) (signalled k x s) :=
    wakeTagw_of_no_wait hwait'
  rw [hend, setTag, hset]
  exact tget_tset_same ..

/-! The bytes that land. -/

theorem endWrite_of_memory (h : (gaddr p.1).tier ≤ 1) : endWrite k p s =
    ncDrop k ((gaddr p.1).off + (gaddr p.1).tier * 2 ^ 48) p.2.length
      (writeTier (gaddr p.1).tier (gaddr p.1).off p.2 s) := by
  unfold endWrite writeLocal
  dsimp only
  rw [if_neg (by omega), if_pos h, if_pos h]

theorem endWrite_hbm (h : (gaddr p.1).tier ≤ 1) :
    (endWrite k p s).hbm = if (gaddr p.1).tier = 0 then mwrite s.hbm (gaddr p.1).off p.2 else s.hbm := by
  rw [endWrite_of_memory h]
  show (writeTier ..).hbm = _
  unfold writeTier
  split <;> rfl

theorem endWrite_deep (h : (gaddr p.1).tier ≤ 1) :
    (endWrite k p s).deep = if (gaddr p.1).tier = 0 then s.deep else mwrite s.deep (gaddr p.1).off p.2 := by
  rw [endWrite_of_memory h]
  show (writeTier ..).deep = _
  unfold writeTier
  split <;> rfl

theorem endWrite_sigs (h : (gaddr p.1).tier ≤ 1) : (endWrite k p s).sigs = s.sigs := by
  rw [endWrite_of_memory h]
  show (writeTier ..).sigs = _
  unfold writeTier
  split <;> rfl

theorem endWrite_streams (h : (gaddr p.1).tier ≤ 1) (j : Nat) :
    (getCell (endWrite k p s) j).streams = (getCell s j).streams := by
  rw [endWrite_of_memory h, ncDrop, streams_modCell (by exact fun _ => rfl)]
  unfold writeTier
  dsimp only
  split <;> rfl

/-- A byte outside a piece reads as before. -/
theorem mget_endWrite_hbm (h : (gaddr p.1).tier ≤ 1) {b : Nat}
    (hb : (gaddr p.1).tier = 0 → b < (gaddr p.1).off ∨ (gaddr p.1).off + p.2.length ≤ b) :
    mget (endWrite k p s).hbm b = mget s.hbm b := by
  rw [endWrite_hbm h]
  split
  · exact mget_mwrite_out _ _ _ _ (hb ‹_›)
  · rfl

theorem mget_endWrite_deep (h : (gaddr p.1).tier ≤ 1) {b : Nat}
    (hb : (gaddr p.1).tier = 1 → b < (gaddr p.1).off ∨ (gaddr p.1).off + p.2.length ≤ b) :
    mget (endWrite k p s).deep b = mget s.deep b := by
  rw [endWrite_deep h]
  split
  · rfl
  · exact mget_mwrite_out _ _ _ _ (hb (by omega))

/-- A piece that landed reads back as its bytes. -/
theorem mget_endWrite_in (h : (gaddr p.1).tier ≤ 1) {j : Nat} (hj : j < p.2.length) :
    mget (if (gaddr p.1).tier = 0 then (endWrite k p s).hbm else (endWrite k p s).deep)
      ((gaddr p.1).off + j) = p.2[j] := by
  rw [endWrite_hbm h, endWrite_deep h]
  split <;> exact mget_mwrite_in _ _ _ _ hj

end

/-- What every piece of a list leaves as it was, the whole list leaves. -/
theorem foldl_endWrite_keeps {α : Type} {k : Nat} (f : State → α) {l : List (Nat × List Byte)} {s : State}
    (h : ∀ p ∈ l, ∀ s, f (endWrite k p s) = f s) : f (l.foldl (fun s p => endWrite k p s) s) = f s :=
  List.foldlRecOn (motive := (f · = f s)) l _ rfl fun _ hb p hp => (h p hp _).trans hb

section
variable {s : State} {k i n : Nat} {x : Transfer} {P : State → Prop}

theorem runs_transferComplete_of_none (hk : cellOk k = true) (hi : i < 64) (hn : n < 512)
    (hx : (getCell s k).xfers.find? (fun x => x.stream == i && x.tag == n) = none) :
    RunsTo (exec (.transferComplete k i n) s) fun t => t = s :=
  runs_onUnit (by simp [hk, hi, hn]) (by rw [hx])

theorem runs_transferComplete_of_some (hk : cellOk k = true) (hi : i < 64) (hn : n < 512)
    (hx : (getCell s k).xfers.find? (fun x => x.stream == i && x.tag == n) = some x)
    (h : P (if transferDue s k x then endTransfer k x (x.pieces.foldl (fun s p => endWrite k p s) s) else s)) :
    RunsTo (exec (.transferComplete k i n) s) P :=
  runs_onUnit (by simp [hk, hi, hn]) (by rw [hx]; exact h)

end

/-- Settles O23: the bytes that the pieces write, and what ending the transfer leaves. -/
theorem transferCompletionWritesItsBytes : Obligations.TransferCompletionWritesItsBytes := by
  unfold Obligations.TransferCompletionWritesItsBytes
  refine ⟨fun s k i n hk hi hn hx => runs_transferComplete_of_none hk hi hn hx, fun s k i n x hk hi hn hx => ?_⟩
  refine ⟨fun hdue => ?notDue, fun hdue => ?due, fun hdue htier => ?bytes⟩
  all_goals refine runs_transferComplete_of_some hk hi hn hx ?_
  case notDue => rw [hdue]; rfl
  case due => rw [hdue]; rfl
  case bytes =>
    have hname := List.find?_some hx
    obtain ⟨rfl, rfl⟩ : x.stream = i ∧ x.tag = n := by simpa using hname
    rw [hdue, if_pos rfl, endTransfer_hbm, endTransfer_deep]
    refine ⟨fun b hb => ?_, fun b hb => ?_, fun p hp j hj => ?_, fun hwait => ?_, fun hamt => ?_⟩
    · exact foldl_endWrite_keeps (fun s => mget s.hbm b) fun p hp _ => mget_endWrite_hbm (htier p hp) (hb p hp)
    · exact foldl_endWrite_keeps (fun s => mget s.deep b) fun p hp _ => mget_endWrite_deep (htier p hp) (hb p hp)
    · rw [hp]
      exact mget_endWrite_in (htier p (by simp [hp])) hj
    · have hstreams := foldl_endWrite_keeps (k := k) (s := s) (fun s => (getCell s k).streams)
        fun p hp s => endWrite_streams (s := s) (htier p hp) k
      exact endTransfer_tag (by rwa [getStream, hstreams])
    · rw [endTransfer_sigs hamt, foldl_endWrite_keeps State.sigs fun p hp _ => endWrite_sigs (htier p hp)]

end Sys2Proof.Machine

/-! ## CELL_TAGS -/

namespace Sys2Proof.Machine

/-- The BAR0 offset of the CELL_TAGS of a cell. -/
def cellTagsOff (die cell : Nat) : Nat := cellBase (128 * die + cell) + 0x10

section
variable {s t : State} {die cell tag : Nat}

theorem cellTagsOff_eq (hcell : cell < 100) : cellTagsOff die cell = 0x3010010 + die * 0x200000 + cell * 0x1000 := by
  unfold cellTagsOff cellBase spireBase
  omega

/-- CELL_TAGS lies in the window of its Spire die, there in the window of its cell, and in BAR0. -/
theorem cellTagsOff_place (hdie : die < 8) (hcell : cell < 100) :
    let off := cellTagsOff die cell
    let o := (off - 0x3000000) % 0x200000
    0x3000000 ≤ off ∧ (off - 0x3000000) / 0x200000 = die ∧ 0x10000 ≤ o ∧ (o - 0x10000) / 0x1000 = cell ∧
      o % 0x1000 = 0x10 ∧ off % 8 = 0 ∧ off < 2 ^ 26 := by
  rw [cellTagsOff_eq hcell]
  dsimp only
  omega

theorem tagsAt_cellTagsOff (hdie : die < 8) (hcell : cell < 100) :
    tagsAt (cellTagsOff die cell) = some (128 * die + cell) := by
  obtain ⟨hlo, hwindow, hcells, hkey, hreg, -, -⟩ := cellTagsOff_place hdie hcell
  simp only [tagsAt, hlo, hwindow, hcells, hkey, hreg, hcell, and_self, if_true]

theorem regGet_cellTagsOff (hdie : die < 8) (hcell : cell < 100) : regGet s (cellTagsOff die cell) =
    place (tagsInUse (getCell s (128 * die + cell))) 10 0 + place (getCell s (128 * die + cell)).tagsPeak 10 16 := by
  obtain ⟨hlo, hwindow, hcells, hkey, hreg, -, -⟩ := cellTagsOff_place hdie hcell
  have hvalue : blockValue s (cellTagsOff die cell) = cellValue s (128 * die + cell) 0x10 := by
    rw [blockValue, if_pos hlo, spireValue, if_neg (by omega), if_neg (by omega), if_pos ⟨hcells, by omega⟩,
      hwindow, hkey, hreg]
  rw [regGet, hvalue]
  rfl

theorem fieldOf_peak (a : Nat) {b : Nat} (hb : b ≤ 512) : fieldOf (place a 10 0 + place b 10 16) 25 16 = b := by
  have hfield : fieldOf (place a 10 0 + place b 10 16) 25 16 = (a % 1024 + b % 1024 * 65536) / 65536 % 1024 := by
    simp only [fieldOf, place, Nat.shiftLeft_eq, Nat.shiftRight_eq_div_pow]
    norm_num
  omega

theorem regRead_of_tagsAt {off m k : Nat} (h : tagsAt off = some k) (hpeak : bitAt m 25 = true) :
    regRead off m s = modCell k (fun c => { c with tagsPeak := tagsInUse c }) s := by
  rw [regRead, h]
  exact if_pos hpeak

/-- A read of all of CELL_TAGS restarts the peak of its cell. -/
theorem regRead_cellTagsOff (hdie : die < 8) (hcell : cell < 100) : regRead (cellTagsOff die cell) allBits s =
    modCell (128 * die + cell) (fun c => { c with tagsPeak := tagsInUse c }) s :=
  regRead_of_tagsAt (tagsAt_cellTagsOff hdie hcell) (by decide)

theorem hostAccess_of_ready {off : Nat} (h : HostReady s off) (f : State → State) : hostAccess off f s = f s := by
  obtain ⟨hactive, hserved⟩ := h
  rw [hostAccess, if_neg (not_not.2 hactive), if_pos hserved]

theorem barOk_cellTagsOff (hdie : die < 8) (hcell : cell < 100) : barOk 0 (cellTagsOff die cell) 8 = true := by
  obtain ⟨-, -, -, -, -, halign, hlt⟩ := cellTagsOff_place hdie hcell
  rw [barOk, decide_eq_true halign, decide_eq_true hlt]
  rfl

theorem barMask_cellTagsOff (hdie : die < 8) (hcell : cell < 100) : barMask (cellTagsOff die cell) 8 = allBits := by
  obtain ⟨-, -, -, -, -, halign, -⟩ := cellTagsOff_place hdie hcell
  rw [barMask, halign]
  rfl

/-- Answering the host changes no cell. -/
theorem hostGet_cellTagsOff_cells (hdie : die < 8) (hcell : cell < 100) (h : HostReady s (cellTagsOff die cell)) :
    (hostGet 0 (cellTagsOff die cell) 8 tag s).cells = (regRead (cellTagsOff die cell) allBits s).cells := by
  obtain ⟨hactive, hserved⟩ := h
  have haddr : cellTagsOff die cell / 8 * 8 = cellTagsOff die cell := by
    obtain ⟨-, -, -, -, -, halign, -⟩ := cellTagsOff_place hdie hcell
    omega
  have hgate : (!barOk 0 (cellTagsOff die cell) 8 || !barServed s 0 (cellTagsOff die cell)) = false := by
    rw [barOk_cellTagsOff hdie hcell, barServed, if_pos rfl, hserved]; rfl
  simp only [hostGet, hactive, ne_eq, not_true_eq_false, if_false, hgate, Bool.false_eq_true, if_true, haddr,
    barMask_cellTagsOff hdie hcell]
  exact (report_sendMsg _ _).cells

/-- A state whose cells are those after the read. -/
theorem restarted_of_cells (hdie : die < 8) (hcell : cell < 100)
    (h : t.cells = (regRead (cellTagsOff die cell) allBits s).cells) :
    getCell t (128 * die + cell) =
        { getCell s (128 * die + cell) with tagsPeak := tagsInUse (getCell s (128 * die + cell)) } ∧
      ∀ j, j ≠ 128 * die + cell → getCell t j = getCell s j := by
  have hcells (j : Nat) : getCell t j =
      getCell (modCell (128 * die + cell) (fun c => { c with tagsPeak := tagsInUse c }) s) j := by
    rw [getCell, h, regRead_cellTagsOff hdie hcell]; rfl
  exact ⟨(hcells _).trans (getCell_modCell ..), fun j hj => (hcells j).trans (getCell_modCell_ne _ _ hj)⟩

end

/-- Settles O43: both routes leave the cells as the register's read does. -/
theorem readingCellTagsRestartsThePeak : Obligations.ReadingCellTagsRestartsThePeak := by
  unfold Obligations.ReadingCellTagsRestartsThePeak
  intro s die cell tag hdie hcell
  show HostReady s (cellTagsOff die cell) → _
  intro hready hpeak
  refine ⟨(congrArg (fieldOf · 25 16) (regGet_cellTagsOff hdie hcell)).trans (fieldOf_peak _ hpeak), fun x hx => ?_⟩
  simp only [List.mem_cons, List.not_mem_nil, or_false] at hx
  obtain rfl | rfl := hx
  · exact runs_onUnit (by simp [hdie, hcell])
      (restarted_of_cells hdie hcell (congrArg State.cells (hostAccess_of_ready hready _)))
  · have hoff : (BitVec.ofNat 64 (cellTagsOff die cell)).toNat = cellTagsOff die cell := by
      obtain ⟨-, -, -, -, -, -, hlt⟩ := cellTagsOff_place hdie hcell
      exact (BitVec.toNat_ofNat ..).trans (Nat.mod_eq_of_lt (hlt.trans (by norm_num)))
    refine ⟨_, rfl, restarted_of_cells hdie hcell ?_⟩
    rw [← hostGet_cellTagsOff_cells (tag := tag) hdie hcell hready]
    exact congrArg (fun a => (hostGet 0 a 8 tag s).cells) hoff

end Sys2Proof.Machine

/-! ## Maintenance -/

namespace Sys2Proof.Machine

section
variable {s t : State} {P : State → Prop} {r : MaintReq} {c : CmdRef} {activity port arg0 arg1 : Nat}

theorem runs_next (h : P t) : RunsTo (.next t) P := ⟨t, rfl, h⟩

/-- A request as MAINT_START makes it: only LINK_RETRAIN names a port (R447). -/
def maintRequest (c : CmdRef) (activity port arg0 arg1 : Nat) : MaintReq :=
  ⟨c, activity, if activity = 5 then port else 0, arg0, arg1, none⟩

theorem cmdMaintStart_of_unknown (hfault : s.pwr.state ≠ stFault) (h : 7 < activity) :
    cmdMaintStart c activity port arg0 arg1 s = complete c cPlanInvalid s := by
  unfold cmdMaintStart
  dsimp only
  rw [if_neg fun hc => hfault hc.1, if_pos (.inl h)]

/-- A request that MAINT_START accepts begins or waits (R466, R467). -/
theorem cmdMaintStart_of_accepted (hfault : s.pwr.state ≠ stFault ∨ activity = 6) (hactivity : activity ≤ 7)
    (hport : activity = 5 → port ≤ 6)
    (hmap : activity = 4 → s.plan.active = true ∧ (compactRange s arg0 arg1).isSome)
    (hfw : activity = 6 → arg1 ≤ 23 * 2 ^ 20) :
    cmdMaintStart c activity port arg0 arg1 s =
      if maintReady s (maintRequest c activity port arg0 arg1) &&
        (blockers s s.modes.waiting (maintRequest c activity port arg0 arg1)).isEmpty
      then maintBegin (maintRequest c activity port arg0 arg1) s
      else maintWait (maintRequest c activity port arg0 arg1) s := by
  have hstate : ¬(s.pwr.state = stFault ∧ activity ≠ 6) := fun hc => hfault.elim (· hc.1) hc.2
  have hnamed : ¬(7 < activity ∨ activity = 5 ∧ 6 < port) := by omega
  have hplan : ¬(activity = 4 ∧ !s.plan.active) := fun hc => by simp [hmap hc.1] at hc
  have hrange : ¬(activity = 4 ∧ (compactRange s arg0 arg1).isNone) := fun hc => by
    obtain ⟨rfl, hnone⟩ := hc
    simp [Option.isNone_iff_eq_none.1 hnone] at hmap
  have hlength : ¬(activity = 6 ∧ 23 * 2 ^ 20 < arg1) := fun hc => Nat.not_lt.2 (hfw hc.1) hc.2
  unfold cmdMaintStart
  dsimp only
  rw [if_neg hstate, if_neg hnamed, if_neg hplan, if_neg hrange, if_neg hlength]
  rfl

theorem maintWork_of_job {f : MaintReq → State → State} (h : maintJob s activity = some r) :
    maintWork activity f s = f r s := by
  rw [maintWork, h]

theorem maintWork_of_none {f : MaintReq → State → State} (h : maintJob s activity = none) :
    maintWork activity f s = s := by
  rw [maintWork, h]

/-- The work that a command does for a running request. -/
theorem runs_maintWork {f : MaintReq → State → State} (h : maintJob s activity = some r) (hp : P (f r s)) :
    RunsTo (.next (maintWork activity f s)) P := runs_next (by rwa [maintWork_of_job h])

theorem endCode_of_ne (h : r.activity ≠ 7) : endCode s r = r.done.getD cOk := if_neg fun hc => h hc.1

theorem runs_scrubSram (h : maintJob s 2 = some r) : RunsTo (exec .scrubSram s) fun t =>
    t = if s.cells.any (fun e => e.2.scratchHeld)
      then workDone r cOk (((s.cells.filter fun e => e.2.scratchHeld).map (·.1)).foldl (fun s k => testCell k s) s)
      else (sramCells s).foldl (fun s k => testCell k s) s := by
  show RunsTo (execScrubSram s) _
  refine runs_maintWork h ?_
  dsimp only
  cases s.cells.any fun e => e.2.scratchHeld <;> rfl

theorem runs_mapCompact (h : maintJob s 4 = some r)
    (ht : t = { s with pmap := { s.pmap with compact := compactRange s r.arg0 r.arg1 } }) :
    RunsTo (exec .mapCompact s) fun v =>
      v = if s.pmap.relocs ≠ [] then t else if compactLeft t = [] then workDone r cOk t
        else ((compactLeft t).take 64).foldl (fun s k => startReloc k s) t := by
  subst ht
  show RunsTo (execMapCompact s) _
  refine runs_maintWork h ?_
  dsimp only
  by_cases hrelocs : s.pmap.relocs = []
  · rw [if_neg (by simp [hrelocs]), if_neg (not_not.2 hrelocs)]
    split
    · next hnil =>
      rw [if_pos ((List.take_eq_nil_iff.1 hnil).resolve_left (by decide))]
    · next hsome =>
      rw [if_neg fun hnil => hsome (by rw [hnil]; rfl)]
  · rw [if_pos (by simp [hrelocs]), if_pos hrelocs]

end

/-- Settles O47: each command is its branch of the lock or the work of its activity. -/
theorem maintenanceCommandsComplete : Obligations.MaintenanceCommandsComplete := by
  unfold Obligations.MaintenanceCommandsComplete
  refine ⟨fun s id w => ⟨fun hfault h => ?unknown, fun h hfault hport hmap hfw => ?accepted, fun hfault h => ?scrub⟩,
    fun s v h => ?cancel,
    fun s r => ⟨fun h => ?hbm, fun h => ?deep, fun h hheld => ?sramHeld, fun h hheld => ?sramFree,
      fun hcold htrain hfirst l => ?surveyCold, fun h hlate l => ?survey, fun h hrelocs => ?compact,
      fun h hrelocs => ?compactWaits, fun img h hread hcode => ?fwRefused,
      fun img h hread hcode => ?fwStaged, fun h hbad => ?mirror, fun h hbad => ?mirrorBad⟩,
    fun s x hx h => ?none, fun s n r hn h => ?retrain, fun s a p r h => ?ends,
    fun s link lane corr n hlink hlane => ?fec⟩
  case unknown => exact runs_next (cmdMaintStart_of_unknown hfault h)
  case accepted => exact runs_next (cmdMaintStart_of_accepted hfault (by omega) hport hmap hfw)
  case scrub =>
    exact runs_next (cmdMaintStart_of_accepted (.inl hfault) (by omega) (by omega) (fun h4 => by omega) (by omega))
  case cancel => exact runs_next (hostAccess_of_ready h _)
  case hbm => exact runs_maintWork h rfl
  case deep => exact runs_maintWork h rfl
  case sramHeld =>
    have hany : s.cells.any (fun e => e.2.scratchHeld) = true := List.any_eq_true.2 hheld
    simpa only [hany, if_true] using runs_scrubSram h
  case sramFree =>
    have hany : s.cells.any (fun e => e.2.scratchHeld) = false := List.any_eq_false.2 fun e he => by simp [hheld e he]
    simpa only [hany, Bool.false_eq_true, if_false] using runs_scrubSram h
  case surveyCold =>
    exact runs_next (if_pos ⟨hcold, htrain, by rw [hfirst]; rfl⟩)
  case survey =>
    have hrun : ¬(s.pwr.reset = .cold ∧ s.pwr.state = stMemtrain ∧ !s.pwr.surveyed) :=
      fun ⟨hcold, htrain, hfirst⟩ => by
      simp [hcold, htrain] at hlate
      simp [hlate] at hfirst
    exact runs_next ((if_neg hrun).trans (maintWork_of_job h))
  case compact => simpa only [hrelocs, ne_eq, not_true_eq_false, if_false] using runs_mapCompact h rfl
  case compactWaits => simpa only [hrelocs, ne_eq, not_false_eq_true, if_true] using runs_mapCompact h rfl
  case fwRefused =>
    refine runs_maintWork h ?_
    rw [if_neg (by omega), if_neg hcode]
  case fwStaged =>
    refine runs_maintWork h ?_
    rw [if_neg (by omega), if_pos hcode]
    cases fwTarget s <;> exact ⟨rfl, rfl, rfl, rfl⟩
  case mirror =>
    refine runs_maintWork h ?_
    rw [hbad]; rfl
  case mirrorBad =>
    refine runs_maintWork h ⟨Config.freeNat s.free % 17, Nat.mod_lt _ (by decide), ?_⟩
    exact if_neg (by simpa using hbad)
  case none =>
    simp only [List.mem_cons, List.not_mem_nil, or_false] at hx
    obtain rfl | rfl | rfl | rfl | rfl := hx
    all_goals exact runs_next (maintWork_of_none h)
  case retrain =>
    refine runs_onUnit (decide_eq_true hn) ?_
    rw [h]
  case ends =>
    have hname := List.find?_some h
    obtain rfl : r.activity = a := by simp at hname; exact hname.1.1
    refine runs_next ?_
    rw [h]
    by_cases hmirror : r.activity = 7
    · rw [if_pos hmirror]
    · rw [if_neg hmirror, ← endCode_of_ne hmirror]
  case fec => exact runs_onUnit (by simp [hlink, hlane]) rfl

end Sys2Proof.Machine

/-! ## The stream unit and the table unit: how their instructions end -/

namespace Sys2Proof.Machine

/-- How an instruction of the stream unit or the table unit with the outcome o completes, where its operation gives
r: suppressed, waiting for the array, or with its cell and its status word changed. After an instruction that may
end a long reduction the word may be marked (R78, R85, R150, R171). -/
def CompletesAs (s : State) (u : StreamAt) (p : Pred) (o : Host.Outcome State Fault Refusal) (en : Bool) (off : Nat)
    (long : Bool) (r : Except RtFault (Cell × Sts)) : Prop :=
  (takesEffect (getCell s u.cell) p = false → RunsTo o fun t => t = stepOn u s) ∧
  ∀ x, takesEffect (getCell s u.cell) p = true → checkSts en off = .ok () → r = .ok x →
    (overtakes u (getCell s u.cell) x.1 = true → long = false → RunsTo o fun t => t = blockUnit u .arbiter s) ∧
    (overtakes u (getCell s u.cell) x.1 = false → RunsTo o fun t => ∃ b : Bool, (long = false → b = false) ∧
      t = stepOn u (updateSts u.cell en off { x.2 with bound := x.2.bound || b }
        (modCell u.cell (fun _ => x.1) (if long then { s with free := s.free + 1 } else s))))

section
variable {s : State} {u : StreamAt} {p : Pred} {o : Host.Outcome State Fault Refusal} {en : Bool} {off : Nat}
  {r : Except RtFault (Cell × Sts)}

/-- An instruction that ends no long reduction leaves the mark of its status word to its operation. -/
theorem completesAs_of_finishSts
    (ho : o = .next (if !takesEffect (getCell s u.cell) p then stepOn u s else finishSts u en off r s)) :
    CompletesAs s u p o en off false r := by
  refine ⟨fun hoff => ⟨_, ho, by rw [hoff]; rfl⟩, fun x hon hsts hr => ?_⟩
  rw [hon, hr] at ho
  refine ⟨fun hover _ => ⟨_, ho, finishSts_of_overtakes hsts hover⟩, fun hover => ⟨_, ho, false, fun _ => rfl, ?_⟩⟩
  rw [Bool.or_false]
  exact finishSts_of_ok hsts hover

/-- With no status word named, an instruction that may end a long reduction ends as any other; with one, the
model's free value decides the mark (R85). -/
theorem completesAs_of_finishLong
    (ho : o = .next (if !takesEffect (getCell s u.cell) p then stepOn u s else finishLong u en off r s)) :
    CompletesAs s u p o en off en r := by
  cases en
  case false =>
    have hid : r.map (longSum false s) = r := by cases r <;> rfl
    rw [finishLong, hid] at ho
    exact completesAs_of_finishSts ho
  case true =>
    refine ⟨fun hoff => ⟨_, ho, by rw [hoff]; rfl⟩, fun x hon hsts hr => ⟨fun _ => nofun, fun hover => ?_⟩⟩
    rw [hon, hr] at ho
    refine ⟨_, ho, Config.freeBool s.free, nofun, ?_⟩
    exact finishSts_of_ok (s := { s with free := s.free + 1 }) (x := longSum true s x) hsts hover

variable {w : SopWord} {word : Bool} {f : Bool → SopWord → VecArgs → Cell → Except RtFault (Cell × Sts)}

/-- An output mask needs a D_REF with a companion (R146). -/
theorem sopMaskOk_of_companion (h : w.outmask = true → w.dRef ≠ 15) : sopMaskOk w = true := by
  cases hm : w.outmask
  · rw [sopMaskOk, hm]; rfl
  · rw [sopMaskOk, bne_iff_ne.2 (h hm), Bool.or_true]

/-- A SOP of a stream that can issue, whose word decodes, is suppressed or finished as given (R151, R167). -/
theorem sopBy_ready (fin : StreamAt → Bool → Nat → Except RtFault (Cell × Sts) → State → State) (hs : Issues s u)
    (hp : predOk p = true) (hx : w.fmtX ≠ 0xF) (hd : w.fmtD ≠ 0xF) (hmask : w.outmask = true → w.dRef ≠ 15)
    (hword : word = true) :
    sopBy fin u p w word f s = .next (if !takesEffect (getCell s u.cell) p then stepOn u s
      else fin u w.stsEn (sReg s u w.sts)
        (f (opMode s (getCell s u.cell)) w (sopArgs s u w) (getCell s u.cell)) s) := by
  have hdecodes : (predOk p && word && w.fmtX != 0xF && w.fmtD != 0xF && sopMaskOk w) = true := by
    rw [hp, hword, bne_iff_ne.2 hx, bne_iff_ne.2 hd, sopMaskOk_of_companion hmask]; rfl
  unfold sopBy
  rw [hdecodes]
  exact issue_ready hs _

/-- FMAR and MULR need an X_REF with a companion and an AUX of at most 7 (R146, R167). -/
theorem sopRowOk_of_range (h : w.fn = 6 ∨ w.fn = 7 → w.xRef ≠ 15 ∧ w.aux.toNat ≤ 7) : sopRowOk w = true := by
  by_cases hfn : w.fn = 6 ∨ w.fn = 7
  · obtain ⟨href, haux⟩ := h hfn
    rw [sopRowOk, bne_iff_ne.2 href, decide_eq_true haux]; simp
  · obtain ⟨hfmar, hmulr⟩ := not_or.1 hfn
    rw [sopRowOk, beq_eq_false_iff_ne.2 hfmar, beq_eq_false_iff_ne.2 hmulr]; rfl

end

/-- CVT's FN says whether its destination is block-scaled (R167). -/
theorem sopCvt_fn_decodes {w : SopWord}
    (h : w.fn = 0 ∧ blockLen w.fmtD.toNat = 0 ∨ w.fn = 1 ∧ blockLen w.fmtD.toNat ≠ 0) :
    (decide (w.fn.toNat ≤ 1) && (w.fn == 1) == (blockLen w.fmtD.toNat != 0)) = true := by
  obtain ⟨hfn, hlen⟩ | ⟨hfn, hlen⟩ := h
  · rw [hfn, hlen]; rfl
  · rw [hfn, bne_iff_ne.2 hlen]; rfl

/-- Settles O18: every SOP is one shared instruction with its own word and its own operation, and TAB its like. -/
theorem streamUnitInstructionsComplete : Obligations.StreamUnitInstructionsComplete := by
  unfold Obligations.StreamUnitInstructionsComplete
  intro s u p hs hp
  refine ⟨fun w hx hd hmask => ?sop, fun w hmode hx hd => ?tab⟩
  case sop =>
    have sts {word f} (hword : word = true) := completesAs_of_finishSts
      (sopBy_ready (f := f) finishSts hs hp hx hd hmask hword)
    refine ⟨fun hfn hrow => ?elem, fun hfn => sts (decide_eq_true hfn),
      fun hfn => sts (f := (sopScanCell · false)) (decide_eq_true hfn),
      fun hfn => sts (f := (sopScanCell · true)) (decide_eq_true hfn), fun hfn => sts (beq_iff_eq.2 hfn),
      fun hfn => sts (sopCvt_fn_decodes hfn), fun hfn hn => sts ?fill⟩
    case elem =>
      refine completesAs_of_finishLong (sopBy_ready finishLong hs hp hx hd hmask ?_)
      rw [decide_eq_true hfn, sopRowOk_of_range hrow]; rfl
    case fill => rw [beq_iff_eq.2 hfn, bne_iff_ne.2 hn]; rfl
  case tab =>
    have hdecodes : (predOk p && w.mode != 3 && w.fmtX != 0xF && decide (w.fmtD.toNat ≤ 4)) = true := by
      rw [hp, bne_iff_ne.2 hmode, bne_iff_ne.2 hx, decide_eq_true hd]; rfl
    refine completesAs_of_finishSts ?_
    show execTab u p w s = _
    unfold execTab
    rw [hdecodes]
    exact issue_ready hs _

end Sys2Proof.Machine

/-! ## The stream unit and the table unit: what they store -/

namespace Sys2Proof.Machine

/-- What answers a cell answers one in which only bytes inside a set of places differ from c. -/
def AnswersKeeping (inside : Nat → Nat → Prop) (c : Cell) (r : Except RtFault (Cell × Sts)) : Prop :=
  ∀ x, r = .ok x → KeepsOutside inside c x.1

section
variable {inside : Nat → Nat → Prop} {c : Cell}

theorem AnswersKeeping.bind {α : Type} {m : Except RtFault α} {f : α → Except RtFault (Cell × Sts)}
    (h : ∀ a, m = .ok a → AnswersKeeping inside c (f a)) : AnswersKeeping inside c (m >>= f) := fun x hx =>
  let ⟨a, ha, hf⟩ := ok_bind hx
  h a ha x hf

theorem AnswersKeeping.bind_ok {α : Type} {m : Except RtFault α} {f : α → Except RtFault (Cell × Sts)} {a : α}
    (hm : m = .ok a) (h : AnswersKeeping inside c (f a)) : AnswersKeeping inside c (m >>= f) := hm ▸ h

/-- A check before the rest, whether it is made or not, lets an answer of the rest stand. -/
theorem AnswersKeeping.guard {b : Prop} [Decidable b] {m : Except RtFault Unit}
    {f : Unit → Except RtFault (Cell × Sts)} (h : AnswersKeeping inside c (f ())) :
    AnswersKeeping inside c (if b then m >>= f else f ()) := by
  split
  · exact .bind fun _ _ => h
  · exact h

theorem answersKeeping_ok {x : Cell × Sts} (h : KeepsOutside inside c x.1) : AnswersKeeping inside c (.ok x) :=
  fun _ hx => Except.ok.inj hx ▸ h

end

/-- Two changes in turn stay inside the two sets of places. -/
theorem KeepsOutside.or {i j : Nat → Nat → Prop} {c d e : Cell} (h : KeepsOutside i c d) (g : KeepsOutside j d e) :
    KeepsOutside (fun sp b => i sp b ∨ j sp b) c e :=
  (h.mono fun _ _ => Or.inl).trans (g.mono fun _ _ => Or.inr)

theorem refIf_of_true {b : Bool} (h : b = true) (code word : Nat) : refIf b code word = decodeRef code word := by
  rw [refIf, if_pos h]

theorem length_rangeFrom : ∀ n lo, (rangeFrom lo n).length = n
  | 0, _ => rfl
  | n + 1, lo => by rw [rangeFrom, List.length_cons, length_rangeFrom n]

/-! The indices of what the operations give. -/

/-- A scan puts out elements of its vector only (R95). -/
theorem scanGo_index {isInt excl : Bool} {fn : Nat} : ∀ {items : List (Nat × Option Num × Bool)} {acc : Option Num},
    ∀ e ∈ (scanGo isInt excl fn acc items).1, e.1 ∈ items.map (·.1)
  | [], _, _, he => by cases he
  | (i, none, start) :: rest, _, e, he => List.mem_cons_of_mem _ (scanGo_index e he)
  | (i, some v, start) :: rest, _, e, he => by
    obtain rfl | he := List.mem_cons.1 he
    · exact List.mem_cons_self
    · exact List.mem_cons_of_mem _ (scanGo_index e he)

theorem length_topK_le : ∀ (k : Nat) (l : List (Nat × Num)), (topK k l).length ≤ k
  | 0, _ => Nat.le_refl 0
  | k + 1, l => by
    unfold topK
    split
    · exact Nat.zero_le _
    · exact Nat.succ_le_succ (length_topK_le k _)

theorem length_pairBytes (e : Nat × Num) : (pairBytes e).length = 8 := by simp [pairBytes, toBytes_length]

/-- The k pairs of a TOPK, padded where fewer elements are unmasked, take 8 k bytes (R94). -/
theorem length_topK_bytes (k : Nat) (l : List (Nat × Num)) (pad : Nat × Num) :
    ((topK k l ++ List.replicate (k - (topK k l).length) pad).flatMap pairBytes).length = 8 * k := by
  have hle := length_topK_le k l
  simp only [List.length_flatMap, length_pairBytes, List.map_const', List.sum_replicate, List.length_append,
    List.length_replicate, smul_eq_mul]
  omega

/-! The places of a vector, of an output mask and of row sums. -/

/-- A byte of the output mask of a SOP that writes one (R146). -/
def InOutMask (w : SopWord) (a : VecArgs) (space b : Nat) : Prop :=
  w.outmask = true ∧ ∃ ro, decodeRef 0xC a.d2 = .ok ro ∧ space = ro.space ∧ ro.a ≤ b ∧ b < ro.a + (a.n + 7) / 8

/-- A byte of a vector of n elements at a reference, with whole blocks for a block-scaled code (R71, R147). -/
def InVector (r : Ref) (code n : Nat) : Nat → Nat → Prop :=
  InElems r code n (rowPlaces 0 0 (ceilDiv n (max 1 (blockLen code)) * max 1 (blockLen code)))

/-- A byte of the row sums of a TAB that writes them, one FP32 element for each row (R168). -/
def InRowSums (w : TabWord) (a : VecArgs) (space b : Nat) : Prop :=
  w.rowsumEn = true ∧ ∃ rs, decodeRef 0 a.rowsum = .ok rs ∧
    InElems rs 0 (ceilDiv a.n (2 ^ w.rowlen.toNat)) (rowPlaces 0 0 (ceilDiv a.n (2 ^ w.rowlen.toNat))) space b

section
variable {op seg : Bool} {w : SopWord} {a : VecArgs} {c : Cell} {rd : Ref}

/-- An output mask of n bits changes the bytes of the output mask. -/
theorem putMask_keeps_outMask {ro : Ref} (hon : w.outmask = true) (hro : refIf w.outmask 0xC a.d2 = .ok ro)
    (f : Nat → Bool) (d : Cell) : KeepsOutside (InOutMask w a) d (putMask ro ((rangeFrom 0 a.n).map f) d) := by
  rw [refIf_of_true hon] at hro
  refine (putMask_keeps ro _ d (decodeRef_space hro)).mono fun sp b hb => ⟨hon, ro, hro, ?_⟩
  rwa [List.length_map, length_rangeFrom] at hb

/-- FP32 has no blocks, so the row sums are stored at their own places alone (R168). -/
theorem storeRowSums_keeps {w : TabWord} {rs : Ref} {g : Nat → Num} {x : Cell × Sts} (hon : w.rowsumEn = true)
    (hrs : refIf w.rowsumEn 0 a.rowsum = .ok rs) (h : store op rs 0 false
      ((rangeFrom 0 (ceilDiv a.n (2 ^ w.rowlen.toNat))).map fun row => (0, row, g row)).length
      ((rangeFrom 0 (ceilDiv a.n (2 ^ w.rowlen.toNat))).map fun row => (0, row, g row)) c = .ok x) :
    KeepsOutside (InRowSums w a) c x.1 := by
  rw [refIf_of_true hon] at hrs
  rw [List.length_map, length_rangeFrom] at h
  have hrow := storeRow (decodeRef_space hrs) h fun it hit => by
    obtain ⟨row, hmem, rfl⟩ := List.mem_map.1 hit
    exact ⟨rfl, lt_of_mem_rangeFrom hmem⟩
  refine hrow.mono fun sp b hb => ⟨hon, rs, hrs, ?_⟩
  have hwhole (n : Nat) : ceilDiv n (max 1 (blockLen 0)) * max 1 (blockLen 0) = n := by
    show (n + 1 - 1) / 1 * 1 = n
    omega
  rwa [hwhole] at hb

/-- A vector with one value for each unmasked element changes bytes of its destination. -/
theorem storeLive_keeps {r : Ref} {code : Nat} {satf maskEn : Bool} {rm : Ref} {g : Nat → Num} {x : Cell × Sts}
    (hr : r.space ≤ 2)
    (h : store op r code satf a.n ((liveIdx c maskEn rm a.n).map fun i => (0, i, g i)) c = .ok x) :
    KeepsOutside (InVector r code a.n) c x.1 := by
  refine storeRow hr h fun it hit => ?_
  obtain ⟨i, hi, rfl⟩ := List.mem_map.1 hit
  exact ⟨rfl, liveIdx_lt _ _ _ _ i hi⟩

/-- Pairs of a value and its index change the bytes that hold them (R94). -/
theorem writePairs_keeps {n : Nat} {d : List Byte} (hr : rd.space ≤ 2) (hd : d.length = n) :
    KeepsOutside (fun sp b => sp = rd.space ∧ rd.a ≤ b ∧ b < rd.a + n) c (spaceWrite rd.space rd.a d c) :=
  hd ▸ spaceWrite_keeps rd.space rd.a d c hr

/-- ELEM stores one value for each unmasked element (R167). -/
theorem sopElemCell_keeps (hrd : decodeRef w.fmtD.toNat a.d = .ok rd) :
    AnswersKeeping (InVector rd w.fmtD.toNat a.n) c (sopElemCell op w a c) := by
  unfold sopElemCell
  exact .bind fun _ _ => .bind fun _ _ => .bind fun _ _ => .bind_ok hrd <| .bind fun _ _ => .guard <| .bind fun _ _ =>
    .guard <| .guard <| .guard fun _ hx => storeLive_keeps (decodeRef_space hrd) hx

/-- CVT stores one value for each unmasked element (R72, R167). -/
theorem sopCvtCell_keeps (hrd : decodeRef w.fmtD.toNat a.d = .ok rd) :
    AnswersKeeping (InVector rd w.fmtD.toNat a.n) c (sopCvtCell op w a c) := by
  unfold sopCvtCell
  exact .bind fun _ _ => .bind_ok hrd <| .bind fun _ _ => .guard <| .bind fun _ _ _ hx =>
    storeLive_keeps (decodeRef_space hrd) hx

/-- FILL stores one value for each unmasked element (R167). -/
theorem sopFillCell_keeps (hrd : decodeRef w.fmtD.toNat a.d = .ok rd) :
    AnswersKeeping (InVector rd w.fmtD.toNat a.n) c (sopFillCell op w a c) := by
  unfold sopFillCell
  exact .bind_ok hrd <| .bind fun _ _ => .guard fun _ hx => storeLive_keeps (decodeRef_space hrd) hx

/-- The outputs of a scan are stored at elements of its vector. -/
theorem storeScan_keeps {r : Ref} {code : Nat} {satf isInt excl : Bool} {fn : Nat} {acc : Option Num}
    {g : Nat → Option Num} {start : Nat → Bool} {x : Cell × Sts} (hr : r.space ≤ 2)
    (h : store op r code satf a.n ((scanGo isInt excl fn acc ((rangeFrom 0 a.n).map fun i =>
      (i, g i, start i))).1.map fun e => (0, e.1, e.2)) c = .ok x) : KeepsOutside (InVector r code a.n) c x.1 := by
  refine storeRow hr h fun it hit => ?_
  obtain ⟨e, he, rfl⟩ := List.mem_map.1 hit
  have hindex := scanGo_index e he
  rw [List.map_map] at hindex
  obtain ⟨i, hi, hie⟩ := List.mem_map.1 hindex
  exact ⟨rfl, hie ▸ lt_of_mem_rangeFrom hi⟩

/-- SCAN and SEGSCAN store their outputs and, where OUTMASK is set, the mask (R95 to R97). -/
theorem sopScanCell_keeps (hrd : decodeRef w.fmtD.toNat a.d = .ok rd) :
    AnswersKeeping (fun sp b => InVector rd w.fmtD.toNat a.n sp b ∨ InOutMask w a sp b) c
      (sopScanCell op seg w a c) := by
  unfold sopScanCell
  refine .bind fun _ _ => .bind fun _ _ => .bind_ok hrd <| .bind fun ro hro => .bind fun _ _ =>
    .guard <| .guard <| .guard <| .bind fun _ _ => .bind fun x hx => ?_
  have houtputs := storeScan_keeps (decodeRef_space hrd) hx
  dsimp only
  split
  case isTrue hon => exact answersKeeping_ok (houtputs.or (putMask_keeps_outMask hon hro _ _))
  case isFalse => exact answersKeeping_ok (houtputs.or (.refl ..))

/-- RED of FN 0 and 1 stores one element (R90, R91). -/
theorem sopRedCell_keeps_result (hfn : w.fn.toNat ≤ 1) (hrd : decodeRef w.fmtD.toNat a.d = .ok rd) :
    AnswersKeeping (InElems rd w.fmtD.toNat 1 (rowPlaces 0 0 (max 1 (blockLen w.fmtD.toNat)))) c
      (sopRedCell op w a c) := by
  have hone : ceilDiv 1 (max 1 (blockLen w.fmtD.toNat)) = 1 := by
    rw [ceilDiv, Nat.add_sub_cancel_left, Nat.div_self (by omega)]
  unfold sopRedCell
  refine .bind fun _ _ => .bind_ok (by rwa [if_pos hfn]) <| .bind fun _ _ => .guard <| .bind fun _ _ => ?_
  dsimp only
  rw [if_pos hfn]
  refine .bind fun x hx => answersKeeping_ok ?_
  have hstored := storeRow (decodeRef_space hrd) hx (by simp)
  rwa [hone, Nat.one_mul] at hstored

/-- RED of FN 2 and 3 stores the 8 bytes of a value and its index (R92 to R94). -/
theorem sopRedCell_keeps_pair (hfn : 2 ≤ w.fn.toNat) (hrd : decodeRef 0 a.d = .ok rd) :
    AnswersKeeping (fun sp b => sp = rd.space ∧ rd.a ≤ b ∧ b < rd.a + 8) c (sopRedCell op w a c) := by
  have hpair : ¬w.fn.toNat ≤ 1 := by omega
  unfold sopRedCell
  refine .bind fun _ _ => .bind_ok (by rwa [if_neg hpair]) <| .bind fun _ _ => .guard <| .bind fun _ _ => ?_
  dsimp only
  rw [if_neg hpair]
  exact .bind fun _ _ => answersKeeping_ok (writePairs_keeps (decodeRef_space hrd) (length_pairBytes _))

/-- TOPK stores its k pairs and, where OUTMASK is set, the mask (R94). -/
theorem sopTopkCell_keeps (hrd : decodeRef 0 a.d = .ok rd) :
    AnswersKeeping (fun sp b => (sp = rd.space ∧ rd.a ≤ b ∧ b < rd.a + 8 * (w.aux.toNat + 1)) ∨ InOutMask w a sp b) c
      (sopTopkCell op w a c) := by
  unfold sopTopkCell
  refine .bind fun rx _ => .bind_ok hrd <| .bind fun ro hro => .bind fun rm _ =>
    .guard <| .guard <| .bind fun _ _ => .bind fun _ _ => answersKeeping_ok ?_
  have hpairs := writePairs_keeps (c := c) (decodeRef_space hrd) (length_topK_bytes (w.aux.toNat + 1)
    ((liveIdx c w.maskEn rm a.n).map fun i => (i, getVal c rx w.fmtX.toNat a.n 0 i)) (noIndex, Num.inf true))
  dsimp only
  split
  case isTrue hon => exact hpairs.or (putMask_keeps_outMask hon hro _ _)
  case isFalse => exact hpairs.or (.refl ..)

/-- TAB stores its outputs and, where ROWSUM is set, one sum for each row (R168). -/
theorem tabCell_keeps {w : TabWord} (hrd : decodeRef w.fmtD.toNat a.d = .ok rd) :
    AnswersKeeping (fun sp b => InVector rd w.fmtD.toNat a.n sp b ∨ InRowSums w a sp b) c (tabCell op w a c) := by
  unfold tabCell
  refine .bind fun _ _ => .bind fun _ _ => .bind_ok hrd <| .bind fun rs hrs => .bind fun _ _ =>
    .guard <| .bind fun _ _ => .guard <| .guard <| .bind fun x hx => ?_
  rw [List.map_map] at hx
  have houtputs := storeLive_keeps (decodeRef_space hrd) hx
  dsimp only
  split
  case isTrue hon => exact .bind fun q hq => answersKeeping_ok (houtputs.or (storeRowSums_keeps (x := q) hon hrs hq))
  case isFalse => exact answersKeeping_ok (houtputs.or (.refl ..))

end

/-- Settles O17: what each operation of the stream unit and the table unit stores. -/
theorem streamUnitStoresOnlyItsDestinations : Obligations.StreamUnitStoresOnlyItsDestinations := by
  unfold Obligations.StreamUnitStoresOnlyItsDestinations
  intro op w a c x rd
  refine ⟨fun hrd => ⟨?stored, fun seg => sopScanCell_keeps hrd x, fun hfn => sopRedCell_keeps_result hfn hrd x⟩,
    fun hrd => ⟨fun hfn => sopRedCell_keeps_pair hfn hrd x, sopTopkCell_keeps hrd x⟩,
    fun tw hrd => tabCell_keeps hrd x⟩
  case stored =>
    rintro (h | h | h)
    · exact sopElemCell_keeps hrd x h
    · exact sopCvtCell_keeps hrd x h
    · exact sopFillCell_keeps hrd x h

end Sys2Proof.Machine

/-! ## What every command answers -/

namespace Sys2Proof.Machine

/-- The ring of RPUSH or RPOP is allocated by the active plan, which their words need to decode (R118, R156); no
other command needs one. -/
def ringAllocated (s : State) (i : Instr) : Bool :=
  match i with
  | .rpush _ _ ring => (getRing s ring.toNat).alloc
  | .rpop _ _ ring => (getRing s ring.toNat).alloc
  | _ => true

theorem ringAllocated_of_forall {i : Instr} {s : State}
    (h : ∀ u reg ring, i = .rpush u reg ring ∨ i = .rpop u reg ring → (getRing s ring.toNat).alloc = true) :
    ringAllocated s i = true := by
  cases i with
  | rpush u reg ring => exact h u reg ring (.inl rfl)
  | rpop u reg ring => exact h u reg ring (.inr rfl)
  | _ => rfl

theorem issue_noSuchUnit {u : StreamAt} (hc : cellOk u.cell = false) (word : Bool) (f : State → State) (s : State) :
    issue u word f s = .fault .noSuchUnit := by simp [issue, hc]

theorem issue_undecodable {u : StreamAt} (hc : cellOk u.cell = true) (f : State → State) (s : State) :
    issue u false f s = .fault .undecodable := by simp [issue, hc]

theorem issue_answers {u : StreamAt} (hc : cellOk u.cell = true) (f : State → State) (s : State) :
    ∃ t, issue u true f s = .next t :=
  ⟨if canIssue s u then f s else s, by simp [issue, hc]⟩

/-- Every command of a stream is issued (R149). Its word decodes where the command is well formed and its ring is
allocated; the cell is tested before the word. -/
theorem exec_eq_issue {i : Instr} {u : StreamAt} (hu : i.streamAt = some u) (s : State) :
    ∃ word f, exec i s = issue u word f s ∧ (i.wf && ringAllocated s i) = (cellOk u.cell && word) := by
  cases i <;> cases hu <;> dsimp only [exec, Instr.wf, ringAllocated]
  case rpush | rpop => exact ⟨_, _, rfl, rfl⟩
  case sopElem | sopRed | sopScan | sopSegscan | sopTopk | sopCvt | sopFill =>
    dsimp only [execSopElem, execSopRed, execSopScan, execSopSegscan, execSopTopk, execSopCvt, execSopFill, sop, sopBy,
      sopWf]
    refine ⟨_, _, rfl, ?_⟩
    rw [Bool.and_true]
    ac_rfl
  case vbin | vfma | vcmp | vsel | vcvt | vbcast | vun =>
    dsimp only [execVbin, execVfma, execVcmp, execVsel, execVcvt, execVbcast, execVun, vop]
    exact ⟨_, _, rfl, by simp only [Bool.and_true, Bool.and_assoc]⟩
  case nop | stop | endl | call | ret | sli | sld | sst | ncinv | tagw | pmapFence => exact ⟨true, _, rfl, rfl⟩
  all_goals
    refine ⟨_, _, rfl, ?_⟩
    simp only [Bool.and_true, Bool.and_assoc]

/-- Settles O60: a command of a stream is issued, and issuing names the fault. -/
theorem illFormedCommandsStopByName : Obligations.IllFormedCommandsStopByName := by
  unfold Obligations.IllFormedCommandsStopByName
  intro i u s hu
  obtain ⟨word, f, hexec, hword⟩ := exec_eq_issue hu s
  rw [hexec]
  have undecodable (hc : cellOk u.cell = true) (hill : (i.wf && ringAllocated s i) = false) :
      issue u word f s = .fault .undecodable := by
    rw [hill, hc, Bool.true_and] at hword
    rw [← hword]
    exact issue_undecodable hc f s
  refine ⟨fun hc => issue_noSuchUnit hc word f s, fun hc hwf => undecodable hc (by rw [hwf, Bool.false_and]), ?_⟩
  rintro reg ring hc (rfl | rfl) halloc
  · exact undecodable hc (by simp [ringAllocated, halloc])
  · exact undecodable hc (by simp [ringAllocated, halloc])

theorem onUnit_answers {ok : Bool} (hok : ok = true) (t : State) : ∃ t', onUnit ok t = .next t' := ⟨t, if_pos hok⟩

/-- A Bell message of the member itself, or in a frame that can carry one, is taken whatever it says (R354). -/
theorem onBell_answers {m : BellIn} (hm : bellWf m = true) (p : BellMsg → Bool) (stale : State → Nat → BellMsg → Bool)
    (f : Nat → BellMsg → State → State) (s : State) : ∃ t, onBell m p stale f s = .next t := by
  unfold onBell
  split
  · exact ⟨s, rfl⟩
  · cases m with
    | own => exact ⟨_, rfl⟩
    | frame r => exact onUnit_answers hm _

/-- A command that no stream issues, be it of the host, an event or a message, is taken where the units that it names
exist (R10, R58, R112, R337). -/
theorem exec_answers_of_no_stream {i : Instr} (hi : i.streamAt = none) (hwf : i.wf = true) (s : State) :
    ∃ t, exec i s = .next t := by
  cases i <;> cases hi <;> dsimp only [exec]
  case swapReady | swapGo | swapAbort | stepGo | ready | fail | commit | abort | ack | probe | lostReport | bellUp
      | bellDown => exact onBell_answers hwf ..
  case sack | cnp => exact onUnit_answers (by simpa [Instr.wf] using hwf) _
  case ringStepCanaryExpire w =>
    cases w with
    | channel | gather => exact onUnit_answers hwf _
    | bellUp | coll | walk | intake => exact ⟨_, rfl⟩
  case dataFlit | idleFlit | nakFlit | portCtlWrite => exact ⟨_, rfl⟩
  all_goals exact onUnit_answers hwf _

/-- Settles O59: a command of a stream is issued, and any other is taken where its units exist. -/
theorem wellFormedCommandsAlwaysAnswer : Obligations.WellFormedCommandsAlwaysAnswer := by
  unfold Obligations.WellFormedCommandsAlwaysAnswer
  intro i s hwf hring
  cases hstream : i.streamAt with
  | none => exact exec_answers_of_no_stream hstream hwf s
  | some u =>
    obtain ⟨word, f, hexec, hword⟩ := exec_eq_issue hstream s
    rw [hwf, ringAllocated_of_forall hring, Bool.true_and, eq_comm, Bool.and_eq_true] at hword
    obtain ⟨hcell, rfl⟩ := hword
    exact hexec ▸ issue_answers hcell f s

end Sys2Proof.Machine

/-! ## Staging and swapping a plan -/

namespace Sys2Proof.Machine

/-- Clearing the keys from lo to hi − 1 gives these their default again and leaves every other. -/
theorem tget_tclear {α : Type} (d : α) (t : Table α) (lo hi k : Nat) :
    tget d (tclear t lo hi) k = if lo ≤ k ∧ k < hi then d else tget d t k := by
  induction t with
  | nil => exact (ite_self d).symm
  | cons e t ih =>
    change tget d (List.filter _ t) k = _ at ih
    rw [tclear, List.filter_cons]
    by_cases hkept : (decide (e.1 < lo) || decide (hi ≤ e.1)) = true
    · rw [if_pos hkept, tget_cons, ih, tget_cons]
      by_cases hkey : e.1 = k
      · rw [if_pos hkey, if_pos hkey, if_neg (by simp at hkept; omega)]
      · rw [if_neg hkey, if_neg hkey]
    · rw [if_neg hkept, ih, tget_cons]
      by_cases hcleared : lo ≤ k ∧ k < hi
      · rw [if_pos hcleared, if_pos hcleared]
      · rw [if_neg hcleared, if_neg hcleared, if_neg (by simp at hkept; omega)]

section
variable {s : State} {c : CmdRef} {addr len : Nat}

/-- Locking the plan key changes the Headframe only (R524). -/
theorem lockKey_eq (s : State) : lockKey s = { s with hf := (lockKey s).hf } := by
  unfold lockKey
  split <;> rfl

@[simp] theorem lockKey_plan (s : State) : (lockKey s).plan = s.plan := by rw [lockKey_eq]
@[simp] theorem lockKey_pwr (s : State) : (lockKey s).pwr = s.pwr := by rw [lockKey_eq]
@[simp] theorem lockKey_deep (s : State) : (lockKey s).deep = s.deep := by rw [lockKey_eq]
@[simp] theorem lockKey_hbm (s : State) : (lockKey s).hbm = s.hbm := by rw [lockKey_eq]
@[simp] theorem lockKey_cells (s : State) : (lockKey s).cells = s.cells := by rw [lockKey_eq]

@[simp] theorem lockKey_stg (s : State) : (lockKey s).stg = s.stg := by rw [lockKey_eq]; rfl

theorem lockKey_take (id op : Nat) (s : State) : lockKey (take id op s).2 = (take id op (lockKey s)).2 := by
  by_cases hlock : s.hf.planKeyLock = true
  · rw [show lockKey s = s from if_pos hlock, show lockKey (take id op s).2 = (take id op s).2 from if_pos hlock]
  · rw [show lockKey s = modHf _ s from if_neg hlock,
      show lockKey (take id op s).2 = modHf _ (take id op s).2 from if_neg hlock]
    rfl

theorem planEnd_plan (c : CmdRef) (code : Nat) (s : State) : (planEnd c code s).plan = { s.plan with lastCode := code } :=
  (report_complete ..).plan

theorem planEnd_deep (c : CmdRef) (code : Nat) (s : State) : (planEnd c code s).deep = s.deep :=
  (report_complete ..).deep

/-- A staging begins: the staged slot is empty, and nothing of the image has been copied (R133). -/
def stageBegin (c : CmdRef) (len : Nat) (s : State) : State :=
  { s with
    deep := tclear s.deep s.stg (s.stg + 0x80000000)
    plan := { s.plan with
      staged := .staging, stageCmd := some c, stageLen := len, stageGot := 0, ready := [], digests := [], firstFail := none } }

theorem mget_stageBegin (c : CmdRef) (len : Nat) (s : State) (b : Nat) :
    mget (stageBegin c len s).deep b = if s.stg ≤ b ∧ b < s.stg + 0x80000000 then 0#8 else mget s.deep b :=
  tget_tclear ..

theorem cmdPlanStage_of_invalid (h : addr % 4096 ≠ 0 ∨ 0x80000000 < len) :
    cmdPlanStage c addr len s = planEnd c cPlanInvalid (lockKey s) := if_pos h

/-- Of an image that fits the slot, the state of the module decides (R133). -/
theorem cmdPlanStage_of_fits (haddr : addr % 4096 = 0) (hlen : len ≤ 0x80000000) (hstaged : s.plan.staged ≠ .staging)
    (hswap : s.plan.swap = .idle) :
    cmdPlanStage c addr len s = if planState s then hostReadRange .image addr len (stageBegin c len (lockKey s))
      else planEnd c cNotReady (lockKey s) := by
  have hstate : planState (lockKey s) = planState s := by rw [planState, lockKey_pwr, planState]
  rw [cmdPlanStage, if_neg (by omega)]
  by_cases haccepted : planState s = true
  · rw [if_pos haccepted, if_neg (by simp [hstate, haccepted, hstaged, hswap])]
    rfl
  · rw [if_neg haccepted, if_pos (.inl (by simpa [hstate] using haccepted))]

end

/-- Settles O27: the image's form decides first, then the state of the module. -/
theorem planStageEmptiesTheSlotAndCopies : Obligations.PlanStageEmptiesTheSlotAndCopies := by
  unfold Obligations.PlanStageEmptiesTheSlotAndCopies
  intro s id addr len
  refine ⟨fun haddr hlen hstaged hswap => ?_, fun h => runs_next (cmdPlanStage_of_invalid h)⟩
  have hcmd := cmdPlanStage_of_fits (s := (take id.toNat 0x01 s).2) (c := (take id.toNat 0x01 s).1) haddr hlen hstaged
    hswap
  refine ⟨fun hstate => runs_next ?accepted, fun hstate => runs_next ?refused⟩
  case accepted =>
    replace hcmd := hcmd.trans (if_pos (decide_eq_true hstate))
    rw [hcmd]
    have hreport := report_hostReadRange ReadFor.image addr.toNat len.toNat
      (stageBegin (take id.toNat 0x01 s).1 len.toNat (lockKey (take id.toNat 0x01 s).2))
    rw [hreport.plan, hreport.hbm, hreport.cells, hreport.hf, hreport.deep, lockKey_take]
    have hstg : (take id.toNat 0x01 (lockKey s)).2.stg = s.stg := lockKey_stg s
    have hdeep : (take id.toNat 0x01 (lockKey s)).2.deep = s.deep := lockKey_deep s
    refine ⟨?_, lockKey_hbm s, lockKey_cells s, rfl, fun b hlo hhi => ?_, fun b hout => ?_⟩
    · rw [← lockKey_plan s]; rfl
    · rw [mget_stageBegin, hstg, if_pos ⟨hlo, hhi⟩]
    · rw [mget_stageBegin, hstg, if_neg (by omega), hdeep]
  case refused =>
    replace hcmd := hcmd.trans (if_neg fun h => hstate (of_decide_eq_true h))
    rw [hcmd]
    refine ⟨rfl, ?_, ?_⟩
    · rw [planEnd_plan, lockKey_plan]; rfl
    · rw [planEnd_deep, lockKey_deep]; rfl

end Sys2Proof.Machine

/-! ## The plan exchange -/

namespace Sys2Proof.Machine

section
variable {s : State} {c : CmdRef}

/-- A swap that can be accepted waits for its boundary; what the member saw of an earlier exchange is forgotten. -/
def swapBegin (c : CmdRef) (reshard : Bool) (s : State) : State :=
  { s with
    plan := { s.plan with swap := .boundary, reshard := reshard, swapCmd := some c }
    bell := { s.bell with seen := s.bell.seen.filter fun e => !(e.2.kind == 4 && e.2.code != 0) } }

theorem cmdSwap_of_planSwap (hstaged : s.plan.staged = .staged) (hswap : s.plan.swap = .idle)
    (hstate : planState s = true) : cmdSwap c false s = swapBegin c false s := by
  rw [cmdSwap, if_neg (by simp [hstate, hstaged, hswap]), if_neg (by simp)]
  rfl

theorem cmdSwap_of_reshard (hstaged : s.plan.staged = .staged) (hswap : s.plan.swap = .idle)
    (hstate : s.pwr.state = stPlanned ∨ s.pwr.state = stRunning) (hflag : bitAt (imgFlags s s.stg) 1 = true)
    (hepoch : imgEpoch s s.stg = s.steps.epoch + 1) : cmdSwap c true s = swapBegin c true s := by
  rw [cmdSwap, if_neg (by simp [hstate, hstaged, hswap]), if_neg (by simp [hflag, hepoch])]
  rfl

end

/-- Settles O28: each event's branches in turn. -/
theorem planEventsAdvanceTheExchange : Obligations.PlanEventsAdvanceTheExchange := by
  unfold Obligations.PlanEventsAdvanceTheExchange
  refine ⟨fun s hstaging hwhole => ?staged,
    fun s id hstaged hswap => ⟨fun hstate => ?planSwap, fun hstate hflag hepoch => ?reshard⟩,
    fun s hswap hboundary => ?boundary, fun s hswap hmaster hperm => ?expires,
    fun s hperm hbarrier => ⟨?permute, fun hwait hleft hgroup => ?permuted⟩, fun s h => ?waits⟩
  case staged =>
    refine runs_next ((if_neg (by simp [hstaging, hwhole])).trans ?_)
    cases stageChecks s <;> rfl
  case planSwap => exact runs_next (cmdSwap_of_planSwap hstaged hswap hstate)
  case reshard => exact runs_next (cmdSwap_of_reshard hstaged hswap hstate hflag hepoch)
  case boundary =>
    refine runs_next ((if_neg (by simp [hswap, hboundary])).trans ?_)
    dsimp only
    cases swapChecks s <;> rfl
  case expires => exact runs_next (if_pos ⟨hswap, hmaster, by simp [hperm]⟩)
  case permute => exact runs_next (if_pos ⟨hperm, hbarrier⟩)
  case permuted =>
    have hnone : (!(permGroup s).any fun g => (getOp s g 4).active) = true := by
      simp only [Bool.not_eq_true', Option.any_eq_false]
      exact hgroup
    exact runs_next (if_pos ⟨hperm, hbarrier, hwait, hleft, hnone⟩)
  case waits =>
    refine runs_next (if_neg fun ⟨hswap, hmaster, hperm⟩ => ?_)
    rcases h with hnot | hnot | hnot
    · exact hnot hswap
    · exact Bool.false_ne_true (hnot.symm.trans hmaster)
    · simp [hnot] at hperm

end Sys2Proof.Machine

/-! ## Step commands and the waits of the step protocol -/

namespace Sys2Proof.Machine

section
variable {s : State} {P : State → Prop}

/-- What STEP_RUN asks of the master before an attempt of a step with a block of constants (R130, R289, R290, R300,
R461, R468). -/
structure StepCanRun (s : State) (step block : Nat) : Prop where
  active : s.plan.active = true
  master : imgMaster s s.act = s.me
  notActing : s.steps.acting = false
  noLoss : s.steps.lostHalt = false
  noRecovery : inRecovery s = false
  idle : s.steps.master.active = false
  noSwap : s.plan.swap = .idle
  noActivity : s.modes.running = []
  notHalted : s.pwr.state ≠ stHalted
  notLive : s.steps.live = false
  phase : s.steps.phase = .idle
  next : step = s.steps.committed + 1
  row : rowOk s step block = true
  peers : s.plan.peerBad = false
  modes : planSupports s (goModes s) = true

/-- The master opens an attempt of a step under the step's next attempt number (R289, R290). -/
def openAttempt (c : CmdRef) (step : Nat) (s : State) : State :=
  let a := tget 0 s.steps.attempts step % 2 ^ 32
  modSteps (fun t => { t with
    step := step, attempt := a, live := true, failed := false, commitHeld := false
    attempts := tset 0 t.attempts step (tget 0 t.attempts step + 1)
    master := { active := true, cmd := some c, step := step, attempt := a } }) s

theorem cmdStepRun_of_canRun {c : CmdRef} {step block : Nat} (h : StepCanRun s step block) :
    cmdStepRun c step block s = (imgWorkers s s.act).foldl
      (fun s i => sendStep i 0 0 (toBytes 8 step ++ toBytes 32 block ++ List.replicate 24 0#8) s)
      (openAttempt c step s) := by
  rw [cmdStepRun, if_neg (by simp [h.active, h.master, h.notActing]), if_neg (by simp [h.noLoss]),
    if_neg (by simp [h.noRecovery, h.idle, h.noSwap, h.noActivity, h.notHalted, h.notLive, h.phase]),
    if_neg (not_not.2 h.next), if_neg (by simp [h.row, h.peers]), if_neg (by simp [h.modes])]
  rfl

/-- The member can send READY once it has asked for every scale maximum that the group forms. -/
theorem runs_readySend_of_asked (hready : readyBut s = true) (hasked : nextGlobal s = none)
    (h : P (if s.steps.scaleAsked.all fun n => decide (tget 0 s.steps.scaleDone n ≠ 0) then sendReady s else s)) :
    RunsTo (exec .readySend s) P := by
  refine runs_next ?_
  rw [if_neg (by simp [hready]), hasked]
  exact h

/-- A maximum that is still to be asked for is asked for when the channel of the group is free (R103, R357). -/
theorem runs_readySend_of_next {r : Region} {g : Nat} (hready : readyBut s = true)
    (hnext : nextGlobal s = some r) (hgroup : wholeGroup s s.act = some g)
    (h : P (if (getOp s g 1).active then s else bellEnter g 1 2 (amaxOf s r s.steps.step) (.scale r.num)
        (modSteps (fun t => { t with scaleAsked := t.scaleAsked ++ [r.num] }) s))) :
    RunsTo (exec .readySend s) P := by
  refine runs_next ?_
  rw [if_neg (by simp [hready]), hnext, hgroup]
  exact h

end

/-- Settles O29: each command or wait by the branch of its conditions. -/
theorem stepCommandsAndCanariesComplete : Obligations.StepCommandsAndCanariesComplete := by
  unfold Obligations.StepCommandsAndCanariesComplete
  refine ⟨fun s id step k hactive hmaster hacting hlost hrecovery hidle hswap hsurvey hstate hlive hphase hstep hrow
      hpeer hmodes => ?stepRun,
    fun s id step hstep hlive hcommit => ?abortReq,
    fun s => ⟨fun hbut => ?notReady, fun hbut hasked hdone => ?ready, fun hbut hasked hdone => ?unready,
      fun r g hbut hnext hgroup => ⟨fun hop => ?busy, fun hop => ?asks⟩⟩,
    fun s => ⟨fun harmed => ?armed, fun harmed => ?unarmed, ?attempt⟩,
    fun s dst kind code chan => ⟨fun hfind => ?noMessage, fun o hfind => ⟨fun hagain => ?again, fun hagain => ?silent⟩⟩,
    fun s l hl => ⟨fun h => ?nothing, fun hrun hsent hne => ?lost⟩⟩
  case stepRun =>
    exact runs_next (cmdStepRun_of_canRun ⟨hactive, hmaster, hacting, hlost, hrecovery, hidle, hswap, hsurvey, hstate,
      hlive, hphase, hstep, hrow, hpeer, hmodes⟩)
  case abortReq => exact runs_next (if_neg (by simp [take, hstep, hlive, hcommit]))
  case notReady => exact runs_next (if_pos (by simp [hbut]))
  case ready => exact runs_readySend_of_asked hbut hasked (if_pos (by simpa using hdone))
  case unready => exact runs_readySend_of_asked hbut hasked (if_neg (by simpa using hdone))
  case busy => exact runs_readySend_of_next hbut hnext hgroup (if_pos hop)
  case asks => exact runs_readySend_of_next hbut hnext hgroup (if_neg (by simp [hop]))
  case armed => exact runs_next (if_pos harmed)
  case unarmed => exact runs_next (if_neg (by simp [harmed]))
  case attempt => exact runs_next rfl
  case noMessage => exact runs_next (by rw [hfind])
  case again =>
    refine runs_next ?_
    rw [hfind]
    exact if_pos (by simpa [and_assoc] using hagain)
  case silent =>
    refine runs_next ?_
    rw [hfind]
    exact if_neg (by simpa [and_assoc] using hagain)
  case nothing => exact runs_next (if_pos (by simpa only [Bool.not_eq_true', ← hl] using h))
  case lost =>
    subst hl
    exact runs_next (if_neg (by simpa only [hrun, hsent, Bool.not_true, Bool.false_eq_true, false_or] using hne))

end Sys2Proof.Machine

/-! ## Control and scalar instructions -/

namespace Sys2Proof.Machine

section
variable {s : State} {u : StreamAt}

theorem onlyStream_stepOn_modStream (f : Stream → Stream) :
    OnlyStream u s (stepOn u (modStream u.cell u.stream.toNat f s)) :=
  (onlyStream_modStream ..).trans (onlyStream_stepOn ..)

theorem streamOf_setS (r v : Nat) : streamOf (setS u.cell u.stream.toNat r v s) u =
    { streamOf s u with s := tset 0 (streamOf s u).s r (BitVec.ofNat 64 v) } := streamOf_modStream ..

/-- NOP is nothing but the next word (R153). -/
theorem exec_nop_keeps (hs : Issues s u) :
    RunsTo (exec (.nop u) s) fun t => streamOf t u = (streamOf s u).next ∧ OnlyStream u s t :=
  runs_issue hs rfl ⟨streamOf_stepOn .., onlyStream_stepOn ..⟩

/-- The next iteration starts at the word after LOOP, with its number in the loop's register (R153). -/
theorem endlEffect_of_more {l : LoopFrame} {rest : List LoopFrame} (hl : (streamOf s u).loops = l :: rest)
    (hmore : l.iter + 1 < l.count) :
    OnlyStream u s (endlEffect u s) ∧ streamOf (endlEffect u s) u = { streamOf s u with
      ip := l.top, wait := none, loops := { l with iter := l.iter + 1 } :: rest
      s := match l.idx with
        | some r => tset 0 (streamOf s u).s r (BitVec.ofNat 64 (l.iter + 1))
        | none => (streamOf s u).s } := by
  simp only [endlEffect, hl, if_pos hmore]
  cases l.idx with
  | none => exact ⟨onlyStream_modStream .., streamOf_modStream ..⟩
  | some r =>
    refine ⟨(onlyStream_modStream ..).trans (onlyStream_modStream ..), ?_⟩
    exact (streamOf_setS ..).trans (by rw [streamOf_modStream])

/-- After the last iteration the loop is left (R153). -/
theorem endlEffect_of_last {l : LoopFrame} {rest : List LoopFrame} (hl : (streamOf s u).loops = l :: rest)
    (hlast : l.count ≤ l.iter + 1) :
    OnlyStream u s (endlEffect u s) ∧ streamOf (endlEffect u s) u = { (streamOf s u).next with loops := rest } := by
  simp only [endlEffect, hl, if_neg (Nat.not_lt.2 hlast)]
  refine ⟨onlyStream_stepOn_modStream _, ?_⟩
  rw [streamOf_stepOn, streamOf_modStream]
  rfl

end

/-- Settles O4: each instruction is a change of its stream, and goes on. -/
theorem controlOperationsMoveTheStream : Obligations.ControlOperationsMoveTheStream := by
  unfold Obligations.ControlOperationsMoveTheStream
  intro s u hs
  refine ⟨exec_nop_keeps hs, fun count idx idxEn hcount => ?loop, fun l rest hl => ?endl,
    fun target => runs_issue hs rfl ⟨onlyStream_modStream .., streamOf_modStream ..⟩, fun a rest hcalls => ?ret⟩
  case loop =>
    show RunsTo (execLoop ..) _
    refine runs_issue hs (bne_iff_ne.2 hcount) ?_
    cases idxEn with
    | false =>
      refine ⟨onlyStream_stepOn_modStream _, ?_⟩
      exact (streamOf_stepOn ..).trans (congrArg Stream.next (streamOf_modStream ..))
    | true =>
      refine ⟨(onlyStream_modStream ..).trans (onlyStream_stepOn_modStream _), ?_⟩
      dsimp only
      rw [if_pos rfl, streamOf_stepOn, streamOf_setS, streamOf_modStream]
      rfl
  case endl =>
    refine runs_issue hs rfl ?_
    obtain hmore | hlast := Nat.lt_or_ge (l.iter + 1) l.count
    · obtain ⟨honly, hstream⟩ := endlEffect_of_more hl hmore
      exact ⟨honly, fun _ => hstream, fun hlast => absurd hmore (Nat.not_lt.2 hlast)⟩
    · obtain ⟨honly, hstream⟩ := endlEffect_of_last hl hlast
      exact ⟨honly, fun hmore => absurd hmore (Nat.not_lt.2 hlast), fun _ => hstream⟩
  case ret =>
    refine runs_issue hs rfl ⟨onlyStream_modStream .., ?_⟩
    rw [streamOf_modStream, hcalls]

section
variable {s : State} {u : StreamAt}

/-- An instruction that writes one register of its stream and goes on. -/
theorem stepOn_setReg_keeps (file : Bool) (r : Nat) {v : Nat} {x : Word} (hx : BitVec.ofNat 64 v = x) :
    let t := stepOn u (setReg file u.cell u.stream.toNat r v s)
    OnlyStream u s t ∧ streamOf t u = if file then { (streamOf s u).next with a := tset 0 (streamOf s u).a r x }
      else { (streamOf s u).next with s := tset 0 (streamOf s u).s r x } := by
  refine ⟨(onlyStream_setReg ..).trans (onlyStream_stepOn ..), ?_⟩
  rw [streamOf_setReg, hx]

/-- SLI's value: the immediate sign-extended, or over the lower half that the register held (R153). -/
theorem ofNat_sliValue (old : Nat) (high : Bool) (imm : BitVec 32) :
    BitVec.ofNat 64 (sliValue old high imm) = if high then imm ++ BitVec.ofNat 32 old else imm.signExtend 64 := by
  cases high with
  | false => simp [sliValue]
  | true =>
    apply BitVec.eq_of_toNat_eq
    have himm := imm.isLt
    have hlow : old % 2 ^ 32 < 2 ^ 32 := Nat.mod_lt _ (by norm_num)
    rw [sliValue, if_pos rfl, if_pos rfl, BitVec.toNat_append, BitVec.toNat_ofNat, BitVec.toNat_ofNat,
      ← Nat.shiftLeft_add_eq_or_of_lt hlow, Nat.shiftLeft_eq]
    omega

end

/-- Settles O5: each instruction writes one register; what remains is the value. -/
theorem scalarOperationsWriteOneRegister : Obligations.ScalarOperationsWriteOneRegister := by
  unfold Obligations.ScalarOperationsWriteOneRegister
  intro s u hs
  refine ⟨fun d file high imm => ?sli, fun w hfn himm => ?salu, fun w space a hplace => ?sld⟩
  case sli =>
    show RunsTo (execSli ..) _
    exact runs_issue hs rfl (stepOn_setReg_keeps file _ (ofNat_sliValue ..))
  case salu =>
    show RunsTo (execSalu ..) _
    refine runs_issue hs (by simpa [hfn] using himm) (stepOn_setReg_keeps w.fd _ ?_)
    rw [BitVec.ofNat_toNat, BitVec.setWidth_eq]
    rfl
  case sld =>
    show RunsTo (execSld ..) _
    refine runs_issue hs rfl ?_
    dsimp only
    rw [hplace]
    exact stepOn_setReg_keeps w.fd _ rfl

end Sys2Proof.Machine

/-! ## What a drain stores -/

namespace Sys2Proof.Machine

/-- The places of a tile of m rows of n elements, whole blocks for a block-scaled code (R146, R147). -/
def tilePlaces (code m n : Nat) : List (Nat × Nat) :=
  (rangeFrom 0 m).flatMap fun r => rowPlaces r 0 (ceilDiv n (max 1 (blockLen code)) * max 1 (blockLen code))

theorem mem_tilePlaces {code m n r col : Nat} : (r, col) ∈ tilePlaces code m n ↔
    r < m ∧ (0, col) ∈ rowPlaces 0 0 (ceilDiv n (max 1 (blockLen code)) * max 1 (blockLen code)) := by
  rw [tilePlaces, List.mem_flatMap, rowPlaces_mem]
  constructor
  · rintro ⟨a, ha, hcol⟩
    obtain ⟨rfl, hcols⟩ := (rowPlaces_mem ..).1 hcol
    exact ⟨lt_of_mem_rangeFrom ha, rfl, hcols⟩
  · rintro ⟨hr, -, hcols⟩
    exact ⟨r, (mem_rangeFrom ..).2 (by omega), (rowPlaces_mem ..).2 ⟨rfl, hcols⟩⟩

/-- A list of elements all lies in a tile of m rows of n. -/
def InTile (m n : Nat) (items : List (Nat × Nat × Num)) : Prop := ∀ it ∈ items, it.1 < m ∧ it.2.1 < n

/-- An element reaches the same columns of its row as it would of row 0. -/
theorem mem_writePlaces {code r col : Nat} {items : List (Nat × Nat × Num)}
    (h : (r, col) ∈ writePlaces code items) :
    ∃ it ∈ items, it.1 = r ∧ (0, col) ∈ writePlaces code [(0, it.2)] := by
  unfold writePlaces at h ⊢
  split at h
  case isTrue hcode =>
    obtain ⟨it, hit, heq⟩ := List.mem_map.1 h
    cases heq
    exact ⟨it, hit, rfl, by simp [hcode]⟩
  case isFalse hcode =>
    obtain ⟨b, hb, hcol⟩ := List.mem_flatMap.1 h
    obtain hb | ⟨it, hit, rfl⟩ := (mem_touched_go code items [] b).1 hb
    · cases hb
    · obtain ⟨rfl, hcols⟩ := (rowPlaces_mem ..).1 hcol
      refine ⟨it, hit, rfl, ?_⟩
      rw [if_neg hcode]
      exact List.mem_flatMap.2 ⟨_, (mem_touched_go ..).2 (.inr ⟨_, List.mem_singleton_self _, rfl⟩),
        (rowPlaces_mem ..).2 ⟨rfl, hcols⟩⟩

/-- A write of elements of a tile reaches that tile, in whole blocks. -/
theorem writePlaces_sub_tilePlaces {code m n : Nat} {items : List (Nat × Nat × Num)} (h : InTile m n items) :
    ∀ x ∈ writePlaces code items, x ∈ tilePlaces code m n := by
  rintro ⟨r, col⟩ hx
  obtain ⟨it, hit, rfl, hcol⟩ := mem_writePlaces hx
  obtain ⟨hrow, hlt⟩ := h it hit
  exact mem_tilePlaces.2 ⟨hrow, writePlaces_sub code n [(0, it.2)] (by simpa using hlt) _ hcol⟩

/-- Rounding a length up to whole blocks does not shorten it. -/
theorem le_ceilDiv_mul {n k : Nat} (hk : 0 < k) : n ≤ ceilDiv n k * k := by
  have hdiv := Nat.div_add_mod (n + k - 1) k
  have hmod := Nat.mod_lt (n + k - 1) hk
  rw [ceilDiv, Nat.mul_comm]
  omega

theorem mem_tilePlaces_of_lt {code m n r col : Nat} (hr : r < m) (hcol : col < n) :
    (r, col) ∈ tilePlaces code m n := by
  have hround : n ≤ ceilDiv n (max 1 (blockLen code)) * max 1 (blockLen code) := le_ceilDiv_mul (by omega)
  exact mem_tilePlaces.2 ⟨hr, (rowPlaces_mem ..).2 ⟨rfl, Nat.zero_le _, by omega⟩⟩

/-- The elements that a drain stores and the masked ones after them lie in its tile (R163). -/
theorem drainStore_keeps {op : Bool} {r : Ref} {code m n : Nat} {satf : Bool} {live dead : List (Nat × Nat × Num)}
    {c : Cell} {x : Cell × Sts} (hr : r.space ≤ 2) (hlive : InTile m n live) (hdead : InTile m n dead)
    (hx : store op r code satf n live c = .ok x) :
    KeepsOutside (InElems r code n (tilePlaces code m n)) c (dead.foldl (putElem r code false n) (x.1, {})).1 := by
  refine ((store_keeps hr hx).mono fun _ _ hb => hb.mono (writePlaces_sub_tilePlaces hlive)).trans ?_
  refine KeepsOutside.foldl_fst (putElem r code false n) dead (x.1, {}) fun it hit q => ?_
  obtain ⟨hrow, hcol⟩ := hdead it hit
  exact (writeBits_keeps r.space _ _ _ _ hr).mono fun _ _ hb =>
    .inl ⟨hb.1, (it.1, it.2.1), mem_tilePlaces_of_lt hrow hcol, hb.2⟩

/-- The elements of a drain, row by row, each with its place. -/
def drainItems (rows : List (List (Option Num))) (m n : Nat) : List (Nat × Nat × Option Num) :=
  (rows.zip (rangeFrom 0 m)).flatMap fun x => (x.1.zip (rangeFrom 0 n)).map fun y => (x.2, y.2, y.1)

theorem drainItems_lt {rows : List (List (Option Num))} {m n : Nat} :
    ∀ e ∈ drainItems rows m n, e.1 < m ∧ e.2.1 < n := by
  intro e he
  obtain ⟨x, hx, he⟩ := List.mem_flatMap.1 he
  obtain ⟨y, hy, rfl⟩ := List.mem_map.1 he
  exact ⟨lt_of_mem_rangeFrom (List.of_mem_zip hx).2, lt_of_mem_rangeFrom (List.of_mem_zip hy).2⟩

theorem inTile_live (rows : List (List (Option Num))) (m n : Nat) :
    InTile m n ((drainItems rows m n).filterMap fun e => e.2.2.map fun v => (e.1, e.2.1, v)) := by
  intro it hit
  obtain ⟨e, he, hv⟩ := List.mem_filterMap.1 hit
  obtain ⟨v, -, rfl⟩ := Option.map_eq_some_iff.1 hv
  exact drainItems_lt e he

theorem inTile_dead (rows : List (List (Option Num))) (m n : Nat) :
    InTile m n (((drainItems rows m n).filter fun e => e.2.2.isNone).map fun e => (e.1, e.2.1, Num.inf true)) := by
  intro it hit
  obtain ⟨e, he, rfl⟩ := List.mem_map.1 hit
  exact drainItems_lt e (List.mem_filter.1 he).1

/-- A byte of the row maxima of a DRAIN that writes them, one FP32 element for each of the m rows (R163). -/
def InRowMaxima (w : DrainWord) (aux m space b : Nat) : Prop :=
  w.rowmaxEn = true ∧ ∃ ra, decodeRef 0 aux = .ok ra ∧ InElems ra 0 m (rowPlaces 0 0 m) space b

/-- The row maxima are stored at their own places alone: FP32 has no blocks. -/
theorem storeRowMaxima_keeps {op : Bool} {w : DrainWord} {aux m : Nat} {ra : Ref} {c : Cell} {x : Cell × Sts}
    {rows : List (List (Option Num))} (hon : w.rowmaxEn = true) (hra : decodeRef 0 aux = .ok ra)
    (hx : store op ra 0 false m ((rows.zip (rangeFrom 0 m)).map fun r => (0, r.2, rowMax r.1)) c = .ok x) :
    KeepsOutside (InRowMaxima w aux m) c x.1 := by
  have hrow := storeRow (decodeRef_space hra) hx fun it hit => by
    obtain ⟨r, hr, rfl⟩ := List.mem_map.1 hit
    exact ⟨rfl, lt_of_mem_rangeFrom (List.of_mem_zip hr).2⟩
  have hwhole : ceilDiv m (max 1 (blockLen 0)) * max 1 (blockLen 0) = m := by
    show (m + 1 - 1) / 1 * 1 = m
    omega
  rw [hwhole] at hrow
  exact hrow.mono fun _ _ hb => ⟨hon, ra, hra, hb⟩

/-- A bind of one of two values lets an answer of the rest stand, whichever it is. -/
theorem AnswersKeeping.bind_either {inside : Nat → Nat → Prop} {c : Cell} {α : Type} {b : Prop} [Decidable b]
    {m m' : Except RtFault α} {f : α → Except RtFault (Cell × Sts)} (h : ∀ a, AnswersKeeping inside c (f a)) :
    AnswersKeeping inside c (if b then m >>= f else m' >>= f) := by
  split
  · exact .bind fun a _ => h a
  · exact .bind fun a _ => h a

/-- A DRAIN stores its tile and, where ROWMAX is set, one maximum for each row (R163). -/
theorem drainCell_keeps {op : Bool} {w : DrainWord} {dst aux maskRef mult delta : Nat} {c : Cell} {rd : Ref}
    (hrd : decodeRef (drainFmt w dst) dst = .ok rd) :
    AnswersKeeping (fun sp b => InElems rd (drainFmt w dst) (getBank c w.bank).extN
        (tilePlaces (drainFmt w dst) (getBank c w.bank).extM (getBank c w.bank).extN) sp b ∨
      InRowMaxima w aux (getBank c w.bank).extM sp b) c (drainCell op w dst aux maskRef mult delta c) := by
  have hspace := decodeRef_space hrd
  unfold drainCell
  dsimp only
  refine .bind_ok hrd ?_
  split
  case isTrue hon =>
    exact .bind fun ra hra => .bind_either fun rm => .guard <| .bind fun _ _ => .bind fun x hx => .bind fun y hy =>
      answersKeeping_ok ((drainStore_keeps hspace (inTile_live _ _ _) (inTile_dead _ _ _) hx).or
        (storeRowMaxima_keeps (x := y) hon hra hy))
  case isFalse =>
    exact .bind fun _ _ => .bind_either fun rm => .guard <| .bind fun _ _ => .bind fun x hx =>
      answersKeeping_ok ((drainStore_keeps hspace (inTile_live _ _ _) (inTile_dead _ _ _) hx).mono fun _ _ => .inl)

/-- Settles O13: the places of a drain, with no row maxima where ROWMAX is clear. -/
theorem drainStoresOnlyItsTile : Obligations.DrainStoresOnlyItsTile := by
  unfold Obligations.DrainStoresOnlyItsTile
  intro op w dst aux maskRef mult delta c x rd hx hrd
  have hkeeps := drainCell_keeps hrd x hx
  refine ⟨fun hoff => hkeeps.mono fun sp b hb => ?_, fun ra hon hra => hkeeps.mono fun sp b hb => ?_⟩
  · exact hb.resolve_right fun ⟨hon, _⟩ => Bool.false_ne_true (hoff.symm.trans hon)
  · refine hb.imp_right fun ⟨_, ra', hra', hmax⟩ => ?_
    cases hra.symm.trans hra'
    exact hmax

end Sys2Proof.Machine

/-! ## SST and the cell's near cache and tags -/

namespace Sys2Proof.Machine

/-- What was written is read. -/
theorem mread_mwrite_same : ∀ (l : List Byte) (m : Memory) (a : Nat), mread (mwrite m a l) a l.length = l
  | [], _, _ => rfl
  | v :: l, m, a => by
    have htail : mread (mwrite (mset m a v) (a + 1) l) (a + 1) l.length = l := mread_mwrite_same l _ _
    have hhead : mget (mwrite (mset m a v) (a + 1) l) a = v := by
      rw [mget_mwrite_out _ _ _ _ (.inl (Nat.lt_succ_self a)), mget_mset_same]
    exact congrArg₂ List.cons hhead htail

theorem spaceRead_spaceWrite_same (a : Nat) (d : List Byte) (c : Cell) : ∀ space : Nat,
    spaceRead (spaceWrite space a d c) space a d.length = d
  | 0 | 1 | _ + 2 => mread_mwrite_same ..

theorem spaceWrite_tiles {space : Nat} (h : space ≠ 1) (a : Nat) (d : List Byte) (c : Cell) :
    (spaceWrite space a d c).tiles = c.tiles := by
  unfold spaceWrite
  split
  · rfl
  · exact absurd rfl h
  · rfl

/-- SLD and SST reach the scratchpad and the operand cache only (R153). -/
theorem ldPlace_space {s : State} {c : Cell} {w : LdWord} {base space a : Nat} {write : Bool}
    (h : ldPlace s c w base write = .ok (space, a)) : space = 0 ∨ space = 2 := by
  obtain ⟨r, hr, h⟩ := ok_bind h
  dsimp only at h
  have hspace := decodeRef_space hr
  split at h
  case isTrue => cases h
  case isFalse htile =>
    split at h
    case isTrue => cases h
    case isFalse =>
      split at h
      case isTrue => cases h
      case isFalse =>
        obtain ⟨-, -, h⟩ := ok_bind h
        cases h
        omega

section
variable {s : State} {u : StreamAt}

/-- SST at a place that it may write is a change of its cell (R153, R171). -/
theorem runs_sst {w : LdWord} {space a : Nat} {P : State → Prop} (hs : Issues s u)
    (hplace : ldPlace s (getCell s u.cell) w (getA (streamOf s u) w.base.toNat) true = .ok (space, a))
    (h : P (finishCell u (.ok (spaceWrite space a (toBytes 8 (getReg w.fd (streamOf s u) w.d.toNat))
      (getCell s u.cell))) s)) :
    RunsTo (exec (.sst u w) s) P := by
  show RunsTo (execSst ..) P
  refine runs_issue hs rfl ?_
  dsimp only
  rw [hplace]
  exact h

theorem finishCell_of_overtakes {d : Cell} (h : overtakes u (getCell s u.cell) d = true) :
    finishCell u (.ok d) s = blockUnit u .arbiter s := if_pos h

/-- Bytes of the scratchpad or the operand cache were stored, and the stream went on (R153). -/
theorem stepOn_spaceWrite_keeps {space a : Nat} {d : List Byte} (hspace : space = 0 ∨ space = 2) :
    let t := stepOn u (modCell u.cell (fun _ => spaceWrite space a d (getCell s u.cell)) s)
    OnlyCell u.cell s t ∧ streamOf t u = (streamOf s u).next ∧ spaceRead (getCell t u.cell) space a d.length = d ∧
      (∀ b, (space = 0 → b < a ∨ a + d.length ≤ b) →
        mget (getCell t u.cell).scratch b = mget (getCell s u.cell).scratch b) ∧
      (∀ b, (space ≠ 0 → b < a ∨ a + d.length ≤ b) →
        mget (getCell t u.cell).opcache b = mget (getCell s u.cell).opcache b) ∧
      (getCell t u.cell).tiles = (getCell s u.cell).tiles := by
  obtain ⟨hcell, hstream, str, hget⟩ := finished_keeps (s := s) (u := u) (spaceWrite_streams space a d _)
  obtain ⟨-, hbytes⟩ := spaceWrite_keeps space a d (getCell s u.cell) (by omega)
  dsimp only
  rw [hget]
  refine ⟨hcell, hstream, spaceRead_spaceWrite_same .., fun b hb => ?_, fun b hb => ?_,
    spaceWrite_tiles (by omega) ..⟩
  · exact hbytes 0 b (by omega) fun ⟨hin, hlo, hhi⟩ => absurd (hb hin.symm) (by omega)
  · exact hbytes 2 b (by omega) fun ⟨hin, hlo, hhi⟩ => absurd (hb (by omega)) (by omega)

end

/-- Settles O6: SST stores its bytes where no MMA of its stream still reads them, and waits otherwise. -/
theorem storeWritesEightBytes : Obligations.StoreWritesEightBytes := by
  unfold Obligations.StoreWritesEightBytes
  intro s u w space a hs hplace
  refine ⟨fun hover => runs_sst hs hplace (finishCell_of_overtakes hover), fun hover => runs_sst hs hplace ?_⟩
  rw [finishCell_of_ok hover]
  have hkeeps := stepOn_spaceWrite_keeps (s := s) (u := u) (a := a)
    (d := toBytes 8 (getReg w.fd (streamOf s u) w.d.toNat)) (ldPlace_space hplace)
  rwa [toBytes_length] at hkeeps

section
variable {s : State} {u : StreamAt} {tag : Nat}

theorem tagwEffect_all_of_done (h : noneBusy (streamOf s u) = true) :
    tagwEffect u tag true s = tagwAll u.cell u.stream.toNat s := if_pos h

/-- A TAGW that blocks changes the wait of its stream, and the cause that the wait counts under (R47, R158). -/
theorem tagwEffect_all_of_busy (h : noneBusy (streamOf s u) = false) : ∃ cause,
    tagwEffect u tag true s =
      modStream u.cell u.stream.toNat (fun t => { t with wait := some .allTags, cause := cause }) s :=
  ⟨_, if_neg fun hdone => Bool.false_ne_true (h.symm.trans hdone)⟩

theorem tagwEffect_of_busy (h : tagOf (streamOf s u) tag = .busy) : ∃ cause,
    tagwEffect u tag false s =
      modStream u.cell u.stream.toNat (fun t => { t with wait := some (.tag tag), cause := cause }) s :=
  ⟨_, if_pos h⟩

theorem tagwEffect_of_done (h : tagOf (streamOf s u) tag ≠ .busy) :
    tagwEffect u tag false s = stepOn u (setTag u.cell u.stream.toNat tag .free s) := if_neg h

end

/-- Settles O11: NCINV empties the cache; TAGW by whether what it waits for is busy. -/
theorem cellCacheAndTagOperationsComplete : Obligations.CellCacheAndTagOperationsComplete := by
  unfold Obligations.CellCacheAndTagOperationsComplete
  intro s u hs
  refine ⟨?ncinv, fun tag => runs_issue hs rfl ⟨tagwEffect_all_of_done, fun hbusy => ?allBusy⟩,
    fun tag => runs_issue hs rfl ?one⟩
  case ncinv =>
    show RunsTo (execNcinv ..) _
    have hcell := getCell_stepOn_modCell u s fun c => { c with near := [] }
    refine runs_issue hs rfl ⟨onlyCell_stepOn_modCell .., streamOf_stepOn_modCell rfl, ?_, ?_⟩
    · rw [hcell]
    · exact hcell
  case allBusy =>
    obtain ⟨cause, heq⟩ := tagwEffect_all_of_busy (tag := tag.toNat) hbusy
    rw [heq, streamOf_modStream]
    exact ⟨onlyStream_modStream .., rfl, rfl, rfl⟩
  case one =>
    by_cases hbusy : tagOf (streamOf s u) tag.toNat = .busy
    case pos =>
      obtain ⟨cause, heq⟩ := tagwEffect_of_busy hbusy
      rw [heq, streamOf_modStream]
      exact ⟨onlyStream_modStream .., fun hdone => absurd hbusy hdone, fun _ => ⟨rfl, rfl, rfl⟩⟩
    case neg =>
      rw [tagwEffect_of_done hbusy, setTag, streamOf_stepOn, streamOf_modStream]
      exact ⟨(onlyStream_modStream ..).trans (onlyStream_stepOn ..),
        fun _ => ⟨tget_tset_same TagSt.free (streamOf s u).tags tag.toNat TagSt.free, rfl, rfl⟩,
        fun h => absurd h hbusy⟩

end Sys2Proof.Machine

/-! ## The end of a program -/

namespace Sys2Proof.Machine

section
variable {k i : Nat} {s : State}

/-- The fences that pass let their streams go on, and nothing else of a cell changes (R230). -/
theorem fenceCheck_eq (s : State) :
    fenceCheck s = { s with cells := (fenceCheck s).cells, pmap := (fenceCheck s).pmap } := by
  unfold fenceCheck
  exact List.foldlRecOn (motive := fun t : State => t = { s with cells := t.cells, pmap := t.pmap })
    _ _ rfl fun t ht x _ => by rw [ht]; rfl

theorem fenceCheck_pins (s : State) : (fenceCheck s).pmap.pins = s.pmap.pins := by
  unfold fenceCheck
  exact List.foldlRecOn (motive := fun t : State => t.pmap.pins = s.pmap.pins) _ _ rfl fun t ht x _ => ht

theorem getStream_advance_ne {x : Nat × Nat} (h : x ≠ (k, i)) (s : State) :
    getStream (getCell (advance x.1 x.2 s) k) i = getStream (getCell s k) i := by
  by_cases hcell : k = x.1
  · subst hcell
    exact getStream_modStream_ne _ _ fun hi => h (by rw [hi])
  · exact congrArg (getStream · i) (getCell_modCell_ne _ _ hcell)

/-- A stream that waits for no fence stays as it is when fences pass. -/
theorem getStream_fenceCheck (h : ∀ x ∈ s.pmap.fenceStreams, (x.1, x.2.1) ≠ (k, i)) :
    getStream (getCell (fenceCheck s) k) i = getStream (getCell s k) i := by
  unfold fenceCheck
  exact List.foldlRecOn (motive := fun t : State => getStream (getCell t k) i = getStream (getCell s k) i) _ _ rfl
    fun t ht x hx => (getStream_advance_ne (h x (List.mem_filter.1 hx).1) t).trans ht

/-- Giving up a pin changes cells, by the fences that pass, and the page map (R228, R230). -/
theorem dropPin_eq (w : PinHolder) (s : State) :
    dropPin w s = { s with cells := (dropPin w s).cells, pmap := (dropPin w s).pmap } := by
  unfold dropPin
  rw [fenceCheck_eq]

theorem who_ne_of_mem_dropPin {w : PinHolder} : ∀ p ∈ (dropPin w s).pmap.pins, p.who ≠ w := by
  intro p hp
  unfold dropPin at hp
  rw [fenceCheck_pins] at hp
  exact bne_iff_ne.1 (List.mem_filter.1 hp).2

theorem getStream_dropPin {w : PinHolder} (h : ∀ x ∈ s.pmap.fenceStreams, (x.1, x.2.1) ≠ (k, i)) :
    getStream (getCell (dropPin w s) k) i = getStream (getCell s k) i := by
  unfold dropPin
  exact getStream_fenceCheck h

/-- The end of walks changes the list of walks and the counts of the module (R220, R228). -/
theorem report_endWalks (k i : Nat) (s : State) : OnlyReport
    { s with pmap := { s.pmap with walks := s.pmap.walks.filter fun w => !(w.cell == k && w.stream == i) } }
    (endWalks k i s) := report_bump ..

theorem getCell_endWalks (j : Nat) : getCell (endWalks k i s) j = getCell s j := by
  rw [getCell, (report_endWalks k i s).cells, getCell]

theorem endWalks_fenceStreams : (endWalks k i s).pmap.fenceStreams = s.pmap.fenceStreams := by
  rw [(report_endWalks k i s).pmap]

theorem settleCell_streams (halt : Bool) (c : Cell) : (settleCell halt c).streams = c.streams := by
  unfold settleCell
  split <;> rfl

/-- The stream after its program ended: it waits for nothing, and no loop and no call is open (R128). -/
def Stream.ended (t : Stream) : Stream := { t with running := false, wait := none, loops := [], calls := [] }

/-- A cell in which a stream has ended: it waits at no semaphore, and the cell settles (R65, R128). -/
def endedIn (halt : Bool) (i : Nat) (c : Cell) : Cell :=
  settleCell halt { c with streams := tmod {} c.streams i Stream.ended, semQ := c.semQ.filter (· != i) }

/-- A stream that has stopped is in no fence (R228, R230). -/
def leaveFences (k i : Nat) (s : State) : State :=
  { s with pmap := { s.pmap with fenceStreams := s.pmap.fenceStreams.filter fun x => !(x.1 == k && x.2.1 == i) } }

theorem getCell_leaveFences (j : Nat) : getCell (leaveFences k i s) j = getCell s j := rfl

theorem leaveFences_no_fence : ∀ x ∈ (leaveFences k i s).pmap.fenceStreams, (x.1, x.2.1) ≠ (k, i) := by
  intro x hx heq
  have hkept := (List.mem_filter.1 hx).2
  obtain ⟨hk, hi⟩ := Prod.ext_iff.1 heq
  simp [show x.1 = k from hk, show x.2.1 = i from hi] at hkept

theorem stopStream_of_no_wait {halt : Bool} (h : (getStream (getCell s k) i).wait = none) :
    stopStream halt k i s =
      dropPin (.stream k i) (endWalks k i (leaveFences k i (modCell k (endedIn halt i) s))) := by
  unfold stopStream
  simp only [h, modStream, modCell_modCell]
  rfl

theorem getStream_endedIn (halt : Bool) (c : Cell) : getStream (endedIn halt i c) i = (getStream c i).ended := by
  rw [getStream, endedIn, settleCell_streams, tget_tmod_same, getStream]

/-- A stream that stops, and waited for nothing, keeps its registers and its tags (R128). -/
theorem getStream_stopStream {halt : Bool} (h : (getStream (getCell s k) i).wait = none) :
    getStream (getCell (stopStream halt k i s) k) i = (getStream (getCell s k) i).ended := by
  have hfence : ∀ x ∈ (endWalks k i (leaveFences k i (modCell k (endedIn halt i) s))).pmap.fenceStreams,
      (x.1, x.2.1) ≠ (k, i) := by
    rw [endWalks_fenceStreams]
    exact leaveFences_no_fence
  rw [stopStream_of_no_wait h, getStream_dropPin hfence, getCell_endWalks, getCell_leaveFences, getCell_modCell,
    getStream_endedIn]

/-- The parts of the module that no stream's end reaches. -/
structure SameStores (s t : State) : Prop where
  hbm : t.hbm = s.hbm
  deep : t.deep = s.deep
  plan : t.plan = s.plan
  steps : t.steps = s.steps
  pwr : t.pwr = s.pwr

theorem SameStores.trans {s t v : State} (h : SameStores s t) (g : SameStores t v) : SameStores s v :=
  ⟨g.hbm.trans h.hbm, g.deep.trans h.deep, g.plan.trans h.plan, g.steps.trans h.steps, g.pwr.trans h.pwr⟩

theorem sameStores_modCell (k : Nat) (f : Cell → Cell) (s : State) : SameStores s (modCell k f s) :=
  ⟨rfl, rfl, rfl, rfl, rfl⟩

theorem sameStores_leaveFences (k i : Nat) (s : State) : SameStores s (leaveFences k i s) :=
  ⟨rfl, rfl, rfl, rfl, rfl⟩

theorem sameStores_dropPin (w : PinHolder) (s : State) : SameStores s (dropPin w s) := by
  rw [dropPin_eq]
  exact ⟨rfl, rfl, rfl, rfl, rfl⟩

theorem sameStores_endWalks (k i : Nat) (s : State) : SameStores s (endWalks k i s) :=
  have hreport := report_endWalks k i s
  ⟨hreport.hbm, hreport.deep, hreport.plan, hreport.steps, hreport.pwr⟩

theorem sameStores_stopStream {halt : Bool} (h : (getStream (getCell s k) i).wait = none) :
    SameStores s (stopStream halt k i s) := by
  rw [stopStream_of_no_wait h]
  exact (sameStores_modCell ..).trans ((sameStores_leaveFences ..).trans
    ((sameStores_endWalks ..).trans (sameStores_dropPin ..)))

end

theorem runs_stop {s : State} {u : StreamAt} {P : State → Prop} (hs : Issues s u)
    (h : P (stopStream false u.cell u.stream.toNat (stepOn u s))) : RunsTo (exec (.stop u) s) P :=
  ⟨_, issue_ready hs fun s => stopStream false u.cell u.stream.toNat (stepOn u s), h⟩

/-- Settles O7: STOP goes on to the next word and stops there, waiting for nothing. -/
theorem stopEndsTheProgram : Obligations.StopEndsTheProgram := by
  unfold Obligations.StopEndsTheProgram
  intro s u hs
  have hnext : getStream (getCell (stepOn u s) u.cell) u.stream.toNat = (streamOf s u).next := streamOf_stepOn u s
  have hwait : (getStream (getCell (stepOn u s) u.cell) u.stream.toNat).wait = none := by rw [hnext]; rfl
  have hstream : streamOf (stopStream false u.cell u.stream.toNat (stepOn u s)) u = (streamOf s u).next.ended :=
    (getStream_stopStream hwait).trans (congrArg Stream.ended hnext)
  have hstores := sameStores_stopStream (halt := false) hwait
  have hpins : ∀ p ∈ (stopStream false u.cell u.stream.toNat (stepOn u s)).pmap.pins,
      p.who ≠ .stream u.cell u.stream.toNat := by
    rw [stopStream_of_no_wait hwait]
    exact who_ne_of_mem_dropPin
  exact runs_stop hs ⟨rfl, congrArg Stream.running hstream, congrArg Stream.wait hstream,
    congrArg Stream.loops hstream, congrArg Stream.calls hstream, (congrArg Stream.tags hstream :),
    (congrArg Stream.s hstream :), (congrArg Stream.a hstream :), hpins, hstores.hbm, hstores.deep, hstores.plan,
    hstores.steps, hstores.pwr⟩

/-! ## BELL and the end of a phase -/

/-- Settles O26: BELL blocks its stream and enters; the end of a phase by whether it can end. -/
theorem bellInstructionBlocksItsStream : Obligations.BellInstructionBlocksItsStream := by
  unfold Obligations.BellInstructionBlocksItsStream
  refine ⟨fun s u d x fn g hs hfn => ?bell,
    fun s n hmem hruns => runs_next (if_pos ⟨hmem, by rw [hruns]; rfl⟩), fun s n h => runs_next (if_neg ?ends)⟩
  case bell =>
    show RunsTo (execBell ..) _
    exact runs_issue hs (decide_eq_true hfn) rfl
  case ends =>
    rintro ⟨hmem, hruns⟩
    obtain hnot | hstill := h
    · exact hnot hmem
    · rw [hstill] at hruns
      exact Bool.false_ne_true hruns

end Sys2Proof.Machine

/-! ## Walks -/

namespace Sys2Proof.Machine

/-- Of the module only bytes of the memories of one cell changed. -/
structure OnlyMemoryOf (k : Nat) (s t : State) : Prop where
  cell : OnlyCell k s t
  memory : OnlyMemory (getCell s k) (getCell t k)

section
variable {k : Nat} {s t v : State}

theorem OnlyMemoryOf.refl (k : Nat) (s : State) : OnlyMemoryOf k s s := ⟨⟨rfl, fun _ _ => rfl⟩, rfl⟩

theorem OnlyMemoryOf.trans (h : OnlyMemoryOf k s t) (g : OnlyMemoryOf k t v) : OnlyMemoryOf k s v :=
  ⟨h.cell.trans g.cell, h.memory.trans g.memory⟩

theorem onlyMemoryOf_modCell {f : Cell → Cell} (h : OnlyMemory (getCell s k) (f (getCell s k))) :
    OnlyMemoryOf k s (modCell k f s) :=
  ⟨onlyCell_modCell .., by rwa [getCell_modCell]⟩

theorem OnlyMemoryOf.near (h : OnlyMemoryOf k s t) : (getCell t k).near = (getCell s k).near := by rw [h.memory]

theorem OnlyMemoryOf.streams (h : OnlyMemoryOf k s t) : (getCell t k).streams = (getCell s k).streams :=
  h.memory.streams

theorem OnlyCells.pmap (h : OnlyCells s t) : t.pmap = s.pmap := by unfold OnlyCells at h; rw [h]

theorem OnlyCells.pentry (h : OnlyCells s t) (key : Nat) : pentry t key = pentry s key := by
  rw [Machine.pentry, h.hbm, h.pmap, Machine.pentry]

theorem onlyMemory_spaceWrite (space a : Nat) (d : List Byte) (c : Cell) : OnlyMemory c (spaceWrite space a d c) := by
  unfold spaceWrite
  split <;> rfl

/-- A result of a walk goes to the list and the mask of its stream, in its own cell (R169). -/
theorem onlyMemoryOf_walkWrite (w : Walk) (i a : Nat) (hit : Bool) (s : State) :
    OnlyMemoryOf w.cell s (walkWrite w i a hit s) :=
  onlyMemoryOf_modCell ((onlyMemory_spaceWrite ..).trans (onlyMemory_writeBits ..))

/-- STATE of an entry lies in the upper half of its fourth byte (R212). -/
theorem peState_ofBytes (b0 b1 b2 b3 : Byte) (l : List Byte) :
    peState (ofBytes (b0 :: b1 :: b2 :: b3 :: l)) = b3.toNat / 16 := by
  have h0 := b0.isLt
  have h1 := b1.isLt
  have h2 := b2.isLt
  have h3 := b3.isLt
  simp only [peState, fieldOf, ofBytes, Nat.shiftRight_eq_div_pow]
  omega

/-- The byte of HBM that a read gives: all ones where its granule is uncorrectable (R370). -/
def hbmByte (s : State) (a : Nat) : Byte := if (0, a / 64) ∈ s.bad then 0xFF#8 else mget s.hbm a

theorem peState_readTier (s : State) (a : Nat) :
    peState (ofBytes (readTier s 0 a 16)) = (hbmByte s (a + 3)).toNat / 16 := peState_ofBytes ..

theorem peState_pentry (s : State) (key : Nat) :
    peState (pentry s key) = (mget s.hbm (s.pmap.base + 16 * key + 3)).toNat / 16 := peState_ofBytes ..

/-- An entry as memory reads it has its own STATE, or none that is known where its granule is uncorrectable. -/
theorem peState_read_entry (s : State) (key : Nat) :
    peState (ofBytes (readTier s 0 (s.pmap.base + 16 * key) 16)) ∈ [peState (pentry s key), 15] := by
  rw [peState_readTier, peState_pentry, hbmByte]
  split
  · exact List.mem_cons_of_mem _ (List.mem_singleton_self _)
  · exact List.mem_cons_self

/-- An INVALID, RESIDENT or EVICTED entry, or one that cannot be read, makes no walk wait (R218). -/
theorem walkHit_of_settled {e : Nat} (h : peState e ∈ [0, 1, 3, 15]) :
    walkHit s e = .nothing ∨ ∃ a, walkHit s e = .addr a := by
  unfold walkHit
  simp only [List.mem_cons, List.not_mem_nil, or_false] at h
  obtain h | h | h | h := h
  all_goals rw [h]
  · exact .inl rfl
  · by_cases htier : peTier e = 0
    · exact .inl (if_pos htier)
    · exact .inr ⟨_, if_neg htier⟩
  · exact .inl rfl
  · exact .inl rfl

end

/-- Entry i of a walk makes it wait for nothing, and the near cache of its cell does not hold it. -/
structure SettledEntry (w : Walk) (s : State) (i : Nat) : Prop where
  state : peState (pentry s (w.key + i)) ∈ [0, 1, 3]
  uncached : (getCell s w.cell).near.find? (fun l => l.line == nearNo 0 (s.pmap.base + 16 * (w.key + i))) = none

section
variable {w : Walk} {s t : State} {i : Nat}

theorem SettledEntry.of_onlyMemoryOf (h : SettledEntry w s i) (hmem : OnlyMemoryOf w.cell s t) :
    SettledEntry w t i := by
  refine ⟨?_, ?_⟩
  · rw [hmem.cell.1.pentry]
    exact h.state
  · rw [hmem.near, hmem.cell.1.pmap]
    exact h.uncached

theorem walkCopy_of_settled (hahead : w.ahead = []) (h : SettledEntry w s w.i) :
    walkCopy w s = (ofBytes (readTier s 0 (s.pmap.base + 16 * (w.key + w.i)) 16), s) := by
  simp only [walkCopy, hahead, List.find?_nil, nearRead, h.uncached]

/-- The walk after its entry. -/
def Walk.next (w : Walk) : Walk := { w with i := w.i + 1, ahead := w.left }

theorem SettledEntry.next (h : SettledEntry w s i) : SettledEntry w.next s i := ⟨h.state, h.uncached⟩

/-- A walk that has read nothing ahead writes one result for a settled entry and goes on (R169, R218). -/
theorem serveWalk_of_settled (n : Nat) (hi : w.i < w.n) (hahead : w.ahead = []) (h : SettledEntry w s w.i) :
    ∃ a hit, serveWalk w (n + 1) s = serveWalk w.next n (walkWrite w w.i a hit s) := by
  have hstate : peState (ofBytes (readTier s 0 (s.pmap.base + 16 * (w.key + w.i)) 16)) ∈ [0, 1, 3, 15] := by
    have hread := peState_read_entry s (w.key + w.i)
    have hsettled := h.state
    simp only [List.mem_cons, List.not_mem_nil, or_false] at hread hsettled ⊢
    omega
  rw [serveWalk, if_neg (Nat.not_le.2 hi)]
  simp only [walkCopy_of_settled hahead h]
  obtain hnothing | ⟨a, haddr⟩ := walkHit_of_settled (s := s) hstate
  · exact ⟨allOnes64, false, by rw [hnothing]; rfl⟩
  · exact ⟨a, true, by rw [haddr]; rfl⟩

/-- A walk whose entries are settled writes its results and nothing else (R169, R217). -/
theorem serveWalk_keeps : ∀ (n : Nat) (w : Walk) (s : State), w.ahead = [] →
    (∀ i, w.i ≤ i → i < w.n → SettledEntry w s i) → OnlyMemoryOf w.cell s (serveWalk w n s)
  | 0, w, s, _, _ => .refl ..
  | n + 1, w, s, hahead, hentries => by
    by_cases hi : w.i < w.n
    case pos =>
      obtain ⟨a, hit, heq⟩ := serveWalk_of_settled n hi hahead (hentries w.i (Nat.le_refl _) hi)
      have hwrite := onlyMemoryOf_walkWrite w w.i a hit s
      have hleft : w.next.ahead = [] := by simp [Walk.next, Walk.left, hahead]
      rw [heq]
      exact hwrite.trans (serveWalk_keeps n w.next _ hleft fun i hlo hhi =>
        ((hentries i (Nat.le_of_succ_le hlo) hhi).of_onlyMemoryOf hwrite).next)
    case neg =>
      rw [serveWalk, if_pos (Nat.not_lt.1 hi)]
      exact .refl ..

end

section
variable {s : State} {u : StreamAt} {p : Pred} {w : WalkWord}

/-- A holder that takes a pin has one, whether it had it before or not (R228). -/
theorem takePin_holds (h : PinHolder) (s : State) : ∃ q ∈ (takePin h s).pmap.pins, q.who = h := by
  unfold takePin
  split
  case isTrue hheld =>
    obtain ⟨q, hq, hwho⟩ := List.any_eq_true.1 hheld
    exact ⟨q, hq, beq_iff_eq.1 hwho⟩
  case isFalse => exact ⟨_, List.mem_append_right _ (List.mem_singleton_self _), rfl⟩

/-- Taking a pin changes the pins of the page map alone (R228). -/
theorem takePin_eq (h : PinHolder) (s : State) :
    takePin h s = { s with pmap := { s.pmap with
      pins := (takePin h s).pmap.pins, pinNo := (takePin h s).pmap.pinNo } } := by
  unfold takePin
  split <;> rfl

theorem getCell_takePin (h : PinHolder) (k : Nat) (s : State) : getCell (takePin h s) k = getCell s k := by
  rw [takePin_eq]; rfl

theorem pentry_takePin (h : PinHolder) (key : Nat) (s : State) : pentry (takePin h s) key = pentry s key := by
  rw [takePin_eq]; rfl

theorem base_takePin (h : PinHolder) (s : State) : (takePin h s).pmap.base = s.pmap.base := by rw [takePin_eq]

theorem near_startTransfer (k : Nat) (x : Transfer) (s : State) :
    (getCell (startTransfer k x s) k).near = (getCell s k).near := by
  simp [startTransfer, takeTag, setTag, modStream]

theorem near_stepOn_startTransfer (x : Transfer) (s : State) :
    (getCell (stepOn u (startTransfer u.cell x s)) u.cell).near = (getCell s u.cell).near := by
  rw [getCell_stepOn]
  exact near_startTransfer u.cell x s

/-- The walk that WALK starts (R169). -/
def walkOf (s : State) (u : StreamAt) (w : WalkWord) : Walk :=
  { cell := u.cell, stream := u.stream.toNat, tag := w.tag.toNat, list := aReg s u w.list
    mask := aNext s u w.list, key := sReg s u w.key % 2 ^ 24, n := sReg s u w.n % 2 ^ 32, i := 0
    ip := (streamOf s u).ip }

/-- The transfer that holds the tag of a WALK (R158, R169). -/
def walkTransfer (u : StreamAt) (w : WalkWord) : Transfer :=
  { stream := u.stream.toNat, tag := w.tag.toNat, auto := w.auto, sem := w.sem.toNat, amt := w.amt.toNat
    walk := true, cells := [u.cell], cause := .map }

/-- The state in which the entries of a WALK are served: its stream has gone on, with its tag busy and its pin held. -/
def walkStarted (u : StreamAt) (w : WalkWord) (s : State) : State :=
  stepOn u (startTransfer u.cell (walkTransfer u w) (takePin (.stream u.cell u.stream.toNat) s))

theorem runs_walk {P : State → Prop} (hs : Issues s u) (hp : predOk p = true) (hlist : w.list ≠ 15)
    (h : P (walkEffect u p w s)) : RunsTo (exec (.walk u p w) s) P := by
  have hword : (predOk p && w.list != 15) = true := by rw [hp, bne_iff_ne.2 hlist]; rfl
  show RunsTo (execWalk ..) P
  exact runs_issue hs hword h

theorem walkEffect_of_suppressed (htag : canTake (getCell s u.cell) u.stream.toNat w.tag.toNat = true)
    (heff : takesEffect (getCell s u.cell) p = false) :
    walkEffect u p w s = suppressTag u w.tag.toNat w.auto w.sem.toNat w.amt.toNat [u.cell] s :=
  (if_neg (by simp [htag])).trans (if_pos (by simp [heff]))

/-- A WALK that passes its checks starts, and its entries are served (R169, R217, R228). -/
theorem walkEffect_of_checked {r m : Ref} (htag : canTake (getCell s u.cell) u.stream.toNat w.tag.toNat = true)
    (heff : takesEffect (getCell s u.cell) p = true)
    (hkeys : sReg s u w.key % 2 ^ 24 + sReg s u w.n % 2 ^ 32 ≤ s.pmap.entries)
    (hr : decodeRef 0 (aReg s u w.list) = .ok r) (hm : decodeRef 0 (aNext s u w.list) = .ok m)
    (hlist : checkSpace (opMode s (getCell s u.cell)) (getCell s u.cell) r.space r.a
      (8 * (sReg s u w.n % 2 ^ 32)) true = .ok ())
    (hmask : checkSpace (opMode s (getCell s u.cell)) (getCell s u.cell) m.space m.a
      (ceilDiv (sReg s u w.n % 2 ^ 32) 8) true = .ok ()) :
    walkEffect u p w s = serveWalk (walkOf s u w) (sReg s u w.n % 2 ^ 32 + 1) (walkStarted u w s) := by
  unfold walkEffect
  dsimp only
  rw [if_neg (by simp [htag]), if_neg (by simp [heff]), if_neg (Nat.not_lt.2 hkeys), hr, hm]
  simp only [bind, Except.bind, hlist, hmask]
  rfl

theorem onlyCell_walkStarted : OnlyCell u.cell (takePin (.stream u.cell u.stream.toNat) s) (walkStarted u w s) :=
  onlyCell_stepOn_startTransfer

theorem near_walkStarted : (getCell (walkStarted u w s) u.cell).near = (getCell s u.cell).near := by
  rw [walkStarted, near_stepOn_startTransfer, getCell_takePin]

theorem streamOf_walkStarted : streamOf (walkStarted u w s) u =
    { (streamOf s u).next with tags := tset .free (streamOf s u).tags w.tag.toNat .busy } := by
  have hstream : streamOf (takePin (.stream u.cell u.stream.toNat) s) u = streamOf s u :=
    congrArg (getStream · u.stream.toNat) (getCell_takePin ..)
  rw [walkStarted, streamOf_stepOn_startTransfer rfl, hstream]
  rfl

/-- Entries that are settled before a WALK are settled when it serves them. -/
theorem settledEntry_walkStarted {i : Nat} (h : SettledEntry (walkOf s u w) s i) :
    SettledEntry (walkOf s u w) (walkStarted u w s) i := by
  obtain ⟨honly, -⟩ := onlyCell_walkStarted (s := s) (u := u) (w := w)
  refine ⟨?_, ?_⟩
  · rw [honly.pentry, pentry_takePin]
    exact h.state
  · rw [honly.pmap, base_takePin, show (walkOf s u w).cell = u.cell from rfl, near_walkStarted]
    exact h.uncached

/-- A WALK over settled entries leaves the map, HBM and the deep tier, and every other cell (R169, R217). -/
theorem walk_settled_keeps {t : State} (h : OnlyMemoryOf u.cell (walkStarted u w s) t) :
    tagOf (streamOf t u) w.tag.toNat = .busy ∧ (streamOf t u).ip = (streamOf s u).ip + 1 ∧
      (streamOf t u).wait = none ∧
      (∃ q ∈ t.pmap.pins, q.who = .stream u.cell u.stream.toNat) ∧
      (∀ k, k ≠ u.cell → getCell t k = getCell s k) ∧ t = { s with cells := t.cells, pmap := t.pmap } ∧
      (∀ key, pentry t key = pentry s key) := by
  have hstream : streamOf t u = streamOf (walkStarted u w s) u :=
    congrArg (fun x : Table Stream => tget ({} : Stream) x u.stream.toNat) h.streams
  obtain ⟨honly, hother⟩ := onlyCell_walkStarted.trans h.cell
  rw [hstream, streamOf_walkStarted]
  refine ⟨tget_tset_same TagSt.free (streamOf s u).tags w.tag.toNat TagSt.busy, rfl, rfl, ?_,
    fun k hk => (hother k hk).trans (getCell_takePin ..), ?_, fun key => ?_⟩
  · rw [honly.pmap]
    exact takePin_holds ..
  · rw [honly, takePin_eq]
  · rw [honly.pentry, pentry_takePin]

end

/-- Settles O19: a WALK by whether it takes effect; over settled entries it only writes its results. -/
theorem walksReadEntriesAndChangeNone : Obligations.WalksReadEntriesAndChangeNone := by
  unfold Obligations.WalksReadEntriesAndChangeNone
  intro s u p w hs hp hlist htag
  refine ⟨fun hoff => runs_walk hs hp hlist (walkEffect_of_suppressed htag hoff), fun r m hon => ?_⟩
  intro key n hkeys hr hm hspace hmask
  have heffect := walkEffect_of_checked htag hon hkeys hr hm hspace hmask
  refine ⟨runs_walk hs hp hlist heffect, fun hentries => runs_walk hs hp hlist ?_⟩
  rw [heffect]
  exact walk_settled_keeps (serveWalk_keeps _ (walkOf s u w) _ rfl fun i _ hi =>
    settledEntry_walkStarted ⟨(hentries i hi).1, (hentries i hi).2⟩)

end Sys2Proof.Machine

/-! ## The circulator's tokens, units and credits -/

namespace Sys2Proof.Machine

section
variable {s : State} {P : State → Prop} {c f : Nat}

/-- A START token at the channel's first feed ring (R195). -/
theorem runs_circStart {d : List Byte} (hchan : c < 64) (hcount : c < circCount s)
    (hfeed : (chanFeeds s c).head? = some f) (htoken : headToken s f = some d) (hstart : tokenIs d 1 c = true)
    (h : P (if (getChan (popToken f s).2 c).isOpen then circFail c (popToken f s).2
      else pumpChan c (openChan c (popToken f s).2))) : RunsTo (exec (.circStart c) s) P := by
  refine runs_onUnit (decide_eq_true hchan) ?_
  rw [hfeed]
  dsimp only
  rw [htoken]
  dsimp only
  rwa [if_neg (by simp [hcount, hstart])]

/-- The release token d of feed group f is recorded: it counts for its block, and its cell is known to have
released up to that block (R197, R199). -/
def recordRelease (c f : Nat) (d : List Byte) (s : State) : State :=
  modChan c (fun ch => { ch with
    popped := tmod 0 ch.popped (f * 2 ^ 32 + numAt d 4 4) (· + 1)
    cellAt := tset 0 ch.cellAt (f * 1024 + numAt d 8 2) (numAt d 4 4 + 1) }) s

/-- The oldest release token is popped, and recorded when the channel expects it (R197, R199). -/
theorem runs_circRelease (hchan : c < 64) (hcount : c < circCount s)
    (hfind : (chanFeeds s c).find? (isRelease s c) = some f)
    (h : P (if !releaseOk s c f (popToken f s).1 then tokenFail c (popToken f s).1 (popToken f s).2
      else pumpChan c (recordRelease c f (popToken f s).1 (popToken f s).2))) :
    RunsTo (exec (.circRelease c) s) P := by
  refine runs_onUnit (decide_eq_true hchan) ?_
  rw [hfind]
  dsimp only
  rwa [if_neg (Nat.not_le.2 hcount)]

/-- A gradient token of hop h is the one that the channel expects next (R199, R201). -/
structure GradExpected (s : State) (c h : Nat) : Prop where
  isOpen : (getChan s c).isOpen = true
  back : chanBack s c = true
  next : h = (getChan s c).gradDone.length
  hop : h < chanR s c

/-- The oldest gradient token is popped, and recorded when the channel expects it (R199, R201). -/
theorem runs_gradDone (hchan : c < 64) (hcount : c < circCount s)
    (hfind : (chanFeeds s c).find? (fun f => (headToken s f).any fun d => tokenIs d 2 c) = some f)
    (hok : GradExpected s c (numAt (popToken f s).1 4 4) → P (pumpChan c (modChan c (fun ch =>
      { ch with gradDone := ch.gradDone ++ [numAt (popToken f s).1 4 4] }) (popToken f s).2)))
    (hbad : ¬ GradExpected s c (numAt (popToken f s).1 4 4) → P (tokenFail c (popToken f s).1 (popToken f s).2)) :
    RunsTo (exec (.gradDone c) s) P := by
  refine runs_onUnit (decide_eq_true hchan) ?_
  rw [hfind]
  dsimp only
  rw [if_neg (Nat.not_le.2 hcount)]
  by_cases hexp : GradExpected s c (numAt (popToken f s).1 4 4)
  · rw [if_neg (by simp [hexp.isOpen, hexp.back, ← hexp.next, hexp.hop])]
    exact hok hexp
  · rw [if_pos]
    · exact hbad hexp
    · by_contra hall
      simp only [Bool.not_eq_true', not_or, Bool.not_eq_false, not_not, Nat.not_le] at hall
      obtain ⟨hopen, hback, hnext, hhop⟩ := hall
      exact hexp ⟨hopen, hback, hnext, hhop⟩

/-- Of an accepted CIRC frame it only matters whether a receive is open for it (R196, R202). -/
theorem execCircUnitLand_of_accepted {r : RxFrame} (hport : portOk r.die r.port = true) (hcls : r.f.cls = 1)
    (htyp : r.f.typ = 0) (hacc : (accept r s).1 = true) :
    execCircUnitLand r s = .next (
      let a := ackFrame r (accept r s).2
      if openReceive a r.f then pumpChan (fld r.f 44 1) (landData (fld r.f 44 1) (fld r.f 48 4) (fld r.f 60 4)
        r.f.payload (bump (galBase r.die + 0x20010) r.f.payload.length a))
      else bump (galBase r.die + 0x20028) 1 a) :=
  onFrame_of_accepted hport hcls htyp hacc

end

/-! ## Waits for peers -/

section
variable {s : State}

/-- Raising an event leaves the source of the map unit's events (R478). -/
@[simp] theorem mapSrc_raise (src code : Nat) (fields : List (Nat × Nat × Nat)) (s : State) :
    mapSrc (raise src code fields s) = mapSrc s := by
  rw [mapSrc, raise_pmap, mapSrc]

theorem channelCanary_of_none {c : Nat} (h : chanPeer s c = none) : channelCanary c s = s := by
  rw [channelCanary, h]

theorem channelCanary_of_peer {c : Nat} {x : Nat × Nat} (h : chanPeer s c = some x) :
    channelCanary c s = peerCanary (source 3 (chanDie s c)) x.2 [(18, 1, c), (20, 4, x.1)]
      (modChan c (fun ch => { ch with expired := ch.expired ++ [x] }) s) := by
  rw [channelCanary, h]

theorem gatherCanary_of_header {die : Nat} {j : GatherJob} (hjob : (getGath s die).job = some j) (hphase : j.phase = 0)
    (hpeer : gathNum s j.entry 6 1 ≠ 0) :
    gatherCanary die s = peerCanary (source 3 die) (gathNum s j.entry 4 2) [(20, 4, j.entry)] s := by
  rw [gatherCanary, hjob]
  exact if_pos ⟨hphase, hpeer⟩

/-- A walk of a stream or of a channel that waits for a page fails the step (R235). -/
theorem walkCanary_of_waiting (h : s.pmap.walks ≠ [] ∨ ∃ e ∈ s.circ.chans, chanAwaits s e.1 = true) :
    walkCanary s = sendFail cCanaryTimeout (mapSrc s) (raise (mapSrc s) 0x0401 [] s) := by
  refine if_neg fun hnone => ?_
  rw [Bool.and_eq_true, List.isEmpty_iff, Bool.not_eq_true', List.any_eq_false] at hnone
  obtain ⟨hwalks, hchans⟩ := hnone
  exact h.elim (· hwalks) fun ⟨e, he, hwaits⟩ => hchans e he hwaits

end

/-- Settles O32: each event by the branch of its conditions, and each Canary by its wait. -/
theorem circulatorEventsComplete : Obligations.CirculatorEventsComplete := by
  unfold Obligations.CirculatorEventsComplete
  refine ⟨fun s c f d hchan hcount hfeed htoken hstart => ?start,
    fun s c f hchan hcount hfind => ⟨fun hbad => ?unexpected, fun hok => ?released⟩,
    fun s c f hchan hcount hfind => ?gradient,
    fun s r hport hcls htyp hacc => ?unit,
    fun s c hop hchan hcount hpos hhop => ?credit,
    fun s f hfeed hcount => ?feed,
    fun s c hchan => ⟨fun hnone => ?noPeer, fun x hpeer => ?peer⟩,
    fun s g chan hactive hsent => ?bell, fun s c r => ?collective, fun s hstarved hattempt => ?intake,
    fun s die j hdie hjob hphase hpeer => ?gather, fun s hwaits => ?walk⟩
  case start => exact runs_circStart hchan hcount hfeed htoken hstart rfl
  case unexpected => exact runs_circRelease hchan hcount hfind (if_pos (by simp [hbad]))
  case released => exact runs_circRelease hchan hcount hfind (if_neg (by simp [hok]))
  case gradient =>
    refine runs_gradDone hchan hcount hfind (fun hexp => ⟨fun _ _ _ _ => rfl, fun hbad => ?_⟩)
      fun hexp => ⟨fun hopen hback hnext hhop => absurd ⟨hopen, hback, hnext, hhop⟩ hexp, fun _ => rfl⟩
    rcases hbad with hclosed | hforward | hother | hover
    · exact absurd hexp.isOpen (by simp [hclosed])
    · exact absurd hexp.back (by simp [hforward])
    · exact absurd hexp.next hother
    · exact absurd hexp.hop (Nat.not_lt.2 hover)
  case unit =>
    exact ⟨_, execCircUnitLand_of_accepted hport hcls htyp hacc, fun hopen => if_pos hopen,
      fun hclosed => if_neg (by simp [hclosed])⟩
  case credit => exact runs_onUnit (decide_eq_true hchan) (if_neg (by omega))
  case feed => exact runs_onUnit (decide_eq_true hfeed) (if_neg (Nat.not_le.2 hcount))
  case noPeer => exact runs_onUnit (decide_eq_true hchan) (channelCanary_of_none hnone)
  case peer => exact runs_onUnit (decide_eq_true hchan) (channelCanary_of_peer hpeer)
  case bell => exact runs_next (if_pos ⟨hactive, by simp [hsent]⟩)
  case collective => exact runs_next rfl
  case intake => exact runs_next (if_pos ⟨hstarved, hattempt⟩)
  case gather => exact runs_onUnit (decide_eq_true hdie) (gatherCanary_of_header hjob hphase hpeer)
  case walk =>
    rw [mapSrc_raise]
    exact runs_next (walkCanary_of_waiting hwaits)

end Sys2Proof.Machine

/-! ## Fields of a number -/

namespace Sys2Proof.Machine

section
variable {e v w hi lo h l n : Nat}

/-- Replacing a field leaves the bits above it and below it. -/
theorem putField_eq (hlo : lo ≤ hi) :
    putField e hi lo v = 2 ^ lo * (2 ^ (hi + 1 - lo) * (e / 2 ^ (hi + 1)) + v % 2 ^ (hi + 1 - lo)) + e % 2 ^ lo := by
  have hwidth : 2 ^ (hi + 1) = 2 ^ lo * 2 ^ (hi + 1 - lo) := by rw [← pow_add]; congr 1; omega
  have hlow := Nat.div_add_mod e (2 ^ lo)
  have hhigh := Nat.div_add_mod (e / 2 ^ lo) (2 ^ (hi + 1 - lo))
  rw [Nat.div_div_eq_div_mul, ← hwidth] at hhigh
  simp only [putField, fieldOf, Nat.shiftLeft_eq, Nat.shiftRight_eq_div_pow]
  rw [← hhigh] at hlow
  simp only [Nat.mul_add] at hlow ⊢
  simp only [Nat.mul_comm _ (2 ^ lo)]
  omega

theorem testBit_putField (hlo : lo ≤ hi) (i : Nat) :
    (putField e hi lo v).testBit i = if lo ≤ i ∧ i ≤ hi then v.testBit (i - lo) else e.testBit i := by
  rw [putField_eq hlo, Nat.testBit_two_pow_mul_add _ (Nat.mod_lt _ (Nat.two_pow_pos _)),
    Nat.testBit_two_pow_mul_add _ (Nat.mod_lt _ (Nat.two_pow_pos _)), Nat.testBit_div_two_pow]
  simp only [Nat.testBit_mod_two_pow]
  by_cases hbelow : i < lo
  · rw [if_pos hbelow, if_neg (by omega), decide_eq_true hbelow, Bool.true_and]
  · rw [if_neg hbelow]
    by_cases hin : i ≤ hi
    · rw [if_pos (by omega), if_pos (by omega), decide_eq_true (by omega), Bool.true_and]
    · rw [if_neg (by omega), if_neg (by omega)]
      congr 1; omega

theorem testBit_fieldOf (i : Nat) : (fieldOf e hi lo).testBit i = (decide (i < hi + 1 - lo) && e.testBit (lo + i)) := by
  rw [fieldOf, Nat.testBit_mod_two_pow, Nat.testBit_shiftRight]

/-- A field that was replaced reads as the new value, cut to its width. -/
theorem fieldOf_putField_same (hlo : lo ≤ hi) : fieldOf (putField e hi lo v) hi lo = v % 2 ^ (hi + 1 - lo) := by
  refine Nat.eq_of_testBit_eq fun i => ?_
  rw [testBit_fieldOf, testBit_putField hlo, Nat.testBit_mod_two_pow]
  by_cases hi' : i < hi + 1 - lo
  · rw [if_pos (by omega), Nat.add_sub_cancel_left]
  · simp [hi']

/-- Replacing a field leaves every field beside it. -/
theorem fieldOf_putField_of_disjoint (hlo : lo ≤ hi) (hout : h < lo ∨ hi < l) :
    fieldOf (putField e hi lo v) h l = fieldOf e h l := by
  refine Nat.eq_of_testBit_eq fun i => ?_
  rw [testBit_fieldOf, testBit_putField hlo, testBit_fieldOf]
  by_cases hi' : i < h + 1 - l
  · rw [if_neg (by omega)]
  · simp [hi']

theorem putField_lt (hlo : lo ≤ hi) (hn : hi < n) (h : e < 2 ^ n) : putField e hi lo v < 2 ^ n := by
  refine Nat.lt_pow_two_of_testBit _ fun i hi' => ?_
  rw [testBit_putField hlo, if_neg (by omega)]
  exact Nat.testBit_lt_two_pow (h.trans_le (Nat.pow_le_pow_right two_pos hi'))

/-- The number of the bytes of a number is the number, cut to those bytes (R5). -/
theorem ofBytes_toBytes : ∀ n v : Nat, ofBytes (toBytes n v) = v % 256 ^ n
  | 0, v => (Nat.mod_one v).symm
  | n + 1, v => by
    rw [toBytes, ofBytes, ofBytes_toBytes n, BitVec.toNat_ofNat, pow_succ' 256 n]
    exact Nat.mod_mul.symm

theorem ofBytes_lt : ∀ l : List Byte, ofBytes l < 256 ^ l.length
  | [] => Nat.one_pos
  | b :: l => by
    have hb := b.isLt
    have hl := ofBytes_lt l
    rw [ofBytes, List.length_cons, pow_succ']
    omega

end

end Sys2Proof.Machine

/-! ## Entries of the page map -/

namespace Sys2Proof.Machine

section
variable {e g : Nat}

/-- An entry takes 16 bytes. -/
theorem pentry_lt (s : State) (key : Nat) : pentry s key < 2 ^ 128 := by
  have h := ofBytes_lt (mread s.hbm (s.pmap.base + 16 * key) 16)
  rw [show (mread s.hbm (s.pmap.base + 16 * key) 16).length = 16 from rfl] at h
  exact h.trans_eq (by norm_num)

theorem peState_putGen : peState (putField e 127 96 g) = peState e := fieldOf_putField_of_disjoint (by decide) (by decide)

theorem peTier_putGen : peTier (putField e 127 96 g) = peTier e := fieldOf_putField_of_disjoint (by decide) (by decide)

theorem peFrame_putGen : peFrame (putField e 127 96 g) = peFrame e := fieldOf_putField_of_disjoint (by decide) (by decide)

theorem peGen_putGen : peGen (putField e 127 96 g) = g % 2 ^ 32 := fieldOf_putField_same (by decide)

theorem peNames_congr {d : Nat} (hstate : peState d = peState e) (htier : peTier d = peTier e)
    (hframe : peFrame d = peFrame e) : peNames d = peNames e := by
  unfold peNames
  rw [hstate, htier, hframe]

/-- The generation of an entry says nothing of its frame. -/
theorem peNames_putGen : peNames (putField e 127 96 g) = peNames e :=
  peNames_congr peState_putGen peTier_putGen peFrame_putGen

theorem peClean_of_placed (h : peState e = 1 ∨ peState e = 4) : peClean e = e := if_pos h

theorem peState_peClean : peState (peClean e) = peState e := by
  unfold peClean
  split
  · rfl
  · exact (fieldOf_putField_of_disjoint (by decide) (by decide)).trans (fieldOf_putField_of_disjoint (by decide) (by decide))

/-- An entry that is neither RESIDENT nor COPYING has no TIER once it is written (R213). -/
theorem peTier_peClean (h : ¬(peState e = 1 ∨ peState e = 4)) : peTier (peClean e) = 0 := by
  rw [peClean, if_neg h]
  exact (fieldOf_putField_of_disjoint (by decide) (by decide)).trans (fieldOf_putField_same (by decide))

/-- An entry that names a frame is written with the frame that it names (R213). -/
theorem peNames_peClean : peNames (peClean e) = peNames e := by
  by_cases h : peState e = 1 ∨ peState e = 4
  case pos => rw [peClean_of_placed h]
  case neg =>
    rw [peNames, peState_peClean, if_neg fun hc => h hc.1, peNames, if_neg fun hc => h hc.1]

theorem peNames_of_invalid (h : peState e = 0) : peNames e = none := if_neg (by simp [h])

/-- An entry without COW and SHARED (R224). -/
def unshared (e : Nat) : Nat := putField (putField e 25 25 0) 27 27 0

/-- Fields above COW and SHARED stay when the two are cleared. -/
theorem fieldOf_unshared {h l : Nat} (hout : 27 < l) :
    fieldOf (unshared e) h l = fieldOf e h l :=
  (fieldOf_putField_of_disjoint (by decide) (.inr hout)).trans
    (fieldOf_putField_of_disjoint (by decide) (.inr (by omega)))

theorem peState_unshared : peState (unshared e) = peState e := fieldOf_unshared (by decide)

/-- COW and SHARED of an entry say nothing of its frame. -/
theorem peNames_unshared : peNames (unshared e) = peNames e :=
  peNames_congr peState_unshared (fieldOf_unshared (by decide)) (fieldOf_unshared (by decide))

theorem unshared_lt (h : e < 2 ^ 128) : unshared e < 2 ^ 128 :=
  putField_lt (by decide) (by decide) (putField_lt (by decide) (by decide) h)

/-- The value that FREE writes: INVALID, with SEQ_SLOT and SCORE of the entry (R225). -/
def freedEntry (e : Nat) : Nat := place (fieldOf e 95 80) 16 80 + place (peSlot e) 20 5

theorem freedEntry_eq (e : Nat) : freedEntry e = fieldOf e 95 80 % 65536 * 2 ^ 80 + peSlot e % 1048576 * 32 := by
  simp only [freedEntry, place, Nat.shiftLeft_eq]
  norm_num

theorem peState_freedEntry : peState (freedEntry e) = 0 := by
  rw [freedEntry_eq, peState, fieldOf, Nat.shiftRight_eq_div_pow]
  omega

theorem freedEntry_lt : freedEntry e < 2 ^ 128 := by
  rw [freedEntry_eq]
  omega

theorem peClean_lt (h : e < 2 ^ 128) : peClean e < 2 ^ 128 := by
  unfold peClean
  split
  · exact h
  · exact putField_lt (by decide) (by decide) (putField_lt (by decide) (by decide) h)

end

end Sys2Proof.Machine

/-! ## Writing an entry of the page map -/

namespace Sys2Proof.Machine

/-- Nothing waits for the page map: no edit, walk, recomputation, fence or channel. -/
structure MapIdle (s : State) : Prop where
  edits : s.pmap.edits = []
  walks : s.pmap.walks = []
  pendWait : s.pmap.pendWait = []
  fences : s.pmap.fenceStreams = []
  pend : s.pmap.pend = []
  chans : s.circ.chans = []

/-- A byte of HBM lies in the tables of a map configuration, past its header (R217). -/
def InMapTables (s : State) (b : Nat) : Prop := ∃ r, mapCfg s = some r ∧ r.base + 64 ≤ b

/-- A write of the map unit: bytes of HBM in some places, the near caches, LAST and the step log changed. -/
structure MapWritten (inside : Nat → Prop) (s t : State) : Prop where
  frame : t = { s with hbm := t.hbm, bad := t.bad, cells := t.cells
                       pmap := { s.pmap with last := t.pmap.last, log := t.pmap.log } }
  streams : ∀ k, (getCell t k).streams = (getCell s k).streams
  bytes : ∀ b, ¬inside b → mget t.hbm b = mget s.hbm b

section
variable {inside outer : Nat → Prop} {s t v : State} {key : Nat}

theorem MapWritten.refl (s : State) : MapWritten inside s s := ⟨rfl, fun _ => rfl, fun _ _ => rfl⟩

theorem MapWritten.trans (h : MapWritten inside s t) (g : MapWritten inside t v) : MapWritten inside s v := by
  refine ⟨?_, fun k => (g.streams k).trans (h.streams k), fun b hb => (g.bytes b hb).trans (h.bytes b hb)⟩
  have hframe := g.frame
  rw [h.frame] at hframe
  exact hframe

theorem MapWritten.mono (h : MapWritten inside s t) (hsub : ∀ b, inside b → outer b) : MapWritten outer s t :=
  ⟨h.frame, h.streams, fun b hb => h.bytes b fun hin => hb (hsub b hin)⟩

theorem MapWritten.idle (h : MapWritten inside s t) (hidle : MapIdle s) : MapIdle t := by
  rw [h.frame]
  exact ⟨hidle.edits, hidle.walks, hidle.pendWait, hidle.fences, hidle.pend, hidle.chans⟩

theorem MapWritten.inMapTables (h : MapWritten inside s t) (b : Nat) : InMapTables t b ↔ InMapTables s b := by
  rw [h.frame]
  exact Iff.rfl

theorem MapWritten.thenTables (h : MapWritten (InMapTables s) s t) (g : MapWritten (InMapTables t) t v) :
    MapWritten (InMapTables s) s v := h.trans (g.mono fun b => (h.inMapTables b).1)

/-- An entry whose bytes stay is the entry that it was. -/
theorem MapWritten.pentry (h : MapWritten inside s t)
    (hout : ∀ b, s.pmap.base + 16 * key ≤ b → b < s.pmap.base + 16 * key + 16 → ¬inside b) :
    pentry t key = pentry s key := by
  have hbase : t.pmap.base = s.pmap.base := by rw [h.frame]
  rw [Machine.pentry, Machine.pentry, hbase]
  refine congrArg ofBytes (List.map_congr_left fun b hb => h.bytes b ?_)
  obtain ⟨hlo, hhi⟩ := (mem_rangeFrom ..).1 hb
  exact hout b hlo hhi

theorem mapWritten_modCell {f : Cell → Cell} (h : ∀ c, (f c).streams = c.streams) (k : Nat) (s : State) :
    MapWritten inside s (modCell k f s) := ⟨rfl, fun j => streams_modCell h k j s, fun _ _ => rfl⟩

/-- The map unit writes bytes of HBM. -/
theorem mapWritten_writeTier (off : Nat) (d : List Byte) (s : State) :
    MapWritten (fun b => off ≤ b ∧ b < off + d.length) s (writeTier 0 off d s) :=
  ⟨rfl, fun _ => rfl, fun b hb => mget_mwrite_out _ _ _ _ (by omega)⟩

theorem mapWritten_mapWrite (off : Nat) (d : List Byte) (s : State) : MapWritten (InMapTables s) s (mapWrite off d s) := by
  unfold mapWrite
  split
  case h_1 r hr => exact (mapWritten_writeTier ..).mono fun b ⟨hlo, _⟩ => ⟨r, hr, by omega⟩
  case h_2 => exact .refl s

theorem mapWritten_raiseLast (slot o : Nat) (s : State) : MapWritten (InMapTables s) s (raiseLast slot o s) := by
  have hlast : MapWritten (InMapTables s) s { s with pmap := { s.pmap with last := tset 0 s.pmap.last slot (o + 1) } } :=
    ⟨rfl, fun _ => rfl, fun _ _ => rfl⟩
  unfold raiseLast
  dsimp only
  split
  · exact hlast.thenTables (mapWritten_mapWrite ..)
  · exact hlast

theorem mapWritten_pushLog (key st : Nat) (s : State) : MapWritten (InMapTables s) s (pushLog key st s) := by
  have hlog : MapWritten (InMapTables s) s { s with pmap := { s.pmap with log := s.pmap.log ++ [(key, st)] } } :=
    ⟨rfl, fun _ => rfl, fun _ _ => rfl⟩
  exact hlog.thenTables (mapWritten_mapWrite ..)

theorem discardAhead_zero (s : State) : discardAhead 0 s = s := rfl

/-- Where nothing walks, no copy of an entry is read ahead (R220). -/
theorem dropAhead_of_idle (h : MapIdle s) : dropAhead key s = s := by
  simp only [dropAhead, h.walks, h.chans, List.map_nil, List.sum_nil, Nat.add_zero, discardAhead_zero]
  rw [← h.walks, ← h.chans]

theorem mapWritten_ncDrop (k lo len : Nat) (s : State) : MapWritten inside s (ncDrop k lo len s) := by
  unfold ncDrop
  apply mapWritten_modCell
  exact fun _ => rfl

theorem mapWritten_dropEntryLine (h : MapIdle s) : MapWritten inside s (dropEntryLine key s) := by
  rw [dropEntryLine, dropAhead_of_idle h]
  exact List.foldlRecOn _ _ (.refl s) fun t ht k _ => ht.trans (mapWritten_ncDrop ..)

/-- The frame that an entry comes to name is counted before the entry is written (R222). -/
def countNew (old new : Nat) (s : State) : State :=
  match peNames new with
  | some f => if peNames old = some f then s else incCount f s
  | none => s

/-- The frame that an entry leaves is released after the entry is written (R222). -/
def countOld (old new : Nat) (s : State) : State :=
  match peNames old with
  | some f => if peNames new = some f then s else decCount f s
  | none => s

/-- After a write of an entry LAST rises, and the step log follows (R233, R237). -/
def noteEntry (key old new : Nat) (s : State) : State :=
  let o := key % 2 ^ slotShift s
  let s := if peState new = 1 ∧ tget 0 s.pmap.last (peSlot new) ≤ o then raiseLast (peSlot new) o s else s
  if logs s old new then pushLog key (peState old) s else s

/-- The entry that a write of new leaves: GEN one more, and TIER 0 unless it is RESIDENT or COPYING (R213, R222). -/
def entryAfter (old new : Nat) : Nat := putField (peClean new) 127 96 (peGen old + 1)

theorem writeEntry_eq (key new : Nat) (s : State) :
    writeEntry key new s = noteEntry key (pentry s key) (entryAfter (pentry s key) new)
      (countOld (pentry s key) (entryAfter (pentry s key) new) (dropEntryLine key
        (writeTier 0 ((countNew (pentry s key) (entryAfter (pentry s key) new) s).pmap.base + 16 * key)
          (toBytes 16 (entryAfter (pentry s key) new))
          (countNew (pentry s key) (entryAfter (pentry s key) new) s)))) := rfl

theorem countNew_of_same {old new : Nat} (h : peNames new = peNames old) : countNew old new s = s := by
  rw [countNew, h]
  cases peNames old with
  | none => rfl
  | some f => exact if_pos rfl

theorem countOld_of_same {old new : Nat} (h : peNames new = peNames old) : countOld old new s = s := by
  rw [countOld, h]
  cases peNames old with
  | none => rfl
  | some f => exact if_pos rfl

theorem peNames_entryAfter (old new : Nat) : peNames (entryAfter old new) = peNames new :=
  peNames_putGen.trans peNames_peClean

theorem mapWritten_noteEntry (old new : Nat) (s : State) : MapWritten (InMapTables s) s (noteEntry key old new s) := by
  have hlog (t : State) : MapWritten (InMapTables t) t (if logs t old new then pushLog key (peState old) t else t) := by
    split
    · exact mapWritten_pushLog ..
    · exact .refl t
  unfold noteEntry
  dsimp only
  split
  · exact (mapWritten_raiseLast ..).thenTables (hlog _)
  · exact hlog s

theorem peState_entryAfter (old new : Nat) : peState (entryAfter old new) = peState new :=
  peState_putGen.trans peState_peClean

theorem peGen_entryAfter (old new : Nat) : peGen (entryAfter old new) = (peGen old + 1) % 2 ^ 32 := peGen_putGen

/-- An entry that is written INVALID has TIER 0 (R213). -/
theorem peTier_entryAfter_of_invalid {old new : Nat} (h : peState new = 0) : peTier (entryAfter old new) = 0 :=
  peTier_putGen.trans (peTier_peClean (by omega))

/-- A write that leaves an entry with the frame that it names, or with none as before, changes no count (R222). -/
theorem writeEntry_of_same_frame {new : Nat} (h : peNames new = peNames (pentry s key)) :
    writeEntry key new s = noteEntry key (pentry s key) (entryAfter (pentry s key) new)
      (dropEntryLine key (writeTier 0 (s.pmap.base + 16 * key) (toBytes 16 (entryAfter (pentry s key) new)) s)) := by
  have hnames := (peNames_entryAfter (pentry s key) new).trans h
  rw [writeEntry_eq, countNew_of_same hnames, countOld_of_same hnames]

/-- A byte of a map entry (R212). -/
def InEntry (s : State) (key b : Nat) : Prop := s.pmap.base + 16 * key ≤ b ∧ b < s.pmap.base + 16 * key + 16

/-- The map's entries lie before the tables of a map configuration. -/
def EntriesBeforeTables (s : State) : Prop := ∀ r, mapCfg s = some r → s.pmap.base + 16 * s.pmap.entries ≤ r.base + 64

theorem EntriesBeforeTables.not_inMapTables (h : EntriesBeforeTables s) (hkey : key < s.pmap.entries) {b : Nat}
    (hb : InEntry s key b) : ¬InMapTables s b := by
  rintro ⟨r, hr, hlo⟩
  have hbefore := h r hr
  obtain ⟨-, hhi⟩ := hb
  omega

theorem pentry_writeTier (e : Nat) (s : State) :
    pentry (writeTier 0 (s.pmap.base + 16 * key) (toBytes 16 e) s) key = e % 2 ^ 128 := by
  have hread := mread_mwrite_same (toBytes 16 e) s.hbm (s.pmap.base + 16 * key)
  rw [toBytes_length] at hread
  calc pentry (writeTier 0 (s.pmap.base + 16 * key) (toBytes 16 e) s) key
    _ = ofBytes (toBytes 16 e) := congrArg ofBytes hread
    _ = e % 256 ^ 16 := ofBytes_toBytes ..
    _ = e % 2 ^ 128 := by norm_num

/-- A write of an entry that keeps its frame: the entry reads as written, and beside it only the tables of the map
configuration changed (R222, R233, R237). -/
theorem writeEntry_same_frame {new : Nat} (hidle : MapIdle s) (htables : EntriesBeforeTables s)
    (hkey : key < s.pmap.entries) (hnew : new < 2 ^ 128) (h : peNames new = peNames (pentry s key)) :
    pentry (writeEntry key new s) key = entryAfter (pentry s key) new ∧
      MapWritten (fun b => InEntry s key b ∨ InMapTables s b) s (writeEntry key new s) := by
  have hbytes : entryAfter (pentry s key) new < 2 ^ 128 := putField_lt (by decide) (by decide) (peClean_lt hnew)
  have hwrite : MapWritten (InEntry s key) s
      (writeTier 0 (s.pmap.base + 16 * key) (toBytes 16 (entryAfter (pentry s key) new)) s) :=
    (mapWritten_writeTier ..).mono fun b hb => by rwa [toBytes_length] at hb
  have hnote : MapWritten (InMapTables s)
      (writeTier 0 (s.pmap.base + 16 * key) (toBytes 16 (entryAfter (pentry s key) new)) s) (writeEntry key new s) := by
    rw [writeEntry_of_same_frame h]
    have hdrop := mapWritten_dropEntryLine (inside := InMapTables s) (key := key) (hwrite.idle hidle)
    exact hdrop.trans ((mapWritten_noteEntry ..).mono fun b hb =>
      (hwrite.inMapTables b).1 ((hdrop.inMapTables b).1 hb))
  refine ⟨?_, (hwrite.mono fun _ => .inl).trans (hnote.mono fun _ => .inr)⟩
  rw [hnote.pentry fun b hlo hhi => htables.not_inMapTables hkey ⟨hlo, hhi⟩, pentry_writeTier, Nat.mod_eq_of_lt hbytes]

end

end Sys2Proof.Machine

/-! ## Edits of the page map -/

namespace Sys2Proof.Machine

section
variable {s t : State} {key v no : Nat} {by_ : Editor}

theorem fenceCheck_of_no_fence (h : s.pmap.fenceStreams = []) :
    fenceCheck s = { s with pmap := { s.pmap with fenceHost := (fenceCheck s).pmap.fenceHost } } := by
  simp only [fenceCheck, h, List.filter_nil, List.foldl_nil]

theorem runWalks_of_idle (h : MapIdle s) : runWalks s = s := by
  simp only [runWalks, h.walks, h.chans, List.map_nil, List.foldl_nil]
  rw [← h.walks]

/-- Where nothing waits for the page map, at most the host's fence passes (R230). -/
theorem pumpMap_of_idle (h : MapIdle s) :
    pumpMap s = { s with pmap := { s.pmap with fenceHost := (pumpMap s).pmap.fenceHost } } := by
  have hpump : pumpMap s = fenceCheck s := by
    simp only [pumpMap, h.edits, List.foldl_nil]
    rw [← h.edits, runWalks_of_idle h]
  rw [hpump]
  exact fenceCheck_of_no_fence h.fences

theorem MapIdle.of_onlyCells (h : MapIdle s) (hcells : OnlyCells s t) : MapIdle t := by
  unfold OnlyCells at hcells
  rw [hcells]
  exact ⟨h.edits, h.walks, h.pendWait, h.fences, h.pend, h.chans⟩

/-- No recomputation is pending that a write could complete (R235). -/
theorem endRecomp_of_idle (h : MapIdle s) (key : Nat) : endRecomp key s = s := by
  refine if_neg fun hc => ?_
  obtain ⟨-, hpend⟩ := hc
  simp [h.pend, h.pendWait] at hpend

/-- An answer of the epoch keeper changes the stream that it goes to. -/
theorem onlyCells_editReply (by_ : Editor) (prev : Nat) (s : State) : OnlyCells s (editReply by_ prev s) := by
  cases by_ with
  | unit => rfl
  | stream k i res =>
    unfold editReply
    dsimp only
    split <;> rfl

/-- An edit whose turn has come, by its operation (R223 to R225). -/
def tryOp (e : Edit) (s : State) : Bool × State :=
  match e.op with
  | .set val => trySet e val s
  | .cow => tryCow e s
  | .free => tryFree e s

theorem tryEdit_of_done {e : Edit} (hidle : MapIdle s) (hstate : peState (pentry s e.key) ≠ 4)
    (htry : tryOp e s = (true, t)) : tryEdit s e = t := by
  have hturn : ¬(peState (pentry s e.key) = 4 ∨ s.pmap.edits.any (fun x => x.key == e.key) = true) := by
    simp [hstate, hidle.edits]
  have hstep : tryEdit s e = if (tryOp e s).1 then (tryOp e s).2
      else { (tryOp e s).2 with pmap := { (tryOp e s).2.pmap with edits := (tryOp e s).2.pmap.edits ++ [e] } } :=
    if_neg hturn
  rw [hstep, htry]
  exact if_pos rfl

/-- SET of a value that names no frame, and that the step log has room for, is done at once (R223, R237). -/
theorem tryOp_set_of_unnamed (hlog : logs s (pentry s key) v = true → logFull s = false) (hnames : peNames v = none) :
    tryOp ⟨key, .set v, by_, no⟩ s =
      (true, endRecomp key (editReply by_ (peGen (pentry s key)) (writeEntry key v s))) := by
  have hroom : ¬(logs s (pentry s key) v = true ∧ logFull s = true) := fun ⟨hlogs, hfull⟩ => by
    simp [hlog hlogs] at hfull
  have hfresh : ¬(peState v = 1 ∧ (peTier v = 1 ∨ peTier v = 2) ∧ peFrame v = 0xFFFFFF) := fun ⟨hst, htier, _⟩ => by
    rw [peNames, if_pos ⟨.inl hst, htier⟩] at hnames
    cases hnames
  exact (if_neg hroom).trans (if_neg hfresh)

/-- COW of a resident copy-on-write entry whose frame only it names needs no copy (R224). -/
theorem tryOp_cow_of_sole {f : FrameId} (hstate : peState (pentry s key) = 1)
    (hcow : bitAt (pentry s key) 25 = true) (hnames : peNames (pentry s key) = some f)
    (hcount : frameCount s f = 1) :
    tryOp ⟨key, .cow, by_, no⟩ s = (true, editReply by_ (peGen (pentry s key))
      (writeEntry key (unshared (pentry s key)) s)) := by
  have htier : peTier (pentry s key) ≠ 0 := fun hzero => by simp [peNames, hzero] at hnames
  have hpage : ¬(peState (pentry s key) ≠ 1 ∨ (!bitAt (pentry s key) 25) = true ∨ peTier (pentry s key) = 0) := by
    simp [hstate, hcow, htier]
  refine (if_neg hpage).trans ?_
  rw [hnames]
  exact if_pos (beq_iff_eq.2 hcount)

theorem tryOp_free : tryOp ⟨key, .free, by_, no⟩ s =
    (true, editReply by_ (peGen (pentry s key)) (writeEntry key (freedEntry (pentry s key)) s)) := rfl

end

section
variable {s t a : State} {u : StreamAt} {p : Pred} {res key new : Nat} {op : EditOp}

/-- The stream of an edit waits for its answer (R222). -/
def askEdit (u : StreamAt) (res : Nat) (s : State) : State :=
  modStream u.cell u.stream.toNat (fun q => { q with wait := some (.edit res), cause := .map }) s

/-- An edit that a stream sends arrives at the epoch keeper (R222). -/
def sendEdit (u : StreamAt) (res key : Nat) (op : EditOp) (s : State) : State :=
  arriveEdit { key := key, op := op, by_ := .stream u.cell u.stream.toNat res } (askEdit u res s)

/-- In a the edit of a stream has its turn: its stream waits for the answer, and it has taken its number (R222). -/
structure EditTurn (u : StreamAt) (res : Nat) (s a : State) : Prop where
  frame : a = { s with cells := a.cells, pmap := { s.pmap with editNo := a.pmap.editNo } }
  stream : streamOf a u = { streamOf s u with wait := some (.edit res), cause := .map }

theorem editEffect_of_suppressed {ok : Bool} (h : takesEffect (getCell s u.cell) p = false) :
    editEffect u p res key op ok s = stepOn u s := if_pos (by simp [h])

theorem editEffect_of_sent {ok : Bool} (h : takesEffect (getCell s u.cell) p = true) (hkey : key < s.pmap.entries)
    (hok : ok = true) : editEffect u p res key op ok s = sendEdit u res key op s :=
  (if_neg (by simp [h])).trans (if_neg (by simp [hkey, hok]))

theorem EditTurn.idle (h : EditTurn u res s a) (hidle : MapIdle s) : MapIdle a := by
  rw [h.frame]
  exact ⟨hidle.edits, hidle.walks, hidle.pendWait, hidle.fences, hidle.pend, hidle.chans⟩

theorem EditTurn.pentry (h : EditTurn u res s a) : pentry a key = pentry s key := by rw [h.frame]; rfl

/-- The regions of an image lie in the deep tier (R121, R122). -/
theorem imgRegions_congr (hdeep : a.deep = s.deep) (b : Nat) : imgRegions a b = imgRegions s b := by
  have hnum (t off n : Nat) : secNum a b t off n = secNum s b t off n := by
    simp only [secNum, secOff, imgNum, hdeep]
  have hregion (i : Nat) : imgRegionAt a b i = imgRegionAt s b i := by simp only [imgRegionAt, hnum]
  rw [imgRegions, hnum, funext hregion, imgRegions]

/-- The count of a frame is found by the image in the deep tier, the page size and HBM (R215). -/
theorem frameCount_congr (hplan : a.plan = s.plan) (hdeep : a.deep = s.deep) (hhbm : a.hbm = s.hbm)
    (hpage : a.pmap.page = s.pmap.page) (f : FrameId) : frameCount a f = frameCount s f := by
  have hregions : imgRegions a a.act = imgRegions s s.act := by
    rw [imgRegions_congr hdeep, State.act, hplan, State.act]
  simp only [frameCount, countAddr, frameIndex, pools, pageSize, imgKind, hregions, hpage, hhbm]

theorem EditTurn.frameCount (h : EditTurn u res s a) (f : FrameId) : frameCount a f = frameCount s f := by
  apply frameCount_congr <;> rw [h.frame]

theorem EditTurn.logs (h : EditTurn u res s a) (old new : Nat) : logs a old new = logs s old new := by
  rw [h.frame]; rfl

theorem EditTurn.logFull (h : EditTurn u res s a) : logFull a = logFull s := by rw [h.frame]; rfl

theorem EditTurn.entriesBeforeTables (h : EditTurn u res s a) (htables : EntriesBeforeTables s) :
    EntriesBeforeTables a := by
  rw [h.frame]
  exact htables

/-- With no edit waiting, the edit of an entry that is not COPYING has its turn at once (R222). -/
theorem sendEdit_of_turn {P : State → Prop} (hidle : MapIdle s) (hstate : peState (pentry s key) ≠ 4)
    (h : ∀ a, EditTurn u res s a → ∃ t, tryOp ⟨key, op, .stream u.cell u.stream.toNat res, s.pmap.editNo⟩ a = (true, t) ∧
      P (pumpMap t)) :
    P (sendEdit u res key op s) := by
  have hturn : EditTurn u res s
      { askEdit u res s with pmap := { s.pmap with editNo := s.pmap.editNo + 1 } } :=
    ⟨rfl, streamOf_modStream ..⟩
  obtain ⟨t, htry, ht⟩ := h _ hturn
  have hdone := tryEdit_of_done (hturn.idle hidle) (hturn.pentry ▸ hstate) htry
  rw [← hdone] at ht
  exact ht

/-- The answer of the epoch keeper goes to RES of the stream that waits for it, and the stream goes on (R222). -/
theorem editReply_of_waiting {prev : Nat} (h : (streamOf s u).wait = some (.edit res)) :
    editReply (.stream u.cell u.stream.toNat res) prev s = stepOn u (setS u.cell u.stream.toNat res prev s) := if_pos h

/-- Edit of entry key has left it as new and answered the GEN before; only bytes of the entry and of the tables of a
map configuration changed (R217, R222). -/
def EditAnswered (s : State) (u : StreamAt) (res key new : Nat) (t : State) : Prop :=
  pentry t key = new ∧
  streamOf t u = { (streamOf s u).next with
    s := tset 0 (streamOf s u).s res (BitVec.ofNat 64 (peGen (pentry s key))), cause := (streamOf t u).cause } ∧
  (∀ b, b < s.pmap.base + 16 * key ∨ s.pmap.base + 16 * key + 16 ≤ b →
    (∀ r, mapCfg s = some r → b < r.base + 64) → mget t.hbm b = mget s.hbm b) ∧ t.deep = s.deep

/-- A write of the map unit leaves the streams that wait for it. -/
theorem streamOf_mapWritten {inside : Nat → Prop} (h : MapWritten inside s t) : streamOf t u = streamOf s u :=
  congrArg (fun x : Table Stream => tget ({} : Stream) x u.stream.toNat) (h.streams u.cell)

/-- After its write an edit answers its stream, and nothing else goes on where nothing waits. -/
theorem editAnswered_of_written (hidle : MapIdle s) (hturn : EditTurn u res s a) (hnew : pentry t key = new)
    (hwrite : MapWritten (fun b => InEntry s key b ∨ InMapTables s b) a t) :
    EditAnswered s u res key new
      (pumpMap (editReply (.stream u.cell u.stream.toNat res) (peGen (pentry s key)) t)) := by
  have hwaits := (streamOf_mapWritten (u := u) hwrite).trans hturn.stream
  have hdeep : t.deep = s.deep := by rw [hwrite.frame, hturn.frame]
  have hbytes (b : Nat) : mget a.hbm b = mget s.hbm b := by rw [hturn.frame]
  rw [editReply_of_waiting (by rw [hwaits])]
  generalize hv : stepOn u (setS u.cell u.stream.toNat res (peGen (pentry s key)) t) = v
  have hcells : OnlyCells t v := by
    rw [← hv]
    exact (onlyStream_stepOn_modStream _).1.1
  have hstream : streamOf v u = { (streamOf s u).next with
      s := tset 0 (streamOf s u).s res (BitVec.ofNat 64 (peGen (pentry s key))), cause := .map } := by
    rw [← hv, streamOf_stepOn, streamOf_setS, hwaits]
    rfl
  have hpump := pumpMap_of_idle ((hwrite.idle (hturn.idle hidle)).of_onlyCells hcells)
  have hafter : streamOf (pumpMap v) u = streamOf v u := by rw [hpump]; rfl
  refine ⟨?_, ?_, fun b hentry htables => ?_, ?_⟩
  · rw [hpump]
    exact (hcells.pentry key).trans hnew
  · rw [hafter, hstream]
  · rw [hpump]
    refine ((congrArg (mget · b) hcells.hbm).trans (hwrite.bytes b ?_)).trans (hbytes b)
    rintro (⟨hlo, hhi⟩ | ⟨r, hr, hlo⟩)
    · omega
    · exact absurd (htables r hr) (Nat.not_lt.2 hlo)
  · rw [hpump]
    exact hcells.deep.trans hdeep

/-- The write of an edit that keeps the frame of its entry (R222). -/
theorem EditTurn.writeEntry (hturn : EditTurn u res s a) (hidle : MapIdle s) (htables : EntriesBeforeTables s)
    (hkey : key < s.pmap.entries) (hnew : new < 2 ^ 128) (h : peNames new = peNames (Machine.pentry s key)) :
    Machine.pentry (writeEntry key new a) key = entryAfter (Machine.pentry s key) new ∧
      MapWritten (fun b => InEntry s key b ∨ InMapTables s b) a (writeEntry key new a) := by
  have hentries : a.pmap.entries = s.pmap.entries := by rw [hturn.frame]
  have hplaces (b : Nat) : InEntry a key b ∨ InMapTables a b → InEntry s key b ∨ InMapTables s b := by
    rw [hturn.frame]
    exact id
  rw [← hturn.pentry] at h ⊢
  obtain ⟨hentry, hwrite⟩ := writeEntry_same_frame (hturn.idle hidle) (hturn.entriesBeforeTables htables)
    (hentries ▸ hkey) hnew h
  exact ⟨hentry, hwrite.mono hplaces⟩

/-- SET of a value that names no frame, to an entry that names none, writes the value (R223). -/
theorem editAnswered_set {v : Nat} (hidle : MapIdle s) (htables : EntriesBeforeTables s) (hkey : key < s.pmap.entries)
    (hstate : peState (pentry s key) ≠ 4) (hv : v < 2 ^ 128) (hnames : peNames v = none)
    (hold : peNames (pentry s key) = none) (hlog : logs s (pentry s key) v = true → logFull s = false) :
    EditAnswered s u res key (entryAfter (pentry s key) v) (sendEdit u res key (.set v) s) := by
  refine sendEdit_of_turn hidle hstate fun a hturn => ?_
  obtain ⟨hentry, hwrite⟩ := hturn.writeEntry hidle htables hkey hv (hnames.trans hold.symm)
  have hroom : logs a (pentry a key) v = true → logFull a = false := by
    rwa [hturn.logs, hturn.pentry, hturn.logFull]
  refine ⟨_, tryOp_set_of_unnamed hroom hnames, ?_⟩
  rw [endRecomp_of_idle ((hwrite.idle (hturn.idle hidle)).of_onlyCells (onlyCells_editReply ..))]
  rw [hturn.pentry]
  exact editAnswered_of_written hidle hturn hentry hwrite

/-- COW of a resident copy-on-write entry whose frame only it names clears COW and SHARED (R224). -/
theorem editAnswered_cow {f : FrameId} (hidle : MapIdle s) (htables : EntriesBeforeTables s)
    (hkey : key < s.pmap.entries) (hstate : peState (pentry s key) = 1) (hcow : bitAt (pentry s key) 25 = true)
    (hnames : peNames (pentry s key) = some f) (hcount : frameCount s f = 1) :
    EditAnswered s u res key (putField (unshared (pentry s key)) 127 96 (peGen (pentry s key) + 1))
      (sendEdit u res key .cow s) := by
  have hafter : entryAfter (pentry s key) (unshared (pentry s key)) =
      putField (unshared (pentry s key)) 127 96 (peGen (pentry s key) + 1) := by
    rw [entryAfter, peClean_of_placed (.inl (peState_unshared.trans hstate))]
  refine sendEdit_of_turn hidle (by omega) fun a hturn => ?_
  obtain ⟨hentry, hwrite⟩ := hturn.writeEntry hidle htables hkey (unshared_lt (pentry_lt s key)) peNames_unshared
  have hanswer := editAnswered_of_written hidle hturn (hentry.trans hafter) hwrite
  rw [← hturn.pentry] at hstate hcow hnames
  rw [← hturn.frameCount] at hcount
  refine ⟨_, tryOp_cow_of_sole hstate hcow hnames hcount, ?_⟩
  rwa [hturn.pentry]

/-- FREE of an entry that names no frame leaves it INVALID (R225). -/
theorem editAnswered_free (hidle : MapIdle s) (htables : EntriesBeforeTables s) (hkey : key < s.pmap.entries)
    (hstate : peState (pentry s key) ≠ 4) (hold : peNames (pentry s key) = none) :
    EditAnswered s u res key (entryAfter (pentry s key) (freedEntry (pentry s key))) (sendEdit u res key .free s) := by
  refine sendEdit_of_turn hidle hstate fun a hturn => ⟨_, tryOp_free, ?_⟩
  obtain ⟨hentry, hwrite⟩ := hturn.writeEntry hidle htables hkey freedEntry_lt
    ((peNames_of_invalid peState_freedEntry).trans hold.symm)
  rw [hturn.pentry]
  exact editAnswered_of_written hidle hturn hentry hwrite

/-- The two registers of VAL hold the 128 bits of an entry (R223). -/
theorem setValue_lt (s : State) (u : StreamAt) (val : BitVec 4) :
    sReg s u val + getS (streamOf s u) (val.toNat + 1) * 2 ^ 64 < 2 ^ 128 := by
  have hlow : sReg s u val < 2 ^ 64 := (tget 0#64 (streamOf s u).s val.toNat).isLt
  have hhigh : getS (streamOf s u) (val.toNat + 1) < 2 ^ 64 := (tget 0#64 (streamOf s u).s (val.toNat + 1)).isLt
  omega

end

section
variable {s : State} {u : StreamAt} {p : Pred} {res key val : BitVec 4} {P : State → Prop}

theorem runs_pmapSet (hs : Issues s u) (hp : predOk p = true) (hval : val.toNat % 2 = 0)
    (h : P (editEffect u p res.toNat (sReg s u key % 2 ^ 24)
      (.set (sReg s u val + getS (streamOf s u) (val.toNat + 1) * 2 ^ 64))
      (setOk (sReg s u val + getS (streamOf s u) (val.toNat + 1) * 2 ^ 64)) s)) :
    RunsTo (exec (.pmapSet u p res key val) s) P := by
  have hword : (predOk p && val.toNat % 2 == 0) = true := by rw [hp, hval]; rfl
  show RunsTo (execPmapSet ..) P
  exact runs_issue hs hword h

theorem runs_pmapCow (hs : Issues s u) (hp : predOk p = true)
    (h : P (editEffect u p res.toNat (sReg s u key % 2 ^ 24) .cow true s)) :
    RunsTo (exec (.pmapCow u p res key) s) P := by
  show RunsTo (execPmapCow ..) P
  exact runs_issue hs hp h

theorem runs_pmapFree (hs : Issues s u) (hp : predOk p = true)
    (h : P (editEffect u p res.toNat (sReg s u key % 2 ^ 24) .free true s)) :
    RunsTo (exec (.pmapFree u p res key) s) P := by
  show RunsTo (execPmapFree ..) P
  exact runs_issue hs hp h

end

/-- Settles O20: a suppressed edit goes on, one that takes effect is sent; where nothing waits it is done at once by
one write of its entry, which changes no count, and answers. -/
theorem mapEditsRewriteTheirEntry : Obligations.MapEditsRewriteTheirEntry := by
  unfold Obligations.MapEditsRewriteTheirEntry
  intro s u p res key hs hp
  refine ⟨fun val hval hoff x hx => ?suppressed, fun hon hkey => ?sent,
    fun hon hedits hwalks hpendWait hfences hpend hchans htables => ?answered⟩
  case suppressed =>
    simp only [List.mem_cons, List.not_mem_nil, or_false] at hx
    obtain rfl | rfl | rfl := hx
    · exact runs_pmapSet hs hp hval (editEffect_of_suppressed hoff)
    · exact runs_pmapCow hs hp (editEffect_of_suppressed hoff)
    · exact runs_pmapFree hs hp (editEffect_of_suppressed hoff)
  case sent =>
    refine ⟨?_, ?_, ?_⟩
    · intro val hval v hok
      exact runs_pmapSet hs hp hval (editEffect_of_sent hon hkey hok)
    · exact runs_pmapCow hs hp (editEffect_of_sent hon hkey rfl)
    · exact runs_pmapFree hs hp (editEffect_of_sent hon hkey rfl)
  case answered =>
    have hidle : MapIdle s := ⟨hedits, hwalks, hpendWait, hfences, hpend, hchans⟩
    intro k old answered hkey hstate
    refine ⟨?set, fun hold => ?free, fun f hresident hcow hnames hcount => ?cow⟩
    case set =>
      intro val hval v hok hnames hold hlog
      refine runs_pmapSet hs hp hval ?_
      rw [editEffect_of_sent hon hkey hok]
      exact editAnswered_set hidle htables hkey hstate (setValue_lt ..) hnames hold hlog
    case free =>
      refine runs_pmapFree hs hp ?_
      rw [editEffect_of_sent hon hkey rfl]
      have hanswer := editAnswered_free (u := u) (res := res.toNat) hidle htables hkey hstate hold
      have hentry := hanswer.1
      refine ⟨?_, ?_, ?_, hentry ▸ hanswer⟩
      · rw [hentry, peState_entryAfter, peState_freedEntry]
      · rw [hentry, peTier_entryAfter_of_invalid peState_freedEntry]
      · rw [hentry, peGen_entryAfter]
    case cow =>
      refine runs_pmapCow hs hp ?_
      rw [editEffect_of_sent hon hkey rfl]
      exact editAnswered_cow hidle htables hkey hresident hcow hnames hcount

end Sys2Proof.Machine

/-! ## Housekeeping of the page map -/

namespace Sys2Proof.Machine

section
variable {s : State} {u : StreamAt} {P : State → Prop} {cell line : Nat}

/-- A fence of a stream begins to wait (R230). -/
def waitFence (u : StreamAt) (s : State) : State :=
  modStream u.cell u.stream.toNat (fun t => { t with wait := some .fence, cause := .map })
    { s with pmap := { s.pmap with fenceStreams := s.pmap.fenceStreams ++ [(u.cell, u.stream.toNat, fenceSnap s)] } }

theorem runs_pmapFence (hs : Issues s u) (h : P (if fenceDone s (fenceSnap s) then stepOn u s else waitFence u s)) :
    RunsTo (exec (.pmapFence u) s) P := by
  show RunsTo (execPmapFence ..) P
  exact runs_issue hs rfl h

theorem streamOf_waitFence : streamOf (waitFence u s) u = { streamOf s u with wait := some .fence, cause := .map } :=
  streamOf_modStream ..

/-- The lines that a cell's near cache keeps when a line comes: no line of that number, and where its set of 8 is
full not the one used longest ago (R37). -/
def nearKept (c : Cell) (line : Nat) : List NcLine :=
  let rest := c.near.filter fun l => l.line != line
  if 8 ≤ (rest.filter fun l => l.line % 256 == line % 256).length then
    match (rest.filter fun l => l.line % 256 == line % 256).getLast? with
    | some old => rest.filter (· != old)
    | none => rest
  else rest

theorem line_ne_of_mem_nearKept (c : Cell) (line : Nat) : ∀ l ∈ nearKept c line, l.line ≠ line := by
  have hrest : ∀ l ∈ c.near.filter (fun l => l.line != line), l.line ≠ line := fun l hl =>
    bne_iff_ne.1 (List.mem_filter.1 hl).2
  unfold nearKept
  dsimp only
  split
  · split
    · exact fun l hl => hrest l (List.mem_filter.1 hl).1
    · exact hrest
  · exact hrest

/-- A line comes to a near cache with the bytes that memory holds (R37). -/
def fillNear (cell line : Nat) (s : State) : State :=
  modCell cell (fun c => { c with near :=
    ⟨line, readTier s (line / 2 ^ 41) (128 * (line % 2 ^ 41)) 128⟩ :: nearKept (getCell s cell) line }) s

/-- Where the operand cache of the cell does not act as a near cache nothing comes; a line that was held had a parity
error, which counts (R37, R39). -/
theorem runs_nearCacheFill (hcell : cellOk cell = true) (htier : line / 2 ^ 41 ≤ 1)
    (hplace : (if line / 2 ^ 41 = 0 then hbmOk (128 * (line % 2 ^ 41)) 128
      else deepOk (128 * (line % 2 ^ 41)) 128) = true)
    (h : P (if opMode s (getCell s cell) then s
      else if (getCell s cell).near.any (fun l => l.line == line) then countCE (nearSite cell) 0 (fillNear cell line s)
      else fillNear cell line s)) : RunsTo (exec (.nearCacheFill cell line) s) P := by
  show RunsTo (execNearCacheFill ..) P
  refine runs_onUnit ?_ h
  rw [hcell, decide_eq_true htier, hplace]
  rfl

theorem near_fillNear : (getCell (fillNear cell line s) cell).near =
    ⟨line, readTier s (line / 2 ^ 41) (128 * (line % 2 ^ 41)) 128⟩ :: nearKept (getCell s cell) line :=
  congrArg Cell.near (getCell_modCell ..)

/-- The line that came stands once in the near cache. -/
theorem filter_near_fillNear : (getCell (fillNear cell line s) cell).near.filter (fun l => l.line == line) =
    [⟨line, readTier s (line / 2 ^ 41) (128 * (line % 2 ^ 41)) 128⟩] := by
  have hkept : (nearKept (getCell s cell) line).filter (fun l => l.line == line) = [] :=
    List.filter_eq_nil_iff.2 fun l hl => by simp [line_ne_of_mem_nearKept _ _ l hl]
  simp only [near_fillNear, List.filter_cons, beq_self_eq_true, if_true, hkept]

/-- Of the module only the near cache of its cell changes when a line comes. -/
theorem getCell_fillNear : getCell (fillNear cell line s) cell =
    { getCell s cell with near := (getCell (fillNear cell line s) cell).near } := by
  rw [near_fillNear]
  exact getCell_modCell ..

/-- The oldest pin has held frames in limbo past the time-out, which is reported once (R231). -/
theorem runs_mapReclaimExpire {p : Pin} {rest : List Pin} (hpins : s.pmap.pins = p :: rest) (hlimbo : s.pmap.limbo ≠ [])
    (hraised : s.pmap.reclaimRaised = false) (hold : p.epoch < s.pmap.epoch)
    (h : P (raise (mapSrc s) 0x0304 [(18, 2, pinSource s p.who), (24, 8, p.epoch)]
      { s with pmap := { s.pmap with reclaimRaised := true } })) : RunsTo (exec .mapReclaimExpire s) P := by
  have hwaits : ¬(s.pmap.limbo = [] ∨ s.pmap.reclaimRaised = true ∨ s.pmap.epoch ≤ p.epoch) := by
    simp [hlimbo, hraised, hold]
  refine runs_next ?_
  rw [hpins]
  dsimp only
  rwa [if_neg hwaits]

/-- An edit has waited for a frame too long: its event, and the step or its user's request ends (R234). -/
theorem runs_allocationCanaryExpire {e : Edit} {tier : Nat}
    (hfind : s.pmap.edits.find? (fun e => (editTier s e).isSome) = some e) (htier : editTier s e = some tier)
    (h : P (let a := raise (mapSrc s) 0x0401 [(20, 4, e.key), (24, 1, tier)] s
      if workload a = 2 then pumpMap (endUser (e.key / 2 ^ slotShift a) cBudget a)
      else sendFail cCanaryTimeout (mapSrc a) a)) : RunsTo (exec .allocationCanaryExpire s) P := by
  refine runs_next ?_
  rw [hfind]
  dsimp only
  rwa [htier]

/-- The copy of an entry under way ends when all of its page has landed (R224). -/
theorem runs_cowCopyComplete {key : Nat} {c : CowJob} (hfind : s.pmap.cows.find? (fun c => c.key == key) = some c)
    (h : P (if xfersLeft s (.cow key) = 0 then cowDone c s else s)) : RunsTo (exec (.cowCopyComplete key) s) P := by
  refine runs_next ?_
  rwa [hfind]

/-- The relocation of an entry ends after two advances of the epoch (R239). -/
theorem runs_compactRelocate {r : Reloc} (hfind : s.pmap.relocs.find? (fun x => x.key == r.key) = some r)
    (h : P (if r.epoch + 2 ≤ s.pmap.epoch then endReloc r s else s)) : RunsTo (exec (.compactRelocate r.key) s) P := by
  refine runs_next ?_
  rwa [hfind]

end

/-- Settles O21: each event by the branch of its conditions, and a near-cache fill by the lines that it keeps. -/
theorem mapHousekeepingCompletes : Obligations.MapHousekeepingCompletes := by
  unfold Obligations.MapHousekeepingCompletes
  refine ⟨fun s u hs => ⟨fun hdone => ?fencePasses, fun hdone => ?fenceWaits⟩, fun s cell line hcell => ?fill,
    fun s => ⟨fun ⟨p, hp, hold⟩ => ?epochStays, fun hpins => ?epochAdvances⟩,
    fun s p rest hpins hlimbo hraised hold => runs_mapReclaimExpire hpins hlimbo hraised hold rfl,
    fun s hnone => ?noEdit, fun s e tier hfind htier => ?edit,
    fun s key => ⟨fun hnone => ?noCopy, fun c hfind => ⟨fun hleft => runs_cowCopyComplete hfind (if_pos hleft),
      fun hleft => runs_cowCopyComplete hfind (if_neg hleft)⟩⟩,
    fun s r hfind => ⟨fun hdue => runs_compactRelocate hfind (if_pos hdue),
      fun hearly => runs_compactRelocate hfind (if_neg (Nat.not_le.2 hearly))⟩⟩
  case fencePasses => exact runs_pmapFence hs (if_pos hdone)
  case fenceWaits =>
    refine runs_pmapFence hs ?_
    rw [hdone, if_neg Bool.false_ne_true, streamOf_waitFence]
    exact ⟨rfl, rfl, rfl⟩
  case fill =>
    intro tier off htier hplace
    refine ⟨fun hop => runs_nearCacheFill hcell htier hplace (if_pos hop),
      fun hop => runs_nearCacheFill hcell htier hplace ?_⟩
    rw [hop, if_neg Bool.false_ne_true]
    refine ⟨fillNear cell line s, onlyCell_modCell .., congrArg List.head? near_fillNear,
      congrArg List.length filter_near_fillNear, getCell_fillNear, fun hfresh => if_neg ?_, fun l hl hline => if_pos ?_⟩
    · simpa using hfresh
    · exact List.any_eq_true.2 ⟨l, hl, beq_iff_eq.2 hline⟩
  case epochStays => exact runs_next (if_pos (List.any_eq_true.2 ⟨p, hp, decide_eq_true hold⟩))
  case epochAdvances => exact runs_next (if_neg (by simpa using hpins))
  case noEdit =>
    have hfind : s.pmap.edits.find? (fun e => (editTier s e).isSome) = none :=
      List.find?_eq_none.2 fun e he => by simp [hnone e he]
    refine runs_next ?_
    rw [hfind]
  case edit =>
    exact runs_allocationCanaryExpire hfind htier ⟨_, rfl, fun hother => if_neg hother, fun hgenerate => if_pos hgenerate⟩
  case noCopy =>
    refine runs_next ?_
    rw [hnone]

end Sys2Proof.Machine

/-! ## The request rings of the stash, gather and update engines -/

namespace Sys2Proof.Machine

section
variable {s : State} {P : State → Prop} {die r : Nat} {d : List Byte}

theorem stashTab_isSome_of_ringHead (hhead : ringHead s (stashRing s die) = some (r, d)) : (stashTab s).isSome := by
  cases htab : stashTab s with
  | none => simp [stashRing, htab, ringHead] at hhead
  | some _ => rfl

theorem runs_stashServe {op : Nat} (f : List Byte → State → State) (hdie : die < 8)
    (hhead : ringHead s (stashRing s die) = some (r, d)) (hop : numAt d 0 1 = op) :
    RunsTo (stashServe die op f s) fun t =>
      t = signalLogical (numAt d 6 2) (numAt d 3 1 % 64) 1 (f d (enginePop r s).2) := by
  have htab : ¬(s.plan.active && (stashTab s).isNone) = true := by
    simp [Option.isSome_iff_ne_none.1 (stashTab_isSome_of_ringHead hhead)]
  refine runs_onUnit (decide_eq_true hdie) ?_
  rw [if_neg htab, hhead]
  exact if_neg (not_not.2 hop)

/-- A free gather engine takes the request at the head of its ring when the entry of the request exists (R268). -/
theorem runs_gatherRequest (hdie : die < 4) (hhead : ringHead s (gathRing s die) = some (r, d))
    (hjob : (getGath s die).job = none) (hentry : numAt d 4 4 < gathCount (enginePop r s).2)
    (h : P (let a := (enginePop r s).2
      gathStart die (numAt d 4 4) (modGath die (fun g => { g with
        job := some { pass := numAt d 0 1, sem := numAt d 1 1 % 64, cell := numAt d 2 2, entry := numAt d 4 4 }
        lastLayer := gathNum a (numAt d 4 4) 0 4 % 65536 }) a))) : RunsTo (exec (.gatherRequest die) s) P := by
  refine runs_onUnit (decide_eq_true hdie) ?_
  rw [hhead]
  dsimp only
  rwa [if_neg (by simp [hjob]), if_neg (Nat.not_le.2 hentry)]

/-- A gather that waits before its body, with no header on its way, reads the header again (R268). -/
theorem runs_gatherTagRetry {j : GatherJob} (hdie : die < 4) (hjob : (getGath s die).job = some j)
    (hphase : j.phase = 0) (hleft : xfersLeft s (.gatherHdr die) = 0)
    (h : P (gathStart die j.entry (bump (galBase die + 0x30010) 1250 s))) :
    RunsTo (exec (.gatherTagRetry die) s) P := by
  refine runs_onUnit (decide_eq_true hdie) ?_
  rw [hjob]
  dsimp only
  rwa [if_neg (by omega)]

/-- An idle update engine that no checkpoint holds pops an UPDATE and runs its descriptors (R282, R305). -/
theorem runs_updateRequest (hdie : die < 8) (hhead : ringHead s (updRing s die) = some (r, d))
    (hop : numAt d 8 1 ≠ 1) (hsignal : (getEng s die).signal = none) (hckpt : ckptHolds s = false)
    (h : P (requestOver die ((rangeFrom (numAt d 0 4) (numAt d 4 4)).foldl (updateOne die)
      (modEng die (fun e => { e with signal := some (numAt d 10 2, numAt d 9 1 % 64) }) (enginePop r s).2)))) :
    RunsTo (exec (.updateRequest die) s) P := by
  refine runs_onUnit (decide_eq_true hdie) ?_
  rw [hhead]
  dsimp only
  rwa [if_neg (by simp [hop, hsignal, hckpt])]

/-- A PUBLISH waits while a publication of the die runs (R285). -/
theorem runs_publishRequest_of_running (hdie : die < 8) (hhead : ringHead s (updRing s die) = some (r, d))
    (hrun : (getEng s die).publishing ≠ []) (h : P s) : RunsTo (exec (.publishRequest die) s) P := by
  refine runs_onUnit (decide_eq_true hdie) ?_
  rw [hhead]
  dsimp only
  rwa [if_pos (.inr hrun)]

/-- The state after a PUBLISH has been popped and the descriptors that the die does not have are counted (R285). -/
def publishPopped (die r : Nat) (d : List Byte) (s : State) : State :=
  let b := (enginePop r s).2
  bump (stopeBase die + 0x10010) ((rangeFrom (numAt d 0 4) (numAt d 4 4)).filter fun j =>
    decide (updCount b ≤ j) || updNum b j 7 1 != die).length b

/-- A PUBLISH that names no descriptor to publish signals at once (R285). -/
theorem runs_publishRequest_of_nil (hdie : die < 8) (hhead : ringHead s (updRing s die) = some (r, d))
    (hop : numAt d 8 1 = 1) (hidle : (getEng s die).publishing = [])
    (hlist : publishable (publishPopped die r d s) die (rangeFrom (numAt d 0 4) (numAt d 4 4)) = [])
    (h : P (signalLogical (numAt d 10 2) (numAt d 9 1 % 64) 1 (publishPopped die r d s))) :
    RunsTo (exec (.publishRequest die) s) P := by
  refine runs_onUnit (decide_eq_true hdie) ?_
  unfold publishPopped at hlist
  rw [hhead]
  dsimp only at hlist ⊢
  rw [if_neg (by simp [hop, hidle]), hlist]
  exact h

/-- A PUBLISH with descriptors to publish keeps its signal for the last of them and starts the first (R285). -/
theorem runs_publishRequest_of_ne_nil (hdie : die < 8) (hhead : ringHead s (updRing s die) = some (r, d))
    (hop : numAt d 8 1 = 1) (hidle : (getEng s die).publishing = [])
    (hlist : publishable (publishPopped die r d s) die (rangeFrom (numAt d 0 4) (numAt d 4 4)) ≠ [])
    (h : P (startPublish die (publishable (publishPopped die r d s) die (rangeFrom (numAt d 0 4) (numAt d 4 4)))
      (modEng die (fun e => { e with pubSignal := some (numAt d 10 2, numAt d 9 1 % 64) })
        (publishPopped die r d s)))) :
    RunsTo (exec (.publishRequest die) s) P := by
  obtain ⟨j, rest, hcons⟩ := List.exists_cons_of_ne_nil hlist
  rw [hcons] at h
  refine runs_onUnit (decide_eq_true hdie) ?_
  unfold publishPopped at hcons
  rw [hhead]
  dsimp only at hcons ⊢
  rw [if_neg (by simp [hop, hidle]), hcons]
  exact h

theorem headerWrite_of_nil (h : (getEng s die).headers = []) : headerWrite die s = s := by rw [headerWrite, h]

/-- The next header of a die is written at the front of the new copy, and its descriptor is written (R282). -/
theorem headerWrite_of_cons {p : HeaderJob} {rest : List HeaderJob} (h : (getEng s die).headers = p :: rest) :
    headerWrite die s =
      let t1 := updStep s
      let a := modEng die (fun e => { e with headers := rest }) (writeTier 1 (updBlock s p.desc (t1 % 2))
        (toBytes 8 t1 ++ toBytes 4 (updNum s p.desc 0 4) ++ toBytes 4 p.rms ++ List.replicate 48 0#8) s)
      sumUpdates (requestOver die { a with
        update := { a.update with written := insertNew a.update.written p.desc } }) := by
  rw [headerWrite, h]

theorem runs_publicationEnd_of_nil (hdie : die < 8) (hlist : (getEng s die).publishing = []) (h : P s) :
    RunsTo (exec (.publicationEnd die) s) P := by
  refine runs_onUnit (decide_eq_true hdie) ?_
  rwa [hlist]

/-- While descriptors are left, the end of a publication sends no signal (R285). -/
theorem runs_publicationEnd_of_more {j k : Nat} {rest : List Nat} (hdie : die < 8)
    (hlist : (getEng s die).publishing = j :: k :: rest) (h : P (restoreOver (publishOne die j (k :: rest) s))) :
    RunsTo (exec (.publicationEnd die) s) P := by
  refine runs_onUnit (decide_eq_true hdie) ?_
  rwa [hlist]

/-- After the last descriptor a publication that no request asked for sends no signal (R285, R306). -/
theorem runs_publicationEnd_of_last_none {j : Nat} (hdie : die < 8) (hlist : (getEng s die).publishing = [j])
    (hsignal : (getEng (restoreOver (publishOne die j [] s)) die).pubSignal = none)
    (h : P (restoreOver (publishOne die j [] s))) : RunsTo (exec (.publicationEnd die) s) P := by
  refine runs_onUnit (decide_eq_true hdie) ?_
  rw [hlist]
  dsimp only
  rwa [hsignal]

/-- After the last descriptor the signal of the PUBLISH leaves (R285). -/
theorem runs_publicationEnd_of_last_some {j : Nat} {g : Nat × Nat} (hdie : die < 8)
    (hlist : (getEng s die).publishing = [j])
    (hsignal : (getEng (restoreOver (publishOne die j [] s)) die).pubSignal = some g)
    (h : P (signalLogical g.1 g.2 1
      (modEng die (fun e => { e with pubSignal := none }) (restoreOver (publishOne die j [] s))))) :
    RunsTo (exec (.publicationEnd die) s) P := by
  refine runs_onUnit (decide_eq_true hdie) ?_
  rw [hlist]
  dsimp only
  rwa [hsignal]

end

/-- Settles O33: each engine by the branch of its conditions on the head of its ring. -/
theorem stashGatherAndUpdateRequestsComplete : Obligations.StashGatherAndUpdateRequestsComplete := by
  unfold Obligations.StashGatherAndUpdateRequestsComplete
  refine ⟨fun s die r d hdie hhead x hx hop => ?stash,
    fun s die r d hdie hhead hjob hentry => runs_gatherRequest hdie hhead hjob hentry rfl,
    fun s die j hdie hjob hphase hleft => runs_gatherTagRetry hdie hjob hphase hleft rfl,
    fun s die r d hdie hhead => ⟨fun hop hsignal hckpt => runs_updateRequest hdie hhead hop hsignal hckpt rfl,
      fun _ hrun => runs_publishRequest_of_running hdie hhead hrun rfl,
      fun hop hidle => ⟨fun hnil => runs_publishRequest_of_nil hdie hhead hop hidle hnil rfl,
        fun hne => runs_publishRequest_of_ne_nil hdie hhead hop hidle hne rfl⟩⟩,
    fun s die hdie => ⟨fun hnil => runs_onUnit (decide_eq_true hdie) (headerWrite_of_nil hnil),
      fun p rest hcons => runs_onUnit (decide_eq_true hdie) (headerWrite_of_cons hcons),
      fun hnil => runs_publicationEnd_of_nil hdie hnil rfl,
      fun j k rest hmore => runs_publicationEnd_of_more hdie hmore rfl,
      fun j hlast => ?last⟩⟩
  case stash =>
    simp only [List.mem_cons, List.not_mem_nil, or_false] at hx
    obtain rfl | rfl | rfl := hx
    all_goals exact runs_stashServe _ hdie hhead hop
  case last =>
    cases hsignal : (getEng (restoreOver (publishOne die j [] s)) die).pubSignal with
    | none =>
      exact runs_publicationEnd_of_last_none hdie hlast hsignal ⟨fun _ => rfl, fun g hg => by simp [hsignal] at hg⟩
    | some g =>
      refine runs_publicationEnd_of_last_some hdie hlast hsignal
        ⟨fun hnone => by simp [hsignal] at hnone, fun g' hg => ?_⟩
      obtain rfl : g = g' := Option.some.inj (hsignal.symm.trans hg)
      rfl

end Sys2Proof.Machine

/-! ## Bell messages that arrive -/

namespace Sys2Proof.Machine

section
variable {s a b : State} {x : BellIn} {r : RxFrame} {src code : Nat} {m : BellMsg} {p : BellMsg → Bool}
  {stale : State → Nat → BellMsg → Bool} {f : Nat → BellMsg → State → State} {P : State → Prop}

/-- A frame's message is acknowledged and recorded in the place of an older one before it has its effect (R358). -/
def bellNote (src : Nat) (m : BellMsg) (s : State) : State :=
  bellSend src (ackOf m) { s with bell := { s.bell with
    seen := s.bell.seen.filter (fun e => !sameSlot e (src, m)) ++ [(src, m)] } }

theorem bellApply_of_seen (hseen : (src, m) ∈ s.bell.seen) : bellApply src m true stale f s = bellSend src (ackOf m) s :=
  if_pos (by simpa using hseen)

theorem bellApply_of_new (hnew : (src, m) ∉ s.bell.seen) : bellApply src m true stale f s =
    if stale s src m then bump (galBase 0 + 0x50018) 1 s else f src m (bellNote src m s) :=
  if_neg (by simpa using hnew)

/-- A message that needs no ACK, one of the member's own or an ACK, is applied unless it is stale (R354, R358). -/
theorem bellApply_of_no_ack : bellApply src m false stale f s =
    if stale s src m then bump (galBase 0 + 0x50018) 1 s else f src m s := if_neg (by simp)

theorem onBell_of_frame (hport : portOk r.die r.port = true) (hcls : r.f.cls = 0) (htyp : r.f.typ = 0)
    (hacc : (accept r s).1 = true) (hp : p (bellOf r.f) = true) :
    onBell (.frame r) p stale f s =
      .next (bellApply r.f.src (bellOf r.f) ((bellOf r.f).kind != 2) stale f (accept r s).2) := by
  have hpick : bellIs (.frame r) p s = true := by simp [bellIs, hcls, htyp, hp]
  rw [onBell, if_neg (by simp [hpick])]
  exact onFrame_of_accepted hport hcls htyp hacc

/-- The first message of the queue is the one that a row takes whose test picks it. -/
theorem onBell_of_front (h : OwnFront s src m a) (hp : p m = true) :
    onBell .own p stale f s = .next (bellApply src m false stale f a) := by
  obtain ⟨rest, hqueue, rfl⟩ := h
  have hpick : bellIs .own p s = true := by simp [bellIs, hqueue, hp]
  have htake : bellTake p s.bell.selfQ = (some (src, m), rest) := by rw [hqueue]; exact if_pos hp
  rw [onBell, if_neg (by simp [hpick])]
  dsimp only
  rw [htake]

/-- A message that arrives and is new is dropped and counted if it is stale, and has its effect if not (R358). -/
theorem onBell_of_arrives (h : BellArrives x s src m a b) (hp : p m = true) :
    onBell x p stale f s = .next (if stale a src m then bump (galBase 0 + 0x50018) 1 a else f src m b) := by
  cases x with
  | own =>
    obtain ⟨hfront, rfl⟩ := h
    rw [onBell_of_front hfront hp, bellApply_of_no_ack]
  | frame r =>
    obtain ⟨hport, hcls, htyp, hacc, rfl, rfl, rfl, hkind, hnew, rfl⟩ := h
    rw [onBell_of_frame hport hcls htyp hacc hp, bne_iff_ne.2 hkind, bellApply_of_new hnew]
    rfl

theorem runs_onBell (h : BellArrives x s src m a b) (hp : p m = true) (hstale : stale a src m = false)
    (hP : P (f src m b)) : RunsTo (onBell x p stale f s) P :=
  ⟨_, onBell_of_arrives h hp, by rwa [hstale]⟩

theorem runs_onBell_of_stale (h : BellArrives x s src m a b) (hp : p m = true) (hstale : stale a src m = true)
    (hP : P (bump (galBase 0 + 0x50018) 1 a)) : RunsTo (onBell x p stale f s) P :=
  ⟨_, onBell_of_arrives h hp, by rwa [hstale]⟩

theorem runs_onStep (h : BellArrives x s src m a b) (hkind : m.kind = 3) (hcode : m.code = code)
    (hstale : stepStale a src m = false) (hP : P (f src m b)) : RunsTo (onStep x code f s) P :=
  runs_onBell h (by simp [hkind, hcode]) hstale hP

/-- The rows of the step messages of one pair differ in the code that they take and in their effect (R288). -/
theorem exec_stepMessage {y : Instr × Nat}
    (hy : y ∈ [(Instr.ready x, 1), (.fail x, 2), (.commit x, 3), (.abort x, 4), (.probe x, 5), (.lostReport x, 6)]) :
    ∃ f, exec y.1 s = onStep x y.2 f s := by
  simp only [List.mem_cons, List.not_mem_nil, or_false] at hy
  obtain rfl | rfl | rfl | rfl | rfl | rfl := hy
  all_goals exact ⟨_, rfl⟩

theorem runs_stepMessage_of_stale {y : Instr × Nat} (h : BellArrives x s src m a b) (hkind : m.kind = 3)
    (hstale : stepStale a src m = true)
    (hy : y ∈ [(Instr.ready x, 1), (.fail x, 2), (.commit x, 3), (.abort x, 4), (.probe x, 5), (.lostReport x, 6)])
    (hcode : m.code = y.2) : RunsTo (exec y.1 s) fun t => t = bump (galBase 0 + 0x50018) 1 a := by
  obtain ⟨f, hrow⟩ := exec_stepMessage hy
  rw [hrow]
  exact runs_onBell_of_stale h (by simp [hkind, hcode]) hstale rfl

/-- COMMIT ends a live attempt, counts the master's own acknowledgement, and from an acting master tells of the loss
(R298, R301). -/
theorem runs_commit (h : BellArrives x s src m a b) (hkind : m.kind = 3) (hcode : m.code = 3)
    (hstale : stepStale a src m = false)
    (hP : let c := if b.steps.live then commitEffect b else b
      let d := if src = b.me then commitAcked src c else c
      P (if src = imgMaster b b.act then d else haltLost d)) : RunsTo (exec (.commit x) s) P := by
  refine runs_onStep h hkind hcode hstale ?_
  simpa only [beq_iff_eq, bne_iff_ne, ne_eq, ite_not] using hP

theorem runs_abort (h : BellArrives x s src m a b) (hkind : m.kind = 3) (hcode : m.code = 4)
    (hstale : stepStale a src m = false)
    (hP : let c := abortEffect (m.value % 65536) b
      P (if b.steps.live = false then b else if c.steps.master.active then runOver (m.value % 65536) c else c)) :
    RunsTo (exec (.abort x) s) P := by
  refine runs_onStep h hkind hcode hstale ?_
  simpa only [Bool.not_eq_true'] using hP

/-- What the master keeps of a SWAP_READY: the code, whether the digest is that of its own staged image, and the first
code that fails (R137, R139). -/
def noteSwapReady (src : Nat) (m : BellMsg) (s : State) : State :=
  let same := m.payload.take 32 = imgDigest s s.stg
  { s with plan := { s.plan with
    ready := tset 0 s.plan.ready src (m.value % 65536 + 1)
    digests := if same then insertNew s.plan.digests src else s.plan.digests
    firstFail := s.plan.firstFail.or (if m.value % 65536 ≠ 0 then some (m.value % 65536)
      else if same then none else some cPlanInvalid) } }

theorem noteSwapReady_of_first_failure (hfails : m.value % 65536 ≠ 0) (hfirst : s.plan.firstFail = none) :
    noteSwapReady src m s = { s with plan := { s.plan with
      ready := tset 0 s.plan.ready src (m.value % 65536 + 1)
      digests := if m.payload.take 32 = imgDigest s s.stg then insertNew s.plan.digests src else s.plan.digests
      firstFail := some (m.value % 65536) } } := by
  rw [noteSwapReady, hfirst, if_pos hfails]
  rfl

theorem runs_swapReady (h : BellArrives x s src m a b) (hkind : m.kind = 4) (hcode : m.code = 0)
    (hP : P (if swapHeld b = false ∨ stagedMaster b = false then b else swapDecide (noteSwapReady src m b))) :
    RunsTo (exec (.swapReady x) s) P := by
  refine runs_onBell h (by simp [hkind, hcode]) rfl ?_
  simpa only [Bool.not_eq_true', noteSwapReady, beq_iff_eq] using hP

/-- This member's rank among the members of an operation's tree (R355). -/
def bellRank (m : BellMsg) (s : State) : Nat :=
  rankIn (bellGroup s m.group m.chan) (if m.chan = 4 then imgSetIndex s s.stg else s.me)

/-- A child's UP: it waits for the member's next operation, or is combined into the present one (R355, R357). -/
theorem runs_bellUp (h : BellArrives x s src m a b) (hkind : m.kind = 0)
    (hstale : seqBehind m.seq (getOp a m.group m.chan).seq = false)
    (hP : let o := getOp b m.group m.chan
      P (if src ∉ bellChildren (bellGroup b m.group m.chan) (bellRank m b) then b
        else if m.seq = nextOp o then setOp m.group m.chan { o with early := o.early ++ [(src, m.value)] } b
        else if m.seq ≠ o.seq ∨ src ∈ o.heard then b
        else permEnd (bellTry m.group m.chan (setOp m.group m.chan (bellHear o (src, m.value)) b)))) :
    RunsTo (exec (.bellUp x) s) P := runs_onBell h (by simp [hkind]) hstale hP

theorem runs_bellDown (h : BellArrives x s src m a b) (hkind : m.kind = 1)
    (hstale : seqBehind m.seq (getOp a m.group m.chan).seq = false)
    (hP : let o := getOp b m.group m.chan
      P (if o.active ∧ o.upSent ∧ m.seq = o.seq ∧ src = bellParent (bellGroup b m.group m.chan) (bellRank m b)
        then permEnd (bellDeliver m.group m.chan m.value b) else b)) :
    RunsTo (exec (.bellDown x) s) P := runs_onBell h (by simp [hkind]) hstale hP

theorem runs_bellRow_of_stale (h : BellArrives x s src m a b) (hkind : m.kind = 0 ∨ m.kind = 1)
    (hstale : seqBehind m.seq (getOp a m.group m.chan).seq = true) :
    RunsTo (exec (if m.kind = 0 then .bellUp x else .bellDown x) s) fun t => t = bump (galBase 0 + 0x50018) 1 a := by
  rcases hkind with hup | hdown
  · rw [if_pos hup]
    exact runs_onBell_of_stale h (by simp [hup]) hstale rfl
  · rw [if_neg (by omega)]
    exact runs_onBell_of_stale h (by simp [hdown]) hstale rfl

theorem seqBehind_self (n : Nat) : seqBehind n n = false := by simp [seqBehind]

/-- The operation that an active one is followed by has another number (R357). -/
theorem ne_nextOp_of_active {o : BellOp} (h : o.active = true) : o.seq ≠ nextOp o := by
  rw [nextOp, if_pos h]
  omega

end

/-- Settles O24: what arrives is stale or has the effect of its row; the queue of the member's own messages is the case
in which nothing is acknowledged between arrival and effect. -/
theorem messagesToItselfTakeEffect : Obligations.MessagesToItselfTakeEffect := by
  unfold Obligations.MessagesToItselfTakeEffect
  refine ⟨fun s a b x src m h => ⟨?staleStep, ?step, ?go, ?swapReady, ?swapGo, ?swapAbort, ?staleOp, ?op⟩,
    fun s s' src m hfront => ?own⟩
  case staleStep => exact fun hkind hstale y hy hcode => runs_stepMessage_of_stale h hkind hstale hy hcode
  case step =>
    intro hkind hstale
    refine ⟨fun hcode => runs_onStep h hkind hcode hstale rfl, fun hcode => runs_onStep h hkind hcode hstale rfl,
      fun hcode => runs_commit h hkind hcode hstale rfl, fun hcode => runs_abort h hkind hcode hstale ?_,
      fun hcode => runs_onStep h hkind hcode hstale rfl, fun hcode => runs_onStep h hkind hcode hstale rfl⟩
    exact ⟨fun hdead => if_pos hdead, fun hlive => if_neg (ne_false_of_eq_true hlive)⟩
  case go => exact fun hkind hcode hstale => runs_onBell h (by simp [hkind, hcode]) hstale rfl
  case swapReady =>
    refine fun hkind hcode => runs_swapReady h hkind hcode ⟨fun hnot => if_pos hnot, fun hheld hmaster => ?_⟩
    exact if_neg (by simp [hheld, hmaster])
  case swapGo => exact fun hkind hcode => runs_onBell h (by simp [hkind, hcode]) rfl rfl
  case swapAbort => exact fun hkind hcode => runs_onBell h (by simp [hkind, hcode]) rfl rfl
  case staleOp => exact fun hkind hstale => runs_bellRow_of_stale h hkind hstale
  case op =>
    intro hstale l rank o
    refine ⟨fun hkind => runs_bellUp h hkind hstale ⟨?_, ?_, ?_, ?_⟩, fun hkind => runs_bellDown h hkind hstale rfl⟩
    · exact fun hchild => if_pos hchild
    · exact fun hchild hnext => (if_neg (not_not.2 hchild)).trans (if_pos hnext)
    · exact fun hchild hnext hskip => (if_neg (not_not.2 hchild)).trans ((if_neg hnext).trans (if_pos hskip))
    · refine fun hchild hnext hseq hheard => (if_neg (not_not.2 hchild)).trans ((if_neg hnext).trans (if_neg ?_))
      exact not_or.2 ⟨not_not.2 hseq, hheard⟩
  case own =>
    have h : BellArrives .own s src m s' s' := ⟨hfront, rfl⟩
    obtain ⟨rest, -, rfl⟩ := hfront
    refine ⟨fun hkind hpair y hy hcode => runs_stepMessage_of_stale h hkind ?stale hy hcode,
      fun hkind hattempt hstep => ?pair, fun hkind hcode hstale => runs_onBell h (by simp [hkind, hcode]) hstale rfl,
      fun hkind hcode => runs_onBell h (by simp [hkind, hcode]) rfl rfl,
      fun hkind hcode => runs_onBell h (by simp [hkind, hcode]) rfl rfl,
      fun hkind hcode hheld hmaster hfails hfirst => runs_swapReady h hkind hcode ?ready,
      fun hkind hstale => runs_bellRow_of_stale h hkind hstale, fun hseq => ?present⟩
    case stale => simpa [stepStale] using hpair
    case pair =>
      have hstale : stepStale s src m = false := by simp [stepStale, hattempt, hstep]
      refine ⟨fun hcode => runs_onStep h hkind hcode hstale rfl, fun hcode => runs_onStep h hkind hcode hstale rfl,
        fun hcode hlive hother hmaster => runs_commit h hkind hcode hstale ?commit,
        fun hcode hlive hmember => runs_abort h hkind hcode hstale ?abort,
        fun hcode => runs_onStep h hkind hcode hstale rfl, fun hcode => runs_onStep h hkind hcode hstale rfl⟩
      case commit => exact (if_pos hmaster).trans ((if_neg hother).trans (if_pos hlive))
      case abort => exact (if_neg (ne_false_of_eq_true hlive)).trans (if_neg (ne_true_of_eq_false hmember))
    case ready =>
      refine (if_neg (not_or.2 ⟨ne_false_of_eq_true hheld, ne_false_of_eq_true hmaster⟩)).trans ?_
      exact congrArg swapDecide (noteSwapReady_of_first_failure hfails hfirst)
    case present =>
      have hstale : seqBehind m.seq (getOp s m.group m.chan).seq = false := by rw [hseq, seqBehind_self]
      intro l rank o
      refine ⟨fun hkind hchild hheard => runs_bellUp h hkind hstale ⟨fun hactive => ?_, fun hidle => ?_⟩,
        fun hkind hactive hsent hparent => runs_bellDown h hkind hstale (if_pos ⟨hactive, hsent, hseq.symm, hparent⟩)⟩
      · have hnext : m.seq ≠ nextOp o := hseq ▸ ne_nextOp_of_active hactive
        refine (if_neg (not_not.2 hchild)).trans ((if_neg hnext).trans (if_neg ?_))
        exact not_or.2 ⟨not_not.2 hseq.symm, hheard⟩
      · have hnext : m.seq = nextOp o := by rw [nextOp, if_neg (by simp [hidle]), hseq]
        exact (if_neg (not_not.2 hchild)).trans (if_pos hnext)

end Sys2Proof.Machine

/-! ## Bell frames and their acknowledgements -/

namespace Sys2Proof.Machine

section
variable {s : State} {r : RxFrame} {P : State → Prop}

/-- A Bell frame arrives at a port of the module and passes the acceptance checks (R323). -/
structure BellAccepted (r : RxFrame) (s : State) : Prop where
  port : portOk r.die r.port = true
  cls : r.f.cls = 0
  typ : r.f.typ = 0
  delivered : (accept r s).1 = true

/-- A message in an accepted frame, no ACK and not applied before, arrives (R354, R358). -/
theorem BellAccepted.arrives (h : BellAccepted r s) (hkind : (bellOf r.f).kind ≠ 2)
    (hnew : (r.f.src, bellOf r.f) ∉ (accept r s).2.bell.seen) :
    BellArrives (.frame r) s r.f.src (bellOf r.f) (accept r s).2 (bellNote r.f.src (bellOf r.f) (accept r s).2) :=
  ⟨h.port, h.cls, h.typ, h.delivered, rfl, rfl, rfl, hkind, hnew, rfl⟩

/-- A message that was applied already is acknowledged again, whatever its row would do (R358). -/
theorem BellAccepted.runs_of_seen (h : BellAccepted r s) {p : BellMsg → Bool} {stale : State → Nat → BellMsg → Bool}
    {f : Nat → BellMsg → State → State} (hp : p (bellOf r.f) = true) (hkind : (bellOf r.f).kind ≠ 2)
    (hseen : (r.f.src, bellOf r.f) ∈ (accept r s).2.bell.seen)
    (hP : P (bellSend r.f.src (ackOf (bellOf r.f)) (accept r s).2)) : RunsTo (onBell (.frame r) p stale f s) P := by
  refine ⟨_, onBell_of_frame h.port h.cls h.typ h.delivered hp, ?_⟩
  rwa [bne_iff_ne.2 hkind, bellApply_of_seen hseen]

/-- The message that an ACK acknowledges waits no more (R354, R358). -/
def withoutOut (o : BellOut) (s : State) : State := { s with bell := { s.bell with out := s.bell.out.erase o } }

/-- What an ACK does that is not stale: the message that it acknowledges waits no more, and a step message of the
present pair is answered (R288, R358). -/
def ackEffect (src : Nat) (m : BellMsg) (s : State) : State :=
  match s.bell.out.find? (acks src m) with
  | none => s
  | some o =>
    let s := withoutOut o s
    if o.msg.kind = 3 ∧ !stepStale s src o.msg then ackedStep src o.msg.code s else s

theorem ackEffect_of_none {src : Nat} {m : BellMsg} (h : s.bell.out.find? (acks src m) = none) : ackEffect src m s = s := by
  rw [ackEffect, h]

theorem ackEffect_of_some {src : Nat} {m : BellMsg} {o : BellOut} (h : s.bell.out.find? (acks src m) = some o) :
    ackEffect src m s = if o.msg.kind = 3 ∧ stepStale (withoutOut o s) src o.msg = false
      then ackedStep src o.msg.code (withoutOut o s) else withoutOut o s := by
  rw [ackEffect, h]
  simp only [Bool.not_eq_true']

/-- An ACK draws no ACK; only that of a step message of another pair is stale (R288, R354). -/
theorem BellAccepted.runs_ack (h : BellAccepted r s) (hkind : (bellOf r.f).kind = 2)
    (hP : P (if ackStale (accept r s).2 r.f.src (bellOf r.f) then bump (galBase 0 + 0x50018) 1 (accept r s).2
      else ackEffect r.f.src (bellOf r.f) (accept r s).2)) : RunsTo (exec (.ack (.frame r)) s) P := by
  refine ⟨_, onBell_of_frame h.port h.cls h.typ h.delivered (by simp [hkind]), ?_⟩
  rw [bne_eq_false_iff_eq.2 hkind, bellApply_of_no_ack]
  exact hP

theorem BellAccepted.runs_ack_of_stale (h : BellAccepted r s) (hkind : (bellOf r.f).kind = 2)
    (hcode : (bellOf r.f).code = 3) (hstale : stepStale (accept r s).2 r.f.src (bellOf r.f) = true)
    (hP : P (bump (galBase 0 + 0x50018) 1 (accept r s).2)) : RunsTo (exec (.ack (.frame r)) s) P :=
  h.runs_ack hkind (by rwa [if_pos (by simp [ackStale, hcode, hstale])])

theorem BellAccepted.runs_ack_of_present (h : BellAccepted r s) (hkind : (bellOf r.f).kind = 2)
    (hpresent : (bellOf r.f).code ≠ 3 ∨ stepStale (accept r s).2 r.f.src (bellOf r.f) = false)
    (hP : P (ackEffect r.f.src (bellOf r.f) (accept r s).2)) : RunsTo (exec (.ack (.frame r)) s) P := by
  refine h.runs_ack hkind ?_
  rwa [if_neg]
  intro hstale
  obtain ⟨hcode, hother⟩ := Bool.and_eq_true_iff.1 hstale
  rcases hpresent with hnot | hpair
  · exact hnot (eq_of_beq hcode)
  · exact Bool.false_ne_true (hpair.symm.trans hother)

end

/-- Settles O25: a frame's message is an ACK, or was applied already, or arrives. -/
theorem bellFramesAreAcknowledged : Obligations.BellFramesAreAcknowledged := by
  unfold Obligations.BellFramesAreAcknowledged
  intro s r hport hcls htyp hacc m a
  have h : BellAccepted r s := ⟨hport, hcls, htyp, hacc⟩
  refine ⟨fun hseen hkind y hy hcode => ?seen, fun hnew hkind => ?new,
    fun hkind hcode hstale => h.runs_ack_of_stale hkind hcode hstale rfl,
    fun hkind hpresent hnone => h.runs_ack_of_present hkind hpresent (ackEffect_of_none hnone),
    fun hkind hpresent o hfind => ⟨fun hother => ?other, fun hstep hpair => ?answered⟩⟩
  case seen =>
    have hrow : ∃ stale f, exec y.1 s = onBell (.frame r) (fun b => b.kind == 3 && b.code == y.2) stale f s := by
      obtain rfl | hmem := List.mem_cons.1 hy
      · exact ⟨_, _, rfl⟩
      · obtain ⟨f, hf⟩ := exec_stepMessage hmem
        exact ⟨_, f, hf⟩
    obtain ⟨stale, f, hf⟩ := hrow
    rw [hf]
    have hpick : ((bellOf r.f).kind == 3 && (bellOf r.f).code == y.2) = true := by
      rw [show (bellOf r.f).kind = 3 from hkind, show (bellOf r.f).code = y.2 from hcode]
      simp
    exact h.runs_of_seen hpick (ne_of_eq_of_ne hkind (by decide)) hseen rfl
  case new =>
    intro b
    have harrives : BellArrives (.frame r) s r.f.src m a b := h.arrives (ne_of_eq_of_ne hkind (by decide)) hnew
    refine ⟨fun hcode hstale => runs_onBell harrives (by simp [hkind, hcode]) hstale rfl, fun hstale =>
      ⟨fun hcode => runs_onStep harrives hkind hcode hstale rfl, fun hcode => runs_onStep harrives hkind hcode hstale rfl,
        fun hcode hlive hmember => runs_abort harrives hkind hcode hstale ?_,
        fun hcode => runs_onStep harrives hkind hcode hstale rfl⟩⟩
    exact (if_neg (ne_false_of_eq_true hlive)).trans (if_neg (ne_true_of_eq_false hmember))
  case other =>
    refine h.runs_ack_of_present hkind hpresent ((ackEffect_of_some hfind).trans (if_neg fun ⟨hstep, hpair⟩ => ?_))
    rcases hother with hnot | hstale
    · exact hnot hstep
    · exact Bool.false_ne_true (hpair.symm.trans hstale)
  case answered => exact h.runs_ack_of_present hkind hpresent ((ackEffect_of_some hfind).trans (if_pos ⟨hstep, hpair⟩))

end Sys2Proof.Machine

/-! ## Checkpoints and restores -/

namespace Sys2Proof.Machine

section
variable {s : State} {c : CmdRef} {r : Region} {step flags addr len : Nat} {P : State → Prop}

/-- A checkpoint of the committed step can be written to a region (R304). -/
structure CkptCanWrite (s : State) (r : Region) (step flags len : Nat) : Prop where
  region : imgKind s s.act 8 = some r
  state : s.pwr.state ∈ [stPlanned, stRunning, stHalted]
  active : s.plan.active = true
  committed : s.steps.committed = step
  idle : s.ckpt.cmd = none
  known : flags < 4
  mirror : bitAt flags 0 = true → hasBuddy s = true
  room : bitAt flags 1 = true → slotBytes (ownBody s) ≤ len

/-! A command that is taken changes neither memory nor plan, so nothing that a checkpoint reads there (R444). -/

@[simp] theorem deepSlot_take (id op : Nat) : deepSlot (take id op s).2 = deepSlot s := rfl
@[simp] theorem updCount_take (id op : Nat) : updCount (take id op s).2 = updCount s := rfl
@[simp] theorem imgRegion_take (id op : Nat) : imgRegion (take id op s).2 = imgRegion s := rfl
@[simp] theorem updNum_take (id op : Nat) : updNum (take id op s).2 = updNum s := rfl
@[simp] theorem ckptBlock_take (id op : Nat) : ckptBlock (take id op s).2 = ckptBlock s := rfl
@[simp] theorem readTier_take (id op : Nat) : readTier (take id op s).2 = readTier s := rfl
@[simp] theorem ckpt_take (id op : Nat) : (take id op s).2.ckpt = s.ckpt := rfl
@[simp] theorem act_take (id op : Nat) : (take id op s).2.act = s.act := rfl
@[simp] theorem imgKind_take (id op : Nat) : imgKind (take id op s).2 = imgKind s := rfl

@[simp] theorem newestSlot_take (id op : Nat) : newestSlot (take id op s).2 = newestSlot s := by
  unfold newestSlot
  rw [deepSlot_take]

@[simp] theorem targetSlot_take (id op : Nat) : targetSlot (take id op s).2 = targetSlot s := by
  unfold targetSlot
  rw [newestSlot_take]

@[simp] theorem updBlock_take (id op : Nat) : updBlock (take id op s).2 = updBlock s := by
  unfold updBlock
  rw [imgRegion_take, updNum_take, act_take]

@[simp] theorem bodyBytes_take (id op : Nat) : bodyBytes (take id op s).2 = bodyBytes s := by
  unfold bodyBytes
  rw [updCount_take, updBlock_take, ckptBlock_take, readTier_take, act_take, imgKind_take]

@[simp] theorem ckptHeader_take (id op : Nat) : ckptHeader (take id op s).2 = ckptHeader s := rfl

/-- The engine begins to write a slot, whose header it keeps for the end (R304). -/
def ckptBegin (c : CmdRef) (slot : Bool) (step flags addr len : Nat) (header : List Byte) (s : State) : State :=
  modCkpt (fun k => { k with
    st := .writing, cmd := some c, target := slot, step := step, mirror := bitAt flags 0, export_ := bitAt flags 1
    hostAddr := addr, hostLen := len, header := header }) s

/-- A slot loses its MAGIC before its CRC table and its body are written (R304). -/
def writeSlot (base : Nat) (body : List Byte) (s : State) : State :=
  writeTier 1 (base + bodyStart body.length) body (writeTier 1 (base + 4096) (crcTable body)
    (writeTier 1 base (toBytes 4 0) s))

theorem cmdCkptWrite_of_canWrite (h : CkptCanWrite s r step flags len) : cmdCkptWrite c step flags addr len s =
    let slot := targetSlot s r s.ckpt.target
    let body := bodyBytes s step
    writeSlot (slotAt r slot) body
      (ckptBegin c slot step flags addr len (ckptHeader s step body (crcTable body)) s) := by
  have hmirror : ¬(bitAt flags 0 ∧ !hasBuddy s) := by
    rintro ⟨hflag, hnone⟩
    simp [h.mirror hflag] at hnone
  have hexport : ¬(bitAt flags 1 ∧ len < slotBytes (ownBody s)) := fun ⟨hflag, hshort⟩ =>
    Nat.not_lt.2 (h.room hflag) hshort
  rw [cmdCkptWrite, if_neg (Nat.not_le.2 h.known), h.region]
  dsimp only
  rw [if_neg (by simp [h.state, h.active]), if_neg (not_not.2 h.committed), if_neg (by simp [h.idle]),
    if_neg hmirror, if_neg hexport]
  rfl

theorem runs_ckptWriteComplete_of_writing (hregion : imgKind s s.act 8 = some r) (hst : s.ckpt.st = .writing)
    (h : let base := slotAt r s.ckpt.target
      let body := numAt s.ckpt.header 40 8
      let a := writeTier 1 base s.ckpt.header s
      P (if a.ckpt.mirror then sendMirror base body (modCkpt (fun k => { k with st := .mirroring }) a)
        else ckptFinish base (slotBytes body) a)) : RunsTo (exec .ckptWriteComplete s) P := by
  refine runs_next ?_
  rw [hregion, hst]
  exact h

theorem runs_ckptWriteComplete_of_mirroring (hregion : imgKind s s.act 8 = some r) (hst : s.ckpt.st = .mirroring)
    (h : P (if mirrorLeft s then s
      else ckptFinish (slotAt r s.ckpt.target) (slotBytes (numAt s.ckpt.header 40 8)) s)) :
    RunsTo (exec .ckptWriteComplete s) P := by
  refine runs_next ?_
  rw [hregion, hst]
  exact h

theorem runs_ckptWriteComplete_of_exporting (hregion : imgKind s s.act 8 = some r) (hst : s.ckpt.st = .exporting)
    (h : P (ckptOver (slotAt r s.ckpt.target) (slotBytes (numAt s.ckpt.header 40 8)) s)) :
    RunsTo (exec .ckptWriteComplete s) P := by
  refine runs_next ?_
  rw [hregion, hst]
  exact h

/-- A restore can begin: between the steps, with no checkpoint command running (R306). -/
structure CkptCanRestore (s : State) : Prop where
  state : s.pwr.state = stPlanned ∨ s.pwr.state = stHalted
  active : s.plan.active = true
  phase : s.steps.phase = .idle
  notLive : s.steps.live = false
  idle : s.ckpt.cmd = none

/-- A restore of a step from a source begins (R306). -/
def restoreBegin (c : CmdRef) (step src addr : Nat) (s : State) : State :=
  modCkpt (fun k => { k with
    st := .restoring, cmd := some c, step := step, source := src, hostAddr := addr, buf := [], got := 0, want := 256
    again := [], units := [] }) (modSteps (fun t => { t with phase := .restoring }) s)

/-- How a restore goes on from its own slots: the newest of the step, if its units pass their CRCs (R306). -/
def restoreOwn (l : List SlotRead) (s : State) : State :=
  match l with
  | rd :: _ => if badUnits rd = [] then restoreFrom rd s else restoreFail cStepMismatch s
  | [] => restoreFail cStepMismatch s

theorem restoreOwn_of_nil {l : List SlotRead} (h : l = []) : restoreOwn l s = restoreFail cStepMismatch s := by
  rw [h]
  rfl

theorem restoreOwn_of_cons {l rest : List SlotRead} {rd : SlotRead} (h : l = rd :: rest) :
    restoreOwn l s = if badUnits rd = [] then restoreFrom rd s else restoreFail cStepMismatch s := by
  rw [h]
  rfl

/-- How a restore from its source goes on. -/
def restoreSource (step src addr : Nat) (s : State) : State :=
  match src with
  | 0 => restoreOwn (localSlots s step) s
  | 1 => askUnit (buddyOf s) headerUnit 256 (askUnit (buddyOf s) headerUnit 256 s)
  | _ => hostReadRange .checkpoint addr 256 s

theorem cmdCkptRestore_of_canRestore {src : Nat} (h : CkptCanRestore s) (hsrc : src ≤ 2) :
    cmdCkptRestore c step src addr s = if src = 1 ∧ hasBuddy s = false then ckptRefuse c cPlanInvalid s
      else restoreSource step src addr (restoreBegin c step src addr s) := by
  have hstate : ¬((s.pwr.state ≠ stPlanned ∧ s.pwr.state ≠ stHalted) ∨ !s.plan.active ∨ s.steps.phase ≠ .idle ∨
      s.steps.live) := by
    have hpwr := h.state
    simp only [h.active, h.phase, h.notLive]
    tauto
  rw [cmdCkptRestore, if_neg (Nat.not_lt.2 hsrc), if_neg hstate, if_neg (by simp [h.idle])]
  by_cases hmissing : src = 1 ∧ hasBuddy s = false
  · rw [if_pos (by simpa using hmissing), if_pos hmissing]
  · rw [if_neg (by simpa using hmissing), if_neg hmissing]
    dsimp only [restoreSource, restoreBegin]
    generalize localSlots _ step = l
    interval_cases src
    · cases l <;> rfl
    · rfl
    · rfl

theorem cmdCkptRestore_of_own_slots (h : CkptCanRestore s) : cmdCkptRestore c step 0 addr s =
    restoreOwn (localSlots (restoreBegin c step 0 addr s) step) (restoreBegin c step 0 addr s) :=
  (cmdCkptRestore_of_canRestore h (Nat.zero_le 2)).trans (if_neg (by simp))

/-- Outside PLANNED and HALTED nothing is restored (R306). -/
theorem cmdCkptRestore_of_other_state {src : Nat} (hsrc : src ≤ 2) (hplanned : s.pwr.state ≠ stPlanned)
    (hhalted : s.pwr.state ≠ stHalted) : cmdCkptRestore c step src addr s = ckptRefuse c cNotReady s := by
  rw [cmdCkptRestore, if_neg (Nat.not_lt.2 hsrc), if_pos (.inl ⟨hplanned, hhalted⟩)]

end

/-- Settles O30: each command or event by the branch of its conditions. -/
theorem checkpointCommandsComplete : Obligations.CheckpointCommandsComplete := by
  unfold Obligations.CheckpointCommandsComplete
  refine ⟨fun s id step flags addr len r hregion hstate hactive hcommitted hidle hknown hmirror hexport =>
      runs_next ?write,
    fun s r hregion => ⟨fun hst => runs_ckptWriteComplete_of_writing hregion hst rfl,
      fun hst => runs_ckptWriteComplete_of_mirroring hregion hst rfl,
      fun hst => runs_ckptWriteComplete_of_exporting hregion hst rfl⟩,
    fun s id step addr => ⟨fun hstate hactive hphase hlive hidle => ?restore,
      fun hplanned hhalted => runs_next ?refused⟩,
    fun s unit data crc => ⟨fun hst hsource hpublishing => runs_next ?restores,
      fun r hst hactive hregion => runs_next ?keeps⟩⟩
  case write =>
    have h : CkptCanWrite (take id.toNat 0x20 s).2 r step.toNat flags.toNat len.toNat :=
      ⟨hregion, hstate, hactive, hcommitted, hidle, hknown, hmirror, hexport⟩
    refine (cmdCkptWrite_of_canWrite h).trans ?_
    simp only [targetSlot_take, bodyBytes_take, ckptHeader_take, ckpt_take, writeSlot, ckptBegin]
  case restore =>
    have h : CkptCanRestore (take id.toNat 0x21 s).2 := ⟨hstate, hactive, hphase, hlive, hidle⟩
    refine ⟨runs_next ?own, runs_next ?buddy, runs_next ?host⟩
    case own =>
      exact ⟨fun hnil => (cmdCkptRestore_of_own_slots h).trans (restoreOwn_of_nil hnil),
        fun rd rest hcons => (cmdCkptRestore_of_own_slots h).trans (restoreOwn_of_cons hcons)⟩
    case buddy =>
      refine (cmdCkptRestore_of_canRestore h (by decide)).trans ?_
      by_cases hbuddy : hasBuddy (take id.toNat 0x21 s).2 = true
      · exact (if_neg (by simp [hbuddy])).trans (if_pos hbuddy).symm
      · exact (if_pos ⟨rfl, by simpa using hbuddy⟩).trans (if_neg hbuddy).symm
    case host => exact cmdCkptRestore_of_canRestore h (by decide)
  case refused => exact cmdCkptRestore_of_other_state (by decide) hplanned hhalted
  case restores => exact if_pos ⟨hst, hsource, by simp [hpublishing]⟩
  case keeps =>
    rw [if_neg (by simp [hst]), if_neg (by simp [hactive]), hregion]

end Sys2Proof.Machine

/-! ## Flows: acknowledgements, congestion marks and timers -/

namespace Sys2Proof.Machine

section
variable {s : State} {w : FlowId} {psn k j line : Nat} {f : SendCtx → SendCtx} {c : SendCtx} {P : State → Prop}

@[simp] theorem getSend_modSend_same (k : Nat) (f : SendCtx → SendCtx) (s : State) :
    getSend (modSend k f s) k = f (getSend s k) := tget_tmod_same ({} : SendCtx) s.sends k f

theorem getSend_modSend_ne (h : j ≠ k) : getSend (modSend k f s) j = getSend s j := tget_tmod_ne ({} : SendCtx) s.sends f h

theorem exec_cnp (r : RxFrame) (s : State) : exec (.cnp r) s = execCnp r s := rfl

/-- The reorder allowance of the frame of a PSN ends (R327). -/
def endAllowance (psn : Nat) (c : SendCtx) : SendCtx :=
  { c with unacked := c.unacked.map fun g => if g.frame.psn = psn then { g with allowance := false } else g }

theorem runs_reorderExpire_of_none (hflow : flowOk w = true)
    (hfind : (getSend s (flowIdKey w)).unacked.find? (fun h => h.frame.psn == psn) = none) (h : P s) :
    RunsTo (exec (.reorderExpire w psn) s) P := by
  refine runs_onUnit hflow ?_
  rwa [hfind]

theorem runs_reorderExpire_of_some {held : Held} (hflow : flowOk w = true)
    (hfind : (getSend s (flowIdKey w)).unacked.find? (fun h => h.frame.psn == psn) = some held)
    (h : P (if held.exposed then resendHeld (2 * w.die + w.port) w.peer w.cls psn (modSend (flowIdKey w) (endAllowance psn) s)
      else modSend (flowIdKey w) (endAllowance psn) s)) :
    RunsTo (exec (.reorderExpire w psn) s) P := by
  refine runs_onUnit hflow ?_
  rwa [hfind]

theorem runs_retxTimeout_of_nil (hflow : flowOk w = true) (hnil : (getSend s (flowIdKey w)).unacked = []) (h : P s) :
    RunsTo (exec (.retxTimeout w) s) P := by
  refine runs_onUnit hflow ?_
  rwa [if_pos (List.isEmpty_iff.2 hnil)]

theorem runs_retxTimeout_of_ne_nil (hflow : flowOk w = true) (hheld : (getSend s (flowIdKey w)).unacked ≠ [])
    (h : P ((getSend s (flowIdKey w)).unacked.foldl (fun s h => resendHeld (2 * w.die + w.port) w.peer w.cls h.frame.psn s)
      (modSend (flowIdKey w) (fun c => { c with timeout := min (2 * c.timeout) 6400000 }) s))) :
    RunsTo (exec (.retxTimeout w) s) P := by
  refine runs_onUnit hflow ?_
  rwa [if_neg (mt List.isEmpty_iff.1 hheld)]

/-! ### The rate after an interval (R331) -/

theorem nextRate_of_marked (hcnps : 0 < c.cnps) : nextRate line c =
    { c with rate := some (max (c.rate.getD line * (8 - min c.cnps 4) / 8) 2000000000), calm := 0, cnps := 0 } :=
  if_pos hcnps

theorem nextRate_of_calm (hcnps : c.cnps = 0) : nextRate line c =
    { c with calm := c.calm + 1, rate := some (min (c.rate.getD line + line / (if c.calm + 1 ≤ 3 then 64 else 16)) line) } :=
  if_neg (by omega)

/-- An interval changes the rate and its two counts, and begins the next one without a CNP. -/
theorem nextRate_frame (line : Nat) (c : SendCtx) :
    nextRate line c = { c with rate := (nextRate line c).rate, calm := (nextRate line c).calm, cnps := 0 } := by
  rcases Nat.eq_zero_or_pos c.cnps with hcalm | hmarked
  · rw [nextRate_of_calm hcalm, ← hcalm]
  · rw [nextRate_of_marked hmarked]

theorem nextRate_cnps (line : Nat) (c : SendCtx) : (nextRate line c).cnps = 0 :=
  congrArg SendCtx.cnps (nextRate_frame line c)

end

/-- Settles O36: the frames by their acceptance, each timer by the branch of its conditions, and the interval by whether a
CNP came in it. -/
theorem flowEventsComplete : Obligations.FlowEventsComplete := by
  unfold Obligations.FlowEventsComplete
  refine ⟨fun s r hport hacc => ⟨fun htyp => ⟨_, onFrame_of_accepted hport rfl htyp hacc, rfl⟩,
      fun htyp => ⟨_, (exec_cnp r s).trans (onFrame_of_accepted hport rfl htyp hacc), rfl⟩⟩,
    fun s w hflow => ⟨runs_onUnit hflow rfl, fun psn hnone => runs_reorderExpire_of_none hflow hnone rfl,
      fun h psn hsome => runs_reorderExpire_of_some hflow hsome ?reorder, fun hnil => runs_retxTimeout_of_nil hflow hnil rfl,
      fun hheld => runs_retxTimeout_of_ne_nil hflow hheld rfl, runs_onUnit hflow ?interval⟩⟩
  case reorder => cases h.exposed <;> rfl
  case interval =>
    dsimp only
    rw [getSend_modSend_same]
    refine ⟨rfl, fun j hj => getSend_modSend_ne hj, nextRate_cnps _ _, fun hmarked => ?marked, fun hcalm => ?calm,
      nextRate_frame _ _⟩
    case marked =>
      rw [nextRate_of_marked hmarked]
      exact ⟨rfl, rfl⟩
    case calm =>
      rw [nextRate_of_calm hcalm]
      exact ⟨rfl, rfl⟩

end Sys2Proof.Machine

/-! ## Neighbours and pauses of a port -/

namespace Sys2Proof.Machine

section
variable {s t : State} {die port : Nat} {P : State → Prop}

theorem runs_portGate_of_up (hport : portOk die port = true) (hup : portUp s (2 * die + port) = true) (h : P t) :
    RunsTo (onUnit (portOk die port) (if !portUp s (2 * die + port) then s else t)) P := by
  rw [hup]
  exact runs_onUnit hport h

theorem runs_portGate_of_not_up (hport : portOk die port = true) (hup : portUp s (2 * die + port) = false) (h : P s) :
    RunsTo (onUnit (portOk die port) (if !portUp s (2 * die + port) then s else t)) P := by
  rw [hup]
  exact runs_onUnit hport h

/-- What arrives at a port, and the timer of its LLDP frame, does nothing while the port is not UP. -/
theorem runs_portArrival_of_not_up (hport : portOk die port = true) (hup : portUp s (2 * die + port) = false)
    {a b c d : Nat} {fcs : Bool} {x : Instr} (hx : x ∈ [Instr.neighborSolicitation die port a b,
      .neighborAdvertisement die port a b fcs, .pfcFrame die port c d, .lldpTimer die port, .nonTransportFrame die port fcs a])
    (h : P s) : RunsTo (exec x s) P := by
  simp only [List.mem_cons, List.not_mem_nil, or_false] at hx
  obtain rfl | rfl | rfl | rfl | rfl := hx
  · exact runs_portGate_of_not_up hport hup h
  · exact runs_portGate_of_not_up hport hup h
  · exact runs_portGate_of_not_up hport hup h
  · refine runs_onUnit hport ?_
    dsimp only
    rwa [if_neg (by simp [hup])]
  · exact runs_portGate_of_not_up hport hup h

theorem runs_pfcFrame_of_up (hport : portOk die port = true) (hup : portUp s (2 * die + port) = true) {prio quanta : Nat}
    (h : P (if pfcOn s (2 * die + port) prio = false then otherDrop (2 * die + port) s
      else if quanta = 0 then pumpPorts (modPort (2 * die + port) (fun q => { q with paused := q.paused.filter (· != prio) }) s)
      else bump (portBase (2 * die + port) + 0x168) 1
        (modPort (2 * die + port) (fun q => { q with paused := insertNew q.paused prio }) s))) :
    RunsTo (exec (.pfcFrame die port prio quanta) s) P := by
  refine runs_portGate_of_up hport hup ?_
  simpa only [Bool.not_eq_true'] using h

theorem runs_lldpTimer_of_up (hport : portOk die port = true) (hup : portUp s (2 * die + port) = true)
    (h : P (if (getPort s (2 * die + port)).ctl.lldpEn = true then
      emit (2 * die + port) (.lldp (lldpFrame (2 * die + port))) s else s)) : RunsTo (exec (.lldpTimer die port) s) P := by
  refine runs_onUnit hport ?_
  dsimp only
  simpa only [hup, true_and] using h

/-- A resolution that has an answer, or that has not begun, is not solicited again (R321). -/
theorem runs_nsRetryExpire_of_settled (hport : portOk die port = true) {addr : Nat}
    (hsettled : (tget {} (getPort s (2 * die + port)).nbrs addr).mac ≠ none ∨
      (tget {} (getPort s (2 * die + port)).nbrs addr).tries = 0) (h : P s) :
    RunsTo (exec (.nsRetryExpire die port addr) s) P := by
  refine runs_onUnit hport ?_
  dsimp only
  rwa [if_pos (hsettled.imp_left Option.isSome_iff_ne_none.2)]

/-- A resolution without an answer is solicited again until its third attempt (R321). -/
theorem runs_nsRetryExpire_of_open (hport : portOk die port = true) (hup : portUp s (2 * die + port) = true) {addr n : Nat}
    (hopen : tget {} (getPort s (2 * die + port)).nbrs addr = ⟨none, n⟩) (hn : 0 < n)
    (h : P (if n < 3 then emit (2 * die + port) (.solicit addr)
        (modPort (2 * die + port) (fun q => { q with nbrs := tset {} q.nbrs addr ⟨none, n + 1⟩ }) s)
      else modPort (2 * die + port) (fun q => { q with nbrs := tset {} q.nbrs addr {} }) s)) :
    RunsTo (exec (.nsRetryExpire die port addr) s) P := by
  refine runs_onUnit hport ?_
  dsimp only
  rw [hopen, if_neg (by simp; omega)]
  simpa only [hup, and_true] using h

theorem runs_neighborCacheExpire_of_known (hport : portOk die port = true) {addr : Nat}
    (hknown : (tget {} (getPort s (2 * die + port)).nbrs addr).mac ≠ none)
    (h : P (modPort (2 * die + port) (fun q => { q with nbrs := tset {} q.nbrs addr {} }) s)) :
    RunsTo (exec (.neighborCacheExpire die port addr) s) P := by
  refine runs_onUnit hport ?_
  dsimp only
  rwa [if_pos (Option.isSome_iff_ne_none.2 hknown)]

end

/-- Settles O37: what arrives, and the LLDP timer, by whether the port is UP, each timer by the branch of its conditions. -/
theorem neighboursAndPausesOfAPort : Obligations.NeighboursAndPausesOfAPort := by
  unfold Obligations.NeighboursAndPausesOfAPort
  intro s die port hport
  refine ⟨fun hup a b c d fcs x hx => runs_portArrival_of_not_up hport hup hx rfl,
    fun hup => ⟨fun target source => runs_portGate_of_up hport hup rfl, fun addr mac sol => runs_portGate_of_up hport hup rfl,
      fun addr n hopen hn => runs_nsRetryExpire_of_open hport hup hopen hn rfl,
      fun prio quanta => runs_pfcFrame_of_up hport hup ⟨fun hoff => if_pos hoff, fun hon hzero => ?resume, fun hon hpause => ?pause⟩,
      runs_lldpTimer_of_up hport hup rfl, fun fcs kind => runs_portGate_of_up hport hup ?other⟩,
    fun addr hsettled => runs_nsRetryExpire_of_settled hport hsettled rfl,
    fun addr hknown => runs_neighborCacheExpire_of_known hport hknown rfl, fun prio => runs_onUnit hport rfl⟩
  case resume => exact (if_neg (by simp [hon])).trans (if_pos hzero)
  case pause => exact (if_neg (by simp [hon])).trans (if_neg hpause)
  case other => cases fcs <;> rfl

end Sys2Proof.Machine

/-! ## The port state machine -/

namespace Sys2Proof.Machine

section
variable {s : State} {die port p : Nat} {bad : List Nat} {P : State → Prop}

theorem getPort_bump (off n : Nat) (s : State) (p : Nat) : getPort (bump off n s) p = getPort s p :=
  congrArg (tget ({} : Port) · p) (bump_ports off n s)

theorem port_lt_two (hport : portOk die port = true) : port < 2 := by
  simp only [portOk, Bool.and_eq_true, Bool.or_eq_true, beq_iff_eq] at hport
  omega

/-- EV_STATE_CHANGE of a port: its number, the state that it has come to and HALF (R315). -/
def tellPort (die port : Nat) (st : PortSt) (s : State) : State :=
  raise (source 3 die) 0x0101 [(18, 1, port), (19, 1, st.code), (20, 1, bit01 (getPort s (2 * die + port)).half)] s

/-- A port in a state without a link: no lanes, and no priority is stopped in either direction (R315, R332). -/
def withoutLink (st : PortSt) (q : Port) : Port := { q with st := st, linkUp := false, lanes := 0, paused := [], xoff := [] }

/-- A change of state as the event's fields name the port: Gallery die and port of the key 2 g + p (R337). -/
theorem portTo_of_ne {st : PortSt} (hport : portOk die port = true) (hst : (getPort s (2 * die + port)).st ≠ st) :
    portTo (2 * die + port) st s = tellPort die port st (modPort (2 * die + port)
      (fun q => if st = .up then { q with st := .up } else withoutLink st q) s) := by
  have hlt := port_lt_two hport
  have hdie : (2 * die + port) / 2 = die := by omega
  have hnum : (2 * die + port) % 2 = port := by omega
  rw [portTo, if_neg hst, hdie, hnum]
  cases st <;> rfl

theorem portTo_down (hport : portOk die port = true) (hst : (getPort s (2 * die + port)).st ≠ .down) :
    portTo (2 * die + port) .down s = tellPort die port .down (modPort (2 * die + port) (withoutLink .down) s) :=
  portTo_of_ne hport hst

theorem portTo_up (hport : portOk die port = true) (hst : (getPort s (2 * die + port)).st ≠ .up) :
    portTo (2 * die + port) .up s = tellPort die port .up (modPort (2 * die + port) (fun q => { q with st := .up }) s) :=
  portTo_of_ne hport hst

/-- A port that loses what it needs in UP goes to DOWN, and its frames move to other ports (R316, R580). -/
theorem portLoss_of_up (hport : portOk die port = true) (hst : (getPort s (2 * die + port)).st = .up) :
    portLoss (2 * die + port) s =
      pumpPorts (tellPort die port .down (modPort (2 * die + port) (withoutLink .down) s)) := by
  rw [portLoss, hst]
  exact congrArg pumpPorts (portTo_down hport (by simp [hst]))

theorem runs_fecUncorrectableBurst_of_up (hport : portOk die port = true) (hst : (getPort s (2 * die + port)).st = .up)
    (h : P (portLoss (2 * die + port) (bump (portBase (2 * die + port) + 0x160) 16 s))) :
    RunsTo (exec (.fecUncorrectableBurst die port) s) P := by
  refine runs_onUnit hport ?_
  dsimp only
  rwa [if_pos (by simp [portUp, hst])]

theorem runs_portDownExpire (hport : portOk die port = true)
    (h : P (if (getPort s (2 * die + port)).st = .down ∧ badHalves s (portLink (2 * die + port)) 8 ≠ 3 then
      portTrain (2 * die + port) s else s)) : RunsTo (exec (.portDownExpire die port) s) P := runs_onUnit hport h

theorem runs_portLinkUp_of_training (hport : portOk die port = true) (hst : (getPort s (2 * die + port)).st = .training)
    (hlink : (getPort s (2 * die + port)).linkUp = false)
    (h : P (portSpent (2 * die + port) (lanesTrained (portLink (2 * die + port)) 8 bad
      (modPort (2 * die + port) (fun q => { q with linkUp := true, lanes := if q.half then 4 else 8 }) s)))) :
    RunsTo (exec (.portLinkUp die port bad) s) P := by
  refine runs_onUnit hport ?_
  dsimp only
  rwa [if_pos ⟨hst, by simp [hlink]⟩]

theorem runs_portStableExpire_of_training (hport : portOk die port = true)
    (hst : (getPort s (2 * die + port)).st = .training) (hlink : (getPort s (2 * die + port)).linkUp = true)
    (h : P (pumpPorts (portTo (2 * die + port) .up s))) : RunsTo (exec (.portStableExpire die port) s) P := by
  refine runs_onUnit hport ?_
  dsimp only
  rwa [if_pos ⟨hst, hlink⟩]

theorem runs_portTrainingTimeout_of_training (hport : portOk die port = true)
    (hst : (getPort s (2 * die + port)).st = .training)
    (h : P (portTo (2 * die + port) .down (lanesTrained (portLink (2 * die + port)) 8 bad s))) :
    RunsTo (exec (.portTrainingTimeout die port bad) s) P := by
  refine runs_onUnit hport ?_
  dsimp only
  rwa [if_pos hst]

end

/-- Settles O38: each event by the branch of its conditions; a change of state raises its event. -/
theorem portStateMachineMoves : Obligations.PortStateMachineMoves := by
  unfold Obligations.PortStateMachineMoves
  intro s die port hport
  refine ⟨fun hst => ⟨runs_onUnit hport (portLoss_of_up hport hst), runs_fecUncorrectableBurst_of_up hport hst ?burst⟩,
    fun hst hgood => runs_portDownExpire hport (if_pos ⟨hst, hgood⟩), fun hstays => runs_portDownExpire hport (if_neg ?stays),
    fun hst => ⟨fun hlink bad => runs_portLinkUp_of_training hport hst hlink rfl,
      fun hlink => runs_portStableExpire_of_training hport hst hlink ?stable,
      fun bad => runs_portTrainingTimeout_of_training hport hst rfl⟩⟩
  case burst => exact portLoss_of_up hport (by rw [getPort_bump, hst])
  case stays => exact fun hmoves => hstays.elim (· hmoves.1) hmoves.2
  case stable => exact congrArg pumpPorts (portTo_up hport (by simp [hst]))

end Sys2Proof.Machine

/-! ## Collectives -/

namespace Sys2Proof.Machine

section
variable {s : State} {P : State → Prop}

/-- The oldest request of a die's ring is taken: its collective opens, unless it has started already (R340, R341). -/
theorem runs_collRequest {die ring : Nat} (hdie : die < 4) (hring : reqRing s die = some ring)
    (hlen : (getRing s ring).len ≠ 0) (hcount : numAt (enginePop ring s).1 0 4 < collCount (enginePop ring s).2)
    (h : P (let a := (enginePop ring s).2
      let c := numAt (enginePop ring s).1 0 4
      if (getColl a c).started then sendFail cStepAborted (source 3 die) a
      else sendMore c (firstSends (collShape a c)) (ownCopy c (collShape a c)
        (modColl c (fun y => { y with active := true, started := true }) a)))) :
    RunsTo (exec (.collRequest die) s) P := by
  refine runs_onUnit (decide_eq_true hdie) ?_
  rw [hring]
  dsimp only
  rwa [if_neg hlen, if_neg (Nat.not_le.2 hcount)]

/-- A chunk and a credit arrive as frames of one class, and have one effect behind the acceptance checks (R342). -/
theorem exec_collFrame_of_accepted {r : RxFrame} (hport : portOk r.die r.port = true) (hcls : r.f.cls = 2)
    (htyp : r.f.typ = 0) (hacc : (accept r s).1 = true) {x : Instr} (hx : x ∈ [Instr.collChunkLand r, .collCredit r]) :
    exec x s = .next (collFrame r (accept r s).2) := by
  simp only [List.mem_cons, List.not_mem_nil, or_false] at hx
  obtain rfl | rfl := hx
  · exact onFrame_of_accepted hport hcls htyp hacc
  · exact onFrame_of_accepted hport hcls htyp hacc

/-- R350: the layout epoch is compared before anything else. -/
theorem collFrame_of_other_epoch {r : RxFrame} (hepoch : r.f.epoch ≠ (ackFrame r s).steps.epoch) :
    collFrame r s = epochReject r (ackFrame r s) := if_pos hepoch

/-- R351: a frame of another pair, or outside an attempt, is counted and discarded. -/
theorem collFrame_of_stale {r : RxFrame} (hepoch : r.f.epoch = (ackFrame r s).steps.epoch)
    (hstale : fld r.f 52 4 ≠ (ackFrame r s).steps.attempt ∨ fld r.f 56 4 ≠ (ackFrame r s).steps.step % 2 ^ 32 ∨
      inAttempt (ackFrame r s) = false) :
    collFrame r s = bump (galBase r.die + 0x40028) 1 (ackFrame r s) := by
  refine (if_neg (not_not.2 hepoch)).trans (if_pos ?_)
  exact hstale.imp_right fun h => h.imp_right fun hout => .inl (by simp [hout])

/-- A frame of the running pair releases an ordinal as a credit, STAGE 15, and lands its bytes otherwise (R342). -/
theorem collFrame_of_current {r : RxFrame} (hepoch : r.f.epoch = (ackFrame r s).steps.epoch)
    (hattempt : fld r.f 52 4 = (ackFrame r s).steps.attempt)
    (hstep : fld r.f 56 4 = (ackFrame r s).steps.step % 2 ^ 32) (hruns : inAttempt (ackFrame r s) = true)
    (hcount : fld r.f 44 4 % 4096 < collCount (ackFrame r s)) :
    collFrame r s = if fld r.f 44 4 / 2 ^ 28 = 15 then creditLand (fld r.f 44 4 % 4096) r.f (ackFrame r s)
      else chunkLand r (fld r.f 44 4 % 4096) (ackFrame r s) := by
  refine (if_neg (not_not.2 hepoch)).trans (if_neg ?_)
  rintro (h | h | h | h)
  · exact h hattempt
  · exact h hstep
  · simp [hruns] at h
  · exact Nat.not_le.2 hcount h

/-- The first collective of a die whose DONE_RING holds a token of its combiner (R344, R345). -/
def combinerAt (s : State) (die : Nat) : Option Nat :=
  (rangeFrom 0 (collCount s)).find? fun c =>
    collDie s c == die && decide (collNum s c 4 1 ≤ 1) && decide (0 < (getRing s (collNum s c 48 4)).len)

/-- The oldest token of that ring is popped: a RELEASE frees its slot, a DONE that the member is due to give ends
its chunk's stage, and any other has no effect (R344, R345). -/
theorem runs_combinerToken {die c : Nat} (hdie : die < 4) (hfind : combinerAt s die = some c)
    (h : P (let d := (enginePop (collNum s c 48 4) s).1
      let a := (enginePop (collNum s c 48 4) s).2
      if numAt d 0 1 = 0 then releaseSlot c (numAt d 2 2) a
      else if numAt d 0 1 = 1 ∧ (numAt d 1 1, numAt d 4 4) ∈ collDones (collShape a c) ∧
        (numAt d 1 1, numAt d 4 4) ∉ (getColl a c).done then stageDone c (numAt d 1 1) (numAt d 4 4) a
      else a)) : RunsTo (exec (.combinerToken die) s) P := by
  rw [combinerAt] at hfind
  refine runs_onUnit (decide_eq_true hdie) ?_
  rwa [hfind]

/-- A member that holds every result asks for the digest exchange while its group has none open (R353). -/
theorem runs_collDigestExchange {c : Nat} (hc : c < 4096) (hcount : c < collCount s) (hasked : (getColl s c).asked = false)
    (hlanded : resultsLanded s c = true) (hruns : inAttempt s = true) (hidle : (getOp s (collNum s c 8 4) 3).active = false)
    (h : P (bellEnter (collNum s c 8 4) 3 0 (getColl s c).digest (.digest c)
      (modColl c (fun x => { x with asked := true }) s))) : RunsTo (exec (.collDigestExchange c) s) P := by
  refine runs_onUnit (decide_eq_true hc) ?_
  rwa [if_neg (by simp [hcount, hasked, hlanded, hruns, hidle])]

/-- A counter that stays below its largest value is all that counting changes (R472). -/
theorem bump_of_lt {off n : Nat} (hn : n ≠ 0) (hlt : tget 0 s.ctr off + n < ctrMax) :
    bump off n s = { s with ctr := tset 0 s.ctr off (tget 0 s.ctr off + n) } := by
  rw [bump, bumpCore, if_neg hn, if_pos hlt]
  rfl

end

/-- Settles O31: each engine by the branch of its conditions, and a COLL frame by its epoch and its pair. -/
theorem collectiveEventsComplete : Obligations.CollectiveEventsComplete := by
  unfold Obligations.CollectiveEventsComplete
  refine ⟨fun s die ring hdie hring hlen hcount => ⟨fun hnew => ?opens, fun hstarted => ?second⟩,
    fun s r hport hcls htyp hacc x hx => ?frame,
    fun s die c hdie hfind => ⟨fun hrelease => ?release, fun hdone hdue hnew => ?stage⟩,
    fun s c hc hcount hasked hlanded hruns hidle => runs_collDigestExchange hc hcount hasked hlanded hruns hidle rfl⟩
  case opens => exact runs_collRequest hdie hring hlen hcount (if_neg (by simp [hnew]))
  case second => exact runs_collRequest hdie hring hlen hcount (if_pos hstarted)
  case frame =>
    rw [exec_collFrame_of_accepted hport hcls htyp hacc hx]
    exact ⟨fun hepoch => runs_next (collFrame_of_other_epoch hepoch),
      fun hepoch hstale => runs_next (collFrame_of_stale hepoch hstale),
      fun hepoch hattempt hstep hruns hcount => runs_next (collFrame_of_current hepoch hattempt hstep hruns hcount)⟩
  case release => exact runs_combinerToken hdie hfind (if_pos hrelease)
  case stage => exact runs_combinerToken hdie hfind ((if_neg (by omega)).trans (if_pos ⟨hdone, hdue, hnew⟩))

/-- Settles O35: the frame is counted as stale, and counting below the largest value raises nothing. -/
theorem staleCollectiveFramesAreDiscarded : Obligations.StaleCollectiveFramesAreDiscarded := by
  unfold Obligations.StaleCollectiveFramesAreDiscarded
  intro s r hport hcls htyp hacc a hepoch hstale x hx
  rw [exec_collFrame_of_accepted hport hcls htyp hacc hx]
  exact runs_next ⟨collFrame_of_stale hepoch (hstale.imp_right .inl),
    fun hlt => (collFrame_of_stale hepoch (hstale.imp_right .inl)).trans (bump_of_lt Nat.one_ne_zero hlt)⟩

end Sys2Proof.Machine

/-! ## The queue of commands -/

namespace Sys2Proof.Machine

/-- No command touches the queue of the commands that wait: each by the law of its own effect. -/
theorem exec_keeps_pending (i : Instr) (s : State) : Keeps s (exec i s) := by
  cases i <;> simp only [exec,
    execNop_pending, execStop_pending, execLoop_pending, execEndl_pending, execCall_pending, execRet_pending,
    execSli_pending, execSalu_pending, execSld_pending, execSst_pending, execSemw_pending, execSems_pending,
    execSemSignalArrive_pending, execRpush_pending, execRpop_pending, execRingPushArrive_pending, execNcinv_pending,
    execTagw_pending, execMove_pending, execMove2_pending, execMovel_pending, execTransferComplete_pending,
    execMma_pending, execMmaTa_pending, execMmaTb_pending, execMmaComplete_pending, execDrain_pending,
    execDrainComplete_pending, execVld_pending, execVst_pending, execVbin_pending, execVfma_pending,
    execVcmp_pending, execVsel_pending, execVcvt_pending, execVbcast_pending, execVmsk_pending, execVun_pending,
    execVxs_pending, execSopElem_pending, execSopRed_pending, execSopScan_pending, execSopSegscan_pending,
    execSopTopk_pending, execSopCvt_pending, execSopFill_pending, execTab_pending, execWalk_pending,
    execPmapSet_pending, execPmapCow_pending, execCowCopyComplete_pending, execPmapFree_pending,
    execPmapFence_pending, execBell_pending, execNearCacheFill_pending, execPhaseEnd_pending, execPlanStage_pending,
    execStagingComplete_pending, execPlanSwap_pending, execSwapBoundary_pending, execSwapReady_pending,
    execSwapWaitExpire_pending, execSwapGo_pending, execSwapAbort_pending, execReshard_pending, execPermute_pending,
    execPermuteComplete_pending, execStepRun_pending, execStepAbortReq_pending, execStepGo_pending,
    execReadySend_pending, execReady_pending, execFail_pending, execCommit_pending, execAbort_pending,
    execAck_pending, execProbe_pending, execLostReport_pending, execBellAckCanaryExpire_pending,
    execCommitWaitExpire_pending, execAttemptCanaryExpire_pending, execCommitRetryExpire_pending,
    execCkptWrite_pending, execCkptWriteComplete_pending, execMirrorUnitReceive_pending, execCkptRestore_pending,
    execCollRequest_pending, execCollChunkLand_pending, execCombinerToken_pending, execCollCredit_pending,
    execCollDigestExchange_pending, execBellUp_pending, execBellDown_pending, execCircStart_pending,
    execCircRelease_pending, execGradDone_pending, execCircUnitLand_pending, execCircCredit_pending,
    execFeedDeliver_pending, execRingStepCanaryExpire_pending, execEpochExamine_pending,
    execMapReclaimExpire_pending, execAllocationCanaryExpire_pending, execCompactRelocate_pending,
    execStashSave_pending, execStashLoad_pending, execStashCheck_pending, execGatherRequest_pending,
    execGatherTagRetry_pending, execUpdateRequest_pending, execUpdateHeaderWrite_pending, execPublishRequest_pending,
    execPublicationEnd_pending, execMoveData_pending, execRead_pending, execSignal_pending, execSack_pending,
    execCnp_pending, execSackDelayExpire_pending, execReorderExpire_pending, execRetxTimeout_pending,
    execRateIntervalEnd_pending, execNeighborSolicitation_pending, execNeighborAdvertisement_pending,
    execNsRetryExpire_pending, execNeighborCacheExpire_pending, execPfcFrame_pending, execPfcPauseExpire_pending,
    execLldpTimer_pending, execPcsLockLoss_pending, execFecUncorrectableBurst_pending, execPortDownExpire_pending,
    execPortLinkUp_pending, execPortStableExpire_pending, execPortTrainingTimeout_pending,
    execFecIntervalEnd_pending, execDataFlit_pending, execIdleFlit_pending, execNakFlit_pending,
    execFlitReplayTimeout_pending, execBxlDownExpire_pending, execBxlDetectExpire_pending,
    execTrainingPatternSeen_pending, execLanesEqualised_pending, execBxlTrainTimeout_pending, execAlignDone_pending,
    execBxlAlignTimeout_pending, execBxlLockLoss_pending, execMwr_pending, execMrd_pending, execDrsp_pending,
    execCxlMemrd_pending, execCxlMemrddata_pending, execCxlMemwr_pending, execCxlMemwrptl_pending,
    execCxlMemspecrd_pending, execInbandReset_pending, execLmsg_pending, execIrqHoldoffExpire_pending,
    execBxlCmdqCfgWrite_pending, execBxlCmdqTailWrite_pending, execBxlCplqHeadWrite_pending,
    execBxlRetrainRequest_pending, execDbHostIdxWrite_pending, execPlanKeyLock_pending, execEvtRingSizeWrite_pending,
    execEvtTailWrite_pending, execEventRecordLanded_pending, execCtrClear_pending, execArbClear_pending,
    execArbiterGrant_pending, execGrantHeldCanaryExpire_pending, execCellTagsRead_pending, execPmapFenceReg_pending,
    execPmapBaseWrite_pending, execModeCtlWrite_pending, execPortCtlWrite_pending, execPwrCapWrite_pending,
    execLampRtcWrite_pending, execComparatorSample_pending, execMaintStart_pending, execMaintCancel_pending,
    execScrubHbm_pending, execScrubDeep_pending, execScrubSram_pending, execMarginSurvey_pending,
    execMapCompact_pending, execLinkRetrain_pending, execFwStage_pending, execCkptMirrorVerify_pending,
    execMaintEnd_pending, execLendSet_pending, execLendZeroingComplete_pending, execAttest_pending,
    execAttestSigned_pending, execAliasGenerated_pending, execDikReservationWrite_pending, execIntakeFeed_pending,
    execIntakeRecord_pending, execStagingWindowFreed_pending, execBatchComplete_pending, execGenSubmit_pending,
    execGenCancel_pending, execGenToken_pending, execMemoryRequest_pending, execMcCommand_pending,
    execMemoryReadComplete_pending, execRowIdleClose_pending, execChannelCanaryExpire_pending,
    execBankQuotaExpire_pending, execPatrolScrub_pending, execRepairStart_pending, execRepairComplete_pending,
    execInputRise_pending, execStandbyEntry_pending, execInputStableStart_pending, execBrownout_pending,
    execInputLoss_pending, execOvervoltage_pending, execPwrEnAssert_pending, execPwrEnDeassert_pending,
    execResetNLow_pending, execResetNRelease_pending, execRailsOff_pending, execWarm_pending, execHot_pending,
    execHotResetComplete_pending, execBootVerified_pending, execRailsInRegulation_pending, execRailTimeout_pending,
    execMemoryTrainingComplete_pending, execReadyReached_pending, execThermtrip_pending,
    execThermalSlowCheck_pending, execThermalRecoverCheck_pending, execCurrentLimit_pending,
    execCurrentRecoverStep_pending, execCapRecompute_pending, execStatusWord_pending, execReadVin_pending,
    execReadIin_pending, execReadTemperature1_pending, execReadTemperature2_pending, execReadPin_pending,
    execMfrRegAddr_pending, execMfrRegDataRead_pending, execMfrRegDataWrite_pending, execMfrAlertCause_pending,
    execMfrPwrCap_pending, execDynamicAddressAssign_pending, execRstdaa_pending, execSelfTestComplete_pending,
    execDecodeEnd_pending, execBankRefresh_pending, execTelemetrySample_pending, execNonTransportFrame_pending,
    execJtagAccess_pending]

/-- A step takes the front of the queue off, where there is one, and leaves the rest. -/
theorem step_pending {s t : State} (h : step s = .next t) : t.pending = s.pending.tail := by
  unfold step at h
  split at h
  next c rest hq => rw [hq]; exact exec_keeps_pending c _ t h
  next hq => cases h; rw [idle_pending, hq, List.tail_nil]

/-- Settles O2: what is left of the rest of a queue is left of the queue. -/
theorem everyStepKeepsTheQueueInOrder : Obligations.EveryStepKeepsTheQueueInOrder := by
  unfold Obligations.EveryStepKeepsTheQueueInOrder QueueWithin
  intro l s t hl hstep
  rw [step_pending hstep]
  exact ⟨(List.tail_suffix _).trans hl, rfl⟩

/-- Settles O1: a step is defined by the front of the queue. -/
theorem stepTakesTheFrontCommand : Obligations.StepTakesTheFrontCommand := by
  unfold Obligations.StepTakesTheFrontCommand
  exact ⟨fun _ _ _ => rfl, fun _ => rfl⟩

/-- Settles O3: the registers of the one state after reset are read off. -/
theorem resetQueueIsEmpty : Obligations.ResetQueueIsEmpty := by
  unfold Obligations.ResetQueueIsEmpty
  exact ⟨rfl, fun _ => List.nil_suffix, by decide +kernel, by decide +kernel⟩

end Sys2Proof.Machine

/-! ## Lent memory -/

namespace Sys2Proof.Machine

theorem report_cxlAnswer (tag addr : Nat) (poison : Bool) (data : List Byte) (s : State) :
    OnlyReport s (cxlAnswer tag addr poison data s) := report_sendMsg _ s

/-- Of the module's memory only enabled bytes of a line of the deep tier changed, and those are the line's. -/
def LineStored (off : Nat) (e : BitVec 64) (d : List Byte) (s t : State) : Prop :=
  t.hbm = s.hbm ∧ t.cells = s.cells ∧ t.lend = s.lend ∧ ∀ b, mget t.deep b =
    if off ≤ b ∧ b < off + 64 ∧ e.getLsbD (b - off) = true then d.getD (b - off) 0#8 else mget s.deep b

section
variable {off addr : Nat} {e : BitVec 64} {d : List Byte} {s t u : State}

theorem LineStored.report (h : LineStored off e d s t) (g : OnlyReport t u) : LineStored off e d s u := by
  obtain ⟨hhbm, hcells, hlend, hdeep⟩ := h
  exact ⟨g.hbm.trans hhbm, g.cells.trans hcells, g.lend.trans hlend, fun b => by rw [g.deep]; exact hdeep b⟩

theorem LineStored.at (h : LineStored off e d s t) {i : Nat} (hi : i < 64) : mget t.deep (off + i) =
    if e.getLsbD i = true then d.getD i 0#8 else mget s.deep (off + i) := by
  obtain ⟨_, _, _, hdeep⟩ := h
  simp [hdeep, hi]

theorem LineStored.outside (h : LineStored off e d s t) {b : Nat} (hb : b < off ∨ off + 64 ≤ b) :
    mget t.deep b = mget s.deep b := by
  obtain ⟨_, _, _, hdeep⟩ := h
  rw [hdeep, if_neg (by omega)]

/-- A line that is written whole. -/
theorem lineStored_writeTier (hd : d.length = 64) : LineStored off (BitVec.allOnes 64) d s (writeTier 1 off d s) := by
  refine ⟨rfl, rfl, rfl, fun b => ?_⟩
  by_cases hin : off ≤ b ∧ b < off + 64
  · obtain ⟨i, rfl⟩ := Nat.exists_eq_add_of_le hin.1
    have hi : i < 64 := by omega
    have hread : mget (mwrite s.deep off d) (off + i) = d[i] := mget_mwrite_in _ _ _ _ (by omega)
    have hon : (BitVec.allOnes 64).getLsbD (off + i - off) = true := by
      rw [BitVec.getLsbD_allOnes, Nat.add_sub_cancel_left]
      exact decide_eq_true hi
    rw [if_pos ⟨hin.1, hin.2, hon⟩, Nat.add_sub_cancel_left, List.getD_eq_getElem _ _ (by omega)]
    exact hread
  · rw [if_neg (by omega)]
    exact mget_mwrite_out _ _ _ _ (by omega)

/-- The write of byte i of a line, where it is enabled. -/
def storeEnabled (off : Nat) (e : BitVec 64) (d : List Byte) (s : State) (i : Nat) : State :=
  if e.getLsbD i then writeTier 1 (off + i) [d.getD i 0#8] s else s

theorem storeEnabled_frame (i : Nat) : (storeEnabled off e d s i).hbm = s.hbm ∧
    (storeEnabled off e d s i).cells = s.cells ∧ (storeEnabled off e d s i).lend = s.lend := by
  unfold storeEnabled
  split <;> exact ⟨rfl, rfl, rfl⟩

theorem mget_storeEnabled (i b : Nat) : mget (storeEnabled off e d s i).deep b =
    if b = off + i ∧ e.getLsbD i = true then d.getD i 0#8 else mget s.deep b := by
  unfold storeEnabled
  by_cases he : e.getLsbD i = true
  · by_cases hb : b = off + i
    · subst hb; simp [he, writeTier, mwrite, tsetList, mget]
    · rw [if_pos he, if_neg (by simp [hb])]
      exact mget_mwrite_out _ _ _ _ (by simp only [List.length_singleton]; omega)
  · simp [he]

/-- The enabled bytes from lo on, written one by one. -/
theorem foldl_storeEnabled : ∀ (n lo : Nat) (s : State), let t := (rangeFrom lo n).foldl (storeEnabled off e d) s
    t.hbm = s.hbm ∧ t.cells = s.cells ∧ t.lend = s.lend ∧ ∀ b, mget t.deep b =
      if off + lo ≤ b ∧ b < off + lo + n ∧ e.getLsbD (b - off) = true then d.getD (b - off) 0#8 else mget s.deep b
  | 0, lo, s => ⟨rfl, rfl, rfl, fun b => (if_neg (by omega)).symm⟩
  | n + 1, lo, s => by
    obtain ⟨hhbm, hcells, hlend, hdeep⟩ := foldl_storeEnabled n (lo + 1) (storeEnabled off e d s lo)
    obtain ⟨hhbm1, hcells1, hlend1⟩ := storeEnabled_frame (off := off) (e := e) (d := d) (s := s) lo
    refine ⟨hhbm.trans hhbm1, hcells.trans hcells1, hlend.trans hlend1, fun b => ?_⟩
    rw [rangeFrom, List.foldl_cons, hdeep, mget_storeEnabled]
    by_cases hb : b = off + lo
    · subst hb; simp
    · have hlow : off + (lo + 1) ≤ b ↔ off + lo ≤ b := by omega
      have hhigh : b < off + (lo + 1) + n ↔ b < off + lo + (n + 1) := by omega
      simp only [hlow, hhigh, hb, false_and, if_false]

theorem lendLine_of_inside (hon : s.lend.on = true) (h : addr / 64 * 64 < s.lend.size * 2 ^ 30) :
    lendLine s addr = some (s.lend.base * 2 ^ 30 + addr / 64 * 64) := if_pos ⟨hon, h⟩

theorem lendLine_of_outside (h : s.lend.on = false ∨ s.lend.size * 2 ^ 30 ≤ addr / 64 * 64) :
    lendLine s addr = none := if_neg fun ⟨hon, hlt⟩ => h.elim (by simp [hon]) (by omega)

theorem length_sliceBytes (l : List Byte) (i n : Nat) : (sliceBytes l i n).length = n := by
  simp [sliceBytes]

/-- A CXL.mem write inside the range, of the whole line or of enabled bytes (R390). -/
theorem cxlWrite_of_line {tag : Nat} {data : List Byte} (hlink : s.bxl.st = .active) (hline : lendLine s addr = some off) :
    LineStored off e (sliceBytes data 0 64) s (cxlWrite tag addr data e s) := by
  have hstored : LineStored off e (sliceBytes data 0 64) s (if e = BitVec.allOnes 64 then writeTier 1 off (sliceBytes data 0 64) s
      else (rangeFrom 0 64).foldl (storeEnabled off e (sliceBytes data 0 64)) s) := by
    by_cases hall : e = BitVec.allOnes 64
    · rw [if_pos hall, hall]
      exact lineStored_writeTier (length_sliceBytes ..)
    · rw [if_neg hall]
      exact foldl_storeEnabled 64 0 s
  unfold cxlWrite
  simp only [hlink, hline, ne_eq, not_true_eq_false, if_false]
  exact hstored.report (report_cxlAnswer ..)

theorem cxlWrite_of_no_line {tag : Nat} {data : List Byte} (hlink : s.bxl.st = .active) (hline : lendLine s addr = none) :
    cxlWrite tag addr data e s = cxlAnswer tag addr false [] (bump 0x508 1 s) := by
  unfold cxlWrite
  simp [hlink, hline]

theorem cxlRead_of_line {tag : Nat} (hlink : s.bxl.st = .active) (hline : lendLine s addr = some off) :
    cxlRead tag addr s = cxlAnswer tag addr (decide ((1, off / 64) ∈ s.bad)) (readTier s 1 off 64) s := by
  unfold cxlRead
  simp [hlink, hline]

theorem report_cxlRead {tag : Nat} (hlink : s.bxl.st = .active) (hline : lendLine s addr = some off) :
    OnlyReport s (cxlRead tag addr s) := by
  rw [cxlRead_of_line hlink hline]
  exact report_cxlAnswer ..

/-- A read beyond the range answers with a free value, and taking one changes no memory (R390). -/
theorem cxlRead_of_no_line {tag : Nat} (hlink : s.bxl.st = .active) (hline : lendLine s addr = none) :
    (cxlRead tag addr s).hbm = s.hbm ∧ (cxlRead tag addr s).cells = s.cells ∧ (cxlRead tag addr s).lend = s.lend ∧
      (cxlRead tag addr s).deep = s.deep := by
  have hread : cxlRead tag addr s = cxlAnswer tag addr true (toBytes 64 (takeFree (bump 0x508 1 s)).1)
      (takeFree (bump 0x508 1 s)).2 := by simp [cxlRead, hlink, hline]
  have hcount := report_bump 0x508 1 s
  rw [hread]
  exact ⟨(report_cxlAnswer ..).hbm.trans hcount.hbm, (report_cxlAnswer ..).cells.trans hcount.cells,
    (report_cxlAnswer ..).lend.trans hcount.lend, (report_cxlAnswer ..).deep.trans hcount.deep⟩

end

/-- Settles O42: by whether the line lies in the lend range. -/
theorem lentMemoryIsReadAndWritten : Obligations.LentMemoryIsReadAndWritten := by
  unfold Obligations.LentMemoryIsReadAndWritten
  intro s tag addr data e hlink
  refine ⟨fun hon hin => ?inside, fun hout => ?outside, ⟨s, rfl, rfl⟩⟩
  case inside =>
    have hline := lendLine_of_inside hon hin
    refine ⟨List.forall_mem_cons.2 ⟨⟨_, rfl, ?_⟩, List.forall_mem_singleton.2 ⟨_, rfl, ?_⟩⟩,
      List.forall_mem_cons.2 ⟨⟨_, rfl, ?_⟩, List.forall_mem_singleton.2 ⟨_, rfl, ?_⟩⟩⟩
    case refine_1 | refine_2 =>
      have hstored (x : BitVec 64) := cxlWrite_of_line (e := x) (tag := tag) (data := data) hlink hline
      obtain ⟨hhbm, hcells, hlend, _⟩ := hstored _
      exact ⟨⟨hhbm, hcells, hlend⟩, fun i hi => (hstored _).at hi, fun b hb => (hstored _).outside hb⟩
    all_goals
      have hreport := report_cxlRead (tag := tag) hlink hline
      exact ⟨⟨hreport.hbm, hreport.cells, hreport.lend⟩, hreport.deep, cxlRead_of_line hlink hline⟩
  case outside =>
    have hline := lendLine_of_outside hout
    refine ⟨List.forall_mem_cons.2 ⟨⟨_, rfl, ?_⟩, List.forall_mem_singleton.2 ⟨_, rfl, ?_⟩⟩,
      List.forall_mem_cons.2 ⟨⟨_, rfl, ?_⟩, List.forall_mem_singleton.2 ⟨_, rfl, ?_⟩⟩⟩
    case refine_1 | refine_2 =>
      have hwrite : ∀ x, cxlWrite tag addr.toNat data x s = cxlAnswer tag addr.toNat false [] (bump 0x508 1 s) :=
        fun x => cxlWrite_of_no_line hlink hline
      have hreport := (report_bump 0x508 1 s).trans (report_cxlAnswer tag addr.toNat false [] _)
      rw [hwrite]
      exact ⟨⟨hreport.hbm, hreport.cells, hreport.lend⟩, hreport.deep, rfl⟩
    all_goals
      obtain ⟨hhbm, hcells, hlend, hdeep⟩ := cxlRead_of_no_line (tag := tag) hlink hline
      exact ⟨⟨hhbm, hcells, hlend⟩, hdeep⟩

end Sys2Proof.Machine

/-! ## Clearing counters and tallies -/

namespace Sys2Proof.Machine

/-- Dropping keys gives them their default again and leaves every other. -/
theorem tget_filter {α : Type} (d : α) (p : Nat → Bool) (k : Nat) : ∀ t : Table α,
    tget d (t.filter fun e => p e.1) k = if p k = true then tget d t k else d
  | [] => (ite_self d).symm
  | e :: t => by
    have ih := tget_filter d p k t
    rw [List.filter_cons, tget_cons]
    by_cases hkey : e.1 = k
    · subst hkey
      by_cases hp : p e.1 = true
      · rw [if_pos hp, if_pos hp, tget_cons, if_pos rfl, if_pos rfl]
      · rw [if_neg hp, if_neg hp, ih, if_neg hp]
    · by_cases hp : p e.1 = true
      · rw [if_pos hp, tget_cons, if_neg hkey, if_neg hkey, ih]
      · rw [if_neg hp, if_neg hkey, ih]

section
variable {s : State} {bits off : Nat}

theorem clearGroups_of_named (h : bitAt bits (groupOf off) = true) :
    tget 0 (clearGroups bits s).ctr off = 0 ∧ tget 0 (clearGroups bits s).ovf off = 0 :=
  ⟨(tget_filter 0 (fun k => !bitAt bits (groupOf k)) off s.ctr).trans (if_neg (by simp [h])),
    (tget_filter 0 (fun k => !bitAt bits (groupOf k)) off s.ovf).trans (if_neg (by simp [h]))⟩

theorem clearGroups_of_unnamed (h : bitAt bits (groupOf off) = false) :
    tget 0 (clearGroups bits s).ctr off = tget 0 s.ctr off ∧ tget 0 (clearGroups bits s).ovf off = tget 0 s.ovf off :=
  ⟨(tget_filter 0 (fun k => !bitAt bits (groupOf k)) off s.ctr).trans (if_pos (by simp [h])),
    (tget_filter 0 (fun k => !bitAt bits (groupOf k)) off s.ovf).trans (if_pos (by simp [h]))⟩

/-- Of the arbiter that a die's window selects the selected tally is zero, and nothing else changed (R394). -/
theorem arbClearAt_tallies (site : Nat) (s : State) :
    let w := tget {} s.arbWins site
    let k := arbKey site (fieldOf w.sel 28 16)
    (∀ j, j ≠ k → tget {} (arbClearAt site s).arbs j = tget {} s.arbs j) ∧
    ∀ r, tget {} (tget {} (arbClearAt site s).arbs k).tallies r =
      if r = w.sel % 256 then {} else tget {} (tget {} s.arbs k).tallies r := by
  refine ⟨fun j hj => by simp only [arbClearAt, tget_tmod_ne _ _ _ hj], fun r => ?_⟩
  simp only [arbClearAt, tget_tmod_same, tget_tset]

end

/-- A write of 1 to ARB_CLEAR of a die that the module has (R386). -/
theorem runs_arbClear {s : State} {site : Nat} {P : State → Prop} (hsite : siteOk site = true)
    (hready : HostReady s (arbClearOff site)) (h : P (arbClearAt site s)) : RunsTo (exec (.arbClear site) s) P := by
  refine runs_onUnit hsite ?_
  rw [hostAccess_of_ready hready]
  exact h

/-- Settles O45: a counter stays or goes by its group, a tally by its selection. -/
theorem counterClearZeroesItsGroups : Obligations.CounterClearZeroesItsGroups := by
  unfold Obligations.CounterClearZeroesItsGroups
  refine ⟨fun s v hready => ⟨_, rfl, ?_⟩, fun s site hsite hready => ?_⟩
  · rw [hostAccess_of_ready hready]
    exact ⟨fun _ => clearGroups_of_named, fun _ => clearGroups_of_unnamed, rfl⟩
  · obtain ⟨hother, htally⟩ := arbClearAt_tallies site s
    exact runs_arbClear hsite hready ⟨hother, htally, rfl⟩

end Sys2Proof.Machine

/-! ## Events -/

namespace Sys2Proof.Machine

section
variable {s : State} {src code flags : Nat} {fields : List (Nat × Nat × Nat)}

@[simp] theorem setOvf_obs (reg bit group : Nat) (s : State) : (setOvf reg bit group s).1.obs = s.obs := by
  unfold setOvf
  dsimp only
  split <;> rfl

/-- Counting without its event leaves the event block. -/
@[simp] theorem bumpCore_obs (off n : Nat) (s : State) : (bumpCore off n s).1.obs = s.obs := by
  unfold bumpCore
  dsimp only
  split
  · rfl
  · split
    · rfl
    · split
      · rw [setOvf_obs]
      · rfl

/-- While the ring is disabled no record leaves the queue. -/
theorem pumpEvents_of_disabled (h : s.obs.ringLog = 0) : pumpEvents s = s := by
  unfold pumpEvents
  cases s.obs.queue with
  | nil => rfl
  | cons e es => exact if_neg (by simp [ringRoom, h])

theorem raiseRaw_ringLog : (raiseRaw src code flags fields s).1.obs.ringLog = s.obs.ringLog := by
  unfold raiseRaw
  dsimp only
  split <;> rfl

/-- The record of an event that is raised now (R477, R479). -/
def nextEvent (s : State) (src code flags : Nat) (fields : List (Nat × Nat × Nat)) : Event :=
  ⟨code, severity code, flags, tget 0 s.obs.seqs src, tickOf s src (tget 0 s.obs.seqs src), src, eventPayload fields⟩

/-- The sequence numbers after an event of a source. -/
def nextSeqs (s : State) (src : Nat) : Table Nat := tset 0 s.obs.seqs src ((tget 0 s.obs.seqs src + 1) % 2 ^ 32)

/-- An event finds room: 64 places, or one where it tells of an error (R482). -/
def EventRoom (s : State) (code : Nat) : Prop :=
  s.obs.queue.length ≤ 4032 ∨ (s.obs.queue.length < 4096 ∧ 2 ≤ severity code)

theorem raiseRaw_of_room (h : EventRoom s code) : raiseRaw src code flags fields s =
    ({ s with obs := { s.obs with seqs := nextSeqs s src, queue := s.obs.queue ++ [nextEvent s src code flags fields] } },
      false) := by
  unfold EventRoom at h
  unfold raiseRaw
  dsimp only
  rw [if_neg (by omega)]
  rfl

theorem raiseRaw_of_full (h : s.obs.queue.length = 4096) : raiseRaw src code flags fields s =
    ({ s with obs := { s.obs with seqs := nextSeqs s src, lostMark := true } }, true) :=
  if_pos (.inl (by simp [h]))

/-- The queue stays, whatever else an event does; a record that finds no room leaves only its mark. -/
theorem raiseRaw_queue_prefix : s.obs.queue <+: (raiseRaw src code flags fields s).1.obs.queue := by
  unfold raiseRaw
  dsimp only
  split
  · exact List.prefix_rfl
  · exact List.prefix_append ..

theorem raise_of_room (hring : s.obs.ringLog = 0) (h : EventRoom s code) : raise src code fields s =
    { s with obs := { s.obs with seqs := nextSeqs s src, queue := s.obs.queue ++ [nextEvent s src code 0 fields] } } := by
  have hraise : raiseQ src code 0 fields s =
      { s with obs := { s.obs with seqs := nextSeqs s src, queue := s.obs.queue ++ [nextEvent s src code 0 fields] } } := by
    rw [raiseQ, raiseRaw_of_room h]
    rfl
  rw [raise, raiseF, hraise]
  exact pumpEvents_of_disabled hring

/-- The queue of a disabled ring is full and the next record carries LOST. -/
def FullAndMarked (q : List Event) (s : State) : Prop :=
  s.obs.queue = q ∧ s.obs.lostMark = true ∧ s.obs.ringLog = 0

theorem FullAndMarked.of_obs {q : List Event} {t : State} (h : FullAndMarked q s) (hobs : t.obs = s.obs) :
    FullAndMarked q t := by
  rw [FullAndMarked, hobs]
  exact h

theorem FullAndMarked.raiseSaturated {q : List Event} (h : FullAndMarked q s) (hq : q.length = 4096) (off : Nat) :
    FullAndMarked q (raiseSaturated off s) := by
  unfold Machine.raiseSaturated
  split
  next => exact h
  next i _ =>
    obtain ⟨hqueue, -, hring⟩ := h
    generalize (if i.src = mapSource then mapSrc s else i.src) = src
    rw [raiseRaw_of_full (hqueue ▸ hq)]
    exact FullAndMarked.of_obs (s := { s with obs := { s.obs with seqs := nextSeqs s src, lostMark := true } })
      ⟨hqueue, rfl, hring⟩ (bumpCore_obs ..)

/-- A dropped event only counts and marks, be EVT_LOST itself at its end (R482). -/
theorem FullAndMarked.countLost {q : List Event} (h : FullAndMarked q s) (hq : q.length = 4096) :
    FullAndMarked q (countLost s) := by
  unfold Machine.countLost
  dsimp only
  split
  · exact (h.of_obs (bumpCore_obs ..)).raiseSaturated hq _
  · exact h.of_obs (bumpCore_obs ..)

theorem raise_of_full (hring : s.obs.ringLog = 0) (h : s.obs.queue.length = 4096) :
    FullAndMarked s.obs.queue (raise src code fields s) := by
  have hmarked : FullAndMarked s.obs.queue (raiseQ src code 0 fields s) := by
    rw [raiseQ, raiseRaw_of_full h]
    exact FullAndMarked.countLost ⟨rfl, rfl, hring⟩ h
  rw [raise, raiseF, pumpEvents_of_disabled hmarked.2.2]
  exact hmarked

section
variable {q : List Event} (h : q <+: s.obs.queue)
include h

theorem raiseSaturated_queue (off : Nat) : q <+: (raiseSaturated off s).obs.queue := by
  unfold raiseSaturated
  split
  next => exact h
  next i _ =>
    generalize (if i.src = mapSource then mapSrc s else i.src) = src
    dsimp only
    split
    · rw [bumpCore_obs]; exact h.trans raiseRaw_queue_prefix
    · exact h.trans raiseRaw_queue_prefix

/-- Counting may add the record of a saturated counter, behind the records that wait. -/
theorem bump_queue (off n : Nat) : q <+: (bump off n s).obs.queue := by
  have hcore : q <+: (bumpCore off n s).1.obs.queue := by rwa [bumpCore_obs]
  unfold bump
  dsimp only
  split
  · exact raiseSaturated_queue hcore off
  · exact hcore

theorem sendMsg_queue (m : HostMsg) : q <+: (sendMsg m s).obs.queue :=
  bump_queue (s := (pumpCore { s with bxl := { s.bxl with txq := s.bxl.txq ++ [m] } }).1) h _ _

theorem irq_queue (v : Nat) : q <+: (irq v s).obs.queue := by
  unfold irq
  split
  · exact h
  · refine sendMsg_queue ?_ _
    exact h

end

/-- STATE and PREVIOUS change together (R557). -/
def intoState (st : Nat) (s : State) : State := { s with pwr := { s.pwr with state := st, previous := s.pwr.state } }

theorem setSys_of_ne {st : Nat} (h : st ≠ s.pwr.state) : setSys st s =
    irq 2 (raise 0 0x0101 [(18, 1, s.pwr.state), (19, 1, st)] (intoState st s)) := if_neg h

theorem setSys_of_eq {st : Nat} (h : st = s.pwr.state) : setSys st s = s := if_pos h

/-- A change of SYS_STATE changes the state, the one before, and what is reported (R557). -/
theorem report_setSys {st : Nat} (h : st ≠ s.pwr.state) : OnlyReport (intoState st s) (setSys st s) := by
  rw [setSys_of_ne h]
  exact (report_raise ..).trans (report_irq ..)

end

/-- Settles O58: an event by its room, and a change of state by the event and the interrupt that it sends. -/
theorem eventsAreQueuedUnderTheirNumber : Obligations.EventsAreQueuedUnderTheirNumber := by
  unfold Obligations.EventsAreQueuedUnderTheirNumber
  refine ⟨fun s src code fields hring => ⟨raise_of_room hring, fun hfull => ?_⟩,
    fun s st hring hroom => ⟨fun hne => ?_, setSys_of_eq⟩⟩
  · obtain ⟨hqueue, hmark, -⟩ := raise_of_full (src := src) (code := code) (fields := fields) hring hfull
    exact ⟨hqueue, hmark, raise_pwr .., raise_cells .., raise_hbm ..⟩
  · have hreport := report_setSys hne
    refine ⟨hreport.pwr, ?_, hreport.cells, hreport.hbm⟩
    have hraise := raise_of_room (s := intoState st s) (src := 0) (code := 0x0101)
      (fields := [(18, 1, s.pwr.state), (19, 1, st)]) hring (.inl hroom)
    rw [setSys_of_ne hne, hraise]
    refine irq_queue ?_ 2
    exact List.prefix_rfl

end Sys2Proof.Machine

/-! ## Flits of the host link -/

namespace Sys2Proof.Machine

section
variable {ftype : Nat} {bytes : List Byte} {f : FlitCtl → List Byte → State → State} {s : State}

/-- What is left of an arriving flit after correction, and whether a byte was corrected (R434). -/
def received (bytes : List Byte) : List Byte × Bool := correctFlit (sliceBytes bytes 0 256)

/-- The state after the ACK and the credit of a good flit (R435, R437). -/
def acked (bytes : List Byte) (s : State) : State :=
  takeAck (flitCtl (received bytes).1) (bump (bxlBase + 0x120) (bit01 (received bytes).2) s)

theorem onFlit_of_inactive (h : s.bxl.st ≠ .active) : onFlit ftype bytes f s = s := if_pos h

theorem onFlit_of_bad (hlink : s.bxl.st = .active) (h : flitGood (received bytes).1 = false) : onFlit ftype bytes f s =
    sendNak (modBxl (fun b => { b with discarding := true }) (bump (bxlBase + 0x118) 1 s)) := by
  unfold received at h
  simp only [onFlit, hlink, ne_eq, not_true_eq_false, if_false, h, Bool.not_false, if_true]

theorem onFlit_of_good (hlink : s.bxl.st = .active) (h : flitGood (received bytes).1 = true)
    (htype : (flitCtl (received bytes).1).ftype = ftype) :
    onFlit ftype bytes f s = f (flitCtl (received bytes).1) (received bytes).1 (acked bytes s) := by
  unfold acked
  unfold received at *
  simp only [onFlit, hlink, ne_eq, not_true_eq_false, if_false, h, Bool.not_true, Bool.false_eq_true, htype]

variable {c : FlitCtl} {body : List Byte} {deliver : List Byte → State → State}

theorem takeData_of_expected (h : c.fseq = s.bxl.expect) : takeData c body deliver s =
    sendIdle (deliver (body.take 240) (bump (bxlBase + 0x108) 1 { s with
      bxl := { s.bxl with expect := (s.bxl.expect + 1) % 4096, discarding := false } })) := if_pos h

theorem takeData_of_discarding (h : c.fseq ≠ s.bxl.expect) (hdiscarding : s.bxl.discarding = true) :
    takeData c body deliver s = s := (if_neg h).trans (if_pos hdiscarding)

theorem takeData_of_first (h : c.fseq ≠ s.bxl.expect) (hdiscarding : s.bxl.discarding = false) :
    takeData c body deliver s = sendNak { s with bxl := { s.bxl with discarding := true } } :=
  (if_neg h).trans (if_neg (by simp [hdiscarding]))

end

/-- Each of the three flits is received alike; only what it then does differs (R435). -/
theorem exec_flit {x : Instr × Nat} {bytes : List Byte} (hx : x ∈ [(Instr.dataFlit bytes, 0), (.idleFlit bytes, 1), (.nakFlit bytes, 2)])
    (s : State) : ∃ f, exec x.1 s = .next (onFlit x.2 bytes f s) := by
  simp only [List.mem_cons, List.not_mem_nil, or_false] at hx
  obtain rfl | rfl | rfl := hx <;> exact ⟨_, rfl⟩

/-- Settles O39: by the link's state, the flit's check and, of a DATA flit, its number. -/
theorem flitsOfTheHostLinkAreTaken : Obligations.FlitsOfTheHostLinkAreTaken := by
  unfold Obligations.FlitsOfTheHostLinkAreTaken
  intro s bytes
  refine ⟨fun hlink => ⟨fun x hx => ?_, _, rfl, if_neg hlink⟩,
    fun hlink => ⟨⟨_, rfl, if_pos hlink⟩, fun hbad x hx => ?_, fun hgood =>
      ⟨fun htype => ⟨_, rfl, onFlit_of_good hlink hgood htype⟩, fun htype => ⟨_, rfl, onFlit_of_good hlink hgood htype⟩,
        fun htype => ⟨_, rfl, ?_⟩⟩⟩⟩
  · obtain ⟨f, hexec⟩ := exec_flit hx s
    exact ⟨_, hexec, onFlit_of_inactive hlink⟩
  · obtain ⟨f, hexec⟩ := exec_flit hx s
    exact ⟨_, hexec, onFlit_of_bad hlink hbad⟩
  · rw [onFlit_of_good hlink hgood htype]
    exact ⟨takeData_of_expected, takeData_of_discarding, takeData_of_first⟩

end Sys2Proof.Machine

/-! ## The states of the host link -/

namespace Sys2Proof.Machine

section
variable {s : State}

/-- A half of the host link that lane training rules out: it holds a lasting fault or a lane that failed now (R440). -/
def halfOut (bad : List Nat) (s : State) (h : Nat) : Bool :=
  bitAt (badHalves s hostLinkNo 8) h || (rangeFrom (4 * h) 4).any fun l => decide (l ∈ bad)

theorem runs_lanesEqualised {bad : List Nat} {P : State → Prop} (hlink : s.bxl.st = .train)
    (h : let u := lanesTrained hostLinkNo 8 bad s
      P (if (halfOut bad u 0 && halfOut bad u 1) = true then linkDown u
        else linkTo .align (modBxl (fun b => { b with lanes := if (halfOut bad u 0 || halfOut bad u 1) = true then 4 else b.lanes }) u))) :
    RunsTo (exec (.lanesEqualised bad) s) P :=
  ⟨_, congrArg Host.Outcome.next (if_neg (by simp [hlink])), h⟩

theorem runs_trainingPatternSeen {lanes : List Nat} {P : State → Prop} (hlink : s.bxl.st = .detect)
    (hseen : halfSeen s lanes 0 = true ∨ halfSeen s lanes 1 = true)
    (h : P (linkTo .train (modBxl (fun x => { x with
      lanes := if halfSeen s lanes 0 && halfSeen s lanes 1 then 8 else 4, fromRetrain := false }) (lanesRetire hostLinkNo 8 s)))) :
    RunsTo (exec (.trainingPatternSeen lanes) s) P :=
  ⟨_, congrArg Host.Outcome.next (if_pos ⟨hlink, by simpa using hseen⟩), h⟩

theorem retrainPut_of_active (hlink : s.bxl.st = .active) :
    retrainPut s = retrain 2 (modBxl (fun b => { b with retrainReq := true }) s) := if_pos hlink

end

/-- Settles O40: each event by the state that it belongs to. -/
theorem hostLinkStatesMove : Obligations.HostLinkStatesMove := by
  unfold Obligations.HostLinkStatesMove
  intro s
  refine ⟨fun hlink hpowered hhalves => ⟨_, rfl, if_pos ⟨hlink, hpowered, hhalves⟩⟩,
    fun lanes hlink hseen => runs_trainingPatternSeen hlink hseen rfl,
    fun bad hlink => runs_lanesEqualised hlink ⟨?unusable, ?usable⟩,
    fun hlink => ⟨_, rfl, if_neg (by simp [hlink])⟩, ?timeouts, ⟨_, rfl, ?lockLoss⟩,
    fun hready => ⟨_, rfl, (hostAccess_of_ready hready _).trans (retrainPut_of_active hready.1)⟩⟩
  case unusable =>
    rintro ⟨hlow, hhigh⟩
    exact if_pos (Bool.and_eq_true_iff.2 ⟨hlow, hhigh⟩)
  case usable =>
    intro hhalf
    exact if_neg fun hboth => by
      obtain ⟨hlow, hhigh⟩ := Bool.and_eq_true_iff.1 hboth
      exact hhalf.elim (fun h => Bool.false_ne_true (h.symm.trans hlow)) (fun h => Bool.false_ne_true (h.symm.trans hhigh))
  case timeouts =>
    intro x hx
    simp only [List.mem_cons, List.not_mem_nil, or_false] at hx
    obtain rfl | rfl | rfl := hx <;> exact ⟨_, rfl, rfl⟩
  case lockLoss =>
    refine ⟨fun hlink => ?_, fun hlink => ?_, fun hactive halign => ?_⟩
    · simp [hlink]
    · simp [hlink]
    · split
      · contradiction
      · contradiction
      · rfl

end Sys2Proof.Machine

/-! ## Accesses of the host -/

namespace Sys2Proof.Machine

/-- An access of the host is well formed and its block answers (R442, R556). -/
def accessOk (s : State) (space addr n : Nat) : Bool := barOk space addr n && barServed s space addr

section
variable {s : State} {space addr n tag : Nat} {data : List Byte}

theorem refused_of_not_accessOk (h : accessOk s space addr n = false) :
    (!barOk space addr n || !barServed s space addr) = true := by
  rw [← Bool.not_and, ← accessOk, h]
  rfl

theorem not_refused_of_accessOk (h : accessOk s space addr n = true) :
    (!barOk space addr n || !barServed s space addr) = false := by
  rw [← Bool.not_and, ← accessOk, h]
  rfl

theorem hostPut_of_refused (hlink : s.bxl.st = .active) (hok : accessOk s space addr data.length = false) :
    hostPut space addr data s = bump (bxlBase + 0x130) 1 s :=
  (if_neg (not_not.2 hlink)).trans (if_pos (refused_of_not_accessOk hok))

theorem hostPut_of_ok (hlink : s.bxl.st = .active) (hok : accessOk s space addr data.length = true) :
    hostPut space addr data s =
      if space = 0 then regPut (addr / 8 * 8) (ofBytes data <<< (8 * (addr % 8))) (barMask addr data.length) s
      else doorbellPut (addr / 8 * 8) (ofBytes data <<< (8 * (addr % 8))) (barMask addr data.length) s :=
  (if_neg (not_not.2 hlink)).trans (if_neg (by simp [not_refused_of_accessOk hok]))

/-- The answer to a read of the host (R438, R442). -/
def readResponse (space addr n tag : Nat) (data : List Byte) (s : State) : State :=
  sendMsg { typ := 0x03, len := n, tag := tag, space := space, addr := addr, data := data } s

theorem hostGet_of_refused (hlink : s.bxl.st = .active) (hok : accessOk s space addr n = false) :
    hostGet space addr n tag s =
      readResponse space addr n tag (List.replicate n 0xFF#8) (bump (bxlBase + 0x130) 1 s) := by
  have hrefused := refused_of_not_accessOk hok
  simp only [hostGet, hostBytes, hlink, hrefused, ne_eq, not_true_eq_false, if_false, if_true]
  rfl

/-- A read of a register answers its bytes, and then what reading it does is done (R553). -/
theorem hostGet_of_register (hlink : s.bxl.st = .active) (hok : accessOk s 0 addr n = true) :
    hostGet 0 addr n tag s = readResponse 0 addr n tag (toBytes n (regGet s (addr / 8 * 8) >>> (8 * (addr % 8))))
      (regRead (addr / 8 * 8) (barMask addr n) s) := by
  have hserved := not_refused_of_accessOk hok
  simp only [hostGet, hostBytes, hlink, hserved, ne_eq, not_true_eq_false, if_false, if_true, Bool.false_eq_true]
  rfl

theorem hostGet_of_doorbell (hlink : s.bxl.st = .active) (hspace : space ≠ 0) (hok : accessOk s space addr n = true) :
    hostGet space addr n tag s =
      readResponse space addr n tag (toBytes n (doorbellGet s (addr / 8 * 8) >>> (8 * (addr % 8)))) s := by
  have hserved := not_refused_of_accessOk hok
  simp only [hostGet, hostBytes, hlink, hserved, hspace, ne_eq, not_true_eq_false, if_false, Bool.false_eq_true]
  rfl

theorem drspTake_of_unknown {flags : Nat} (h : tget none s.bxl.reads tag = none) : drspTake tag flags data s = s := by
  unfold drspTake
  rw [h]
  split
  · contradiction
  · rfl

theorem drspTake_of_read {flags : Nat} {r : HostRead} (hlink : s.bxl.st = .active) (h : tget none s.bxl.reads tag = some r) :
    drspTake tag flags data s = issueRead (readAnswered r data (flags % 4 == 0)
      (modBxl (fun b => { b with reads := tset none b.reads tag none }) s)) := by
  unfold drspTake
  rw [h, hlink]
  rfl

end

section
variable {s : State} {v : BitVec 64} {g port site d c : Nat}

/-- The host's writes of one register that have commands of their own, and the read of CELL_TAGS, with the offsets of
their registers. -/
def registerCommands (v : BitVec 64) (g port site d c : Nat) : List (Instr × Nat) :=
  [(.bxlRetrainRequest, bxlBase + 0x08), (.bxlCmdqCfgWrite v, bxlBase + 0x18), (.bxlCmdqTailWrite v, bxlBase + 0x20),
    (.bxlCplqHeadWrite v, bxlBase + 0x38), (.planKeyLock, hfBase + 0x40), (.evtRingSizeWrite v, obsBase + 0x08),
    (.evtTailWrite v, obsBase + 0x18), (.ctrClear v, obsBase + 0x108), (.pmapFenceReg, pmapBase + 0x18),
    (.pmapBaseWrite v, pmapBase), (.modeCtlWrite v, 0x200), (.pwrCapWrite v, 0x800), (.lampRtcWrite v, lampBase),
    (.portCtlWrite g port v, portBase (2 * g + port) + 8), (.arbClear site, arbClearOff site),
    (.cellTagsRead d c, cellBase (128 * d + c) + 0x10)]

/-- Each of them is an access to its register, which the one gate serves or refuses (R556). -/
theorem exec_registerCommand (hsite : siteOk site = true) (hd : d < 8) (hc : c < 100) :
    ∀ x ∈ registerCommands v g port site d c, ∃ f, exec x.1 s = .next (hostAccess x.2 f s) := by
  simp only [registerCommands, List.forall_mem_cons]
  refine ⟨⟨_, rfl⟩, ⟨_, rfl⟩, ⟨_, rfl⟩, ⟨_, rfl⟩, ⟨_, rfl⟩, ⟨_, rfl⟩, ⟨_, rfl⟩, ⟨_, rfl⟩, ⟨_, rfl⟩, ⟨_, rfl⟩, ⟨_, rfl⟩,
    ⟨_, rfl⟩, ⟨_, rfl⟩, ⟨_, rfl⟩, ⟨_, if_pos hsite⟩, ⟨_, if_pos (by simp [hd, hc])⟩, List.forall_mem_nil _⟩

theorem hostAccess_of_inactive {off : Nat} {f : State → State} (hlink : s.bxl.st ≠ .active) : hostAccess off f s = s :=
  if_pos hlink

theorem hostAccess_of_unserved {off : Nat} {f : State → State} (hlink : s.bxl.st = .active) (h : served s off = false) :
    hostAccess off f s = bump (bxlBase + 0x130) 1 s :=
  (if_neg (not_not.2 hlink)).trans (if_neg (by simp [h]))

end

/-- Settles O41: by what the access names and whether it is served, and for the commands of one register by their
common gate. -/
theorem hostAccessesReachRegisters : Obligations.HostAccessesReachRegisters := by
  unfold Obligations.HostAccessesReachRegisters
  refine ⟨fun s hlink => ⟨fun space addr data => ⟨_, rfl, ?puts⟩, fun space addr n tag => ⟨_, rfl, ?gets⟩,
    fun tag flags data => ⟨_, rfl, drspTake_of_unknown, fun r => drspTake_of_read hlink⟩,
    fun data => ⟨_, rfl, if_neg (not_not.2 hlink)⟩, fun opx => ⟨_, rfl, ?reset⟩⟩,
    fun s v g port site d c hport hsite hd hc x hx => ?registers⟩
  case puts =>
    refine ⟨fun hok hspace => ?_, fun hok hspace => ?_, hostPut_of_refused hlink⟩
    · subst hspace
      exact (hostPut_of_ok hlink hok).trans (if_pos rfl)
    · subst hspace
      exact (hostPut_of_ok hlink hok).trans (if_neg Nat.one_ne_zero)
  case gets =>
    refine ⟨fun hok hspace => ?_, fun hok hspace => ?_, hostGet_of_refused hlink⟩
    · subst hspace
      exact hostGet_of_register hlink hok
    · subst hspace
      exact hostGet_of_doorbell hlink Nat.one_ne_zero hok
  case reset =>
    have hopx : opx.toNat = 1 ↔ opx = 1 := BitVec.toNat_inj (y := 1#8)
    simp only [resetTake, hlink, hopx, true_and]
  case registers =>
    obtain ⟨f, hexec⟩ := exec_registerCommand hsite hd hc x hx
    exact ⟨fun hlink => ⟨_, hexec, hostAccess_of_inactive hlink⟩,
      fun hlink hserved => ⟨_, hexec, hostAccess_of_unserved hlink hserved⟩⟩

end Sys2Proof.Machine

/-! ## Writes under a mask -/

namespace Sys2Proof.Machine

/-- Numbers without a common bit add without a carry. -/
theorem add_eq_or_of_disjoint {a b : Nat} (h : a &&& b = 0) : a + b = a ||| b := by
  have hw : a + b < 2 ^ (a + b) := Nat.lt_two_pow_self
  have hand : BitVec.ofNat (a + b) a &&& BitVec.ofNat (a + b) b = 0#(a + b) := by
    rw [← BitVec.ofNat_and, h]
  have hsum := congrArg BitVec.toNat (BitVec.add_eq_or_of_and_eq_zero _ _ hand)
  rwa [← BitVec.ofNat_add, ← BitVec.ofNat_or, BitVec.toNat_ofNat, BitVec.toNat_ofNat, Nat.mod_eq_of_lt hw,
    Nat.mod_eq_of_lt (Nat.or_lt_two_pow (by omega) (by omega))] at hsum

section
variable {m v old : Nat}

/-- A write takes the bits that its mask covers and leaves the others (R442). -/
theorem testBit_mixModes (i : Nat) : (mixModes m v old).testBit i = if m.testBit i then v.testBit i else old.testBit i := by
  have hkept : (old ||| m) - m = old.ldiff m := by
    have hsplit : old ||| m = old.ldiff m ||| m :=
      Nat.eq_of_testBit_eq fun i => by simp only [Nat.testBit_or, Nat.testBit_ldiff]; cases m.testBit i <;> simp
    have hdisjoint : old.ldiff m &&& m = 0 :=
      Nat.eq_of_testBit_eq fun i => by simp [Nat.testBit_ldiff]
    rw [hsplit, ← add_eq_or_of_disjoint hdisjoint, Nat.add_sub_cancel]
  have hdisjoint : old.ldiff m &&& (v &&& m) = 0 :=
    Nat.eq_of_testBit_eq fun i => by simp only [Nat.testBit_and, Nat.testBit_ldiff]; cases m.testBit i <;> simp
  rw [mixModes, hkept, add_eq_or_of_disjoint hdisjoint, Nat.testBit_or, Nat.testBit_ldiff, Nat.testBit_and]
  cases m.testBit i <;> simp

theorem testBit_allBits {i : Nat} (hi : i < 64) : allBits.testBit i = true := by
  have hall : allBits = 2 ^ 64 - 1 := rfl
  rw [hall, Nat.testBit_two_pow_sub_one]
  exact decide_eq_true hi

/-- A write of a whole register gives each field within it its new value. -/
theorem fieldOf_mixModes_allBits {hi lo : Nat} (hhi : hi < 64) :
    fieldOf (mixModes allBits v old) hi lo = fieldOf v hi lo := by
  refine Nat.eq_of_testBit_eq fun i => ?_
  rw [testBit_fieldOf, testBit_fieldOf, testBit_mixModes]
  by_cases hin : i < hi + 1 - lo
  · rw [testBit_allBits (by omega)]; rfl
  · simp [hin]

/-- Low bits that the mask covers are those of the value written. -/
theorem mixModes_mod {n : Nat} (hmask : ∀ i < n, m.testBit i = true) : mixModes m v old % 2 ^ n = v % 2 ^ n := by
  refine Nat.eq_of_testBit_eq fun i => ?_
  rw [Nat.testBit_mod_two_pow, Nat.testBit_mod_two_pow, testBit_mixModes]
  by_cases hin : i < n
  · rw [hmask i hin]; rfl
  · simp [hin]

theorem mixModes_allBits_mod {n : Nat} (hn : n ≤ 64) : mixModes allBits v old % 2 ^ n = v % 2 ^ n :=
  mixModes_mod fun _ hi => testBit_allBits (hi.trans_le hn)

/-- A register that its mask covers holds no more than the mask. -/
theorem mixModes_lt {n : Nat} (hmask : m < 2 ^ n) (hold : old < 2 ^ n) : mixModes m v old < 2 ^ n := by
  refine Nat.lt_pow_two_of_testBit _ fun i hi => ?_
  have hbits {x : Nat} (hx : x < 2 ^ n) : x.testBit i = false :=
    Nat.testBit_lt_two_pow (hx.trans_le (Nat.pow_le_pow_right two_pos hi))
  rw [testBit_mixModes, hbits hmask, hbits hold]
  rfl

end

end Sys2Proof.Machine

/-! ## The queue registers -/

namespace Sys2Proof.Machine

section
variable {s : State} {v : BitVec 64}

theorem cmdqCfgPut_of_enabled (henable : s.bxl.enable = true) : cmdqCfgPut v.toNat allBits s =
    if bitAt v.toNat 16 = true then s else queueOff s := by
  unfold cmdqCfgPut
  rw [if_pos henable]
  cases bitAt v.toNat 16 <;> rfl

/-- A write of sizes in range that sets ENABLE takes the sizes and begins the queues (R443). -/
theorem cmdqCfgPut_of_sizes (henable : s.bxl.enable = false) (hset : bitAt v.toNat 16 = true)
    (hcmd : fieldOf v.toNat 3 0 ∈ rangeFrom 4 9) (hcpl : fieldOf v.toNat 11 8 ∈ rangeFrom 4 9) :
    cmdqCfgPut v.toNat allBits s =
      queueOn (modBxl (fun b => { b with cmdqLog := fieldOf v.toNat 3 0, cplqLog := fieldOf v.toNat 11 8 }) s) := by
  rw [mem_rangeFrom] at hcmd hcpl
  have hsizes : 4 ≤ fieldOf v.toNat 3 0 ∧ fieldOf v.toNat 3 0 ≤ 12 ∧ 4 ≤ fieldOf v.toNat 11 8 ∧ fieldOf v.toNat 11 8 ≤ 12 := by
    omega
  have hmask : bitAt allBits 16 = true := by decide
  simp only [cmdqCfgPut, henable, Bool.false_eq_true, if_false, fieldOf_mixModes_allBits (hi := 3) (by omega),
    fieldOf_mixModes_allBits (hi := 11) (by omega), hset, hmask, hsizes, decide_true, Bool.and_self, and_self, if_true]

theorem cmdqTailPut_of_within (h : (v.toNat % 2 ^ 32 + 2 ^ 32 - s.bxl.cmdHead) % 2 ^ 32 ≤ 2 ^ s.bxl.cmdqLog) :
    cmdqTailPut v.toNat allBits s = pumpCmds { s with bxl := { s.bxl with cmdTail := v.toNat % 2 ^ 32 } } :=
  (if_neg (by decide)).trans (if_neg (Nat.not_lt.2 h))

theorem cmdqTailPut_of_beyond (h : 2 ^ s.bxl.cmdqLog < (v.toNat % 2 ^ 32 + 2 ^ 32 - s.bxl.cmdHead) % 2 ^ 32) :
    cmdqTailPut v.toNat allBits s = bump (bxlBase + 0x130) 1 s := (if_neg (by decide)).trans (if_pos h)

/-- The end of the hold-off of a vector (R451). -/
def holdOffEnded (n : Nat) (s : State) : State :=
  modBxl (fun b => { b with irqHeld := b.irqHeld.filter (· != n), irqWait := b.irqWait.filter (· != n) }) s

theorem runs_irqHoldoffExpire {n : Nat} {P : State → Prop} (hn : n < 64) (hheld : n ∈ s.bxl.irqHeld)
    (h : P (if (decide (n ∈ s.bxl.irqWait) && irqCause (holdOffEnded n s) n) = true then irq n (holdOffEnded n s)
      else holdOffEnded n s)) : RunsTo (exec (.irqHoldoffExpire n) s) P := by
  refine runs_onUnit (decide_eq_true hn) ?_
  rwa [if_neg (not_not.2 hheld)]

theorem runs_dbHostIdxWrite {n : Nat} {P : State → Prop} (hn : n < 16384) (hlink : s.bxl.st = .active)
    (h : P (if bar2Served s = true then doorbellPut (64 * n + 0x10) v.toNat allBits s else bump (bxlBase + 0x130) 1 s)) :
    RunsTo (exec (.dbHostIdxWrite n v) s) P := by
  refine runs_onUnit (decide_eq_true hn) ?_
  rwa [if_neg (not_not.2 hlink)]

end

/-- Settles O44: each write by the register that it reaches. -/
theorem queueRegistersTakeEffect : Obligations.QueueRegistersTakeEffect := by
  unfold Obligations.QueueRegistersTakeEffect
  refine fun s v => ⟨fun hready => ⟨fun henable hset hcmd hcpl => ⟨_, rfl, ?_⟩, fun henable hclear => ⟨_, rfl, ?_⟩,
      fun henable hset => ⟨_, rfl, ?_⟩⟩,
    fun hready => ⟨_, rfl, ?_⟩, fun hready => ⟨_, rfl, ?_⟩, fun n hn hlink => runs_dbHostIdxWrite hn hlink rfl,
    fun n hn hheld => runs_irqHoldoffExpire hn hheld ⟨fun hwait hcause => ?_, fun hwait => ?_⟩⟩
  · exact (hostAccess_of_ready hready _).trans (cmdqCfgPut_of_sizes henable hset hcmd hcpl)
  · exact (hostAccess_of_ready hready _).trans ((cmdqCfgPut_of_enabled henable).trans (if_neg (by simp [hclear])))
  · exact (hostAccess_of_ready hready _).trans ((cmdqCfgPut_of_enabled henable).trans (if_pos hset))
  · rw [hostAccess_of_ready hready]
    exact ⟨cmdqTailPut_of_within, cmdqTailPut_of_beyond⟩
  · exact (hostAccess_of_ready hready _).trans (if_neg (by decide))
  · exact if_pos (Bool.and_eq_true_iff.2 ⟨decide_eq_true hwait, hcause⟩)
  · exact if_neg (by simp [hwait])

end Sys2Proof.Machine

/-! ## Control registers and comparators -/

namespace Sys2Proof.Machine

section
variable {s : State} {v : BitVec 64}

theorem ringSizePut_of_size (hlo : 6 ≤ v.toNat % 32) (hhi : v.toNat % 32 ≤ 20) : ringSizePut v.toNat allBits s =
    raiseTrip (pumpEvents (modObs (fun o => { o with ringLog := v.toNat % 32, head := 0, tail := 0, landing := 0 }) s)) := by
  have hmask : ¬allBits % 32 = 0 := by decide
  simp only [ringSizePut, hmask, if_false, hlo, hhi, and_self, if_true, show ¬v.toNat % 32 = 0 by omega]

theorem ringSizePut_of_zero (h : v.toNat % 32 = 0) :
    ringSizePut v.toNat allBits s = modObs (fun o => { o with ringLog := 0 }) s := by
  have hmask : ¬allBits % 32 = 0 := by decide
  simp only [ringSizePut, hmask, if_false, h, if_true]

/-- The records of the event ring. -/
def ringSize (s : State) : Nat := if s.obs.ringLog = 0 then 0 else 2 ^ s.obs.ringLog

theorem evtTailPut_of_within (h : (s.obs.head + 2 ^ 32 - v.toNat % 2 ^ 32) % 2 ^ 32 ≤ ringSize s) :
    evtTailPut v.toNat allBits s = pumpEvents (modObs (fun o => { o with tail := v.toNat % 2 ^ 32 }) s) := by
  have hmask : ¬allBits % 2 ^ 32 = 0 := by decide
  rw [evtTailPut, if_neg hmask]
  exact if_neg (Nat.not_lt.2 h)

theorem evtTailPut_of_beyond (h : ringSize s < (s.obs.head + 2 ^ 32 - v.toNat % 2 ^ 32) % 2 ^ 32) :
    evtTailPut v.toNat allBits s = bump (bxlBase + 0x130) 1 s := by
  have hmask : ¬allBits % 2 ^ 32 = 0 := by decide
  rw [evtTailPut, if_neg hmask]
  exact if_pos h

theorem lockKey_locks (s : State) : (lockKey s).hf.planKeyLock = true ∧ (lockKey s).hf.planKey = s.hf.planKey := by
  unfold lockKey
  split
  next h => exact ⟨h, rfl⟩
  next => exact ⟨rfl, rfl⟩

theorem pmapBasePut_of_active (h : s.plan.active = true) : pmapBasePut v.toNat allBits s = s := if_pos h

theorem pmapBasePut_of_inactive (h : s.plan.active = false) :
    (pmapBasePut v.toNat allBits s).pmap.base = v.toNat % 2 ^ 40 / 16 * 16 ∧
      (pmapBasePut v.toNat allBits s).pmap.page = if v.toNat % 8 < 5 then v.toNat % 8 else s.pmap.page := by
  have hpage := mixModes_allBits_mod (v := v.toNat) (old := s.pmap.base + s.pmap.page) (n := 3) (by decide)
  have hbase := mixModes_allBits_mod (v := v.toNat) (old := s.pmap.base + s.pmap.page) (n := 40) (by decide)
  rw [pmapBasePut, if_neg (by simp [h])]
  exact ⟨congrArg (· / 16 * 16) hbase, by dsimp only; rw [show (8 : Nat) = 2 ^ 3 from rfl, hpage]⟩

/-- A reserved workload leaves the field, any other is taken (R456). -/
theorem modeCtlPut_workload (v : BitVec 64) (s : State) : ∃ w,
    modeCtlPut v.toNat allBits s = latchModes { s with modes := { s.modes with ctl := w } } ∧
      w % 4 = if v.toNat % 4 = 3 then s.modes.ctl % 4 else v.toNat % 4 := by
  refine ⟨_, rfl, ?_⟩
  have hwritten := mixModes_mod (m := allBits &&& 0x11313) (v := v.toNat) (old := s.modes.ctl) (n := 2) (by decide)
  change mixModes _ _ _ % 4 = v.toNat % 4 at hwritten
  rw [hwritten]
  split
  · exact mixModes_mod (m := mWorkload) (n := 2) (by decide)
  · exact hwritten

theorem pwrCapPut_of_attempt (hattempt : inAttempt s = true) (hcap : s.pwr.cap < 8192) : pwrCapPut v.toNat allBits s =
    { s with pwr := { s.pwr with
      cap := if 2000 ≤ v.toNat % 8192 ∧ v.toNat % 8192 ≤ 4800 then v.toNat % 8192 else s.pwr.cap } } := by
  have hlt := mixModes_lt (m := allBits &&& 0x1FFF) (v := v.toNat) (n := 13) (by decide) hcap
  have hwritten := mixModes_mod (m := allBits &&& 0x1FFF) (v := v.toNat) (old := s.pwr.cap) (n := 13) (by decide)
  rw [Nat.mod_eq_of_lt hlt] at hwritten
  change _ = v.toNat % 8192 at hwritten
  unfold pwrCapPut
  dsimp only
  rw [hwritten]
  by_cases hrange : 2000 ≤ v.toNat % 8192 ∧ v.toNat % 8192 ≤ 4800
  · rw [if_pos hrange, if_pos hrange]
    exact if_pos hattempt
  · rw [if_neg hrange, if_neg hrange]
    exact if_pos hattempt

theorem rtcPut_whole (v : BitVec 64) (s : State) :
    rtcPut v.toNat allBits s = { s with lamp := { s.lamp with rtcWrite := some (v.toNat % 2 ^ 48) } } := by
  simp only [rtcPut, modLamp, mixModes_allBits_mod (n := 48) (by decide)]

/-- The sampled quantity of a comparator has reached its threshold (R488). -/
def meets (s : State) (c : Comparator) (v : BitVec 64) : Bool :=
  if c.dir then (cmpValue s c v).sle c.thr else c.thr.sle (cmpValue s c v)

/-- Comparator n fires (R488). -/
def fireCmp (n : Nat) (s : State) : State :=
  modLamp (fun l => { l with
    cmps := tmod {} l.cmps n fun c => { c with fired := true }
    wakeSrc := if (tget {} s.lamp.cmps n).wake then l.wakeSrc ||| 1 <<< n else l.wakeSrc }) s

theorem fireCmp_cmps (n : Nat) (s : State) :
    (fireCmp n s).lamp.cmps = tmod {} s.lamp.cmps n fun c => { c with fired := true } := rfl

theorem sampleCmp_of_still {n : Nat} (h : (tget {} s.lamp.cmps n).enable = false ∨ s.pwr.state = stOff ∨
    meets s (tget {} s.lamp.cmps n) v = false ∨ (tget {} s.lamp.cmps n).fired = true) : sampleCmp n v s = s := by
  refine if_pos ?_
  unfold meets at h
  generalize tget ({} : Comparator) s.lamp.cmps n = c at h ⊢
  obtain h | h | h | h := h <;> simp [h]

theorem sampleCmp_of_met {n : Nat} (henable : (tget {} s.lamp.cmps n).enable = true) (hon : s.pwr.state ≠ stOff)
    (hmet : meets s (tget {} s.lamp.cmps n) v = true) (hfired : (tget {} s.lamp.cmps n).fired = false)
    (hpowered : (tget {} s.lamp.cmps n).qty = 2 → s.pwr.pwrGood = true) : sampleCmp n v s =
      raise (source 6 n) 0x0101 [(18, 1, n), (24, 8, (cmpValue s (tget {} s.lamp.cmps n) v).toNat)] (fireCmp n s) := by
  refine if_neg ?_
  unfold meets at hmet
  generalize tget ({} : Comparator) s.lamp.cmps n = c at *
  simpa [henable, hon, hmet, hfired] using hpowered

end

/-- Settles O46: each write by the law of its register, a sample by whether the comparator fires. -/
theorem controlRegistersTakeEffect : Obligations.ControlRegistersTakeEffect := by
  unfold Obligations.ControlRegistersTakeEffect
  refine ⟨fun s v => ⟨fun hready => ⟨fun hlo hhi => ⟨_, rfl, ?_⟩, fun hzero => ⟨_, rfl, ?_⟩⟩,
      fun hready => ⟨_, rfl, ?_⟩, fun hlanding => ⟨_, rfl, if_neg hlanding⟩, fun hready => ⟨_, rfl, ?_⟩,
      fun hready => ⟨_, rfl, hostAccess_of_ready hready _⟩, fun hready => ⟨_, rfl, ?_⟩, fun hready => ⟨_, rfl, ?_⟩,
      fun hready hattempt hcap => ⟨_, rfl, ?_⟩, fun hready => ⟨_, rfl, hostAccess_of_ready hready _⟩,
      fun hready => ⟨_, rfl, (hostAccess_of_ready hready _).trans (rtcPut_whole v s)⟩,
      fun die port hport hready => ⟨_, rfl, (hostAccess_of_ready hready _).trans (if_pos hport)⟩⟩,
    fun s n v hn => ⟨fun hstill => runs_onUnit (decide_eq_true hn) (sampleCmp_of_still hstill),
      fun henable hon hmet hfired hpowered => runs_onUnit (decide_eq_true hn) ?_⟩⟩
  · exact (hostAccess_of_ready hready _).trans (ringSizePut_of_size hlo hhi)
  · exact (hostAccess_of_ready hready _).trans (ringSizePut_of_zero hzero)
  · rw [hostAccess_of_ready hready]
    exact ⟨evtTailPut_of_within, evtTailPut_of_beyond⟩
  · rw [hostAccess_of_ready hready]
    exact ⟨rfl, lockKey_locks s⟩
  · rw [hostAccess_of_ready hready]
    exact ⟨pmapBasePut_of_active, pmapBasePut_of_inactive⟩
  · rw [hostAccess_of_ready hready]
    exact modeCtlPut_workload v s
  · exact (hostAccess_of_ready hready _).trans (pwrCapPut_of_attempt hattempt hcap)
  · rw [sampleCmp_of_met henable hon hmet hfired hpowered, raise_lamp, fireCmp_cmps]
    exact ⟨rfl, by rw [tget_tmod_same], fun j hj => tget_tmod_ne _ _ _ hj⟩

end Sys2Proof.Machine

/-! ## The stash outside TRAIN -/

namespace Sys2Proof.Machine

section
variable {s : State} {die : Nat} {d : List Byte}

/-- Signalling a semaphore changes nothing but the signals on their way (R154). -/
theorem signalLogical_only (cell sem amt : Nat) (s : State) :
    signalLogical cell sem amt s = { s with sigs := (signalLogical cell sem amt s).sigs } := by
  unfold signalLogical signalSem
  split
  · split <;> rfl
  · rfl

theorem stashSave_of_other_workload (h : workload s ≠ 0) : stashSave die d s = s := if_pos (.inl h)

theorem stashCheck_of_other_workload (hok : engineOk s (numAt d 8 8) 16 = true) (h : workload s ≠ 0) :
    stashCheck d s = writeLocal (gaddr (numAt d 8 8)) (List.replicate 16 0#8) s :=
  (if_neg (by simp [hok])).trans (if_pos h)

end

/-- Settles O57: the request is served, and outside TRAIN serving it is nothing, or two words of zero. -/
theorem stashRestsOutsideTrain : Obligations.StashRestsOutsideTrain := by
  unfold Obligations.StashRestsOutsideTrain
  intro s die r d hdie hhead
  refine fun hworkload => ⟨fun hop => ?save, fun hop hok => ?check⟩
  case save =>
    obtain ⟨t, hexec, rfl⟩ := runs_stashServe (stashSave die) hdie hhead hop
    refine ⟨_, hexec, ?_⟩
    rw [stashSave_of_other_workload hworkload, signalLogical_only]
    exact ⟨rfl, rfl, rfl, rfl, rfl⟩
  case check =>
    obtain ⟨t, hexec, rfl⟩ := runs_stashServe stashCheck hdie hhead hop
    exact ⟨_, hexec, congrArg _ (stashCheck_of_other_workload hok hworkload)⟩

/-! ## The JTAG port and the sideband -/

/-- Settles O56: in OFF nothing happens; else each operation sets the two fields of the port and no other. -/
theorem jtagReachesOnlyItsPort : Obligations.JtagReachesOnlyItsPort := by
  unfold Obligations.JtagReachesOnlyItsPort
  intro s op
  refine ⟨_, rfl, ?_⟩
  by_cases hoff : s.pwr.state = stOff
  · rw [if_pos hoff]
    exact ⟨rfl, fun _ => rfl, fun _ hon => absurd hoff hon, fun _ _ hon => absurd hoff hon⟩
  · rw [if_neg hoff]
    cases op with
    | idcode => exact ⟨rfl, fun _ => rfl, fun _ _ => rfl, nofun⟩
    | boundary l => exact ⟨rfl, fun h => absurd rfl (h l), nofun, nofun⟩
    | other l => exact ⟨rfl, fun _ => rfl, nofun, fun m hm _ => by cases hm; rfl⟩

theorem sideAnswer_of_on {s : State} (v : Nat) (h : s.pwr.state ≠ stOff) :
    sideAnswer v s = { s with side := { s.side with answer := some v } } := by
  simp [sideAnswer, modSide, h]

theorem sideAnswer_of_off {s : State} (v : Nat) (h : s.pwr.state = stOff) :
    sideAnswer v s = { s with side := { s.side with answer := none } } := by
  simp [sideAnswer, modSide, h]

/-- Settles O55: every read is `sideAnswer` of its figure, and every write asks first whether the state is OFF. -/
theorem sidebandCommandsAnswer : Obligations.SidebandCommandsAnswer := by
  unfold Obligations.SidebandCommandsAnswer
  intro s tells reads
  have hread : ∀ x ∈ reads, exec x.1 s = .next (sideAnswer x.2 s) :=
    List.forall_mem_cons.2 ⟨rfl, List.forall_mem_cons.2 ⟨rfl, List.forall_mem_cons.2 ⟨rfl, List.forall_mem_cons.2 ⟨rfl,
      List.forall_mem_cons.2 ⟨rfl, List.forall_mem_cons.2 ⟨rfl, List.forall_mem_cons.2 ⟨rfl, List.forall_mem_cons.2 ⟨rfl,
        List.forall_mem_singleton.2 rfl⟩⟩⟩⟩⟩⟩⟩⟩
  refine ⟨fun hon x hx => ⟨_, hread x hx, sideAnswer_of_on x.2 hon⟩,
    fun hoff x hx => ⟨_, hread x hx, sideAnswer_of_off x.2 hoff⟩,
    fun hon => ⟨fun v => ⟨_, rfl, if_neg hon⟩, ⟨_, rfl, ?read⟩, fun v => ⟨_, rfl, if_neg hon⟩,
      fun v hv => ⟨_, rfl, if_neg (not_or.2 ⟨hon, hv.not_gt⟩)⟩,
      fun a ha => ⟨_, rfl, if_neg (not_or.2 ⟨hon, ha.not_ge⟩)⟩⟩, _, rfl, rfl⟩
  rw [if_neg hon, sideAnswer_of_on _ hon, sideAnswer_of_on _ hon]
  exact ⟨fun hr => if_pos hr, fun hr => if_neg (by simp [hr])⟩

end Sys2Proof.Machine

/-! ## The memory controllers -/

namespace Sys2Proof.Machine

section
variable {s : State} {ctl chan bank : Nat} {q : MemReq} {rest : List MemReq} {P : State → Prop}

theorem runs_mcCommand_of_none {aged : Bool} (hctl : ctl < 32) (hchan : chan < ctlChans ctl)
    (h : chooseReq s ctl chan aged = none) : RunsTo (exec (.mcCommand ctl chan aged) s) fun t => t = s :=
  runs_onUnit (by simp [hctl, hchan]) (by rw [h])

/-- The sorter's choice goes alone to an open row, and with its page to one that must be opened (R376, R377). -/
theorem runs_mcCommand_of_some {aged : Bool} (hctl : ctl < 32) (hchan : chan < ctlChans ctl)
    (h : chooseReq s ctl chan aged = some q) : RunsTo (exec (.mcCommand ctl chan aged) s) fun t =>
      (rowOpen (getMc s ctl) ctl q = true → t = issueReqs ctl [q] s) ∧
      (rowOpen (getMc s ctl) ctl q = false → t = issueReqs ctl
        ((window s ctl chan).filter fun p => bankOf ctl p.off == bankOf ctl q.off && rowOf ctl p.off == rowOf ctl q.off)
        (modMc ctl (fun m => { m with openRows := tset 0 m.openRows (bankOf ctl q.off) (rowOf ctl q.off + 1) }) s)) := by
  refine runs_onUnit (by simp [hctl, hchan]) ?_
  rw [h]
  exact ⟨fun hopen => if_pos hopen, fun hclosed => if_neg (by simp [hclosed])⟩

theorem runs_memoryReadComplete (hctl : ctl < 32) (h : (getMc s ctl).issued = q :: rest) :
    let a := modMc ctl (fun m => { m with issued := rest }) s
    RunsTo (exec (.memoryReadComplete ctl .clean) s) (fun t => t = admitWaiting ctl a) ∧
    RunsTo (exec (.memoryReadComplete ctl .corrected) s) (fun t => t = admitWaiting ctl (memCE ctl q.off a)) ∧
    RunsTo (exec (.memoryReadComplete ctl .uncorrectable) s) (fun t =>
      let b := memUE ctl q.off 2 a
      t = admitWaiting ctl (if q.attempt = true ∧ workload b ≤ 1 then sendFail cStepAborted (ctlSource ctl) b else b)) := by
  have hok : decide (ctl < 32) = true := decide_eq_true hctl
  exact ⟨runs_onUnit hok (by rw [h]), runs_onUnit hok (by rw [h]), runs_onUnit hok (by rw [h])⟩

theorem runs_bankQuotaExpire (hbank : bankOk ctl chan bank = true) (age : Nat) (hraised : (getMc s ctl).quotaRaised = false)
    (hfull : 128 ≤ ((getMc s ctl).pool.filter fun q => bankOf ctl q.off == chan * 64 + bank).length) :
    RunsTo (exec (.bankQuotaExpire ctl chan bank age) s) fun t =>
      t = raise (ctlSource ctl) 0x0402 [(18, 1, chan), (19, 1, bank), (20, 4, age)]
        (modMc ctl (fun m => { m with quotaRaised := true }) s) :=
  runs_onUnit hbank (if_neg (not_or.2 ⟨hfull.not_gt, by simp [hraised]⟩))

end

/-- Settles O48, operation by operation. -/
theorem memoryControllersServeRequests : Obligations.MemoryControllersServeRequests := by
  unfold Obligations.MemoryControllersServeRequests
  intro s ctl hctl
  refine ⟨fun w hreq hfit hmin hmax hpage hfill => ?request,
    fun chan aged hchan => ⟨runs_mcCommand_of_none hctl hchan, fun q => runs_mcCommand_of_some hctl hchan⟩,
    fun q rest => runs_memoryReadComplete hctl,
    fun chan bank hbank => ⟨runs_onUnit hbank rfl, runs_onUnit hbank rfl, runs_bankQuotaExpire hbank⟩,
    fun chan q rest hchan hissued => ?canary⟩
  case request => exact runs_onUnit (by simp [hctl, hreq, hfit]) (if_pos ⟨hmin, hmax, hpage, by simpa using hfill⟩)
  case canary =>
    refine runs_onUnit (by simp [hctl, hchan]) ?_
    rw [hissued]
    exact ⟨_, _, rfl, rfl, rfl⟩

end Sys2Proof.Machine

/-! ## Patrol scrubs, row repairs and arbiters -/

namespace Sys2Proof.Machine

section
variable {s : State} {ctl site arb off r : Nat} {rest : List Nat}

theorem runs_patrolScrub_of_untrained (hctl : ctl < 32) (h : (getMc s ctl).trained = false) (result : ReadResult) :
    RunsTo (exec (.patrolScrub ctl result) s) fun t => t = s :=
  runs_onUnit (decide_eq_true hctl) (if_pos (by simp [h]))

theorem runs_patrolScrub_of_trained (hctl : ctl < 32) (h : (getMc s ctl).trained = true) :
    let next := modMc ctl (fun m => { m with scrubPos := (m.scrubPos + 64) % stackBytes ctl })
    RunsTo (exec (.patrolScrub ctl .clean) s) (fun t => t = next s) ∧
    RunsTo (exec (.patrolScrub ctl .corrected) s) (fun t => t = next (memCE ctl (getMc s ctl).scrubPos s)) ∧
    RunsTo (exec (.patrolScrub ctl .uncorrectable) s) (fun t => t = next (memUE ctl (getMc s ctl).scrubPos 2 s)) := by
  have hok : decide (ctl < 32) = true := decide_eq_true hctl
  have htrained : ¬(!(getMc s ctl).trained) = true := by simp [h]
  exact ⟨runs_onUnit hok (if_neg htrained), runs_onUnit hok (if_neg htrained), runs_onUnit hok (if_neg htrained)⟩

/-- A repair starts between attempts, when none is under way and its bank has a spare row left (R374). -/
theorem runs_repairStart_of_queued (hctl : ctl < 32) (hqueue : (getMc s ctl).repairQ = off :: rest)
    (hfree : (getMc s ctl).repairing = none) (hbetween : inAttempt s = false)
    (hspare : tget 0 (getMc s ctl).used (bankOf ctl off) < bankSpares ctl (bankOf ctl off)) :
    RunsTo (exec (.repairStart ctl) s) fun t => t = closeRow ctl (chanOf ctl off) (rowPlace ctl off).2.1
      (modMc ctl (fun m => { m with repairQ := rest, repairing := some off }) s) := by
  refine runs_onUnit (decide_eq_true hctl) ?_
  rw [hqueue]
  exact (if_neg (by simp [hfree, hbetween])).trans (if_pos hspare)

theorem runs_repairStart_of_nil (hctl : ctl < 32) (h : (getMc s ctl).repairQ = []) :
    RunsTo (exec (.repairStart ctl) s) fun t => t = s :=
  runs_onUnit (decide_eq_true hctl) (by rw [h])

theorem runs_repairComplete_of_some (hctl : ctl < 32) (h : (getMc s ctl).repairing = some off) :
    RunsTo (exec (.repairComplete ctl) s) fun t =>
      t = raiseRetired (rowSite ctl off) 0 (modFaults (fun f => { f with lasting := f.lasting.filter (· != rowSite ctl off) })
        (bump (mcBase ctl + 0x18) 1 (modMc ctl (fun m => { m with repairing := none, used := tmod 0 m.used (bankOf ctl off) (· + 1) })
          (rowBack (ctlTier ctl) (tierOff ctl off / 1024 * 1024) s)))) :=
  runs_onUnit (decide_eq_true hctl) (by rw [h])

theorem runs_arbiterGrant {present : List Nat} (harb : 0 < arbReqs site arb) (hpresent : ∀ r ∈ present, r < arbReqs site arb) :
    let b := tget {} s.arbs (arbKey site arb)
    let waiting := (rangeFrom 0 (arbReqs site arb)).filter fun r => decide (r ∈ present) && decide (r ∉ b.isolated)
    let c := arbChoose s site arb waiting
    let a := { s with arbs := tset {} s.arbs (arbKey site arb) { b with holder := c.1, credits := c.2 } }
    RunsTo (exec (.arbiterGrant site arb present) s) fun t =>
      (c.1 = none → t = a) ∧ (∀ r, c.1 = some r → t = bankLosers site arb (waiting.length - 1) (tally site arb r a)) := by
  intro b waiting c a
  refine runs_onUnit (by simpa [harb] using hpresent) ⟨fun hnone => ?_, fun r hsome => ?_⟩
  · change (match c.1 with | some r => _ | none => a) = a
    rw [hnone]
  · change (match c.1 with | some r => bankLosers site arb (waiting.length - 1) (tally site arb r a) | none => a) = _
    rw [hsome]

theorem runs_grantHeldCanaryExpire_of_none (harb : 0 < arbReqs site arb)
    (h : (tget {} s.arbs (arbKey site arb)).holder = none) :
    RunsTo (exec (.grantHeldCanaryExpire site arb) s) fun t => t = s :=
  runs_onUnit (decide_eq_true harb) (by rw [h])

/-- The holder of a grant held too long is isolated, and the arbiter is free again (R387). -/
def isolateHolder (site arb r : Nat) (s : State) : State :=
  let b := tget {} s.arbs (arbKey site arb)
  { s with
    arbs := tset {} s.arbs (arbKey site arb) { b with holder := none, isolated := insertNew b.isolated r }
    arbWins := tmod {} s.arbWins site fun w => { w with isoValid := true, isoArb := arb, isoReq := r } }

theorem runs_grantHeldCanaryExpire_of_some (harb : 0 < arbReqs site arb)
    (h : (tget {} s.arbs (arbKey site arb)).holder = some r) :
    RunsTo (exec (.grantHeldCanaryExpire site arb) s) fun t =>
      let a := raise (arbSource site) 0x0401 [(20, 2, arb), (22, 1, r)] (isolateHolder site arb r s)
      let c := if workload a ≤ 1 then sendFail cCanaryTimeout (arbSource site) a else a
      (arbCell site arb r = none → t = c) ∧
      (∀ k, arbCell site arb r = some k → t = countUE ⟨3, k / 128, k % 128, 0, 0⟩ 0 (stopFormation k cCanaryTimeout c)) := by
  refine runs_onUnit (decide_eq_true harb) ?_
  rw [h]
  exact ⟨fun hnone => by dsimp only; rw [hnone]; rfl, fun k hsome => by dsimp only; rw [hsome]; rfl⟩

end

/-- Settles O49, operation by operation. -/
theorem scrubsRepairsAndArbitersAct : Obligations.ScrubsRepairsAndArbitersAct := by
  unfold Obligations.ScrubsRepairsAndArbitersAct
  refine ⟨fun s ctl hctl => ⟨runs_patrolScrub_of_untrained hctl, runs_patrolScrub_of_trained hctl,
      fun _ _ => runs_repairStart_of_queued hctl, runs_repairStart_of_nil hctl, fun _ => runs_repairComplete_of_some hctl⟩,
    fun s site arb harb => ⟨fun _ => runs_arbiterGrant harb, fun _ => runs_grantHeldCanaryExpire_of_some harb,
      runs_grantHeldCanaryExpire_of_none harb⟩⟩

end Sys2Proof.Machine

/-! ## The lend range -/

namespace Sys2Proof.Machine

section
variable {s : State} {c : CmdRef} {base size : Nat}

theorem cmdLendSet_of_large (hstate : s.pwr.state ≠ stFault) (h : 512 < size) :
    cmdLendSet c base size s = complete c cPlanInvalid s :=
  (if_neg hstate).trans (if_pos h)

theorem cmdLendSet_of_busy (hstate : s.pwr.state ≠ stFault) (hsize : size ≤ 512) (h : s.bxl.hdm = true ∨ s.lend.zeroing = true) :
    cmdLendSet c base size s = complete c cNotReady s :=
  (if_neg hstate).trans ((if_neg hsize.not_gt).trans (if_pos h))

/-- A range that may change meets the plan, or waits for the GiB that enter it, or takes effect at once (R388, R389). -/
theorem cmdLendSet_of_free (hstate : s.pwr.state ≠ stFault) (hsize : size ≤ 512) (hhdm : s.bxl.hdm = false)
    (hzero : s.lend.zeroing = false) : cmdLendSet c base size s =
      if 0 < size ∧ lendConflict s base size = true then complete c cLendConflict s
      else if lendEnters s base size = true then
        { s with lend := { s.lend with zeroing := true, newBase := base, newSize := size, cmd := some c } }
      else complete c cOk (lendCommit base size s) :=
  (if_neg hstate).trans ((if_neg hsize.not_gt).trans (if_neg (by simp [hhdm, hzero])))

end

/-- Zero one GiB of the deep tier unless the range in force held it already. -/
def zeroGib (held : Nat → Bool) (s : State) (g : Nat) : State :=
  if held g then s else zeroDeep (g * 2 ^ 30) ((g + 1) * 2 ^ 30) s

/-- Of the module's memory only the deep tier differs, which reads zero in the GiB that enter. -/
def GibsZeroed (enters : Nat → Prop) (s t : State) : Prop :=
  (∀ b, enters (b / 2 ^ 30) → mget t.deep b = 0#8) ∧ (∀ b, ¬enters (b / 2 ^ 30) → mget t.deep b = mget s.deep b) ∧
    t.hbm = s.hbm ∧ t.cells = s.cells

section
variable {held : Nat → Bool} {P Q : Nat → Prop} {s t u : State}

theorem GibsZeroed.report (h : GibsZeroed P s t) (g : OnlyReport t u) : GibsZeroed P s u := by
  unfold GibsZeroed
  rw [g.deep, g.hbm, g.cells]
  exact h

theorem GibsZeroed.of_iff (h : GibsZeroed P s t) (hiff : ∀ g, P g ↔ Q g) : GibsZeroed Q s t := by
  rwa [show Q = P from funext fun g => propext (hiff g).symm]

theorem GibsZeroed.lendCommit (h : GibsZeroed P s t) (base size : Nat) : GibsZeroed P s (lendCommit base size t) := h

theorem gibsZeroed_refl (s : State) : GibsZeroed (fun _ => False) s s := ⟨nofun, fun _ _ => rfl, rfl, rfl⟩

theorem gibsZeroed_zeroDeep (g : Nat) (s : State) : GibsZeroed (· = g) s (zeroDeep (g * 2 ^ 30) ((g + 1) * 2 ^ 30) s) := by
  refine ⟨fun b hb => (tget_tclear ..).trans (if_pos ?_), fun b hb => (tget_tclear ..).trans (if_neg ?_), rfl, rfl⟩
  · omega
  · omega

theorem GibsZeroed.trans (h : GibsZeroed P s t) (g : GibsZeroed Q t u) : GibsZeroed (fun x => P x ∨ Q x) s u := by
  obtain ⟨hzero, hkeep, hhbm, hcells⟩ := h
  obtain ⟨gzero, gkeep, ghbm, gcells⟩ := g
  refine ⟨fun b hb => ?_, fun b hb => ?_, ghbm.trans hhbm, gcells.trans hcells⟩
  · by_cases hq : Q (b / 2 ^ 30)
    · exact gzero b hq
    · exact (gkeep b hq).trans (hzero b (hb.resolve_right hq))
  · obtain ⟨hp, hq⟩ := not_or.1 hb
    exact (gkeep b hq).trans (hkeep b hp)

theorem gibsZeroed_zeroGib (held : Nat → Bool) (g : Nat) (s : State) :
    GibsZeroed (fun x => x = g ∧ held g = false) s (zeroGib held s g) := by
  unfold zeroGib
  split
  next h => exact (gibsZeroed_refl s).of_iff (by simp [h])
  next h => exact (gibsZeroed_zeroDeep g s).of_iff (by simp [h])

theorem gibsZeroed_foldl (held : Nat → Bool) : ∀ (l : List Nat) (s : State),
    GibsZeroed (fun g => g ∈ l ∧ held g = false) s (l.foldl (zeroGib held) s)
  | [], s => (gibsZeroed_refl s).of_iff (by simp)
  | g :: l, s => ((gibsZeroed_zeroGib held g s).trans (gibsZeroed_foldl held l (zeroGib held s g))).of_iff fun x => by
      rw [List.mem_cons, or_and_right]
      exact or_congr_left (and_congr_right fun hx => by rw [hx])

end

/-- The range takes effect and reports its end after the zeroing (R389). -/
theorem runs_lendZeroingComplete {s : State} (h : s.lend.zeroing = true) : RunsTo (exec .lendZeroingComplete s) fun t =>
    GibsZeroed (fun g => s.lend.newBase ≤ g ∧ g < s.lend.newBase + s.lend.newSize ∧
      ¬(s.lend.on = true ∧ s.lend.base ≤ g ∧ g < s.lend.base + s.lend.size)) s t := by
  let held := fun g => s.lend.on && decide (s.lend.base ≤ g) && decide (g < s.lend.base + s.lend.size)
  have hzeroed := (gibsZeroed_foldl held (rangeFrom s.lend.newBase s.lend.newSize) s).lendCommit s.lend.newBase s.lend.newSize
  refine ⟨_, congrArg Host.Outcome.next (if_neg (by simp [h])),
    (hzeroed.report (report_completeOpt s.lend.cmd cOk _)).of_iff fun g => ?_⟩
  rw [mem_rangeFrom, and_assoc]
  simp [held]

/-! ## Attestation -/

section
variable {s : State} {j : AttestJob} {rest : List AttestJob}

theorem runs_attestSigned_of_idle (h : s.hf.signing = false) : RunsTo (exec .attestSigned s) fun t => t = s :=
  runs_next (by rw [h])

/-- The report and both certificates go to the host, and the alias has leaves left for the next (R520, R523). -/
theorem runs_attestSigned_of_signing (hsigning : s.hf.signing = true) (hjobs : s.hf.jobs = j :: rest)
    (hleaf : s.hf.aliasLeaf < 1024) : RunsTo (exec .attestSigned s) fun t =>
      ∃ data, t = serveAttest (completeR j.cmd cOk reportLength (hostWrite j.addr (s.hf.report ++ data)
        (modHf (fun h => { h with signing := false, report := [], jobs := rest }) s))) := by
  refine runs_next ?_
  rw [hsigning, hjobs]
  simp only [List.append_assoc]
  exact ⟨_, congrArg serveAttest (if_pos (by
    rw [(report_completeR _ _ _ _).hf, hostWrite_hf]
    exact hleaf))⟩

end

/-- Settles O50: the tests of LEND_SET in their order, the GiB zeroed one by one, and the steps of attestation. -/
theorem lendingAndAttestationComplete : Obligations.LendingAndAttestationComplete := by
  unfold Obligations.LendingAndAttestationComplete
  refine ⟨fun s id base size hstate => ?lend, fun s hzeroing => runs_lendZeroingComplete hzeroing,
    fun s id nonce addr len => ⟨fun hstate => runs_next (if_neg hstate), fun hstate => runs_next (if_pos hstate)⟩,
    fun s => ⟨runs_attestSigned_of_idle, fun j rest => runs_attestSigned_of_signing, fun hwait => runs_next (if_pos hwait),
      fun hwait hruns => runs_next ((if_neg (not_not.2 hwait)).trans (if_pos hruns))⟩⟩
  refine ⟨fun hlarge => runs_next (cmdLendSet_of_large hstate hlarge), fun hsize =>
    ⟨fun hbusy => runs_next (cmdLendSet_of_busy hstate hsize hbusy), fun hhdm hzeroing => ?_⟩⟩
  have hfree := cmdLendSet_of_free (s := (take id.toNat 0x50 s).2) (c := (take id.toNat 0x50 s).1) (base := base.toNat)
    hstate hsize hhdm hzeroing
  refine ⟨fun hpos hconflict => ?_, fun hclear => ?_⟩
  · rw [if_pos ⟨hpos, hconflict⟩] at hfree
    exact runs_next hfree
  · rw [if_neg (by simp [hclear])] at hfree
    exact runs_next hfree

end Sys2Proof.Machine

/-! ## The intake and the generation formation -/

namespace Sys2Proof.Machine

section
variable {s : State} {src pos len n typ id u : Nat} {d : List Byte}

theorem runs_intakeFeed_of_invalid {id : BitVec 16} {q : BitVec 8} {count : BitVec 32} (addr : BitVec 64)
    (h : 1 < q.toNat ∨ count = 0 ∨ 65536 < count.toNat) : RunsTo (exec (.intakeFeed id q count addr) s) fun t =>
      t = complete (take id.toNat 0x70 s).1 cPlanInvalid (take id.toNat 0x70 s).2 := by
  have hzero : count = 0 → count.toNat = 0 := fun h => by rw [h]; rfl
  exact runs_next (if_pos (h.imp_right (Or.imp_left hzero)))

theorem runs_intakeFeed_of_valid {id : BitVec 16} {q : BitVec 8} {count : BitVec 32} (addr : BitVec 64)
    (hqueue : q.toNat ≤ 1) (hpos : count ≠ 0) (hmax : count.toNat ≤ 65536) :
    RunsTo (exec (.intakeFeed id q count addr) s) fun t =>
      let b := take id.toNat 0x70 s
      t = if intakeTab b.2 = none ∨ 256 ≤ (feedsOf b.2 q.toNat).length then complete b.1 cNotReady b.2
        else setFeeds q.toNat (feedsOf b.2 q.toNat ++ [{ cmd := b.1, addr := addr.toNat, count := count.toNat }]) b.2 := by
  have hzero : count.toNat ≠ 0 := fun h => hpos (BitVec.eq_of_toNat_eq h)
  refine runs_next ((if_neg (by omega)).trans ?_)
  simp only [Option.isNone_iff_eq_none]

/-- The intake takes a record, or checks the one that it has read whole, while it builds a batch (R408, R413). -/
theorem runs_intakeRecord_of_not_building (h : building (handOut s) = false) :
    RunsTo (exec .intakeRecord s) fun t => t = handOut s :=
  runs_next (if_pos (by simp [h]))

theorem runs_intakeRecord_of_idle (h : building (handOut s) = true) (hwork : (handOut s).intake.work = .idle) :
    RunsTo (exec .intakeRecord s) fun t => t = takeSlot (handOut s) :=
  runs_next ((if_neg (by simp [h])).trans (by rw [hwork]))

theorem runs_intakeRecord_of_reading {got : Memory} {bad : Bool} (h : building (handOut s) = true)
    (hwork : (handOut s).intake.work = .reading false src pos len got n bad) : RunsTo (exec .intakeRecord s) fun t =>
      t = if n < len then handOut s else checkRecord src pos (some len) bad (mread got 0 len) (handOut s) :=
  runs_next ((if_neg (by simp [h])).trans (by rw [hwork]))

theorem decodeEnd_filled (h : s.intake.work = .decoding src pos id typ n) : exec (.decodeEnd (.filled d)) s = .next
    (if typ ≠ 2 ∧ d.length < n then rejectRecord src pos id 9 s
      else if typ ≠ 2 ∧ n < d.length then rejectRecord src pos id 10 s
      else fillTry (modIntake (fun i => { i with work := .filling src pos id d }) s)) :=
  congrArg Host.Outcome.next (by rw [h])

theorem runs_decodeEnd_short (h : s.intake.work = .decoding src pos id typ n) (htyp : typ ≠ 2) (hlen : d.length < n) :
    RunsTo (exec (.decodeEnd (.filled d)) s) fun t => t = rejectRecord src pos id 9 s :=
  ⟨_, decodeEnd_filled h, if_pos ⟨htyp, hlen⟩⟩

theorem runs_decodeEnd_long (h : s.intake.work = .decoding src pos id typ n) (htyp : typ ≠ 2) (hlen : n < d.length) :
    RunsTo (exec (.decodeEnd (.filled d)) s) fun t => t = rejectRecord src pos id 10 s :=
  ⟨_, decodeEnd_filled h, (if_neg fun hshort => hlen.not_gt hshort.2).trans (if_pos ⟨htyp, hlen⟩)⟩

theorem runs_decodeEnd_exact (h : s.intake.work = .decoding src pos id typ n) (hfits : typ = 2 ∨ d.length = n) :
    RunsTo (exec (.decodeEnd (.filled d)) s) fun t =>
      t = fillTry (modIntake (fun i => { i with work := .filling src pos id d }) s) :=
  ⟨_, decodeEnd_filled h, (if_neg (by omega)).trans (if_neg (by omega))⟩

theorem runs_decodeEnd_rejected {c : Nat} (h : s.intake.work = .decoding src pos id typ n) (hc : c ∈ [9, 10, 11]) :
    RunsTo (exec (.decodeEnd (.rejected c)) s) fun t => t = rejectRecord src pos id c s := by
  refine runs_next ?_
  rw [h]
  exact if_pos hc

/-- Freed staging of the record under way is noted while its decoder works (R404). -/
theorem runs_stagingWindowFreed_of_decoding (h : s.intake.work = .decoding src pos id typ n) (m : Nat)
    (htab : intakeTab s ≠ none) : RunsTo (exec (.stagingWindowFreed s.intake.slot m) s) fun t =>
      t = modIntake (fun i => { i with freed := i.freed + m }) s :=
  runs_next ((if_neg (by simpa using htab)).trans (by rw [h]))

theorem runs_batchComplete (busy total : Nat) (htab : intakeTab s ≠ none) (hbuilt : s.intake.built = false)
    (hslot : s.intake.slot = slotCount s) (hmanifest : s.intake.manifest = []) :
    RunsTo (exec (.batchComplete busy total) s) fun t => ∃ h b n d,
      h = (fpRound fp32 ((Num.ofInt (min busy total)).div (Num.ofInt (max 1 total))) :: s.intake.busyHist).take 8 ∧
      n = shareNext (h.foldl maxFrac 0) s.intake.share ∧
      t = handOut (pushManifest d (modIntake (fun i => { i with built := true, busyHist := h, busy := b, share := n }) s)) :=
  runs_next ⟨_, _, _, _, rfl, rfl, if_neg (by simpa [hbuilt, hslot, hmanifest] using htab)⟩

theorem runs_genToken {pairs : List (BitVec 32 × Nat)} {q : GenReq} (hu : u < 12) (huser : getUser s u = some q)
    (hruns : tokenRuns s q = true) : RunsTo (exec (.genToken u pairs) s) fun t =>
      (drawToken q (nextPos q) pairs = none → t = endUser u cNonfinite s) ∧
      (∀ id, drawToken q (nextPos q) pairs = some id → t = afterToken u id (putToken u id q s)) := by
  refine runs_onUnit (decide_eq_true hu) ?_
  rw [huser]
  dsimp only
  rw [if_neg (by simp [hruns])]
  exact ⟨fun hnone => by rw [hnone], fun id hsome => by rw [hsome]⟩

end

/-- Settles O51, operation by operation. -/
theorem intakeAndGenerationComplete : Obligations.IntakeAndGenerationComplete := by
  unfold Obligations.IntakeAndGenerationComplete
  refine ⟨fun s id q count addr => ⟨runs_intakeFeed_of_invalid addr, runs_intakeFeed_of_valid addr⟩,
    fun s => ⟨runs_intakeRecord_of_not_building, runs_intakeRecord_of_idle, fun _ _ _ _ _ _ => runs_intakeRecord_of_reading⟩,
    fun s src pos id typ n d hwork => ⟨runs_decodeEnd_short hwork, runs_decodeEnd_long hwork, runs_decodeEnd_exact hwork,
      fun _ => runs_decodeEnd_rejected hwork, runs_stagingWindowFreed_of_decoding hwork⟩,
    fun s busy total => runs_batchComplete busy total, fun s id w r => ⟨runs_next rfl, runs_next rfl⟩,
    fun s u pairs q => runs_genToken⟩

end Sys2Proof.Machine

/-! ## Supply, pins and the reset commands -/

namespace Sys2Proof.Machine

section
variable {s : State}

/-- The Lamp room as it starts when its rail comes up (R485, R566). -/
def freshLamp (strap : BitVec 3) (s : State) : State :=
  { s with lamp := {}, side := { strap := strap.toNat }, pwr := { s.pwr with standby := .normal, lowAt := none } }

theorem runs_standbyEntry (hoff : s.pwr.state = stOff) (hinput : s.pwr.inputOk = true) (strap : BitVec 3) :
    RunsTo (exec (.standbyEntry strap) s) fun t =>
      t = setSys stStandby (freshLamp strap s) ∧ t.pwr.state = stStandby ∧ t.pwr.previous = stOff := by
  have hne : stStandby ≠ (freshLamp strap s).pwr.state := fun h => absurd (h.trans hoff) (by decide)
  have hpwr := (report_setSys hne).pwr
  refine ⟨_, congrArg Host.Outcome.next (if_pos ⟨hoff, hinput⟩), rfl, ?_, ?_⟩
  · exact congrArg Power.state hpwr
  · exact (congrArg Power.previous hpwr).trans hoff

/-- Without input power only its rise counts. -/
theorem runs_of_off (hoff : s.pwr.state = stOff) :
    ∀ x ∈ [Instr.inputStableStart, .brownout, .inputLoss, .overvoltage], RunsTo (exec x s) fun t => t = s := by
  simp only [List.mem_cons, List.not_mem_nil, or_false]
  rintro x (rfl | rfl | rfl | rfl)
  · exact runs_next (if_pos hoff)
  · exact runs_next (if_pos hoff)
  · exact runs_next (if_pos hoff)
  · exact runs_next (if_pos hoff)

theorem runs_inputLoss (hon : s.pwr.state ≠ stOff) : RunsTo (exec .inputLoss s) fun t =>
    t.lamp = {} ∧ t.side = {} ∧ t.obs = {} ∧ t.faults.ledger = [] ∧ t.pwr.inputOk = false := by
  refine runs_next ?_
  rw [if_neg hon]
  exact ⟨rfl, rfl, rfl, rfl, rfl⟩

/-- PWR_EN was low for 100 ms, or has not been low at all (R547). -/
theorem runs_pwrEnAssert_of_long (hen : s.pwr.pwrEn = false) (h : ∀ m, s.pwr.lowAt = some m → enableLow ≤ s.lamp.tick - m) :
    RunsTo (exec .pwrEnAssert s) fun t => t = tryStart (modPwr (fun p => { p with pwrEn := true, standby := .normal }) s) := by
  refine runs_next ((if_neg (by simp [hen])).trans ?_)
  cases hlow : s.pwr.lowAt with
  | none => rfl
  | some m => simp [h m hlow]

theorem runs_pwrEnAssert_of_short (hen : s.pwr.pwrEn = false)
    (h : ¬∀ m, s.pwr.lowAt = some m → enableLow ≤ s.lamp.tick - m) :
    RunsTo (exec .pwrEnAssert s) fun t => t = modPwr (fun p => { p with pwrEn := true }) s := by
  refine runs_next ((if_neg (by simp [hen])).trans ?_)
  cases hlow : s.pwr.lowAt with
  | none => exact absurd (fun m hm => nomatch hlow.symm.trans hm) h
  | some m =>
    have hshort : ¬enableLow ≤ s.lamp.tick - m := fun hm => h fun n hn => by cases hlow.symm.trans hn; exact hm
    simp [hshort]

theorem runs_pwrEnDeassert (hen : s.pwr.pwrEn = true) : RunsTo (exec .pwrEnDeassert s) fun t =>
    let a := modPwr (fun p => { p with pwrEn := false, thermtrip := false, lowAt := some s.lamp.tick }) s
    t = if started s = true then railsOff stStandby .normal a else a :=
  runs_next (if_neg (by simp [hen]))

theorem runs_resetNLow (s : State) : RunsTo (exec .resetNLow s) fun t =>
    let a := modPwr (fun p => { p with resetN := false }) s
    t = if warmable a = true ∧ s.pwr.reset ≠ .warmHeld then warmBegin .warmHeld a else a := by
  refine runs_next ?_
  simp only [Bool.and_eq_true, bne_iff_ne]
  rfl

theorem runs_resetNRelease (s : State) : RunsTo (exec .resetNRelease s) fun t => t = modPwr (fun p => { p with
    resetN := true, reset := if p.reset = .warmHeld then .warm else p.reset }) s := by
  refine runs_next ?_
  by_cases hheld : s.pwr.reset = .warmHeld
  · simp [modPwr, hheld]
  · simp [modPwr, hheld]

/-! The bits of SYS_CTL that the three commands write. -/

theorem sysCtlPut_railsOff (s : State) :
    sysCtlPut 4 allBits s = if started s = true then railsOff stStandby .needEn s else s := by
  have hrails : bitAt (4 &&& allBits) 2 = true := by decide
  rw [sysCtlPut, if_pos hrails]

theorem sysCtlPut_warm (s : State) : sysCtlPut 2 allBits s = warmReset s := by
  have hrails : ¬bitAt (2 &&& allBits) 2 = true := by decide
  have hwarm : bitAt (2 &&& allBits) 1 = true := by decide
  rw [sysCtlPut, if_neg hrails, if_pos hwarm]

theorem sysCtlPut_hot (s : State) : sysCtlPut 1 allBits s = hotReset s := by
  have hrails : ¬bitAt (1 &&& allBits) 2 = true := by decide
  have hwarm : ¬bitAt (1 &&& allBits) 1 = true := by decide
  have hhot : bitAt (1 &&& allBits) 0 = true := by decide
  rw [sysCtlPut, if_neg hrails, if_neg hwarm, if_pos hhot]

theorem setSys_modes (st : Nat) (s : State) : (setSys st s).modes = s.modes := by
  by_cases h : st = s.pwr.state
  · rw [setSys_of_eq h]
  · exact (report_setSys h).modes

/-- The state in which a HOT reset has ended (R545). -/
def hotEnd (s : State) : State := setSys stReady (modPwr (fun p => { p with reset := .none }) s)

theorem inRecovery_hotEnd (s : State) : inRecovery (hotEnd s) = inRecovery s :=
  congrArg (fun m : Modes => bitAt m.inForce 16) (setSys_modes ..)

theorem runs_hotResetComplete_of_recovery (hhot : s.pwr.reset = .hot) (h : inRecovery s = true) :
    RunsTo (exec .hotResetComplete s) fun t => t = startQueued (latchModes
      (setSys stRecovery { hotEnd s with modes := { (hotEnd s).modes with saved := stReady } })) := by
  refine runs_next ((if_neg (not_not.2 hhot)).trans ?_)
  exact congrArg (fun t => startQueued (latchModes t)) (if_pos ((inRecovery_hotEnd s).trans h))

theorem runs_hotResetComplete_of_normal (hhot : s.pwr.reset = .hot) (h : inRecovery s = false) :
    RunsTo (exec .hotResetComplete s) fun t => t = startQueued (latchModes (hotEnd s)) := by
  refine runs_next ((if_neg (not_not.2 hhot)).trans ?_)
  exact congrArg (fun t => startQueued (latchModes t)) (if_neg (by rw [← hotEnd, inRecovery_hotEnd, h]; exact Bool.false_ne_true))

end

/-- Settles O52, event by event. -/
theorem supplyAndPinsAct : Obligations.SupplyAndPinsAct := by
  unfold Obligations.SupplyAndPinsAct
  intro s lost
  exact ⟨fun hoff => runs_next (if_pos hoff), runs_standbyEntry, runs_of_off,
    fun hon => ⟨runs_next (if_neg hon), runs_next (if_neg hon), runs_next (if_neg hon), runs_inputLoss hon⟩,
    fun hen hlow => runs_pwrEnAssert_of_long hen (by simp [hlow]),
    fun hen => by
      by_cases hlong : ∀ m, s.pwr.lowAt = some m → enableLow ≤ s.lamp.tick - m
      · obtain ⟨t, ht, heq⟩ := runs_pwrEnAssert_of_long hen hlong
        exact ⟨t, ht, fun _ => heq, fun hshort => absurd hlong hshort⟩
      · obtain ⟨t, ht, heq⟩ := runs_pwrEnAssert_of_short hen hlong
        exact ⟨t, ht, fun h => absurd h hlong, fun _ => heq⟩,
    fun hen => runs_next (if_pos hen), runs_pwrEnDeassert, runs_resetNLow s, runs_resetNRelease s,
    fun hready => ⟨runs_next ((hostAccess_of_ready hready _).trans (sysCtlPut_railsOff s)),
      runs_next ((hostAccess_of_ready hready _).trans (sysCtlPut_warm s)),
      runs_next ((hostAccess_of_ready hready _).trans (sysCtlPut_hot s))⟩,
    fun hother => runs_next (if_pos hother), runs_hotResetComplete_of_recovery, runs_hotResetComplete_of_normal⟩

end Sys2Proof.Machine

/-! ## Start-up -/

namespace Sys2Proof.Machine

section
variable {s : State} {failed l : List Nat}

/-- A value of a table has what its default and every entry have. -/
theorem tget_of_forall {α : Type} {P : α → Prop} {d : α} (hd : P d) (k : Nat) :
    ∀ {t : Table α}, (∀ e ∈ t, P e.2) → P (tget d t k)
  | [], _ => hd
  | e :: t, h => by
    obtain ⟨he, ht⟩ := List.forall_mem_cons.1 h
    rw [tget_cons]
    exact iteInduction (fun _ => he) fun _ => tget_of_forall hd k ht

/-! ### The boot -/

/-- The ROM found no slot that boots (R514). -/
def bootFailed (s : State) : State :=
  modPwr (fun p => { p with reset := .none }) (modHf (fun h => { h with bootFail := true }) s)

theorem state_of_booting (h : booting s = true) : s.pwr.state = stBoot := by
  simp only [booting, Bool.and_eq_true, beq_iff_eq] at h
  exact h.1

theorem runs_bootVerified (hboot : booting s = true) (hpending : s.hf.bootOk = false) (a b : Option Nat) :
    let ok := fun (x : Bool) => bootFlaw s.hf (slotHeader s x) (23 * 2 ^ 20) (if x then b else a) = none
    RunsTo (exec (.bootVerified a b) s) fun t =>
      (ok s.hf.bootRecord → t = bootImage s.hf.bootRecord false s) ∧
      (¬ok s.hf.bootRecord → ok (!s.hf.bootRecord) → t = bootImage (!s.hf.bootRecord) true s) ∧
      (¬ok false → ¬ok true → t.pwr.state = stFault ∧ t.hf.bootFail = true ∧ t.pwr.reset = .none) := by
  intro ok
  refine runs_next ?_
  rw [if_neg (by simp [hboot, hpending])]
  simp only [Option.isNone_iff_eq_none]
  change (ok s.hf.bootRecord → ite (ok s.hf.bootRecord) _ _ = _) ∧ _
  refine ⟨fun h => if_pos h, fun hfirst h => (if_neg hfirst).trans (if_pos h), fun hA hB => ?_⟩
  have hnone : ∀ x, ¬ok x := fun x => by cases x with
    | false => exact hA
    | true => exact hB
  rw [if_neg (hnone _), if_neg (hnone _)]
  have hreport := report_setSys (s := bootFailed s) (st := stFault)
    (fun h : stFault = s.pwr.state => absurd (h.trans (state_of_booting hboot)) (by decide))
  refine ⟨congrArg Power.state hreport.pwr, congrArg Headframe.bootFail hreport.hf, congrArg Power.reset hreport.pwr⟩

/-! ### Memory training -/

theorem mget_zeroTier (tier : Nat) (m : Memory) (off : Nat) :
    mget (zeroTier tier failed m) off = if 16 * tier + off / 2 ^ 36 ∈ failed then mget m off else 0#8 := by
  refine (tget_filter 0#8 (fun k => decide (16 * tier + k / 2 ^ 36 ∈ failed)) off m).trans ?_
  simp only [decide_eq_true_eq]
  rfl

/-- Training zeroes the stacks that it trains in full (R578). -/
def zeroStacks (failed : List Nat) (s : State) : State :=
  let s := { s with hbm := zeroTier 0 failed s.hbm, bad := goodTier 0 failed s.bad }
  if s.pwr.reset = .cold then { s with deep := zeroTier 1 failed s.deep, bad := goodTier 1 failed s.bad } else s

theorem mget_zeroStacks_hbm (off : Nat) :
    mget (zeroStacks failed s).hbm off = if off / 2 ^ 36 ∈ failed then mget s.hbm off else 0#8 := by
  have hzero : mget (zeroTier 0 failed s.hbm) off = _ := mget_zeroTier 0 s.hbm off
  rw [Nat.mul_zero, Nat.zero_add] at hzero
  rw [← hzero, zeroStacks]
  split
  · rfl
  · rfl

theorem mget_zeroStacks_deep (off : Nat) : mget (zeroStacks failed s).deep off =
    if s.pwr.reset ≠ .cold ∨ 16 + off / 2 ^ 36 ∈ failed then mget s.deep off else 0#8 := by
  rw [zeroStacks]
  split
  next hcold =>
    have hreset : s.pwr.reset = .cold := hcold
    simpa [hreset] using mget_zeroTier 1 s.deep off
  next hwarm => exact (if_pos (.inl hwarm)).symm

theorem zeroStacks_mcs : (zeroStacks failed s).mcs = s.mcs := by
  rw [zeroStacks]
  split
  · rfl
  · rfl

/-- Controllers are in service. -/
def putInService (l : List Nat) (s : State) : State :=
  l.foldl (fun s c => modMc c (fun m => { m with trained := true }) s) s

theorem putInService_memory : ∀ (l : List Nat) (s : State), (putInService l s).hbm = s.hbm ∧ (putInService l s).deep = s.deep
  | [], _ => ⟨rfl, rfl⟩
  | c :: l, s => putInService_memory l (modMc c (fun m => { m with trained := true }) s)

theorem trained_modMc (c k : Nat) : (getMc (modMc c (fun m => { m with trained := true }) s) k).trained =
    (decide (k = c) || (getMc s k).trained) := by
  by_cases hk : k = c
  · subst hk
    simp [getMc]
  · simp [getMc, tget_tmod_ne _ _ _ hk, hk]

theorem trained_putInService (c : Nat) : ∀ (l : List Nat) (s : State),
    (getMc (putInService l s) c).trained = (decide (c ∈ l) || (getMc s c).trained)
  | [], s => by simp [putInService]
  | k :: l, s => by
    rw [show putInService (k :: l) s = putInService l (modMc k (fun m => { m with trained := true }) s) from rfl,
      trained_putInService c l, trained_modMc]
    by_cases hk : c = k
    · simp [hk]
    · simp [hk]

theorem enablePorts_memory (s : State) :
    (enablePorts s).hbm = s.hbm ∧ (enablePorts s).deep = s.deep ∧ (enablePorts s).mcs = s.mcs := by
  refine List.foldlRecOn (motive := fun t : State => t.hbm = s.hbm ∧ t.deep = s.deep ∧ t.mcs = s.mcs) _ _ ⟨rfl, rfl, rfl⟩
    fun t ht p _ => ?_
  split
  next => simpa only [portTo, apply_ite State.hbm, apply_ite State.deep, apply_ite State.mcs, raise_hbm, raise_deep, raise_mcs,
    modPort_hbm, modPort_deep, modPort_mcs, ite_self] using ht
  next => exact ht

theorem exec_memoryTrainingComplete (hstate : s.pwr.state = stMemtrain) (hfailed : ∀ c ∈ failed, c < 32)
    (hnew : ∀ e ∈ s.mcs, e.2.trained = false) : exec (.memoryTrainingComplete failed) s = .next
      (enablePorts (putInService ((rangeFrom 0 32).filter fun c => decide (c ∉ failed)) (zeroStacks failed s))) := by
  refine (if_pos (by simpa using hfailed)).trans (congrArg Host.Outcome.next (if_neg ?_))
  simpa [hstate] using hnew

theorem enablePorts_hbm (s : State) : (enablePorts s).hbm = s.hbm := (enablePorts_memory s).left

theorem enablePorts_deep (s : State) : (enablePorts s).deep = s.deep := (enablePorts_memory s).right.left

theorem enablePorts_getMc (s : State) (c : Nat) : getMc (enablePorts s) c = getMc s c := by
  obtain ⟨-, -, hmcs⟩ := enablePorts_memory s
  rw [getMc, hmcs]
  rfl

theorem untrained_zeroStacks (hnew : ∀ e ∈ s.mcs, e.2.trained = false) (c : Nat) :
    (getMc (zeroStacks failed s) c).trained = false := by
  rw [getMc, zeroStacks_mcs]
  exact tget_of_forall (P := fun m : Mc => m.trained = false) rfl c hnew

/-- Trained stacks are in service, and what training zeroes reads zero (R546, R578). -/
theorem runs_memoryTrainingComplete (hstate : s.pwr.state = stMemtrain) (hfailed : ∀ c ∈ failed, c < 32)
    (hnew : ∀ e ∈ s.mcs, e.2.trained = false) : RunsTo (exec (.memoryTrainingComplete failed) s) fun t =>
      (∀ off, mget t.hbm off = if off / 2 ^ 36 ∈ failed then mget s.hbm off else 0#8) ∧
      (∀ off, mget t.deep off = if s.pwr.reset ≠ .cold ∨ 16 + off / 2 ^ 36 ∈ failed then mget s.deep off else 0#8) ∧
      ∀ c < 32, ((getMc t c).trained = true ↔ c ∉ failed) := by
  refine ⟨_, exec_memoryTrainingComplete hstate hfailed hnew, fun off => ?_, fun off => ?_, fun c hc => ?_⟩
  · rw [enablePorts_hbm, (putInService_memory ..).left, mget_zeroStacks_hbm]
  · rw [enablePorts_deep, (putInService_memory ..).right, mget_zeroStacks_deep]
  · rw [enablePorts_getMc, trained_putInService, untrained_zeroStacks hnew]
    simp only [List.mem_filter, mem_rangeFrom, decide_eq_true_eq, Bool.or_false]
    exact ⟨And.right, fun h => ⟨⟨Nat.zero_le c, by omega⟩, h⟩⟩

end

/-- Settles O53, event by event. -/
theorem startUpReachesReady : Obligations.StartUpReachesReady := by
  unfold Obligations.StartUpReachesReady
  intro s
  refine ⟨fun hboot hpending => runs_bootVerified hboot hpending, fun hboot hok => ⟨?rails, fun hlow rail => ?late,
    fun hgood l hl => ?test⟩, fun hstate => ⟨fun l => runs_memoryTrainingComplete hstate, fun hcold hnew => ?cold,
    fun h => ?ready⟩⟩
  case rails => exact runs_next (if_pos (by simp [hboot, hok]))
  case late => exact runs_next (if_pos (by simp [hboot, hok, hlow]))
  case test => exact runs_onUnit (by simpa using hl) (if_pos (by simp [hboot, hok, hgood]))
  case cold =>
    obtain ⟨t, ht, hhbm, hdeep, htrained⟩ := runs_memoryTrainingComplete (failed := []) hstate nofun hnew
    exact ⟨t, ht, fun off _ => ⟨by simp [hhbm], by simp [hdeep, hcold]⟩, fun c hc => by simp [htrained c hc]⟩
  case ready => exact runs_next (if_neg (by
    rintro (hother | ⟨hcold, hsurvey⟩)
    · exact hother hstate
    · obtain hwarm | hdone := h
      · exact hwarm hcold
      · simp [hdone] at hsurvey))

end Sys2Proof.Machine
